-- ==== Sys2Proof/Word.lean ====
section
/-!
DEFINITION. Bytes, byte strings and byte memories (R9).
-/

namespace Sys2Proof

abbrev Byte := BitVec 8
abbrev Bytes := List Byte

/-- A byte memory: address and byte pairs, addresses strictly rising, no entry holding the byte that an unlisted address reads as. -/
abbrev Mem := List Host.Cell

end Sys2Proof
end

