-- ==== Sys2Proof/Syntax.lean ====
section
/-!
DEFINITION. The commands of the block: one constructor of `Instr` for each row of the table of operations and
events, with the operands the spec gives the row. The 81 opcode rows take the port, TAG and parameter bytes.
-/

namespace Sys2Proof

/-- A window that carries commands: 0 to 6 a command window, 7 the sideband slot, which counts as
window 7 (R90, R101, R122). -/
abbrev Port := Fin 8
/-- Feed A (0) or feed B (1) of the Weir (R169). -/
abbrev Feed := Fin 2
/-- A sequence of the Cascade: the tray's, or one slot's (R222, R229). -/
abbrev Seq := Option (Fin 8)

/-- A field of a Draft object: object, instance, field (R144, R160). -/
structure Key where
  obj : Nat
  inst : Nat
  fld : Nat
  deriving DecidableEq, Repr

/-- Where a PCIe register write goes (R76, R83, R91): the device block, a window, the MSI-X table, or the
PCIe configuration space. -/
inductive Space
  | dev
  | win (w : Fin 8)
  | msix
  | config
  deriving DecidableEq, Repr

/-- The three memory BARs (R75). -/
inductive Bar
  | bar0 | bar2 | bar4
  deriving DecidableEq, Repr

/-- Bytes in error in one 72-byte codeword of the Basin, as a read finds them: the line's offset, and for
each byte in error its place 0 to 71 and the bits flipped (R426, R427). -/
structure LineErr where
  line : Nat
  errs : List (Fin 72 × Byte)
  deriving DecidableEq, Repr

/-- What option loading reads from the eFuses: silicon revision, static I3C address, PMBus at 1 MHz (R57, R84, R120, R501). -/
structure OptionBlock where
  siRev : Byte
  static : BitVec 7
  pmbusFast : Bool
  deriving DecidableEq, Repr

/-- The phase-locked loops (R65). -/
inductive Pll
  | keeper | upper | cadence | check | basin
  deriving DecidableEq, Repr

/-- What a reset request asks for (R589). -/
inductive ResetTarget
  | system
  | core (k : Fin 8)
  deriving DecidableEq, Repr

/-- A feed's averages over a power window: input voltage and bus voltage in mV (R181, R200). -/
structure FeedMeas where
  vin : Nat
  vout : Nat
  deriving DecidableEq, Repr

/-- One conversion of a temperature channel (R249 to R251): of a diode or die sensor, the temperature in
0.1 °C at the set ideality or an open, shorted or faulty sensor; of an analog input, the pin voltage in µV. -/
inductive Conv
  | temp (dC : Int)
  | fault
  | pin (uV : Nat)
  deriving DecidableEq, Repr

/-- An IDENT cell (R306). -/
structure IdentCell where
  tickHi : BitVec 16
  domain : BitVec 8
  addr : BitVec 32
  port : BitVec 5
  adopt : Bool
  locked : Bool
  deriving DecidableEq, Repr

/-- A STAMP cell (R306). -/
structure StampCell where
  tick : BitVec 48
  frac : BitVec 16
  delay : BitVec 24
  err : BitVec 8
  deriving DecidableEq, Repr

/-- What an ECHO answers (R306): the STAMP's REF, and the time from its arrival to this departure. -/
structure EchoTimes where
  ref : BitVec 32
  turn : BitVec 32
  deriving DecidableEq, Repr

/-- A TRICKLE payload (R308). -/
structure TrickleCell where
  stream : BitVec 8
  chunk : BitVec 24
  data : BitVec 64
  flags : BitVec 4
  deriving DecidableEq, Repr

/-- The payload of an OP cell (R349). -/
structure OpPayload where
  fn : BitVec 4
  dir : BitVec 2
  group : BitVec 8
  seq : BitVec 8
  word : BitVec 5
  flags : BitVec 4
  data : BitVec 64
  deriving DecidableEq, Repr

/-- Epoch-scheduled functions (R350). -/
inductive EpochFn
  | commit | reset | snapshot | cadence
  deriving DecidableEq, Repr

/-- A unit of the ledger: kind (0 core, 1 stack, 2 slot), DX serial number, index (R466). -/
structure UnitKey where
  kind : Nat
  serial : Nat
  index : Nat
  deriving DecidableEq, Repr

/-- The Basin's tiers (R422). -/
inductive Tier
  | hbm | dimm
  deriving DecidableEq, Repr

/-- A DX's valid reply to IDENT (R497). -/
structure IdentReply where
  serial : BitVec 64
  fwVer : BitVec 32
  deriving DecidableEq, Repr

/-- A DX's valid reply to STATUS (R497). -/
structure StatusReply where
  alert : Byte
  fwVer : BitVec 32
  deriving DecidableEq, Repr

/-- The commands. -/
inductive Instr
  /-- `HELLO` (R110): Opens or renews a session, exchanges feature maps and sets a fresh lease. -/
  | hello (p : Port) (tag : BitVec 32) (params : Bytes)
  /-- `LEASE_RENEW` (R114): Sets the lease expiry to acceptance plus PERIOD_MS and completes during acceptance. -/
  | leaseRenew (p : Port) (tag : BitVec 32) (params : Bytes)
  /-- `IDENTIFY` (R132): Returns order code, part, versions, serial, straps and node address. -/
  | identify (p : Port) (tag : BitVec 32) (params : Bytes)
  /-- `LEASE_RELEASE` (R119): Ends the host session as lease expiry does, without setting ABSENT. -/
  | leaseRelease (p : Port) (tag : BitVec 32) (params : Bytes)
  /-- `COUNTER_READ` (R134): Returns a range of counters sampled at one instant. -/
  | counterRead (p : Port) (tag : BitVec 32) (params : Bytes)
  /-- `LOG_READ` (R135): Returns log-ring entries in sequence order from START_SEQ or the oldest kept. -/
  | logRead (p : Port) (tag : BitVec 32) (params : Bytes)
  /-- `SENSOR_READ` (R136): Returns sensor values in thousandths of their unit with a status byte. -/
  | sensorRead (p : Port) (tag : BitVec 32) (params : Bytes)
  /-- `DRAFT_OPEN` (R137): Opens the single Draft for the requesting window or sideband. -/
  | draftOpen (p : Port) (tag : BitVec 32) (params : Bytes)
  /-- `DRAFT_SET` (R143): Stages all of its entries into the open Draft, or none of them. -/
  | draftSet (p : Port) (tag : BitVec 32) (params : Bytes)
  /-- `DRAFT_GET` (R141): Returns a staged value, or the value in effect when the field is not staged. -/
  | draftGet (p : Port) (tag : BitVec 32) (params : Bytes)
  /-- `DRAFT_CHECK` (R146): Checks the merged Draft against every consistency rule and lists every failure. -/
  | draftCheck (p : Port) (tag : BitVec 32) (params : Bytes)
  /-- `DRAFT_COMMIT` (R149): Checks the Draft if needed, writes shadows and schedules them for a frame boundary, named tick or epoch. -/
  | draftCommit (p : Port) (tag : BitVec 32) (params : Bytes)
  /-- `DRAFT_ABORT` (R161): Discards the open Draft named by DRAFT_ID. -/
  | draftAbort (p : Port) (tag : BitVec 32) (params : Bytes)
  /-- `SETTINGS_SAVE` (R165): Writes every saved object to the older store bank with a higher SEQ and reads it back. -/
  | settingsSave (p : Port) (tag : BitVec 32) (params : Bytes)
  /-- `LIVE_SET` (R157): Changes L fields and stopped X fields together at the first frame boundary at least 64 ticks ahead. -/
  | liveSet (p : Port) (tag : BitVec 32) (params : Bytes)
  /-- `LIVE_GET` (R161): Returns the configured value of one field. -/
  | liveGet (p : Port) (tag : BitVec 32) (params : Bytes)
  /-- `WEIR_ON` (R204): Turns the named feeds on through their ramp once their waits allow and completes when they are ON. -/
  | weirOn (p : Port) (tag : BitVec 32) (params : Bytes)
  /-- `WEIR_OFF` (R205): Opens one feed's gate or, for the last feed, runs the orderly shutdown to all-off. -/
  | weirOff (p : Port) (tag : BitVec 32) (params : Bytes)
  /-- `WEIR_CLEAR` (R206): Moves a LATCHED feed to OFF with its retry count at 0. -/
  | weirClear (p : Port) (tag : BitVec 32) (params : Bytes)
  /-- `WEIR_STATUS` (R207): Returns the hardware state, measurements and cause requests of both feeds. -/
  | weirStatus (p : Port) (tag : BitVec 32) (params : Bytes)
  /-- `CASCADE_STATUS` (R247): Returns sequencer state, slave status and per-rail records. -/
  | cascadeStatus (p : Port) (tag : BitVec 32) (params : Bytes)
  /-- `RAIL_FLAG_CLEAR` (R246): Returns marked rails to OFF or GOOD unless still out of window or undischarged. -/
  | railFlagClear (p : Port) (tag : BitVec 32) (params : Bytes)
  /-- `COOL_STATUS` (R285): Returns cooling flags, steps and zone, fan, pump, flow and rope records. -/
  | coolStatus (p : Port) (tag : BitVec 32) (params : Bytes)
  /-- `FAN_SET` (R283): Writes MODE and HOST_DUTY of named zones as LIVE_SET does and ends their table takeover. -/
  | fanSet (p : Port) (tag : BitVec 32) (params : Bytes)
  /-- `THERM_STATUS` (R286): Returns tripped and latched masks and a record per thermal channel. -/
  | thermStatus (p : Port) (tag : BitVec 32) (params : Bytes)
  /-- `TRIP_CLEAR` (R284): Clears latched trips of eligible channels, empties their history and restarts at once. -/
  | tripClear (p : Port) (tag : BitVec 32) (params : Bytes)
  /-- `LEAK_CLEAR` (R284): Clears the leak latch once every electronics rope is dry, respinning pumps and releasing feeds. -/
  | leakClear (p : Port) (tag : BitVec 32) (params : Bytes)
  /-- `CAD_STATUS` (R329): Returns the cadence node state, times, error bound and link summary. -/
  | cadStatus (p : Port) (tag : BitVec 32) (params : Bytes)
  /-- `LINK_STATUS` (R330): Returns one record per optical port. -/
  | linkStatus (p : Port) (tag : BitVec 32) (params : Bytes)
  /-- `CAD_REJOIN` (R328): Holds running slots, steps domain time and completes on entering LOCKED. -/
  | cadRejoin (p : Port) (tag : BitVec 32) (params : Bytes)
  /-- `CAD_SWITCH` (R328): Switches the active uplink to the named one and completes when adoption takes effect. -/
  | cadSwitch (p : Port) (tag : BitVec 32) (params : Bytes)
  /-- `GROUP_STATUS` (R363): Returns records for a range of cadence groups. -/
  | groupStatus (p : Port) (tag : BitVec 32) (params : Bytes)
  /-- `CAD_REQUEST` (R357): Sets or withdraws the host's cadence step request for a group. -/
  | cadRequest (p : Port) (tag : BitVec 32) (params : Bytes)
  /-- `RESET_AT` (R362): Schedules a reset of a group's running and held slots at an epoch. -/
  | resetAt (p : Port) (tag : BitVec 32) (params : Bytes)
  /-- `SNAPSHOT_AT` (R362): Schedules a snapshot of counters and slot states at an epoch. -/
  | snapshotAt (p : Port) (tag : BitVec 32) (params : Bytes)
  /-- `SNAPSHOT_READ` (R362): Returns a kept snapshot's header and counter values. -/
  | snapshotRead (p : Port) (tag : BitVec 32) (params : Bytes)
  /-- `EXPEL` (R356): Requests the apex to expel named slots of a node from a group at an epoch. -/
  | expel (p : Port) (tag : BitVec 32) (params : Bytes)
  /-- `CHECK_STATUS` (R419): Returns check engine state, classes, area states and rates. -/
  | checkStatus (p : Port) (tag : BitVec 32) (params : Bytes)
  /-- `CHECK_RESULTS` (R421): Returns result-log entries from START_SEQ or the oldest kept. -/
  | checkResults (p : Port) (tag : BitVec 32) (params : Bytes)
  /-- `CHECK_CONTROL` (R420): Runs, pauses or discards waiting records of the check engine. -/
  | checkControl (p : Port) (tag : BitVec 32) (params : Bytes)
  /-- `INTEG_STATUS` (R482): Returns integrity flags, step and per-slot records. -/
  | integStatus (p : Port) (tag : BitVec 32) (params : Bytes)
  /-- `UNIT_READ` (R481): Returns ledger records of a slot's units of one kind. -/
  | unitRead (p : Port) (tag : BitVec 32) (params : Bytes)
  /-- `UNIT_RELEASE` (R481): Clears a unit to CLEAN or marks a fenced core remapped, writing the ledger first. -/
  | unitRelease (p : Port) (tag : BitVec 32) (params : Bytes)
  /-- `LULL_STATUS` (R483): Returns the Lull-test state of each slot. -/
  | lullStatus (p : Port) (tag : BitVec 32) (params : Bytes)
  /-- `VOTE_LOG` (R484): Returns vote-log entries. -/
  | voteLog (p : Port) (tag : BitVec 32) (params : Bytes)
  /-- `PACK_SEND` (R465): Sends an installed test pack down the fabric as TRICKLE stream 1 for a number of passes. -/
  | packSend (p : Port) (tag : BitVec 32) (params : Bytes)
  /-- `PACK_STATUS` (R481): Returns fabric pack reception state and the installed packs. -/
  | packStatus (p : Port) (tag : BitVec 32) (params : Bytes)
  /-- `BASIN_STATUS` (R448): Returns Basin flags, capacities, scrub, poison and seal state. -/
  | basinStatus (p : Port) (tag : BitVec 32) (params : Bytes)
  /-- `BASIN_HOLD` (R447): Holds the Basin awake for the session or releases the hold. -/
  | basinHold (p : Port) (tag : BitVec 32) (params : Bytes)
  /-- `BASIN_SEAL` (R441): Computes layer digests, judging every block, and seals layers whose digest completes and matches. -/
  | basinSeal (p : Port) (tag : BitVec 32) (params : Bytes)
  /-- `BASIN_UNSEAL` (R447): Unseals a range of layers. -/
  | basinUnseal (p : Port) (tag : BitVec 32) (params : Bytes)
  /-- `BASIN_VERIFY` (R447): Recomputes digests of sealed layers and unseals those that differ. -/
  | basinVerify (p : Port) (tag : BitVec 32) (params : Bytes)
  /-- `MODEL_DIGEST` (R447): Returns the model digest over sealed layer digests when every mapped layer is sealed. -/
  | modelDigest (p : Port) (tag : BitVec 32) (params : Bytes)
  /-- `BASIN_PUSH` (R444): Copies golden tensor blocks of a sealed layer to a PCIe address and reads back to confirm. -/
  | basinPush (p : Port) (tag : BitVec 32) (params : Bytes)
  /-- `POISON_LIST` (R447): Returns a range of poisoned line offsets. -/
  | poisonList (p : Port) (tag : BitVec 32) (params : Bytes)
  /-- `SLOT_STATUS` (R514): Returns one record per slot. -/
  | slotStatus (p : Port) (tag : BitVec 32) (params : Bytes)
  /-- `SLOT_POWER` (R515): Requests or removes power for named slots and completes when they arrive. -/
  | slotPower (p : Port) (tag : BitVec 32) (params : Bytes)
  /-- `SLOT_RESET` (R515): Pulses SLT_n_RST_N for WIDTH_US and moves running slots to HELD. -/
  | slotReset (p : Port) (tag : BitVec 32) (params : Bytes)
  /-- `SLOT_RUN` (R515): Moves held, identified slots to RUNNING at a frame boundary. -/
  | slotRun (p : Port) (tag : BitVec 32) (params : Bytes)
  /-- `SLOT_HOLD` (R515): Moves named running slots to HELD. -/
  | slotHold (p : Port) (tag : BitVec 32) (params : Bytes)
  /-- `SLOT_QUARANTINE` (R515): Quarantines named slots with cause host. -/
  | slotQuarantine (p : Port) (tag : BitVec 32) (params : Bytes)
  /-- `SLOT_RELEASE` (R492): Returns quarantined or failed slots to HELD or OFF once their cause is cleared. -/
  | slotRelease (p : Port) (tag : BitVec 32) (params : Bytes)
  /-- `BOOT_STATUS` (R556): Returns boot source, bank states, trial and measurement 1. -/
  | bootStatus (p : Port) (tag : BitVec 32) (params : Bytes)
  /-- `UPPER_LOAD` (R543): Verifies the staged upper image, places it, loads microcode and releases U0-U5 into Full. -/
  | upperLoad (p : Port) (tag : BitVec 32) (params : Bytes)
  /-- `UPPER_HALT` (R546): Halts all upper cores so the BT-8 leaves Full. -/
  | upperHalt (p : Port) (tag : BitVec 32) (params : Bytes)
  /-- `KEY_STATUS` (R555): Returns the state and hash of each owner key slot. -/
  | keyStatus (p : Port) (tag : BitVec 32) (params : Bytes)
  /-- `KEY_PROGRAM` (R527): Programs the hash of a blank key slot and makes it ACTIVE. -/
  | keyProgram (p : Port) (tag : BitVec 32) (params : Bytes)
  /-- `KEY_REVOKE` (R527): Makes an ACTIVE key slot REVOKED. -/
  | keyRevoke (p : Port) (tag : BitVec 32) (params : Bytes)
  /-- `FW_BEGIN` (R559): Opens an update session for a component, or removes a test pack. -/
  | fwBegin (p : Port) (tag : BitVec 32) (params : Bytes)
  /-- `FW_BLOCK` (R560): Programs the next block of the image into flash, checking the header on the first block. -/
  | fwBlock (p : Port) (tag : BitVec 32) (params : Bytes)
  /-- `FW_END` (R564): Checks the whole image, copies the companion and marks Staging verified, or installs a pack. -/
  | fwEnd (p : Port) (tag : BitVec 32) (params : Bytes)
  /-- `FW_HANDOVER` (R573): Schedules a live replacement of the upper image at a chosen handover frame. -/
  | fwHandover (p : Port) (tag : BitVec 32) (params : Bytes)
  /-- `FW_RESTART_CORE` (R580): Gives one upper core a core reset without handover. -/
  | fwRestartCore (p : Port) (tag : BitVec 32) (params : Bytes)
  /-- `FW_STATUS` (R583): Returns update session, staging and handover state. -/
  | fwStatus (p : Port) (tag : BitVec 32) (params : Bytes)
  /-- `RESET_STATUS` (R605): Returns reset cause, counters, windows and pending reset. -/
  | resetStatus (p : Port) (tag : BitVec 32) (params : Bytes)
  /-- `RESET_REQUEST` (R604): Schedules a system reset DELAY_MS after acceptance. -/
  | resetRequest (p : Port) (tag : BitVec 32) (params : Bytes)
  /-- `CALM_ENTER` (R52): Enters Calm when the Weir is off, PERST_N asserted and nothing is pending. -/
  | calmEnter (p : Port) (tag : BitVec 32) (params : Bytes)
  /-- `RTC_READ` (R604): Returns the real-time clock, its validity and the alarm. -/
  | rtcRead (p : Port) (tag : BitVec 32) (params : Bytes)
  /-- `RTC_WRITE` (R604): Sets the real-time clock and or the alarm. -/
  | rtcWrite (p : Port) (tag : BitVec 32) (params : Bytes)
  /-- `BKP_READ` (R604): Returns the 16 backup registers. -/
  | bkpRead (p : Port) (tag : BitVec 32) (params : Bytes)
  /-- `BKP_WRITE` (R604): Writes one host backup register BKP_12 to BKP_15. -/
  | bkpWrite (p : Port) (tag : BitVec 32) (params : Bytes)
  /-- `GO` (R97): A write of WIN_OPCODE with GO set submits the window's command for checking and acceptance within 200 us. -/
  | go (w : Fin 8) (opcode : BitVec 16)
  /-- `REGISTER_WRITE` (R11): A PCIe write to a register without a row of its own stores, drops or clears bits per its access code. -/
  | registerWrite (sp : Space) (off : Nat) (v : BitVec 32)
  /-- `CHG_SUMMARY_CLEAR` (R89): A W1C write clears counter change-summary bits, an increment in the same clock keeping the bit set. -/
  | chgSummaryClear (k : Fin 8) (v same : BitVec 32)
  /-- `CT_LO_READ` (R87): A read of CT_LO latches CT_HI and CT_SUB at the same instant. -/
  | ctLoRead (wide : Bool)
  /-- `LT_LO_READ` (R88): A read of LT_LO latches LT_HI at the same instant. -/
  | ltLoRead (wide : Bool)
  /-- `RCV_COPY` (R537): RCV_CTL CMD 1 copies the PCIe recovery buffer into the boot buffer at RCV_OFFSET. -/
  | rcvCopy
  /-- `RCV_CHECK_AND_BOOT` (R537): RCV_CTL CMD 2 checks the recovery keeper image and boots it or refuses it. -/
  | rcvCheckAndBoot
  /-- `RCV_I3C_COPY` (R538): An I3C recovery private write with CMD 1 copies data into the boot buffer. -/
  | rcvI3cCopy (len off : Nat) (data : Bytes) (crc : Byte)
  /-- `RCV_I3C_CHECK_AND_BOOT` (R538): An I3C recovery private write with CMD 2 checks and boots the image. -/
  | rcvI3cCheckAndBoot (len off : Nat) (data : Bytes) (crc : Byte)
  /-- `RCV_I3C_STATE_READ` (R538): An I3C recovery private read returns the recovery STATE. -/
  | rcvI3cStateRead
  /-- `REL_K1` (R540): K0 writes REL_K1 to release K1 once its map is locked and sections checked. -/
  | relK1
  /-- `REL_U` (R540): K0 writes REL_U to release upper cores once their maps are locked and sections checked. -/
  | relU (m : BitVec 6)
  /-- `HALT_U` (R539): K0 writes HALT_U to hold upper cores in reset. -/
  | haltU (m : BitVec 6)
  /-- `WATCHDOG_SERVICE` (R593): A core writes 0xA5 then 0x5A to service its watchdog. -/
  | watchdogService (k : Fin 8) (vs : Bytes)
  /-- `WATCHDOG_TIMEOUT_SET` (R593): A core sets its watchdog timeout once after release; a second write is ignored and counted. -/
  | watchdogTimeoutSet (k : Fin 8) (ms : Nat)
  /-- `SIDEBAND_COMMAND` (R124): A Skeile command packet on the sideband is checked and answered ACCEPTED, DONE or REFUSED. -/
  | sidebandCommand (opcode : BitVec 16) (tag : BitVec 32) (plen : Nat) (params : Bytes)
  /-- `SIDEBAND_STATUS_QUERY` (R124): A status query returns the sideband slot's current contents. -/
  | sidebandStatusQuery
  /-- `SIDEBAND_COMPLETION_NOTICE` (R124): When an accepted sideband command completes the BT-8 sends a 0x82 notice. -/
  | sidebandCompletionNotice
  /-- `MCTP_CONTROL` (R121): MCTP control messages for endpoint ID, version and type discovery are answered. -/
  | mctpControl (cmd : Byte) (data : Bytes)
  /-- `MCTP_OTHER_MESSAGE` (R121): An MCTP message of an unsupported type is silently discarded. -/
  | mctpOtherMessage (type : Byte) (data : Bytes)
  /-- `I3C_ENTDAA` (R120): The sideband target takes a dynamic address through ENTDAA. -/
  | i3cEntdaa (addr : BitVec 7)
  /-- `I3C_SETDASA` (R120): The sideband target takes a dynamic address through SETDASA from its static address. -/
  | i3cSetdasa (static addr : BitVec 7)
  /-- `GET_TID` (R127): PLDM GetTID is answered. -/
  | getTid
  /-- `GET_PLDM_VERSION` (R127): PLDM GetPLDMVersion is answered. -/
  | getPldmVersion (type : Byte)
  /-- `GET_PLDM_TYPES` (R127): PLDM GetPLDMTypes is answered. -/
  | getPldmTypes
  /-- `GET_PLDM_COMMANDS` (R127): PLDM GetPLDMCommands is answered. -/
  | getPldmCommands (type : Byte)
  /-- `GET_PDR_REPOSITORY_INFO` (R127): PLDM GetPDRRepositoryInfo is answered. -/
  | getPdrRepositoryInfo
  /-- `GET_PDR` (R127): PLDM GetPDR returns a numeric sensor PDR. -/
  | getPdr (handle : BitVec 32)
  /-- `GET_SENSOR_READING` (R128): PLDM GetSensorReading returns a sensor value and operational state. -/
  | getSensorReading (id : BitVec 16)
  /-- `GET_VERSION` (R129): SPDM GET_VERSION is answered. -/
  | getVersion
  /-- `GET_CAPABILITIES` (R129): SPDM GET_CAPABILITIES is answered. -/
  | getCapabilities (req : Bytes)
  /-- `NEGOTIATE_ALGORITHMS` (R129): SPDM NEGOTIATE_ALGORITHMS offers RSASSA-PSS RSA-3072 with SHA-256. -/
  | negotiateAlgorithms (req : Bytes)
  /-- `GET_DIGESTS` (R129): SPDM GET_DIGESTS is answered for certificate slot 0. -/
  | getDigests
  /-- `GET_CERTIFICATE` (R129): SPDM GET_CERTIFICATE returns the slot 0 chain. -/
  | getCertificate (slot : Byte) (off len : BitVec 16)
  /-- `CHALLENGE` (R129): SPDM CHALLENGE is answered with a signature from the device key. -/
  | challenge (slot hashType : Byte) (nonce : Bytes)
  /-- `GET_MEASUREMENTS` (R130): SPDM GET_MEASUREMENTS returns signed measurements 1 to 6. -/
  | getMeasurements (attr op : Byte) (nonce : Bytes)
  /-- `KEY_EXCHANGE` (R129): SPDM KEY_EXCHANGE is answered with UnsupportedRequest. -/
  | keyExchange (req : Bytes)
  /-- `PSK_EXCHANGE` (R129): SPDM PSK_EXCHANGE is answered with UnsupportedRequest. -/
  | pskExchange (req : Bytes)
  /-- `PERST_ASSERT` (R118): Assertion of PERST_N ends the host session as lease expiry does. -/
  | perstAssert
  /-- `PERST_RELEASE` (R57): Release of PERST_N starts configuration-space service and wakes the device from Calm. -/
  | perstRelease
  /-- `FUNCTION_LEVEL_RESET` (R118): A Function Level Reset ends the host session and returns windows to IDLE. -/
  | functionLevelReset
  /-- `PCIE_LINK_LOSS` (R118): Loss of the PCIe link ends the host session. -/
  | pcieLinkLoss
  /-- `BAR2_WRITE` (R438): A BAR 2 write is merged into Basin lines, or dropped when sealed, poisoned-partial, reserved or unready. -/
  | bar2Write (off : Nat) (data : Bytes) (errs : List LineErr)
  /-- `BAR2_READ` (R68): A BAR 2 read is served, held until the Basin wakes, or completed with poison or all-ones. -/
  | bar2Read (off len : Nat) (errs : List LineErr)
  /-- `BAR_UNMAPPED_ACCESS` (R79): An access to an unmapped or reserved offset reads zero or is dropped and counted. -/
  | barUnmappedAccess (bar : Bar) (off : Nat) (write : Bool)
  /-- `BAR4_RECORD_WRITE` (R400): A write to a record area is stored, or dropped and counted as an overrun or header write. -/
  | bar4RecordWrite (area : Fin 64) (off : Nat) (data : Bytes)
  /-- `BAR4_SEAL_WRITE` (R399): A write of SEAL_MAGIC covering offsets 0-7 seals a FREE or DONE area and stamps SEAL_TICK. -/
  | bar4SealWrite (area : Fin 64) (data : Bytes)
  /-- `NOTEBOOK_WRITE` (R505): A write to a slot notebook page is stored, or dropped when the page is closed or page 7. -/
  | notebookWrite (slot page : Fin 8) (off : Nat) (data : Bytes)
  /-- `NOTEBOOK_OPEN` (R505): A write of 0 to GEN opens the notebook and invalidates forecast, manifest and Lull map. -/
  | notebookOpen (slot : Fin 8)
  /-- `NOTEBOOK_GEN_WRITE` (R505): A non-zero GEN write closes the notebook and makes the BT-8 check it within one frame. -/
  | notebookGenWrite (slot : Fin 8) (gen : BitVec 32)
  /-- `POWER_ON_RESET` (R57): VSTBY and VDD_B entering their windows start the RC oscillator, power-on reset and option loading. -/
  | powerOnReset (vbatOk : Bool)
  /-- `BROWN_OUT` (R588): VSTBY below 2.9 V or VDD_B out of window causes a power-on reset. -/
  | brownOut (deep vbatOk : Bool)
  /-- `PIN_RESET` (R590): A low pulse of at least 10 us on TMC_RST_N from outside causes a system reset. -/
  | pinReset (widthNs : Nat)
  /-- `OPTION_LOADING_DONE` (R597): Option loading ends, latching straps and the option block, or restarting on a reset. -/
  | optionLoadingDone (good : Bool) (opt : OptionBlock) (bootSrc clkMode : BitVec 2)
  /-- `OPTION_FAULT_RETRY` (R598): After an option fault, loading restarts once every 1 s. -/
  | optionFaultRetry
  /-- `REFERENCE_CHECK` (R57): The selected clock reference is checked, leaving the BT-8 on the RC oscillator if missing. -/
  | referenceCheck (ok : Bool)
  /-- `TMC_RST_N_RELEASE` (R591): The BT-8 releases TMC_RST_N after 1 ms, ALL_OFF and option loading. -/
  | tmcRstNRelease (heldLow : Bool)
  /-- `PROTECTIONS_ARMED` (R58): Comparators, trips, leak response and Weir protections arm and fans and pumps begin spin-up. -/
  | protectionsArmed
  /-- `ROM_ENTRY` (R528): K0 leaves reset at the ROM, copies a verified Staging, chooses and checks a bank and jumps to the keeper. -/
  | romEntry
  /-- `ROM_FAIL_RETRY` (R532): With no bootable candidate the ROM waits 1 s and requests a system reset. -/
  | romFailRetry
  /-- `KEEPER_IMAGE_START` (R57): K0 runs the keeper image, reads settings, releases K1 and flash regions and allows the Weir ramp. -/
  | keeperImageStart (tBeMs tPpUs : Nat)
  /-- `BANK_CONFIRM` (R531): After 10 s without keeper resets K0 programs CONFIRM in the booted bank. -/
  | bankConfirm
  /-- `CLOCK_FAILURE` (R64): A missing or off-frequency reference switches clocks to the RC oscillator and causes a system reset. -/
  | clockFailure
  /-- `CLOCK_RECOVERED` (R596): After 1 s of good reference CLK_DEGRADED clears. -/
  | clockRecovered
  /-- `PLL_LOCKED` (R65): A started PLL locks and the work waiting for it proceeds. -/
  | pllLocked (pll : Pll)
  /-- `PLL_LOCK_TIMEOUT` (R65): A PLL not locked within 200 us is restarted once, then fails its waiting work or causes a clock failure. -/
  | pllLockTimeout (pll : Pll)
  /-- `KEEPER_WATCHDOG_FIRE` (R594): A keeper watchdog fires, causing a core reset or, inside the escalation window, a system reset. -/
  | keeperWatchdogFire (k : Fin 2) (textOk : Bool)
  /-- `ESCALATION_WINDOW_CLOSE` (R594): The 10 s keeper escalation window closes. -/
  | escalationWindowClose
  /-- `UPPER_WATCHDOG_FIRE` (R595): An upper watchdog fires, resetting that core or stopping it on the third fire in 60 s. -/
  | upperWatchdogFire (u : Fin 6) (textOk : Bool)
  /-- `KEEPER_LOCKUP` (R594): A keeper lock-up causes a system reset at once. -/
  | keeperLockup (k : Fin 2)
  /-- `UPPER_LOCKUP` (R588): An upper core lock-up causes a core reset of that core. -/
  | upperLockup (u : Fin 6) (textOk : Bool)
  /-- `PROTECTION_FAULT` (R542): A map violation, undefined instruction or bus error resets the faulting core after a text check. -/
  | protectionFault (k : Fin 8) (addr pc : BitVec 32) (textOk : Bool)
  /-- `SOFTWARE_RESET_REQUEST` (R589): A core requests a system reset or a permitted core reset. -/
  | softwareResetRequest (requester : Fin 8) (target : ResetTarget) (textOk : Bool)
  /-- `DEBUG_RESET_REQUEST` (R588): A JTAG debug request causes a core or system reset. -/
  | debugResetRequest (target : ResetTarget) (textOk : Bool)
  /-- `RESET_REQUEST_DUE` (R604): At RESET_TICK K0 performs the requested system reset. -/
  | resetRequestDue
  /-- `RTC_ALARM` (R53): The real-time clock alarm matches and wakes the device from Calm. -/
  | rtcAlarm
  /-- `CALM_REACHED` (R55): Calm entry completes with keepers power-gated, waking at once if a wake event arrived. -/
  | calmReached
  /-- `KEEPER_RESUME` (R56): After a wake event the keepers resume from retained SRAM and restart the tick counter. -/
  | keeperResume
  /-- `LEASE_EXPIRY` (R116): The lease expires: the session ends, host Draft and update commands end and the fan hold begins. -/
  | leaseExpiry
  /-- `FAN_HOLD_END` (R116): 10 s after lease expiry autonomous table mode takes over the masked zones. -/
  | fanHoldEnd
  /-- `SIDEBAND_DRAFT_IDLE` (R139): A sideband Draft with no Draft command for 60 s is discarded. -/
  | sidebandDraftIdle
  /-- `FEED_IN_WINDOW` (R177): A feed input in window for 100 ms may enter RAMP or leave OUT_OF_WINDOW. -/
  | feedInWindow (f : Feed) (vinMv : Nat)
  /-- `FEED_OUT_OF_WINDOW` (R173): A feed input leaves its UV or OV window after its filter and its gate turns off as on feed loss. -/
  | feedOutOfWindow (f : Feed) (vinMv powerMw : Nat)
  /-- `FEED_POWER_GOOD` (R179): A ramping feed reaches power-good and enters ON with its service limits. -/
  | feedPowerGood (f : Feed) (voutMv : Nat) (iMa : Int)
  /-- `RAMP_TIMEOUT` (R179): A ramp not reaching 90 % or power-good in time trips with cause RAMP_TIMEOUT. -/
  | rampTimeout (f : Feed)
  /-- `CURRENT_LIMIT_REACHED` (R182): A feed's current reaches its limit: the loop regulates and the fault timer starts. -/
  | currentLimitReached (f : Feed) (iMa : Int)
  /-- `FAULT_TIMER_CLEAR` (R182): The fault timer stops and clears after 10 us 2 % below the limit. -/
  | faultTimerClear (f : Feed)
  /-- `FAULT_TIMER_EXPIRY` (R183): The fault timer reaches FAULT_TIMER_US and the feed trips. -/
  | faultTimerExpiry (f : Feed)
  /-- `SOA_TRIP` (R186): The safe-operating-area integrator reaches SOA_MJ and the feed trips. -/
  | soaTrip (f : Feed)
  /-- `FAST_TRIP` (R183): The current passes the fast comparator threshold and the feed trips. -/
  | fastTrip (f : Feed)
  /-- `FEED_LOSS` (R194): Reverse current marks a feed lost, discharging its gate and raising the survivor's limit to CEILING. -/
  | feedLoss (f : Feed) (powerMw : Nat)
  /-- `COOLDOWN_END` (R187): A feed's cooldown ends and it enters RAMP. -/
  | cooldownEnd (f : Feed)
  /-- `RETRY_COUNT_RESET` (R188): After 60 s continuously in ON a feed's retry count returns to 0. -/
  | retryCountReset (f : Feed)
  /-- `HOLDUP_EXPIRY` (R197): With every connected input out of window for HOLDUP_US an orderly shutdown starts. -/
  | holdupExpiry
  /-- `MIN_OFF_END` (R198): MIN_OFF_MS after all-off each feed enters RAMP or OFF under the restore policy. -/
  | minOffEnd (f : Feed)
  /-- `POWER_WINDOW_CLOSE` (R200): A 10,000-tick power window closes and the budget cause raises or lowers its request. -/
  | powerWindowClose (pMw : Nat) (a b : FeedMeas)
  /-- `SHARE_IMBALANCE` (R193): A sharing imbalance beyond 10 % lasting 1 s is counted. -/
  | shareImbalance
  /-- `UP_SEQUENCE_START` (R223): With CAS_IN high, the bus held and tables loaded the tray up-sequence starts. -/
  | upSequenceStart
  /-- `CAS_IN_LOW` (R231): CAS_IN low for 100 us in UP or ON starts the tray down-sequence. -/
  | casInLow
  /-- `STAGE_UP_DELAY_EXPIRY` (R224): A stage's UP_DELAY_US passes and its included rails are turned on. -/
  | stageUpDelayExpiry (q : Seq) (nack : BitVec 64)
  /-- `RAIL_POWER_GOOD` (R210): A rail stays in window for its filter time and becomes power-good, possibly completing its stage. -/
  | railPowerGood (n : Fin 64) (mv : Nat)
  /-- `PG_TIMEOUT` (R226): A rail not power-good by PG_TIMEOUT_MS is turned off, marked FAIL_RISE and its slots held. -/
  | pgTimeout (q : Seq) (nack : BitVec 64)
  /-- `RAIL_LEAVES_WINDOW` (R227): A rail of a completed stage leaves power-good and fails in service low or high. -/
  | railLeavesWindow (n : Fin 64) (high : Bool) (mv : Nat) (nack : Bool)
  /-- `STAGE_DOWN_DELAY_EXPIRY` (R232): A stage's DOWN_DELAY_US passes and its rails are turned off with Spillway asserted. -/
  | stageDownDelayExpiry (q : Seq) (nack : BitVec 64)
  /-- `RAIL_DISCHARGED` (R232): A rail below its discharge threshold for its filter time releases its Spillway output. -/
  | railDischarged (n : Fin 64) (mv : Nat)
  /-- `DSC_TIMEOUT` (R233): A rail not discharged by DSC_TIMEOUT_MS is marked STUCK and the sequence proceeds. -/
  | dscTimeout (q : Seq)
  /-- `DOWN_SEQUENCE_TIMEOUT` (R235): A down-sequence reaching 1.6 s releases everything at once and enters ALL_OFF. -/
  | downSequenceTimeout (nack : BitVec 64)
  /-- `BUS_LOST` (R237): The main bus drops without a sequence and the Cascade releases everything and enters ALL_OFF. -/
  | busLost
  /-- `SEQ_TRANSACTION` (R244): Every 64 us the master sends a SEQ bus POLL, UP, DOWN or BUS transaction. -/
  | seqTransaction (reply : Option (BitVec 16 × Byte))
  /-- `SEQ_UP_FRAME` (R223): A slave receives UP and may start its up-sequence. -/
  | seqUpFrame
  /-- `SEQ_DOWN_FRAME` (R231): A slave receives DOWN and starts its down-sequence. -/
  | seqDownFrame
  /-- `SEQ_BUS_FRAME` (R219): A slave receives BUS and updates whether the main bus is held. -/
  | seqBusFrame (held : Bool)
  /-- `SEQ_POLL` (R243): An addressed slave replies to POLL with its status word. -/
  | seqPoll (word : BitVec 16) (crc : Byte)
  /-- `SEQ_SILENT` (R245): A slave with no valid frame for 10 ms counts the event. -/
  | seqSilent
  /-- `SLOT_UP_SEQUENCE` (R229): A slot's own rails are turned on stage by stage once the Cascade is ON and power is requested. -/
  | slotUpSequence (slot : Fin 8)
  /-- `IOUT_LIMIT_WRITE` (R239): Per frame K0 writes forecast-led IOUT_OC_FAULT_LIMIT to PMBus rails. -/
  | ioutLimitWrite (n : Fin 64) (ack : Bool)
  /-- `TEMP_CONVERSION` (R249): Every 1 ms all 28 thermal channels are converted and judged for failure, warning, trip and Gust. -/
  | tempConversion (cs : List Conv)
  /-- `TRIP_HOLD_END` (R256): An unlatched trip ends after HOLD_S below release and hardware restarts what it turned off. -/
  | tripHoldEnd (c : Fin 28)
  /-- `GUST_QUIET` (R259): After 10 s with no Gust the zone boost ends and the Gust part may be withdrawn. -/
  | gustQuiet
  /-- `FAN_ENGINE_EVAL` (R268): Every 16 ms each zone's demand is computed and fan and pump duties applied. -/
  | fanEngineEval (rpm : List Nat)
  /-- `SPIN_UP_STEP` (R261): A spin-up phase ends: full speed time, tach check at 3 s, or 1 s pause, possibly failing the output. -/
  | spinUpStep (o : Fin 20) (tachOk : Bool)
  /-- `TACH_NO_EDGE` (R262): A running output with no tach edge for 1 s is failed and all fans go to 100 %. -/
  | tachNoEdge (o : Fin 20)
  /-- `OUTPUT_SLOW` (R262): A running output below minimum speed for 5 s is counted as slow. -/
  | outputSlow (o : Fin 20)
  /-- `OUTPUT_RESTORED` (R263): A failed fan at minimum speed for 10 s is restored. -/
  | outputRestored (o : Fin 20)
  /-- `CEILING_OVER_TIMER` (R273): The over-timer reaches RAISE_S and the ceiling part rises or the ceiling is released. -/
  | ceilingOverTimer
  /-- `CEILING_RETURN` (R274): Demand at or below the ceiling for LOWER_S restores the ceiling. -/
  | ceilingReturn
  /-- `CEILING_UNDER_TIMER` (R275): The under-timer reaches LOWER_S and the ceiling part falls by one step. -/
  | ceilingUnderTimer
  /-- `FLOW_MEASURE` (R277): Each second a flow meter's flow is measured. -/
  | flowMeasure (n : Fin 4) (pulses : Nat)
  /-- `FLOW_LOW` (R277): Flow below FLW_MIN_DL for 5 s drives the listed pumps to 100 %. -/
  | flowLow (n : Fin 4)
  /-- `FLOW_RECOVER` (R277): A low meter recovers after 10 s above FLW_MIN_DL. -/
  | flowRecover (n : Fin 4)
  /-- `LEAK_MEASURE` (R278): Each 10 ms every rope's resistance is measured. -/
  | leakMeasure (kohm : List Nat)
  /-- `LEAK_WET` (R279): A rope below 100 kOhm for FILTER_MS turns wet; an electronics rope latches the leak and shuts down. -/
  | leakWet (r : Fin 8)
  /-- `ROPE_DRY` (R278): A rope above 1 MOhm for 10 s turns dry. -/
  | ropeDry (r : Fin 8)
  /-- `LEAK_PUMP_STOP` (R279): About 5 s after all-off on a leak every pump stops. -/
  | leakPumpStop
  /-- `FRAME_BOUNDARY` (R32): At each frame boundary Draft values, L writes, group steps and throttle releases take effect in order. -/
  | frameBoundary (pout : List (Nat × Nat))
  /-- `THROTTLE_HOLDBACK_END` (R360): 4,096 ticks after release a held-back emergency throttle may be asserted. -/
  | throttleHoldbackEnd
  /-- `ARM_WORD` (R351): A DX's ARM word on its code lane arms or refuses an epoch operation. -/
  | armWord (slot : Fin 8) (op : Byte) (epochFrame : BitVec 54) (status : Byte)
  /-- `BARRIER` (R344): A BARRIER contribution is combined toward the apex and a release tick returned. -/
  | barrier (slot : Fin 8) (seq : BitVec 4)
  /-- `BROADCAST` (R345): A BROADCAST of 1 to 32 words is carried to every member slot. -/
  | broadcast (slot : Fin 8) (seq : BitVec 4) (words : List (BitVec 64))
  /-- `REDUCE` (R346): A REDUCE contribution is combined with AND, OR, MIN, MAX or SUM64. -/
  | reduce (slot : Fin 8) (fn seq : BitVec 4) (value : BitVec 64)
  /-- `VOTE` (R347): A digest contribution is voted among replicas at the apex. -/
  | vote (slot : Fin 8) (seq : BitVec 4) (digest : BitVec 256)
  /-- `LANE_OP_TIMEOUT` (R348): An expected contribution missing 1,024 ticks after the first ends the operation with TIMEOUT. -/
  | laneOpTimeout (group : Fin 256) (opId : Byte)
  /-- `LANE_OP_RESULT` (R340): An operation's result or failure notice reaches member lanes by its deadline. -/
  | laneOpResult (group : Fin 256) (opId : Byte)
  /-- `BLOCK_LOCK` (R312): A lit port gains block lock and enters TRAINING. -/
  | blockLock (port : Fin 18) (rxPower : Int)
  /-- `CELL_ALIGNMENT` (R302): 64 consecutive good cells give alignment and the port enters IDENTIFYING. -/
  | cellAlignment (port : Fin 18)
  /-- `LINK_LOSS` (R312): Loss of block lock or 8 failing cells sends the port to DARK. -/
  | linkLoss (port : Fin 18)
  /-- `LINK_IDENT` (R313): An IDENT cell is judged against the expected peer, leading to CALIBRATING or MISWIRED. -/
  | linkIdent (port : Fin 18) (c : IdentCell)
  /-- `ECHO_CELL` (R310): A parent averages an ECHO into the link's one-way delay. -/
  | echoCell (port : Fin 18) (t1 t4 : Int) (turn : Nat)
  /-- `STAMP_CELL` (R311): A STAMP from the active uplink corrects the node's domain time rate. -/
  | stampCell (port : Fin 18) (c : StampCell) (arrival : Nat)
  /-- `TIME_SLOT` (R307): Every 128th cell slot the node sends a STAMP, ECHO or IDENT. -/
  | timeSlot (port : Fin 18) (echo : EchoTimes)
  /-- `OP_CELL` (R305): An OP cell pair is received, the first good copy kept and forwarded. -/
  | opCell (port : Fin 18) (first second : Option (BitVec 100))
  /-- `TRICKLE_CELL` (R308): A TRICKLE cell is passed to child links and pack chunks stored. -/
  | trickleCell (port : Fin 18) (c : TrickleCell)
  /-- `PACK_RX_TIMEOUT` (R465): A partial fabric pack with no chunk for 3,600 s is discarded. -/
  | packRxTimeout
  /-- `PACK_INSTALL` (R569): A fabric pack waiting for a component-4 session to end is installed into the store. -/
  | packInstall
  /-- `HOLDOVER_ENTRY` (R321): No good STAMP for 64 TIME slots, or a dark uplink without switch, enters HOLDOVER. -/
  | holdoverEntry
  /-- `HOLDOVER_HOLD` (R325): When the holdover error passes 100 ns spanning groups are held at the next boundary. -/
  | holdoverHold
  /-- `RELOCK` (R323): Good STAMPs return and the node slews or steps back to LOCKED. -/
  | relock
  /-- `TIME_STEP` (R324): The node stops its lanes, steps domain time and restarts them with STEPPED. -/
  | timeStep
  /-- `JOIN_LOCK` (R322): A joining node steps to its parent and enters LOCKED. -/
  | joinLock
  /-- `UPLINK_SWITCH` (R320): The node switches to its standby uplink and sets ADOPT. -/
  | uplinkSwitch
  /-- `ADOPT` (R320): A new parent receiving ADOPT combines the node's operations from the next frame boundary. -/
  | adopt (port : Fin 18)
  /-- `REACH_REPORT` (R336): A node sends REACH records upward at least every 64 frames and on change. -/
  | reachReport
  /-- `REACH_RECORD` (R336): A received REACH record is combined, and at the apex D(G) is computed and sent down. -/
  | reachRecord (port : Fin 18) (c : OpPayload)
  /-- `EPOCH_PROPOSAL` (R350): A proposal for an epoch operation reaches a member, which passes EPOCH words and arms or declines. -/
  | epochProposal (group : Fin 256) (fn : EpochFn) (epoch arg : Nat) (commitId : BitVec 32)
  /-- `ARM_REDUCE_START` (R350): At E - 32 ticks - D(G) each member starts the arm reduce. -/
  | armReduceStart (group : Fin 256) (fn : EpochFn) (epoch : Nat)
  /-- `DECIDE` (R350): A DECIDE cell tells members to go or cancel, with CANCEL words on lanes. -/
  | decide (group : Fin 256) (fn : EpochFn) (epoch : Nat) (go : Bool) (step : BitVec 4)
  /-- `EPOCH_EFFECT` (R355): At the epoch armed operations take effect in order snapshot, commit, cadence, reset. -/
  | epochEffect (epoch : Nat)
  /-- `EPOCH_NO_DECISION` (R352): A member without a DECIDE by the epoch does not apply it and holds its slots. -/
  | epochNoDecision (group : Fin 256) (fn : EpochFn) (epoch : Nat)
  /-- `EXPEL_DECISION` (R356): The apex chooses an expel epoch and sends the decision down. -/
  | expelDecision (group : Fin 256) (node : BitVec 32) (slots : BitVec 8)
  /-- `EXPEL_EFFECT` (R356): At the expel epoch named slots leave the expected contributors and move to HELD. -/
  | expelEffect (group : Fin 256) (slots : BitVec 8) (epoch : Nat)
  /-- `CHECK_ENGINE_START` (R66): The check engine and its PLL start when a sealed record awaits checking. -/
  | checkEngineStart
  /-- `CHECK_ENGINE_STOP` (R66): The check engine stops after 16 frames with no record waiting. -/
  | checkEngineStop
  /-- `CHECK_START` (R409): U2 starts the next sealed record in SEAL_TICK order and it is judged step by step. -/
  | checkStart (area : Fin 64) (errs : List LineErr)
  /-- `CHECK_DONE` (R402): A check ends: the result block is written and the area becomes DONE. -/
  | checkDone (area : Fin 64)
  /-- `EVIDENCE_CLASSIFY` (R452): U2 classifies a result as evidence and charges the named unit, updating its state. -/
  | evidenceClassify
  /-- `MISSING_SAMPLE` (R456): A selected tile not sealed MISS_FRAMES after its end frame counts as missing. -/
  | missingSample (slot : Fin 8) (layer tile step : Nat)
  /-- `MARGIN_STEP_WRITE` (R471): At the next frame boundary U5 raises the slot's core rail by one ladder step. -/
  | marginStepWrite (slot : Fin 8) (ack : Bool)
  /-- `LADDER_RELAX` (R474): After RELAX_H quiet hours a slot's margin ladder steps down. -/
  | ladderRelax (slot : Fin 8)
  /-- `LULL_TEST_ORDER` (R460): U2 chooses and U5 orders the next Lull test for a slot. -/
  | lullTestOrder (slot : Fin 8)
  /-- `LULL_VOID_TIMEOUT` (R462): No record sealed 2 frames after the Lull ends makes the test void. -/
  | lullVoidTimeout (slot : Fin 8)
  /-- `VOTE_RESULT` (R477): A vote result is acted on, charging or expelling dissenting slots. -/
  | voteResult (group : Fin 256) (seq : BitVec 4)
  /-- `VOTE_OVERDUE` (R478): A layer not covered by a vote for PERIOD_S is counted overdue. -/
  | voteOverdue (group : Fin 256) (layer : Nat)
  /-- `LEDGER_WRITE` (R468): U3 writes a unit record within 100 ms of a change, or hourly for a non-clean unit. -/
  | ledgerWrite (key : UnitKey)
  /-- `BASIN_SELF_REFRESH` (R67): After 64 frames without traffic the Basin enters self-refresh. -/
  | basinSelfRefresh
  /-- `BASIN_USABLE` (R67): 2 ms after a start request the Basin is usable and held accesses complete. -/
  | basinUsable
  /-- `TIER_USABLE` (R425): A Basin tier completes initialisation and training and becomes usable. -/
  | tierUsable (tier : Tier) (dimm0 dimm1 : Nat)
  /-- `SCRUB_READ` (R433): The patrol scrub reads the next line, correcting or poisoning it. -/
  | scrubRead (err : List (Nat × Byte))
  /-- `SCRUB_CATCH_UP` (R433): A scrub 1 h behind makes a start request and catches up. -/
  | scrubCatchUp
  /-- `DIGEST_DONE` (R441): A digest engine finishes a layer and the layer is sealed or left unsealed. -/
  | digestDone (layer : Nat) (errs : List LineErr)
  /-- `SLOT_PRESENT` (R488): SLT_n_PRSNT_N low for 100 ms makes a slot present. -/
  | slotPresent (slot : Fin 8)
  /-- `SLOT_ABSENT` (R488): SLT_n_PRSNT_N high for 10 us makes a powered slot absent and its hardware removal runs. -/
  | slotAbsent (slot : Fin 8)
  /-- `SLOT_RESET_RELEASE` (R486): 10 ms after HELD the slot's reset is released and SETDASA sent. -/
  | slotResetRelease (slot : Fin 8)
  /-- `SLOT_IDENT_POLL` (R493): Every 100 ms the BT-8 sends IDENT until a valid reply identifies the slot. -/
  | slotIdentPoll (slot : Fin 8) (reply : Option IdentReply)
  /-- `SLOT_BOOT_TIMEOUT` (R490): No valid IDENT reply 5 s after reset release makes the slot FAILED. -/
  | slotBootTimeout (slot : Fin 8)
  /-- `SLOT_ALERT` (R493): A falling edge on SLT_n_ALERT_N makes the BT-8 read STATUS within 2 ms. -/
  | slotAlert (slot : Fin 8) (reply : Option StatusReply)
  /-- `PLAN` (R499): A PLAN message carrying a new sampling plan is sent to each member slot. -/
  | plan (slot : Fin 8) (ack : Bool)
  /-- `FENCE` (R499): A FENCE message orders the DX to stop using a core or stack, quarantining on failure. -/
  | fence (slot : Fin 8) (kind : Bool) (index : BitVec 16) (ack : Bool)
  /-- `LULL_ORDER` (R499): A LULL_ORDER message orders a test in a named Lull. -/
  | lullOrder (slot : Fin 8) (ack : Bool)
  /-- `PACK_CHUNK` (R500): PACK_CHUNK messages deliver the selected test pack to an identified slot. -/
  | packChunk (slot : Fin 8) (ack : Bool)
  /-- `SLOT_POWER_ON_BASE_READ` (R503): On HELD from POWERING the core rail's VOUT_MODE and base VOUT_COMMAND are read. -/
  | slotPowerOnBaseRead (slot : Fin 8) (reply : Option (Byte × BitVec 16))
  /-- `HANDOVER_PAUSE` (R576): At HO_FRAME - 64 ticks upper cores pass state, are halted, replaced and resumed. -/
  | handoverPause (badCopies : Nat) (sections : BitVec 6)
  /-- `LIVE_UCODE_LOAD` (R565): After the running checks finish K0 loads LIVE microcode into the check engine. -/
  | liveUcodeLoad
  /-- `SIDEBAND_WAKE_TRANSFER` (R54): In Calm an I3C private transfer addressed to the BT-8 is NACKed and wakes the keepers. -/
  | sidebandWakeTransfer
  /-- `FEED_INPUT_RETURN` (R197): A feed input re-enters its window after the filter, re-enhancing the feed at once during hold-up and starting its 100 ms in-window count. -/
  | feedInputReturn (f : Feed) (vinMv : Nat)
  /-- `RAIL_ROSE_IN_SHUTDOWN` (R234): A discharged rail rises above its discharge threshold again during a down-sequence, is counted and its Spillway output asserted. -/
  | railRoseInShutdown (n : Fin 64)
  /-- `CODE_LANE_WORD_DISCARD` (R298): A code-lane word with a reserved type or a failed CRC is discarded and counted, toward the burst report of R300. -/
  | codeLaneWordDiscard (slot : Fin 8)
  /-- `CELL_DISCARDED` (R303): A link cell with a reserved type or a failed CRC is discarded and counted. -/
  | cellDiscarded (port : Fin 18) (badCrc : Bool)
  /-- `RESET_PULSE_END` (R486): A SLOT_RESET or RESET_AT reset pulse ends and SLT_n_RST_N may be released. -/
  | resetPulseEnd (slot : Fin 8)
  /-- `UPPER_LOAD_COMPLETE` (R543): K0 finishes verifying and placing the upper image, releasing U0-U5 into Full or completing UPPER_LOAD FAILED. -/
  | upperLoadComplete (copyError stage0Lost : Bool)
  /-- `SETTINGS_SAVE_COMPLETE` (R165): The settings-store bank write and read-back finish and SETTINGS_SAVE completes OK or FAILED. -/
  | settingsSaveComplete (readBackOk : Bool)
  /-- `FW_END_COMPLETE` (R564): FW_END's read-back, signature check and companion copy finish and Staging is marked verified or the session fails. -/
  | fwEndComplete (flashOk : Bool)
  /-- `PUSH_COMPLETE` (R444): The last pushed block is written and the confirming read at DEST returns, completing BASIN_PUSH. -/
  | pushComplete (linkDown : Bool) (errs : List LineErr)
  /-- `HANDOVER_VERIFY_DONE` (R575): Authentication of the staged upper image ends before HO_FRAME, failing FW_HANDOVER and reopening staging on failure. -/
  | handoverVerifyDone
  /-- `BOUND_EXPIRY` (R103): An accepted command's bound is reached while its serving core is in reset, and K1 ends it ABANDONED. -/
  | boundExpiry (p : Port)
  deriving DecidableEq, Repr

end Sys2Proof
end

