-- ==== Sys2Proof/Config.lean ====
section
/-!
DEFINITION. What an implementation fixes, and the free values: opaque constants that no proof can evaluate.
-/

namespace Sys2Proof.Config

/-- DESIGN CHOICE (log 5): the hash of Skeile's release key, which the spec does not give (R526). -/
opaque releaseKeyHash : Bytes

/-- A temperature in 0.1 °C where R250 states none; the argument tells the draws apart (log 34). -/
opaque freeReading : Nat → Int

/-- PROFILE of a bank of the settings store, informative only (R163; log 43). -/
opaque profile : Byte

/-- The version of a set of test packs, as identifiers and versions in store order, which the spec does not define (R132; log 51). -/
opaque packsVersion : List (Nat × Nat) → Nat

/-- Tile classes that a microcode image defines above 0x0F, which its body says in a form the spec does not give (R406, R419;
log 52). -/
opaque ucodeClasses : Bytes → BitVec 128

/-- A signature of the signing engine over a digest: the device key is unique to the part and its salt random; the first argument
tells the draws apart (R552; log 53). -/
opaque signature : Nat → Bytes → Bytes

/-- Package power of the BT-8 in mW at a local tick, which PLDM sensor 58 reports; the spec gives typical figures alone (R46, R127;
log 54). -/
opaque packageMw : Nat → Nat

/-- Whether a low pulse of 5 µs to 10 µs on TMC_RST_N registers, which R590 leaves undefined; the argument tells the pulses apart (log 55). -/
opaque shortPulse : Nat → Bool

/-- The source that a system reset is recorded under when a protection fault of K0 becomes one, which the spec does not give; 0 to 5 for
bits 2 to 7 (R542, R599; log 56). -/
opaque faultSource : Fin 6

/-- The region mask of log code 0x00A, whose bits the spec does not number (R549; log 57). -/
opaque regionMask : Nat

/-! What the sideband's protocols show and neither the spec nor its standards fix (R121, R127, R129; log 62). -/

/-- The version entry of an MCTP message type, and of a PLDM type. -/
opaque mctpVersion : Byte → Bytes
opaque pldmVersion : Byte → Bytes
/-- Update times of the PDR repository, its transfer timeout, and the parts of a numeric sensor PDR that R127 does not give. -/
opaque pdrTimes : Bytes
opaque pdrTimeout : Byte
opaque pdrEntity : Nat → Bytes
opaque pdrRest : Nat → Bytes
/-- Present, previous and event state of a numeric sensor. -/
opaque pldmStates : Nat → Bytes
/-- CTExponent of the SPDM responder, and its nonces. -/
opaque spdmExponent : Byte
opaque spdmNonce : Nat → Bytes

/-- Data that a poisoned line of the Basin gives, marked poisoned: the draw and the offset (R81, R432; log 80). -/
opaque poisonByte : Nat → Nat → Byte

/-- Whether the line code corrects, to another codeword, a pattern of more than 8 byte errors that lies within 4 bytes of one: R427 gives
such a pattern no defined outcome; the argument tells the reads apart (log 81). -/
opaque wideCorrects : Nat → Bool

/-- Blocks that a push had written when the slot or the link was lost (R444, R445; log 82). -/
opaque pushed : Nat → Nat

/-- STATUS of a BASIN_VERIFY record for a layer that is mapped and not SEALED, which R449 has no code for (R447; log 83). -/
opaque verifyStatus : Byte

/-- Check tiles at work while records are checked, 1 to 64, which CHECK_STATUS reports (R419; log 84). -/
opaque tilesBusy : Nat → Nat

/-- Reference output of a tile class that microcode defines: element codes and scale codes of a batch entry, by class, record and entry
(R406; log 52). -/
opaque ucodeOutput : Nat → Bytes → Nat → List Nat × List Nat

/-- A core's section of the handover block, at most 40 KiB, from the accepted commands it carries: R577 leaves its layout to the image that writes it
(log 97). -/
opaque handoverSection : Nat → Bytes → Bytes

/-- Offset of the MSI-X capability in the configuration space, which the spec does not give (R73; log 100). -/
opaque msixCap : Nat

end Sys2Proof.Config
end

