-- ==== Sys2Proof/Machine/Bits.lean ====
section
/-!
DEFINITION. Little-endian numbers, bit fields, byte memories, fixed arrays and association lists (R9, R10).
-/

namespace Sys2Proof

/-- The byte that holds `n` modulo 256. -/
def byte (n : Nat) : Byte := BitVec.ofNat 8 n

/-- The number a little-endian byte string stands for (R9). -/
def leNat : Bytes → Nat
  | [] => 0
  | b :: bs => b.toNat + 256 * leNat bs

/-- `n` as `k` bytes, least significant first (R9). -/
def natLE : (k n : Nat) → Bytes
  | 0, _ => []
  | k + 1, n => byte n :: natLE k (n / 256)

/-- `k` bytes of zero. -/
def zeros (k : Nat) : Bytes := List.replicate k 0

/-- A signed number as `k` little-endian bytes in two's complement. -/
def intLE (k : Nat) (z : Int) : Bytes := natLE k (z % (2 ^ (8 * k) : Nat)).toNat

/-- The signed number that an unsigned `w`-bit number stands for. -/
def toSigned (w n : Nat) : Int := if n % 2 ^ w < 2 ^ (w - 1) then (n % 2 ^ w : Nat) else (n % 2 ^ w : Nat) - (2 ^ w : Nat)

/-- The number of 1, 2, 4 or 8 bytes at an offset of a byte string; bytes past its end read as 0. -/
def Bytes.num (bs : Bytes) (off k : Nat) : Nat := leNat ((bs.drop off).take k)
/-- The bytes at an offset of a byte string, fewer at its end. -/
def Bytes.part (bs : Bytes) (off k : Nat) : Bytes := (bs.drop off).take k
/-- A byte string cut or padded with zero bytes to `k` bytes. -/
def Bytes.fit (bs : Bytes) (k : Nat) : Bytes := bs.take k ++ zeros (k - bs.length)

/-- The bytes of an ASCII text. -/
def ascii (t : String) : Bytes := t.toList.map (fun c => byte c.toNat)

/-- Bit `i` of a number. -/
def bit (n i : Nat) : Bool := n.testBit i
/-- 1 for true, 0 for false. -/
def b2n (b : Bool) : Nat := if b then 1 else 0
/-- Bits `lo` and up of a number, `w` of them. -/
def bits (n lo w : Nat) : Nat := n / 2 ^ lo % 2 ^ w

/-- The number whose bit `i` is the truth of `p i`, over `i < n`. -/
def maskOf (n : Nat) (p : Nat → Bool) : Nat :=
  (List.range n).foldl (fun a i => if p i then a + 2 ^ i else a) 0

/-- The indices below `n` whose bit is set in a mask. -/
def bitsOf (n mask : Nat) : List Nat := (List.range n).filter (fun i => mask.testBit i)

/-- Division rounded up. -/
def ceilDiv (a b : Nat) : Nat := (a + b - 1) / b

/-! Byte memories: a list of address and byte pairs, addresses strictly rising, no entry holding
the byte that an unlisted address reads as. -/

/-- One byte; `d` is what an unlisted address reads as. -/
def Mem.get (d : Byte) : Mem → Nat → Byte
  | [], _ => d
  | c :: m, a => if c.1 = a then c.2 else Mem.get d m a

/-- The entries that `bs` from address `a` need: those that differ from `d`. -/
def Mem.cells (d : Byte) : Nat → Bytes → Mem
  | _, [] => []
  | a, b :: bs => if b = d then Mem.cells d (a + 1) bs else (a, b) :: Mem.cells d (a + 1) bs

/-- Writing a byte string at an address. -/
def Mem.write (d : Byte) (m : Mem) (a : Nat) (bs : Bytes) : Mem :=
  m.filter (fun c => c.1 < a) ++ Mem.cells d a bs ++ m.filter (fun c => a + bs.length ≤ c.1)

/-- Giving `k` bytes from an address the byte that unlisted addresses read as. -/
def Mem.erase (m : Mem) (a k : Nat) : Mem := m.filter (fun c => c.1 < a || a + k ≤ c.1)

/-- Reading `k` bytes from an address. -/
def Mem.read (d : Byte) (m : Mem) (a k : Nat) : Bytes := (List.range k).map (fun i => Mem.get d m (a + i))

/-- The little-endian number of `k` bytes at an address. -/
def Mem.num (d : Byte) (m : Mem) (a k : Nat) : Nat := leNat (Mem.read d m a k)

/-- The canonical form from an address on: addresses at or above it and strictly rising, no entry
holding the default. -/
def Mem.wfFrom (d : Byte) : Nat → Mem → Bool
  | _, [] => true
  | a, c :: m => decide (a ≤ c.1) && (c.2 != d) && Mem.wfFrom d (c.1 + 1) m

/-- The canonical form. -/
def Mem.wf (d : Byte) (m : Mem) : Bool := Mem.wfFrom d 0 m

/-! Fixed arrays. -/

/-- The array whose entry `i` is `f i`. -/
def Vec.tab {α : Type} (n : Nat) (f : Fin n → α) : Vector α n :=
  ⟨⟨(List.finRange n).map f⟩, by simp⟩

/-- Changing one entry. -/
def Vec.upd {α : Type} {n : Nat} (v : Vector α n) (i : Fin n) (f : α → α) : Vector α n :=
  v.set i.1 (f (v.get i)) i.2

/-- Changing every entry. -/
def Vec.mapIdx {α : Type} {n : Nat} (v : Vector α n) (f : Fin n → α → α) : Vector α n :=
  Vec.tab n (fun i => f i (v.get i))

/-- The indices whose entry satisfies `p`, in rising order. -/
def Vec.find {α : Type} {n : Nat} (v : Vector α n) (p : α → Bool) : List (Fin n) :=
  (List.finRange n).filter (fun i => p (v.get i))

/-- The number whose bit `i` tells whether entry `i` satisfies `p`. -/
def Vec.mask {α : Type} {n : Nat} (v : Vector α n) (p : α → Bool) : Nat :=
  (Vec.find v p).foldl (fun a i => a + 2 ^ i.1) 0

/-- Placing an entry before the first one that is not smaller. -/
def insertBy {α : Type} (le : α → α → Bool) (x : α) : List α → List α
  | [] => [x]
  | y :: l => if le x y then x :: y :: l else y :: insertBy le x l

/-- A list in rising order; entries that compare equal keep their order. -/
def sortBy {α : Type} (le : α → α → Bool) (l : List α) : List α := l.foldr (insertBy le) []

/-! Association lists, at most one entry a key, in rising order of the key's number. -/

/-- The value of a key, or a default. -/
def Assoc.get {κ α : Type} [DecidableEq κ] (d : α) : List (κ × α) → κ → α
  | [], _ => d
  | c :: m, k => if c.1 = k then c.2 else Assoc.get d m k

/-- Setting the value of a key. -/
def Assoc.set {κ α : Type} [DecidableEq κ] (m : List (κ × α)) (k : κ) (v : α) : List (κ × α) :=
  m.filter (fun c => c.1 ≠ k) ++ [(k, v)]

/-- The last `n` entries of a list. -/
def lastN {α : Type} (n : Nat) (l : List α) : List α := (l.reverse.take n).reverse

end Sys2Proof
end

