-- ==== Sys2Proof/Machine/State.lean ====
section
/-!
DEFINITION. The state of the block, its faults and refusals, and the state after reset.
-/

namespace Sys2Proof.Machine

/-! ### Device state, clocks and power-up (R46, R57 to R70) -/

/-- The state of the device (R46). -/
inductive DevState
  | off | calm | keeper | full
  deriving DecidableEq, Repr

/-- How far power-up, a Calm entry or a wake has come (R50, R55, R57, R528, R598). -/
inductive Phase
  /-- Off: no standby power. -/
  | unpowered
  /-- Option loading runs. -/
  | optionLoading
  /-- Option loading failed; it restarts every second. -/
  | optionFault
  /-- The option block is loaded and the straps latched. -/
  | optionLoaded
  /-- The reference is checked; K0 may leave reset at the ROM. -/
  | refChecked
  /-- The ROM found no bootable candidate. -/
  | romFail
  /-- The ROM waits for a recovery image. -/
  | recovery
  /-- The ROM jumped to the keeper image. -/
  | imageReady
  /-- K0 runs the keeper image. -/
  | running
  /-- CALM_ENTER is accepted and Calm is not reached yet. -/
  | calmEntering
  /-- Calm. -/
  | inCalm
  /-- A wake event came; the keepers resume. -/
  | resuming
  deriving DecidableEq, Repr

/-- A phase-locked loop (R65). -/
inductive PllState
  | stopped | starting | restarted | locked | failed
  deriving DecidableEq, Repr

/-- The device as a whole. -/
structure DevSt where
  /-- State code (R46). -/
  st : DevState
  /-- Progress of power-up, Calm entry or wake (R50, R57). -/
  phase : Phase
  /-- BOOT_SRC[1:0] latched at option loading (R57). -/
  bootSrc : BitVec 2
  /-- CLK_MODE[1:0] latched at option loading (R57, R61). -/
  clkMode : BitVec 2
  /-- The option block as loaded (R57, R84, R120). -/
  opt : OptionBlock
  /-- TMC_RST_N driven low by the BT-8 (R57, R591). -/
  rstLow : Bool
  /-- The clocks run on the RC oscillator, CLK_DEGRADED (R64, R596). -/
  clkDegraded : Bool
  /-- The protections are armed (R57 step 6). -/
  armed : Bool
  /-- The PLLs: keeper, upper, cadence, check, Basin (R65). -/
  plls : Vector PllState 5
  /-- A wake event came while Calm was being entered or held (R53, R55). -/
  wake : Bool
  /-- Local tick counter (R88, R287). -/
  lt : Nat
  /-- Number of the frame whose boundary took effect last, on the mirror's time (R8, R32). -/
  frame : Nat
  deriving DecidableEq, Repr

/-! ### Host attachment (R71 to R136) -/

/-- The PCIe endpoint and the registers of the device block that store something. -/
structure BusSt where
  /-- PERST_N asserted (R57). -/
  perst : Bool
  /-- The PCIe link is up (R118). -/
  link : Bool
  /-- Its width in lanes and its rate in GT/s (R71, R445). -/
  lanes : Nat
  gts : Nat
  /-- Memory Space Enable of the command register (R82). -/
  mse : Bool
  /-- Bus Master Enable of the command register (PCIe Base Specification). -/
  bme : Bool
  /-- MSI-X Enable and Function Mask of the MSI-X capability (R73). -/
  msixEn : Bool
  msixMask : Bool
  /-- The MSI-X table, 512 bytes at 0xE000 (R76). -/
  msixTable : Mem
  /-- The MSI-X pending-bit array (R76). -/
  pba : BitVec 64
  /-- HW_STATUS.FEATURES_CHANGED (R85). -/
  featuresChanged : Bool
  /-- CT_HI and CT_SUB as the last read of CT_LO latched them (R87). -/
  ctHi : BitVec 32
  ctSub : BitVec 10
  /-- LT_HI as the last read of LT_LO latched it (R88). -/
  ltHi : BitVec 32
  /-- The data of the last completed read and its poisoned-data indication (R81, R87). -/
  rd : Bytes
  rdPoison : Bool
  /-- BAR 2 accesses held while the Basin wakes, oldest first: offset, bytes to write, or length to read (R68). -/
  held : List (Nat × Option Bytes × Nat × List LineErr)
  deriving DecidableEq, Repr

/-- WIN_STATUS STATE (R91). -/
inductive WinState
  | idle | pending | accepted | done | refused
  deriving DecidableEq, Repr

/-- Status codes (R654). -/
inductive Code
  | ok | accepted | inconsistent | failed | superseded | abandoned
  | refusedBusy | refusedBound | refusedState | badOpcode | badParam | notNegotiated | noDraft | lockedField
  deriving DecidableEq, Repr

/-- A command window, or (index 7) the sideband command slot that window 7 mirrors (R91, R122). -/
structure Window where
  opcode : BitVec 16
  tag : BitVec 32
  plen : BitVec 12
  state : WinState
  code : Code
  rlen : Nat
  /-- WIN_ACCEPT_TIME, WIN_BOUND and WIN_DONE_TIME as ticks of the local counter; the registers show their low 32 bits (R88). -/
  acc : Nat
  bound : Nat
  done : Nat
  vec : BitVec 5
  vecEn : Bool
  /-- WIN_DATA, 3,840 bytes. -/
  data : Mem
  /-- The session the command came from ended while it ran (R116, R118). -/
  orphan : Bool
  /-- A completed sideband command whose 0x82 notice is not sent yet (R124). -/
  notice : Bool
  deriving DecidableEq, Repr

/-- A host or sideband session (R104, R126). -/
structure Session where
  id : Nat
  /-- The negotiated feature map (R108). -/
  map : Nat
  deriving DecidableEq, Repr

/-- Sessions, the lease and the sideband's protocols. -/
structure SessSt where
  host : Option Session
  sideband : Option Session
  /-- Counter of session identifiers in retained SRAM (R111). -/
  nextId : Nat
  /-- Local tick at which the lease expires (R114). -/
  expiry : Nat
  /-- LEASE.ABSENT (R86). -/
  absent : Bool
  /-- The fan hold of R116 step 4 runs; the tick of step 5. -/
  fanHold : Option Nat
  /-- Dynamic address on the sideband bus (R120). -/
  i3cAddr : Option (BitVec 7)
  /-- MCTP endpoint identifier (R121). -/
  eid : Byte
  /-- An SPDM version was asked for and algorithms were negotiated (R129). -/
  spdmVersion : Bool
  spdmAlgs : Bool
  /-- SPDM messages so far that a signature covers: version to algorithms, digests and certificates, measurements (R129). -/
  spdmA : Bytes
  spdmB : Bytes
  spdmL : Bytes
  deriving DecidableEq, Repr

/-! ### Drafts and settings (R137 to R168) -/

/-- The open Draft (R137 to R147). -/
structure Draft where
  id : Nat
  owner : Port
  /-- The session that opened it (R139). -/
  session : Nat
  /-- Staged values, one a field, in rising order of object, instance and field (R143). -/
  staged : List (Key × Nat)
  /-- Checked, and no DRAFT_SET since (R147). -/
  checked : Bool
  /-- Local tick of the last Draft command, for the sideband's 60 s rule (R139). -/
  lastTick : Nat
  deriving DecidableEq, Repr

/-- An accepted DRAFT_COMMIT (R149 to R155). -/
structure Commit where
  port : Port
  mode : Nat
  scope : Nat
  commitId : Nat
  /-- The instant, on the time of the cadence mirror (R150). -/
  instant : Nat
  deriving DecidableEq, Repr

/-- A change by LIVE_SET or FAN_SET that waits for its frame boundary (R157). -/
structure LiveWrite where
  key : Key
  value : Nat
  /-- Local tick of its acceptance: it is due at the first frame boundary at least 64 ticks later. -/
  acc : Nat
  /-- The command it came with, whose end before that boundary withdraws it (R102). -/
  port : Port
  deriving DecidableEq, Repr

structure CfgSt where
  /-- Values in effect that differ from a field's default (R144). -/
  eff : List (Key × Nat)
  /-- Values of objects 0x40, 0x41 and 0x52 that the store gives for the next Full (R167). -/
  later : List (Key × Nat)
  draft : Option Draft
  /-- DRAFT_ID of the next Draft (R161). -/
  nextDraft : Nat
  commit : Option Commit
  /-- Pending direct writes, oldest first (R15, R157). -/
  live : List LiveWrite
  /-- The save in progress: target bank, SEQ, the bank's bytes (R165). -/
  save : Option (Nat × Nat × Bytes)
  /-- Settings are loaded, from the store or from defaults (R167, R168). -/
  loaded : Bool
  deriving DecidableEq, Repr

/-! ### The Weir (R169 to R207) -/

/-- Feed states (R172). -/
inductive FeedState
  | disconnected | off | ramp | on | cooldown | latched | outOfWindow | minOff
  deriving DecidableEq, Repr

/-- Trip causes (R183). -/
inductive TripCause
  | none | soa | faultTimer | fast | rampTimeout
  deriving DecidableEq, Repr

/-- One feed. -/
structure FeedSt where
  /-- State code (R172). -/
  st : FeedState
  /-- Cause of the last trip (R183). -/
  trip : TripCause
  /-- Retry count, VBAT domain (R187, R189). -/
  retries : Nat
  /-- Latched, VBAT domain (R189). -/
  latched : Bool
  /-- Cooldown left in µs, VBAT domain (R189). -/
  cooldown : Nat
  /-- MIN_OFF time left in µs, always-on domain (R198). -/
  minOff : Nat
  /-- The input is in window (R173), and since which tick. -/
  inWin : Bool
  inSince : Nat
  /-- It has been in window for 100 ms (R177). -/
  settled : Bool
  /-- Safe-operating-area integrator in picojoules (R186). -/
  soa : Nat
  /-- Regulated limit in effect, mA (R177, R181). -/
  limit : Nat
  /-- Fast comparator threshold, mA (R177, R179). -/
  fast : Nat
  /-- In current limit, and the fault timer's start (R182). -/
  inLimit : Bool
  faultStart : Option Nat
  /-- Tick of the ramp's start, and RAMP_TIMEOUT_MS of the ramp that runs (R176, R179). -/
  rampStart : Nat
  rampMs : Nat
  /-- Tick since which the feed is in ON (R188). -/
  onSince : Nat
  /-- Tick of the last trip (R206). -/
  lastTrip : Option Nat
  /-- Meant to be on: a command, the restore policy, a retry or a return calls for it, and nothing has turned it off
  since (R187, R196, R198). -/
  wasOn : Bool
  /-- Turned off by WEIR_OFF, which no policy undoes (R198, R205). -/
  offCmd : Bool
  /-- The feed was lost and its return withdraws the feed-loss request (R194, R196). -/
  lost : Bool
  /-- Latest conversions: input and bus voltage in mV, current in mA (R171). -/
  vin : Nat
  vout : Nat
  i : Int
  /-- Average of VOUT over the last closed window, while valid (R181, R200). -/
  avgVout : Option Nat
  deriving DecidableEq, Repr

/-- What started an orderly shutdown (R197 to R199, R221, R255, R280). -/
inductive ShutCause
  | holdup | command | reset | thermal | leak | stage0 | pump | flow | casIn | downFrame
  deriving DecidableEq, Repr

structure WeirSt where
  feeds : Vector FeedSt 2
  /-- Start of the hold-up timer (R197). -/
  holdup : Option Nat
  /-- An orderly shutdown runs: its cause and the feeds that WEIR_OFF named (R198). -/
  shutdown : Option (ShutCause × Nat)
  /-- Feeds are held off until a leak or a thermal trip is cleared (R199, R280). -/
  heldLeak : Bool
  heldTrip : Bool
  /-- Start of the last closed power window and its power in mW (R200). -/
  winTick : Nat
  pMw : Nat
  /-- Consecutive windows over budget and satisfying R202 (R201, R202). -/
  overRun : Nat
  underRun : Nat
  /-- Request of the power-budget cause (R201). -/
  budgetStep : Nat
  /-- The budget request in effect; windows count from its taking effect (R201, R202). -/
  budgetApplied : Nat
  /-- VBAT was lost at the last start (R207). -/
  vbatLost : Bool
  /-- Ticks at which the feeds reached ON and all-off was reached, for the replies of R203. -/
  onTick : Nat
  offTick : Nat
  deriving DecidableEq, Repr

/-! ### The Cascade (R208 to R247) -/

/-- Sequencer states (R222). -/
inductive SeqState
  | allOff | up | on | down
  deriving DecidableEq, Repr

/-- What a rail does apart from its mark (R247). -/
inductive RailPhase
  | off | rising | good | falling
  deriving DecidableEq, Repr

/-- The mark of a failed rail (R226, R227, R657). -/
inductive RailMark
  | none | failRise | failLow | failHigh
  deriving DecidableEq, Repr

structure RailSt where
  phase : RailPhase
  mark : RailMark
  /-- The latch of a STUCK rail, which a system reset spares (R233). -/
  stuck : Bool
  /-- Enable asserted, Spillway asserted, PMBus on (R213, R214). -/
  ena : Bool
  dsc : Bool
  pmbus : Bool
  /-- Early drop, and rose during shutdown (R234). -/
  early : Bool
  rose : Bool
  /-- Power-good and discharged as the comparators judge them (R210). -/
  pg : Bool
  discharged : Bool
  /-- The rail's core is margined, in steps (R471). -/
  margin : Nat
  /-- IOUT_OC_FAULT_LIMIT last written, in mA (R239). -/
  iout : Option Nat
  /-- Last measurement in mV (R208). -/
  mv : Nat
  /-- Tick of the last state change (R247). -/
  evTick : Nat
  deriving DecidableEq, Repr

/-- Where a sequence stands: before a stage's turn-on or turn-off, or after it (R224, R232). -/
inductive SeqPhase
  /-- DOWN broadcast, waiting for slaves (R232 step 2). -/
  | slaves
  /-- The stage's delay runs. -/
  | delay
  /-- The stage's rails are switched and awaited. -/
  | wait
  deriving DecidableEq, Repr

/-- A running sequence, of the tray or of one slot (R224, R229, R232). -/
structure SeqRun where
  up : Bool
  stage : Nat
  phase : SeqPhase
  /-- Tick at which this phase began. -/
  since : Nat
  deriving DecidableEq, Repr

/-- What the master knows of a slave (R245, R247). -/
structure SlaveSt where
  st : Nat
  stage : Nat
  bits : Nat
  missed : Nat
  seen : Bool
  lost : Bool
  deriving DecidableEq, Repr

structure CascSt where
  st : SeqState
  /-- Stage in progress, or last completed (R247). -/
  stage : Nat
  /-- The tray sequence that runs. -/
  tray : Option SeqRun
  /-- The slot sequences that run (R229, R230). -/
  slotSeq : Vector (Option SeqRun) 8
  rails : Vector RailSt 64
  /-- Slots whose inclusion in the running up-sequence is decided, and those included (R229). -/
  decided : Nat
  included : Nat
  /-- CAS_IN and since when it is high; CAS_OUT (R223, R225). -/
  casIn : Bool
  casInSince : Nat
  casOut : Bool
  /-- Tick at which the running down-sequence began (R235). -/
  downStart : Nat
  /-- UP_DONE_TICK and DOWN_DONE_TICK (R247). -/
  upDone : Nat
  downDone : Nat
  /-- Slave: UP received since ALL_OFF; bus reported held; last valid frame; its silence counted (R219, R223, R245). -/
  upRx : Bool
  busRx : Bool
  rxTick : Nat
  silent : Bool
  /-- Master: slaves 1 to 7 (index 0 unused); next address to poll; transactions sent; broadcasts that wait, and the bus state last broadcast (R244). -/
  slaves : Vector SlaveSt 8
  pollNext : Nat
  txCount : Nat
  txUp : Bool
  txDown : Bool
  busSent : Bool
  deriving DecidableEq, Repr

/-! ### Cooling, leaks and thermal protection (R248 to R286) -/

/-- One temperature channel (R248 to R259). -/
structure ChanSt where
  /-- Reading in 0.1 °C, in mV for TYPE 4, in mA for TYPE 5 (R249, R286). -/
  reading : Int
  /-- Consecutive bad and good conversions, and failed (R251). -/
  bad : Nat
  good : Nat
  failed : Bool
  /-- Warning, and consecutive conversions toward its change (R254). -/
  warn : Bool
  warnCnt : Nat
  /-- Tripped, and consecutive conversions toward a trip (R255). -/
  tripped : Bool
  tripCnt : Nat
  latched : Bool
  /-- Tick since which a tripped channel reads below RELEASE_C (R256). -/
  holdSince : Option Nat
  /-- The hold ended, or the latch was cleared, and the restart waits for LEAK_CLEAR; whether it enters the history (R281, R284). -/
  waiting : Option Bool
  /-- Feeds in ON when a tray trip began (R256). -/
  feedsOn : Nat
  /-- Ticks of the restarts (R257). -/
  restarts : List Nat
  /-- Readings of the last 100 ms, newest first (R258). -/
  hist : List Int
  /-- Tick of the last Gust (R259). -/
  gust : Option Nat
  deriving DecidableEq, Repr

/-- Drive of a fan or pump output (R261, R262, R265). -/
inductive Drive
  | unused | spinUp | running | stopped | failed
  deriving DecidableEq, Repr

/-- One fan (0 to 15) or pump (16 to 19) output. -/
structure OutSt where
  drive : Drive
  /-- Spin-up attempts so far, and the start of this one; in its pause at 0 % (R261). -/
  attempts : Nat
  attemptStart : Nat
  pause : Bool
  /-- The 2 s of this attempt are over without the minimum speed; it has until 3 s (R261). -/
  late : Bool
  /-- Duty in thousandths of a percent (R260, R269). -/
  duty : Nat
  /-- Speed in rpm (R260). -/
  rpm : Nat
  slow : Bool
  deriving DecidableEq, Repr

/-- One fan zone (R267 to R270). -/
structure ZoneSt where
  /-- Held temperature in 0.1 °C (R268). -/
  tHeld : Option Int
  /-- Demand in thousandths of a percent (R268). -/
  demand : Nat
  /-- Tick of the last Gust on a channel of the zone, while its boost lasts (R259). -/
  gust : Option Nat
  /-- Table takeover of R270. -/
  takeover : Bool
  deriving DecidableEq, Repr

/-- Flow meter (R277). -/
structure FlowSt where
  /-- mL/min. -/
  flow : Nat
  low : Bool
  deriving DecidableEq, Repr

/-- Leak rope (R278). -/
inductive RopeState
  | dry | damp | wet
  deriving DecidableEq, Repr

structure RopeSt where
  st : RopeState
  /-- The last decided state, which a damp rope keeps (R278). -/
  wet : Bool
  kohm : Nat
  deriving DecidableEq, Repr

structure CoolSt where
  chans : Vector ChanSt 28
  outs : Vector OutSt 20
  zones : Vector ZoneSt 4
  flows : Vector FlowSt 4
  ropes : Vector RopeSt 8
  /-- Full-speed hold (R266). -/
  fullHold : Bool
  /-- K1 has applied cooling settings (R58, R261, R265). -/
  applied : Bool
  /-- Leak latch, and pumps stopped by it (R279). -/
  leak : Bool
  leakPumps : Bool
  /-- Ceiling part of the cooling cause (R272), and the ceiling part that took effect (R273, R275). -/
  ceilStep : Nat
  ceilApplied : Nat
  /-- Start of the over-timer, the under-timer and the return timer (R273 to R275). -/
  overStart : Option Nat
  underStart : Option Nat
  returnStart : Option Nat
  /-- The ceiling is released (R274). -/
  released : Bool
  /-- Tick of the last Gust (R259). -/
  lastGust : Option Nat
  /-- Tick at which the fan engine last ran (R268). -/
  evalTick : Nat
  deriving DecidableEq, Repr

/-! ### The cadence node and its links (R287 to R330) -/

/-- CAD_STATE (R85, R321). -/
inductive CadState
  | alone | joining | locked | holdover
  deriving DecidableEq, Repr

/-- Link states (R312). -/
inductive LinkState
  | unused | dark | training | identifying | calibrating | up | miswired | tooLong
  deriving DecidableEq, Repr

/-- One optical port: DN_0 to DN_15, UP_0 (16), UP_1 (17). -/
structure PortSt where
  st : LinkState
  /-- PATH of the peer's last IDENT (R330). -/
  peerPath : Nat
  /-- Matching IDENT cells in a row (R312). -/
  identRun : Nat
  /-- TICK[63:48] of the peer's last IDENT (R306). -/
  tickHi : Nat
  /-- Calibration: echoes averaged and their sum, and the delay, in 1/65,536 tick (R310). -/
  n : Nat
  sum : Int
  delay : Int
  /-- Uplinks: the DELAY and ERR of the last good STAMP, and TIME slots since it (R306, R311, R321). -/
  upDelay : Option Nat
  err : Nat
  missed : Nat
  /-- Cells that failed their CRC in this frame and in the last one (R330). -/
  badNow : Nat
  badLast : Nat
  /-- Received optical power in 0.1 dBm (R330). -/
  rxPower : Int
  /-- SEQ of the last cell received and of the next cell sent (R303). -/
  rxSeq : Option (BitVec 8)
  txSeq : BitVec 8
  /-- TIME slots sent, modulo 1,024 (R307). -/
  slots : Nat
  /-- ADOPT received on this downlink, and taken into effect (R320). -/
  adoptRx : Bool
  adopted : Bool
  deriving DecidableEq, Repr

/-- The adoption by a new parent (R320): none is awaited; ADOPT is not sent yet; it was sent, and takes effect at this tick of domain
time. -/
inductive Adopt
  | idle | due | sent (t : Nat)
  deriving DecidableEq, Repr

/-- A step of domain time under way (R324). -/
structure TimeStep where
  /-- New offset of domain time against the local counter, in 1/65,536 tick. -/
  offset : Int
  /-- Size of the step in 1/65,536 tick (R328). -/
  size : Int
  deriving DecidableEq, Repr

structure CadSt where
  st : CadState
  /-- Domain time minus the local tick counter, in 1/65,536 tick (R287 to R290). -/
  offset : Int
  /-- Domain time has stepped to a parent's since Full was entered (R289). -/
  stepped : Bool
  /-- JOINING: the step to the parent's time is still owed (R322). -/
  stepOwed : Bool
  /-- A root made by a committed change, which keeps its offset (R288). -/
  rootHeld : Bool
  /-- Active uplink: 0 UP_0, 1 UP_1 (R319). -/
  active : Fin 2
  /-- Groups are held by holdover (R325). -/
  groupsHeld : Bool
  /-- Tick until which a switchover slew runs (R320). -/
  slewEnd : Option Nat
  /-- ADOPT is set in the IDENT cells of the active uplink; how far the new parent's adoption has come (R320). -/
  adoptTx : Bool
  adopt : Adopt
  /-- Local tick at which holdover began and e0 in ns (R323). -/
  holdStart : Nat
  e0 : Nat
  /-- Last measured offset to the parent and rate adjustment in ppb (R311, R329). -/
  lastOffset : Int
  ratePpb : Int
  /-- STAMPs in a row within 500 ps with ERR 0 (R321, R322). -/
  inRow : Nat
  /-- Arrival of the last good STAMP on the active uplink, and the rate adjustment not yet spent (R311). -/
  stampAt : Nat
  carry : Nat
  /-- A step is called for but not made (R324). -/
  step : Option TimeStep
  /-- The last step, for the reply of CAD_REJOIN (R328). -/
  lastStep : Int
  /-- Lanes are silent until this local tick (R324). -/
  silentUntil : Option Nat
  ports : Vector PortSt 18
  /-- Discarded code-lane words of each slot in this frame (R300). -/
  laneBad : Vector Nat 8
  deriving DecidableEq, Repr

/-! ### Global operations (R331 to R363) -/

/-- A REACH record (R336, R349). -/
structure Reach where
  cost : Nat
  levels : Nat
  running : Bool
  replicas : Nat
  authority : Option Nat
  deriving DecidableEq, Repr

/-- One cadence group as this node knows it. -/
structure GroupSt where
  /-- Current step (R357). -/
  step : Nat
  /-- Held under R325, R352 or R359 (R363). -/
  held : Bool
  /-- D(G) in ns with levels, replica mask and authority, for a group that spans trays (R336, R337). -/
  reach : Option (Nat × Nat × Nat × Option Nat)
  /-- Host's request (R357). -/
  host : Option Nat
  /-- Requests of the feed-loss cause and of the integrity cause, and the Gust part of the cooling cause's (R195, R259,
  R473). -/
  loss : Nat
  integ : Nat
  gust : Nat
  /-- REACH records of the children, by port (R336). -/
  kids : List (Nat × Reach)
  /-- Slots of this node that EXPEL removed from the group (R356). -/
  expelled : Nat
  deriving DecidableEq, Repr

/-- Who contributed to a lane operation: a slot of this node, a child link, or the Basin (R343, R347). -/
inductive Source
  | slot (s : Fin 8)
  | child (p : Fin 18)
  | basin
  deriving DecidableEq, Repr

/-- A lane operation in progress (R340 to R348). -/
structure LaneOp where
  group : Fin 256
  /-- OP_ID: FN and SEQ (R341). -/
  opId : Byte
  /-- Contributions so far, oldest first: who, replica or 0xFF, and the words. -/
  contribs : List (Source × Nat × List (BitVec 64))
  /-- Local tick of the first contribution (R348). -/
  first : Nat
  /-- Deadline in ns of domain time, once every contribution has come (R340). -/
  deadline : Option Nat
  /-- The result words, or the reason of a failure notice (R342). -/
  result : Option (List (BitVec 64) ⊕ Nat)
  /-- VOTE: the layer that a slot of this node announced (R476). -/
  layer : Option Nat
  /-- The result has gone out on the lanes; U2 has acted on it (R340, R477). -/
  delivered : Bool
  acted : Bool
  deriving DecidableEq, Repr

/-- A pending epoch-scheduled operation (R350 to R355). -/
structure EpochOp where
  group : Fin 256
  fn : EpochFn
  /-- Domain scope (R338). -/
  domain : Bool
  epoch : Nat
  /-- ARG or SNAP_ID, and COMMIT_ID. -/
  arg : Nat
  commitId : BitVec 32
  /-- Accepted commands of this node that it completes (R350 step 8). -/
  ports : List Port
  /-- The proposal has come from the apex, and the local tick at which it did (R350 step 2). -/
  spread : Bool
  since : Nat
  /-- Slots whose ARM word with STATUS 0 came; a slot refused (R351). -/
  armed : Nat
  refused : Bool
  /-- This member armed (R350 step 3), and the arm reduce started (step 4). -/
  selfArmed : Bool
  reduceStarted : Bool
  /-- Arm reports of the children: port, armed, request (R353). -/
  kids : List (Nat × Bool × Nat)
  /-- DECIDE: go, and the step to apply (R350 step 5). -/
  decided : Option (Bool × Nat)
  /-- Issued under an emergency throttle (R30, R359). -/
  throttle : Bool
  deriving DecidableEq, Repr

/-- A kept snapshot (R354). -/
structure Snapshot where
  id : Nat
  group : Nat
  step : Nat
  epoch : Nat
  slots : List Nat
  counters : List (Nat × Nat)
  deriving DecidableEq, Repr

/-- A decided EXPEL that waits for its epoch (R356). -/
structure ExpelDue where
  group : Fin 256
  /-- Node address of the node that has the slots (R315). -/
  node : BitVec 32
  slots : BitVec 8
  epoch : Nat
  deriving DecidableEq, Repr

/-- The emergency throttle (R29 to R31, R358 to R360). -/
structure ThrotSt where
  /-- Slots whose SLT_n_THROT_N is asserted. -/
  mask : BitVec 8
  since : Nat
  /-- Groups whose step change is awaited, with the epoch of a CADENCE_AT or none for the next boundary. -/
  awaits : List (Nat × Option Nat)
  lastRelease : Option Nat
  /-- An emergency is held back until the interval of R360 ends. -/
  back : Bool
  deriving DecidableEq, Repr

structure GopSt where
  groups : List (Fin 256 × GroupSt)
  lanes : List LaneOp
  epochs : List EpochOp
  expels : List ExpelDue
  /-- Up to four snapshots, oldest first (R354). -/
  snaps : List Snapshot
  throt : ThrotSt
  /-- D(domain) in ns, and the children's domain records (R338). -/
  domain : Option Nat
  domainKids : List (Nat × Reach)
  /-- OP-cell messages half received: port and words so far (R349). -/
  rx : List (Fin 18 × List OpPayload)
  deriving DecidableEq, Repr

/-! ### The check engine (R395 to R421) -/

/-- AREA_STATE (R398). -/
inductive AreaState
  | free | sealed | checking | done
  deriving DecidableEq, Repr

/-- The result of a check, with what the result log adds (R412, R421). -/
structure CheckRes where
  outcome : Nat
  reason : Nat
  flags : Nat
  seqEcho : Nat
  firstEntry : Nat
  firstDiff : Nat
  diffCount : Nat
  scaleDiff : Nat
  refCode : Nat
  dxCode : Nat
  badDesc : Nat
  badBlock : Nat
  sealTick : Nat
  doneTick : Nat
  seq : Nat
  step : Nat
  tile : Nat
  layer : Nat
  core : Nat
  hbm : Nat
  slot : Nat
  area : Nat
  /-- The record passed step 1 of R409 (R414). -/
  formed : Bool
  deriving DecidableEq, Repr

/-- One record area. -/
structure AreaSt where
  st : AreaState
  /-- SEAL_TICK, and the order of seals at one tick (R409). -/
  sealTick : Nat
  /-- A layer-map commit took effect since the seal (R413). -/
  mapChanged : Bool
  /-- The outcome of the check that runs, written when it ends (R402). -/
  res : Option CheckRes
  deriving DecidableEq, Repr

/-- Check-engine state (R419), apart from a pause. -/
inductive EngState
  | stopped | starting | running
  deriving DecidableEq, Repr

/-- The session a pause or a hold belongs to (R420, R447). -/
inductive Owner
  | host | sideband
  deriving DecidableEq, Repr

structure ChkSt where
  /-- BAR 4 contents: record areas and notebooks (R78). -/
  bar4 : Mem
  areas : Vector AreaSt 64
  eng : EngState
  /-- Sessions whose pause is in force (R420). -/
  paused : List Owner
  /-- Results whose log entries and hand-over wait for U2 (R417). -/
  owed : List CheckRes
  /-- Frames with no record waiting (R66). -/
  idle : Nat
  nextSeq : Nat
  /-- Result log, oldest first, at most 4,096 (R421). -/
  log : List CheckRes
  /-- Tile operations, golden bytes and record bytes in this second and in the last (R419). -/
  opsNow : Nat
  goldenNow : Nat
  recordNow : Nat
  opsLast : Nat
  goldenLast : Nat
  recordLast : Nat
  /-- Loaded microcode version and the classes it defines (R419, R544). -/
  ucode : Option (Nat × BitVec 128)
  deriving DecidableEq, Repr

/-! ### The Basin (R422 to R449) -/

inductive BasinAwake
  | selfRefresh | waking | awake
  deriving DecidableEq, Repr

/-- A layer's seal (R439). -/
inductive SealSt
  /-- SEALING; it was SEALED when BASIN_SEAL was accepted. -/
  | sealing (was : Bool)
  | sealed (digest : Bytes)
  deriving DecidableEq, Repr

/-- A running BASIN_SEAL or BASIN_VERIFY: what each layer ended with (R441, R449). -/
structure SealJob where
  port : Port
  /-- Its command ended ABANDONED; the engine finishes, and no reply goes out (R446). -/
  lost : Bool
  verify : Bool
  first : Nat
  count : Nat
  /-- Expected digests when COMPARE is set. -/
  expect : Option (List Bytes)
  /-- Layers done: number, digest, status, bad tensor, bad block. -/
  done : List (Nat × Bytes × Nat × Nat × Nat)
  deriving DecidableEq, Repr

structure BasinSt where
  /-- The data of both tiers at their BAR 2 offsets (R422). -/
  mem : Mem
  hbmUsable : Bool
  dimmUsable : Bool
  /-- Capacities in bytes of the two DIMMs, 0 for none (R423). -/
  dimm0 : Nat
  dimm1 : Nat
  awake : BasinAwake
  /-- Frames without traffic (R67). -/
  idle : Nat
  /-- Traffic in this frame. -/
  traffic : Bool
  /-- Sessions that hold the Basin awake (R447). -/
  holds : List Owner
  /-- Poisoned lines in rising order (R429, R431). -/
  poison : List Nat
  poisonFull : Bool
  /-- Corrections of each line in the scrub pass in progress (R428). -/
  corr : List (Nat × Nat)
  scrubOff : Nat
  scrubDone : Nat
  scrubPasses : Nat
  /-- Tick from which the scrub's schedule counts: when the HBM4 tier became usable (R433). -/
  scrubFrom : Nat
  /-- The scrub is 1 h behind and catches up (R433). -/
  catchUp : Bool
  /-- Layers that are not UNSEALED (R439). -/
  seals : List (Nat × SealSt)
  jobs : List SealJob
  /-- The staging region is closed (R443). -/
  stagingClosed : Bool
  deriving DecidableEq, Repr

/-! ### Integrity policy (R450 to R484) -/

/-- State of a unit (R467). -/
inductive UnitState
  | clean | transient | permanent | fenced
  deriving DecidableEq, Repr

/-- History of a unit (R466 to R469). -/
structure UnitSt where
  st : UnitState
  samples : Nat
  mismatches : Nat
  /-- Ordinals of the last three mismatches, newest first. -/
  mmOrd : List Nat
  lullFails : Nat
  deviations : Nat
  remapped : Bool
  /-- Sample ordinal at which the unit became TRANSIENT (R467). -/
  entered : Nat
  /-- Changed since its last ledger write; tick, JSEQ and real-time clock of that write (R468, R469). -/
  dirty : Bool
  wrote : Nat
  jseq : Nat
  rtc : Nat
  deriving DecidableEq, Repr

/-- What an item of evidence says (R450). -/
inductive EvKind
  | sample | mismatch | lullFail
  deriving DecidableEq, Repr

/-- An item of evidence that waits for classification (R452). -/
structure Evidence where
  slot : Fin 8
  key : UnitKey
  kind : EvKind
  /-- A failed retest: the core becomes PERMANENT (R463). -/
  retest : Bool
  deriving DecidableEq, Repr

/-- A sampling plan (R453). -/
structure Plan where
  enable : Bool
  rateN : Nat
  seed : BitVec 64
  defaultW : Nat
  lo : Nat
  hi : Nat
  deriving DecidableEq, Repr

/-- Lull-test state of a slot (R483). -/
inductive LullState
  | idle | ordered | running | awaiting | retestOwed
  deriving DecidableEq, Repr

structure LullSt where
  st : LullState
  /-- The order has gone out to the DX (R461). -/
  sent : Bool
  core : Nat
  test : Nat
  /-- Order number, absolute step of the ordered Lull, and schedule times at which it begins and ends, in ticks at step 0 (R508). -/
  order : Nat
  step : Nat
  begins : Nat
  ends : Nat
  /-- Frame in which the Lull ended (R462). -/
  endFrame : Nat
  /-- The test ordered is a retest (R463). -/
  isRetest : Bool
  /-- Retests owed, oldest first: core and test (R463). -/
  owed : List (Nat × Nat)
  /-- Round robin over cores, and over the pack's tests (R460). -/
  rrCore : Nat
  rrTest : Nat
  orders : Nat
  passes : Nat
  fails : Nat
  void : Nat
  lastTick : Nat
  /-- Ticks of the orders of the last second (R460). -/
  recent : List Nat
  deriving DecidableEq, Repr

/-- A selected tile that is expected (R456). -/
structure Expected where
  layer : Nat
  tile : Nat
  step : Nat
  /-- The frame in which its step ends. -/
  frame : Nat
  missing : Bool
  deriving DecidableEq, Repr

/-- What the policy keeps for a slot. -/
structure IntSlot where
  /-- Margin ladder (R471); the boundary at which a step is due, and the unit whose item calls for it. -/
  ladder : Nat
  stepDue : Option (Nat × UnitKey)
  /-- Units charged while an action ran, whose own action is still owed, oldest first (R480, R615). -/
  items : List UnitKey
  /-- Local tick since which no mismatch or Lull failure was charged (R474). -/
  quiet : Nat
  /-- Ticks of deviations not yet charged; deviations since Full (R451, R482). -/
  devs : List Nat
  devCount : Nat
  selected : Nat
  missing : Nat
  /-- Selected tiles, newest first: at least the last 4,096, and those still awaited (R456, R458). -/
  recent : List Expected
  /-- A shortfall is counted and lasts (R458). -/
  short : Bool
  /-- Fence orders not yet sent: a stack, and its index (R472). -/
  fences : List (Bool × Nat)
  lull : LullSt
  deriving DecidableEq, Repr

/-- An entry of the vote log (R484). -/
structure VoteRec where
  seq : Nat
  tick : Nat
  group : Nat
  opSeq : Nat
  outcome : Nat
  flags : Nat
  layer : Nat
  agree : Nat
  dissent : Nat
  missing : Nat
  digest : Bytes
  deriving DecidableEq, Repr

/-- A fabric pack being received (R465). -/
structure PackRx where
  /-- Chunks held, in rising order, and the number of the last one once known. -/
  chunks : List (Nat × Bytes)
  last : Option Nat
  tick : Nat
  /-- Every chunk is held and the signature is checked; it waits for a session to end (R569). -/
  waiting : Bool
  deriving DecidableEq, Repr

structure IntSt where
  units : List (UnitKey × UnitSt)
  queue : List Evidence
  slots : Vector IntSlot 8
  /-- Plans of each group with the instants they took effect at, newest first (R414). -/
  plans : List (Nat × Nat × Plan)
  votes : List VoteRec
  nextVote : Nat
  /-- Tick at which a vote last covered a layer of a group, or the layer was last counted as overdue; under 256, tick at which the layer was
  mapped (R478). -/
  lastVote : List ((Nat × Nat) × Nat)
  rx : Option PackRx
  /-- Journal sequence number, and the flash offset of the next entry (R469). -/
  jseq : Nat
  head : Nat
  compacting : Bool
  deriving DecidableEq, Repr

/-! ### Accelerator slots (R485 to R515) -/

/-- Slot states (R489). -/
inductive SlotState
  | absent | off | powering | held | running | quarantined | failed
  deriving DecidableEq, Repr

/-- One slot. -/
structure SlotSt where
  st : SlotState
  /-- CAUSE of R514. -/
  cause : Nat
  /-- Power request and BOOT code, in a backup register (R494). -/
  request : Bool
  boot : BitVec 2
  present : Bool
  /-- SLT_n_RST_N asserted; BOOT driven (R486). -/
  rst : Bool
  /-- Local tick of the reset's release after HELD, and of a pulse's end (R486). -/
  releaseAt : Option Nat
  pulseEnd : Option Nat
  /-- Tick at which the reset was last released (R490, R493). -/
  releasedAt : Option Nat
  identNext : Option Nat
  identified : Bool
  serial : Nat
  /-- Serial number last identified in the slot (R493). -/
  lastSerial : Nat
  fwVer : Nat
  alert : Bool
  alertCode : Nat
  expelled : Bool
  /-- Rails that caused a quarantine with cause 1 (R492). -/
  badRails : List Nat
  stateTick : Nat
  /-- The FRAME word carries HOLD for the slot's group; SLOT_RUN waits for this boundary of the mirror's time (R515). -/
  runAt : Option Nat
  /-- Dynamic address acknowledged; message sequence number (R495, R496). -/
  addressed : Bool
  msgSeq : Nat
  /-- Pack delivered or under way: identifier and next offset; complete (R500). -/
  pack : Option (Nat × Nat)
  packDone : Bool
  /-- VOUT_MODE and base VOUT_COMMAND of the core rail (R503). -/
  base : Option (Nat × Nat)
  /-- GEN of the notebook is non-zero and its check passed (R505). -/
  nbValid : Bool
  /-- Frames run, as stretches: first frame, frame after the last, step (R507). -/
  runs : List (Nat × Nat × Nat)
  /-- Deviation streak, and F and P_meas of the last frame in mW (R502, R514). -/
  streak : Nat
  forecast : Option Nat
  measured : Option Nat
  /-- PLAN_GEN of the plan last written to page 7 (R511). -/
  planGen : Nat
  /-- A PLAN message is due, with its instant (R455). -/
  planDue : Option Nat
  /-- Vote announcements seen in page 6 that serve: SEQ, layer, frame (R476, R510). -/
  announced : List (Nat × Nat × Nat)
  deriving DecidableEq, Repr

/-! ### Boot, firmware and update (R516 to R585) -/

/-- State of an owner key slot (R526). -/
inductive KeyState
  | blank | active | revoked
  deriving DecidableEq, Repr

structure KeySlot where
  st : KeyState
  hash : Bytes
  deriving DecidableEq, Repr

/-- One firmware core: K0, K1, U0 to U5 (R539 to R542, R593, R595). -/
structure CoreSt where
  /-- Released and out of reset. -/
  run : Bool
  /-- Its protection map is set and locked, and its sections passed their CRC check (R540). -/
  mapLocked : Bool
  sectionsOk : Bool
  /-- Held in reset after a failed text check or a third watchdog fire (R542, R595). -/
  stopped : Bool
  /-- SRAM, as the sections place it (R524). -/
  sram : Mem
  /-- Sections: kind, load address, length, CRC (R524). -/
  sections : List (Nat × Nat × Nat × Nat)
  /-- Watchdog: timeout in ms, set once, 0xA5 written, tick of the last service, fires since power-on, ticks of fires (R593 to R595). -/
  wdMs : Nat
  wdSet : Bool
  wdArmed : Bool
  wdTick : Nat
  wdFires : Nat
  wdRecent : List Nat
  deriving DecidableEq, Repr

/-- RCV_STATUS STATE (R537). -/
inductive RcvState
  | waiting | copying | copied | checking | booting | refusedHeader | refusedCheck
  deriving DecidableEq, Repr

structure BootSt where
  /-- The flash; an unlisted byte is 0xFF, erased (R518). -/
  flash : Mem
  /-- Regions released for writing at step 8 of R57 (R534). -/
  released : Bool
  /-- Key slots in one-time-programmable memory (R526). -/
  keys : Vector KeySlot 4
  cores : Vector CoreSt 8
  /-- Reset of K1 and U0 to U5 by CORE_RELEASE (R539). -/
  romLock : Bool
  k0MapLock : Bool
  /-- Bank booted: 0 or 1; none after a recovery boot (R536, R556). -/
  bank : Option Nat
  recovery : Bool
  /-- Recovery registers and buffers (R537): 32 KiB at BAR 0 offset 0x1000, and the 1 MiB boot buffer. -/
  rcvOffset : Nat
  rcvLen : Nat
  rcv : RcvState
  rcvBuf : Mem
  bootBuf : Mem
  /-- Bytes of the image in the boot buffer. -/
  bootLen : Nat
  /-- Versions of the running keeper and upper images (R522); HO_OWN and COMPAT of each. -/
  keeperVer : Nat
  keeperCompat : Bytes
  upper : Option Nat
  upperCompat : Bytes
  upperHo : Nat
  ucodeCompat : Bytes
  /-- Measurements 1 to 6 (R130, R553). -/
  meas : Vector Bytes 6
  /-- Attempt number of the running bank, 0 when confirmed (R530, R556). -/
  trial : Nat
  /-- Tick from which the 10 s of R531 count. -/
  confirmFrom : Nat
  /-- FLAGS of R556: Staging copied, a candidate skipped, and bank states that failed their image check. -/
  stagingCopied : Bool
  skipped : Bool
  imageBad : BitVec 2
  /-- Failure record of an earlier ROM pass (R532, R602). -/
  failRec : Option Bytes
  /-- Settings: the bank that was read, and t_BE in ms and t_PP in µs (R562). -/
  tBe : Nat
  tPp : Nat
  deriving DecidableEq, Repr

/-- An update session (R557). -/
structure UpdSession where
  owner : Port
  id : Nat
  component : Nat
  flags : Nat
  total : Nat
  next : Nat
  /-- First data block of the pack store for component 4 (R569). -/
  place : Nat
  checking : Bool
  /-- Served by U4: it ends when Full is left (R558). -/
  full : Bool
  deriving DecidableEq, Repr

/-- A scheduled live handover (R573 to R579). -/
structure Handover where
  port : Port
  length : Nat
  /-- HO_FRAME on the local tick counter. -/
  frame : Nat
  fromVer : Nat
  deriving DecidableEq, Repr

structure UpdSt where
  session : Option UpdSession
  nextId : Nat
  lastReason : Nat
  /-- LIVE microcode loaded (R583). -/
  live : Bool
  /-- A LIVE load waits for running checks (R565). -/
  liveDue : Bool
  handover : Option Handover
  /-- The handover block, 256 KiB (R577). -/
  block : Mem
  /-- Packs last judged dormant (R572). -/
  dormant : List Nat
  deriving DecidableEq, Repr

/-! ### Reset and retained state (R586 to R605) -/

structure RstSt where
  /-- RESET_CAUSE bits 15:0 and OPT_RESTART (R599). -/
  cause : BitVec 16
  last : Nat
  stretched : Bool
  vbatLost : Bool
  optRestart : Bool
  /-- A system reset waits for the down-sequence: when it began (R592). -/
  stretch : Option Nat
  stretchUs : Nat
  /-- Tick at which TMC_RST_N began to be driven low (R591). -/
  rstSince : Nat
  /-- End of the keeper escalation window (R594). -/
  window : Option Nat
  /-- RESET_TICK of a pending RESET_REQUEST (R604). -/
  reqTick : Option Nat
  /-- VBAT domain: real-time clock in seconds and microseconds of the second, alarm, valid, reset counter (R600). -/
  rtcSec : Nat
  rtcUs : Nat
  alarm : Nat
  rtcValid : Bool
  resetCount : BitVec 16
  /-- Backup registers BKP_0 to BKP_15 (R601). -/
  bkp : Vector (BitVec 32) 16
  /-- Core-reset records of retained SRAM, newest last, at most 16: core, cause bit, tick, pc, address, timeout (R602). -/
  records : List (Nat × Nat × Nat × Nat × Nat × Nat)
  /-- Local tick counter and real-time clock in µs when Calm was entered (R63). -/
  calmLt : Nat
  calmRtc : Nat
  deriving DecidableEq, Repr

/-! ### Counters, log ring and what the block sends (R547 to R550, R606 to R617) -/

/-- A log-ring entry (R548). -/
structure LogEntry where
  tick : Nat
  tag : BitVec 16
  arg0 : BitVec 32
  arg1 : BitVec 32
  deriving DecidableEq, Repr

structure CtrSt where
  /-- Counters that are not 0 (R606). -/
  vals : List (Nat × Nat)
  /-- CHG_SUMMARY, 256 bits (R89). -/
  summary : BitVec 256
  /-- Log ring, oldest first, at most 16,384 entries, and the number of the next one (R547). -/
  log : List LogEntry
  nextLog : Nat
  /-- Trace records admitted in this frame (R550). -/
  trace : Nat
  deriving DecidableEq, Repr

/-- Something the block sends. -/
inductive Msg
  /-- MSI-X vector (R100). -/
  | msix (vec : Nat)
  /-- Sideband MCTP message: type and body (R121). -/
  | mctp (type : Byte) (body : Bytes)
  /-- I3C sideband: a transfer is refused, or raw recovery data (R54, R538). -/
  | i3cNack
  | i3cData (bytes : Bytes)
  /-- Code-lane word: slot, TYPE, PAYLOAD (R296). -/
  | lane (slot : Nat) (type : Nat) (payload : BitVec 72)
  /-- Link cell: port, TYPE, SEQ, PAYLOAD (R303). -/
  | cell (port : Nat) (type : Nat) (seq : BitVec 8) (payload : BitVec 100)
  /-- Slot I3C message: slot, whole message (R496), or SETDASA. -/
  | slotI3c (slot : Nat) (bytes : Bytes)
  | setdasa (slot : Nat) (addr : Nat)
  /-- PMBus write: master, address, page, command, data (R214). -/
  | pmbus (master addr page cmd : Nat) (data : Bytes)
  /-- SEQ bus word and its CRC-8 (R242). -/
  | seq (word : BitVec 16) (crc : Byte)
  /-- Posted PCIe write, and a confirming read (R444). -/
  | pcieWrite (addr : Nat) (data : Bytes)
  | pcieRead (addr len : Nat)
  deriving DecidableEq, Repr

/-- The state of the block. Beside what the spec names: `free` counts the free values drawn, `out` is
what the block has sent since the state given as a start, oldest first, and `pending` is the queue of waiting commands. -/
structure State where
  dev : DevSt
  bus : BusSt
  wins : Vector Window 8
  sess : SessSt
  cfg : CfgSt
  weir : WeirSt
  casc : CascSt
  cool : CoolSt
  cad : CadSt
  gop : GopSt
  chk : ChkSt
  basin : BasinSt
  integ : IntSt
  slots : Vector SlotSt 8
  boot : BootSt
  upd : UpdSt
  rst : RstSt
  ctr : CtrSt
  out : List Msg
  free : Nat
  pending : List Instr
  deriving DecidableEq, Repr

/-- A fault of the block: there is none. No command stops it; what the spec drops, refuses or counts is a next state. -/
inductive Fault
  deriving DecidableEq, Repr

/-- Why a command has no meaning. -/
inductive Refusal
  /-- Raised by an arm of `exec` whose command has no meaning yet; safe, since nothing follows from it. -/
  | notModelled (mnemonic : String)
  deriving DecidableEq, Repr

namespace State

/-! ### The machine right after the first power-on reset (R13, R50, R587) -/

/-- A window after reset (R91); `n` is its number. -/
def resetWin (n : Fin 8) : Window :=
  { opcode := 0, tag := 0, plen := 0, state := .idle, code := .ok, rlen := 0, acc := 0, bound := 0, done := 0,
    vec := BitVec.ofNat 5 n.1, vecEn := false, data := [], orphan := false, notice := false }

/-- The MSI-X table after reset: every vector masked, as the PCIe Base Specification has it (PRESUMED, log 9). -/
def resetMsix : Mem := (List.range 32).map (fun v => (16 * v + 12, 1))

def resetFeed : FeedSt :=
  { st := .off, trip := .none, retries := 0, latched := false, cooldown := 0, minOff := 0, inWin := false,
    inSince := 0, settled := false, soa := 0, limit := 0, fast := 0, inLimit := false, faultStart := none, rampStart := 0,
    rampMs := 0, onSince := 0, lastTrip := none, wasOn := false, offCmd := false, lost := false, vin := 0,
    vout := 0, i := 0, avgVout := none }

def resetRail : RailSt :=
  { phase := .off, mark := .none, stuck := false, ena := false, dsc := false, pmbus := false, early := false,
    rose := false, pg := false, discharged := true, margin := 0, iout := none, mv := 0, evTick := 0 }

def resetChan : ChanSt :=
  { reading := 0, bad := 0, good := 0, failed := false, warn := false, warnCnt := 0, tripped := false, tripCnt := 0,
    latched := false, holdSince := none, waiting := none, feedsOn := 0, restarts := [], hist := [], gust := none }

def resetOut : OutSt :=
  { drive := .unused, attempts := 0, attemptStart := 0, pause := false, late := false, duty := 0, rpm := 0, slow := false }

def resetZone : ZoneSt := { tHeld := none, demand := 0, gust := none, takeover := false }

def resetPort : PortSt :=
  { st := .unused, peerPath := 0, identRun := 0, tickHi := 0, n := 0, sum := 0, delay := 0,
    upDelay := none, err := 0, missed := 0, badNow := 0, badLast := 0, rxPower := 0, rxSeq := none, txSeq := 0,
    slots := 0, adoptRx := false, adopted := false }

def resetCad : CadSt :=
  { st := .alone, offset := 0, stepped := false, stepOwed := false, rootHeld := false, active := 0,
    groupsHeld := false, slewEnd := none, adoptTx := false, adopt := .idle, holdStart := 0, e0 := 0,
    lastOffset := 0, ratePpb := 0, inRow := 0, stampAt := 0, carry := 0, step := none, lastStep := 0,
    silentUntil := none, ports := Vec.tab 18 (fun _ => resetPort), laneBad := Vec.tab 8 (fun _ => 0) }

def resetThrot : ThrotSt := { mask := 0, since := 0, awaits := [], lastRelease := none, back := false }

def resetGop : GopSt :=
  { groups := [], lanes := [], epochs := [], expels := [], snaps := [], throt := resetThrot, domain := none,
    domainKids := [], rx := [] }

def resetArea : AreaSt := { st := .free, sealTick := 0, mapChanged := false, res := none }

def resetChk : ChkSt :=
  { bar4 := [], areas := Vec.tab 64 (fun _ => resetArea), eng := .stopped, paused := [], owed := [], idle := 0, nextSeq := 0,
    log := [], opsNow := 0, goldenNow := 0, recordNow := 0, opsLast := 0, goldenLast := 0, recordLast := 0,
    ucode := none }

def resetBasin : BasinSt :=
  { mem := [], hbmUsable := false, dimmUsable := false, dimm0 := 0, dimm1 := 0, awake := .selfRefresh, idle := 0,
    traffic := false, holds := [], poison := [], poisonFull := false, corr := [], scrubOff := 0, scrubDone := 0,
    scrubPasses := 0, scrubFrom := 0, catchUp := false, seals := [], jobs := [], stagingClosed := false }

def resetLull : LullSt :=
  { st := .idle, sent := false, core := 0, test := 0, order := 0, step := 0, begins := 0, ends := 0, endFrame := 0, isRetest := false, owed := [],
    rrCore := 0, rrTest := 0, orders := 0, passes := 0, fails := 0, void := 0, lastTick := 0, recent := [] }

def resetIntSlot : IntSlot :=
  { ladder := 0, stepDue := none, items := [], quiet := 0, devs := [], devCount := 0, selected := 0, missing := 0, recent := [],
    short := false, fences := [], lull := resetLull }

def resetInt : IntSt :=
  { units := [], queue := [], slots := Vec.tab 8 (fun _ => resetIntSlot), plans := [], votes := [], nextVote := 0,
    lastVote := [], rx := none, jseq := 1, head := 0, compacting := false }

def resetSlot : SlotSt :=
  { st := .absent, cause := 0, request := false, boot := 0, present := false, rst := true, releaseAt := none,
    pulseEnd := none, releasedAt := none, identNext := none, identified := false, serial := 0, lastSerial := 0,
    fwVer := 0, alert := false, alertCode := 0, expelled := false, badRails := [], stateTick := 0, runAt := none,
    addressed := false, msgSeq := 0, pack := none, packDone := false, base := none, nbValid := false,
    runs := [], streak := 0, forecast := none, measured := none, planGen := 0, planDue := none, announced := [] }

def resetCore : CoreSt :=
  { run := false, mapLocked := false, sectionsOk := false, stopped := false, sram := [], sections := [],
    wdMs := 256, wdSet := false, wdArmed := false, wdTick := 0, wdFires := 0, wdRecent := [] }

/-- Key slots as the factory leaves them (R526); the hash of Skeile's release key is a constant of Config. -/
def resetKey (i : Fin 4) : KeySlot :=
  if i.1 = 0 then { st := .active, hash := Config.releaseKeyHash } else { st := .blank, hash := zeros 32 }

def resetBoot : BootSt :=
  { flash := [], released := false, keys := Vec.tab 4 resetKey, cores := Vec.tab 8 (fun _ => resetCore),
    romLock := false, k0MapLock := false, bank := none, recovery := false, rcvOffset := 0, rcvLen := 0,
    rcv := .waiting, rcvBuf := [], bootBuf := [], bootLen := 0, keeperVer := 0, keeperCompat := [], upper := none,
    upperCompat := [], upperHo := 0, ucodeCompat := [], meas := Vec.tab 6 (fun _ => zeros 32), trial := 0,
    confirmFrom := 0, stagingCopied := false, skipped := false, imageBad := 0, failRec := none, tBe := 0, tPp := 0 }

def resetSlave : SlaveSt := { st := 0, stage := 0, bits := 0, missed := 0, seen := false, lost := false }

def reset : State :=
  { dev :=
      { st := .calm, phase := .optionLoading, bootSrc := 0, clkMode := 0,
        opt := { siRev := 0, static := 0, pmbusFast := false }, rstLow := true, clkDegraded := false, armed := false,
        plls := Vec.tab 5 (fun _ => .stopped), wake := false, lt := 0, frame := 0 },
    bus :=
      { perst := true, link := false, lanes := 16, gts := 64, mse := false, bme := false, msixEn := false, msixMask := false,
        msixTable := resetMsix, pba := 0, featuresChanged := false, ctHi := 0, ctSub := 0, ltHi := 0, rd := [],
        rdPoison := false, held := [] },
    wins := Vec.tab 8 resetWin,
    sess :=
      { host := none, sideband := none, nextId := 0, expiry := 0, absent := false, fanHold := none,
        i3cAddr := none, eid := 0, spdmVersion := false, spdmAlgs := false, spdmA := [], spdmB := [], spdmL := [] },
    cfg := { eff := [], later := [], draft := none, nextDraft := 1, commit := none, live := [], save := none, loaded := false },
    weir :=
      { feeds := Vec.tab 2 (fun _ => resetFeed), holdup := none, shutdown := none, heldLeak := false,
        heldTrip := false, winTick := 0, pMw := 0, overRun := 0, underRun := 0, budgetStep := 0,
        budgetApplied := 0, vbatLost := false, onTick := 0, offTick := 0 },
    casc :=
      { st := .allOff, stage := 0, tray := none, slotSeq := Vec.tab 8 (fun _ => none),
        rails := Vec.tab 64 (fun _ => resetRail), decided := 0, included := 0, casIn := false, casInSince := 0,
        casOut := false, downStart := 0, upDone := 0, downDone := 0, upRx := false, busRx := false, rxTick := 0,
        silent := false, slaves := Vec.tab 8 (fun _ => resetSlave), pollNext := 0, txCount := 0, txUp := false,
        txDown := false, busSent := false },
    cool :=
      { chans := Vec.tab 28 (fun _ => resetChan), outs := Vec.tab 20 (fun _ => resetOut),
        zones := Vec.tab 4 (fun _ => resetZone), flows := Vec.tab 4 (fun _ => { flow := 0, low := false }),
        ropes := Vec.tab 8 (fun _ => { st := .dry, wet := false, kohm := 65535 }), fullHold := false,
        applied := false, leak := false, leakPumps := false, ceilStep := 0, ceilApplied := 0, overStart := none, underStart := none, returnStart := none, released := false,
        lastGust := none, evalTick := 0 },
    cad := resetCad, gop := resetGop, chk := resetChk, basin := resetBasin, integ := resetInt,
    slots := Vec.tab 8 (fun _ => resetSlot), boot := resetBoot,
    upd := { session := none, nextId := 1, lastReason := 0, live := false, liveDue := false, handover := none,
             block := [], dormant := [] },
    rst :=
      { cause := 1, last := 0, stretched := false, vbatLost := false, optRestart := false, stretch := none,
        stretchUs := 0, rstSince := 0, window := none, reqTick := none, rtcSec := 0, rtcUs := 0, alarm := 0,
        rtcValid := false, resetCount := 0, bkp := Vec.tab 16 (fun _ => 0), records := [], calmLt := 0, calmRtc := 0 },
    ctr :=
      { vals := [(0x0830, 1)], summary := 1#256 <<< 0x83,
        log := [{ tick := 0, tag := 0xA40B, arg0 := 0x0830, arg1 := 1 }], nextLog := 1, trace := 0 },
    out := [], free := 0, pending := [] }

end State

end Sys2Proof.Machine
end

