-- ==== Sys2Proof/Machine/Crypto.lean ====
section
/-!
DEFINITION. SHA-256 (FIPS 180-4) and the RSASSA-PSS verification of RFC 8017, as R523 uses them.
-/

namespace Sys2Proof.Machine

/-! ### SHA-256, on numbers below 2^32 -/

namespace Sha

def w32 (n : Nat) : Nat := n % 4294967296
/-- Rotation to the right. -/
def rotr (x n : Nat) : Nat := w32 ((x >>> n) ||| (x <<< (32 - n)))
def inv (x : Nat) : Nat := 4294967295 ^^^ x

/-- The 64 round constants. -/
def k : List Nat :=
  [0x428a2f98, 0x71374491, 0xb5c0fbcf, 0xe9b5dba5, 0x3956c25b, 0x59f111f1, 0x923f82a4, 0xab1c5ed5] ++
  [0xd807aa98, 0x12835b01, 0x243185be, 0x550c7dc3, 0x72be5d74, 0x80deb1fe, 0x9bdc06a7, 0xc19bf174] ++
  [0xe49b69c1, 0xefbe4786, 0xfc19dc6, 0x240ca1cc, 0x2de92c6f, 0x4a7484aa, 0x5cb0a9dc, 0x76f988da] ++
  [0x983e5152, 0xa831c66d, 0xb00327c8, 0xbf597fc7, 0xc6e00bf3, 0xd5a79147, 0x6ca6351, 0x14292967] ++
  [0x27b70a85, 0x2e1b2138, 0x4d2c6dfc, 0x53380d13, 0x650a7354, 0x766a0abb, 0x81c2c92e, 0x92722c85] ++
  [0xa2bfe8a1, 0xa81a664b, 0xc24b8b70, 0xc76c51a3, 0xd192e819, 0xd6990624, 0xf40e3585, 0x106aa070] ++
  [0x19a4c116, 0x1e376c08, 0x2748774c, 0x34b0bcb5, 0x391c0cb3, 0x4ed8aa4a, 0x5b9cca4f, 0x682e6ff3] ++
  [0x748f82ee, 0x78a5636f, 0x84c87814, 0x8cc70208, 0x90befffa, 0xa4506ceb, 0xbef9a3f7, 0xc67178f2]

/-- The initial hash value. -/
def h0 : List Nat := [0x6a09e667, 0xbb67ae85, 0x3c6ef372, 0xa54ff53a, 0x510e527f, 0x9b05688c, 0x1f83d9ab, 0x5be0cd19]

/-- A big-endian 32-bit word. -/
def word (a b c d : Byte) : Nat := a.toNat * 16777216 + b.toNat * 65536 + c.toNat * 256 + d.toNat
/-- The words of a byte string. -/
def words : Bytes → List Nat
  | a :: b :: c :: d :: l => word a b c d :: words l
  | _ => []

/-- The message schedule, newest word first, from the 16 words of a block. -/
def schedule (b : List Nat) : List Nat :=
  (List.range 48).foldl (fun w _ =>
    let x := w.getD 14 0
    let y := w.getD 1 0
    let s0 := rotr x 7 ^^^ rotr x 18 ^^^ (x >>> 3)
    let s1 := rotr y 17 ^^^ rotr y 19 ^^^ (y >>> 10)
    w32 (w.getD 15 0 + s0 + w.getD 6 0 + s1) :: w) b.reverse

/-- One round: constant plus schedule word into the eight working words. -/
def round (v : List Nat) (kw : Nat) : List Nat :=
  match v with
  | [a, b, c, d, e, f, g, h] =>
    let t1 := h + (rotr e 6 ^^^ rotr e 11 ^^^ rotr e 25) + ((e &&& f) ^^^ (inv e &&& g)) + kw
    let t2 := (rotr a 2 ^^^ rotr a 13 ^^^ rotr a 22) + ((a &&& b) ^^^ (a &&& c) ^^^ (b &&& c))
    [w32 (t1 + t2), a, b, c, w32 (d + t1), e, f, g]
  | _ => v

/-- One block. -/
def block (h b : List Nat) : List Nat :=
  let w := (schedule b).reverse
  List.zipWith (fun x y => w32 (x + y)) h ((List.zipWith (fun x y => x + y) k w).foldl round h)

/-- `n` blocks of 16 words. -/
def blocks : (n : Nat) → List Nat → List Nat → List Nat
  | 0, h, _ => h
  | n + 1, h, ws => blocks n (block h (ws.take 16)) (ws.drop 16)

end Sha

/-- `n` as `k` bytes, most significant first. -/
def natBE (k n : Nat) : Bytes := (natLE k n).reverse
/-- The number a big-endian byte string stands for. -/
def beNat (bs : Bytes) : Nat := leNat bs.reverse

/-- SHA-256 of a byte string. -/
def sha256 (m : Bytes) : Bytes :=
  let n := (m.length + 9 + 63) / 64
  let padded := m ++ [0x80] ++ zeros (64 * n - 9 - m.length) ++ natBE 8 (8 * m.length)
  (Sha.blocks n Sha.h0 (Sha.words padded)).flatMap (natBE 4)

/-! ### RSASSA-PSS (RFC 8017) -/

/-- MGF1 with SHA-256. -/
def mgf1 (seed : Bytes) (len : Nat) : Bytes :=
  ((List.range (ceilDiv len 32)).flatMap (fun i => sha256 (seed ++ natBE 4 i))).take len

/-- `x` to the power 65,537 modulo `n`. -/
def rsaPublic (x n : Nat) : Nat := Nat.repeat (fun y => y * y % n) 16 x * x % n

/-- Verification with RSA-3072, SHA-256, MGF1 with SHA-256, a salt of 32 bytes and exponent 65,537. -/
def pssVerify (key msg sig : Bytes) : Bool :=
  let n := beNat key
  let s := beNat sig
  let em := natBE 384 (rsaPublic s n)
  let h := em.part 351 32
  let db := List.zipWith (fun (a b : Byte) => a ^^^ b) (em.take 351) (mgf1 h 351)
  let salt := db.drop 319
  n.testBit 3071 && s < n && em.drop 383 = [0xBC] && (em.headD 0).toNat < 128 &&
    (db.headD 0).toNat % 128 = 0 && (db.take 318).tail.all (fun b => b = 0) && (db.drop 318).take 1 = [1] &&
    h = sha256 (zeros 8 ++ sha256 msg ++ salt)

end Sys2Proof.Machine
end

