-- ==== Sys2Proof/Machine/Crc.lean ====
section
/-!
DEFINITION. The two cyclic redundancy checks: CRC-32C over flash and notebook contents, and the CRC-8 of the SEQ bus and of
the slot messages (R242, R496).
-/

namespace Sys2Proof.Machine

/-- One bit of CRC-32C, reflected, polynomial 0x1EDC6F41. -/
def crc32cBit (c : Nat) : Nat := if c % 2 = 1 then (c / 2) ^^^ 0x82F63B78 else c / 2
/-- One byte of CRC-32C. -/
def crc32cByte (c : Nat) (b : Byte) : Nat := Nat.repeat crc32cBit 8 (c ^^^ b.toNat)
/-- CRC-32C: initial value and final XOR all ones. -/
def crc32c (bs : Bytes) : Nat := (bs.foldl crc32cByte 0xFFFFFFFF) ^^^ 0xFFFFFFFF

/-- One bit of the CRC-8 of R242: polynomial 0x07, most significant bit first. -/
def crc8Bit (c : Nat) : Nat := if c / 128 % 2 = 1 then (c * 2 % 256) ^^^ 7 else c * 2 % 256
/-- The CRC-8 of R242: initial value 0, no reflection, no final XOR. -/
def crc8 (bs : Bytes) : Nat := bs.foldl (fun c b => Nat.repeat crc8Bit 8 (c ^^^ b.toNat)) 0

end Sys2Proof.Machine
end

