-- ==== Sys2Proof/Machine/Fields.lean ====
section
/-!
DEFINITION. The fields of the Draft objects (R144): size, attribute, default and range of each, as the chapter
tables give them. A value is held as the little-endian number of its bytes.
-/

namespace Sys2Proof.Machine

/-- Attributes of configurable fields (R14). -/
inductive Attr
  | live | staged | stopped | held
  deriving DecidableEq, Repr

/-- Merged values, as a consistency check sees them. -/
abbrev View := Key → Nat

/-- One field of an object: its size, its attribute and default for an instance, and its range, which may
depend on the merged values (R146 rule 0x01). -/
structure Field where
  obj : Nat
  fld : Nat
  size : Nat
  attr : Nat → Attr
  dflt : Nat → Nat
  ok : View → Nat → Nat → Bool

/-- Number of instances of an object; 0 for no object (R144). -/
def objInstances : Nat → Nat
  | 0x10 => 1 | 0x11 => 2 | 0x20 => 64 | 0x21 => 16 | 0x30 => 4 | 0x31 => 28 | 0x32 => 8 | 0x33 => 1
  | 0x40 => 1 | 0x41 => 8 | 0x50 => 256 | 0x51 => 256 | 0x52 => 1 | 0x60 => 1 | 0x70 => 1 | 0x90 => 1 | _ => 0

/-- Objects that may not be staged in Keeper (R144). -/
def fullOnly (obj : Nat) : Bool := 0x40 ≤ obj && obj ≤ 0x60
/-- Objects saved in the store (R144). -/
def saved (obj : Nat) : Bool := objInstances obj ≠ 0 && obj ≠ 0x50 && obj ≠ 0x51 && obj ≠ 0x60
/-- Saved objects that take effect only with Full (R167). -/
def savedForFull (obj : Nat) : Bool := obj = 0x40 || obj = 0x41 || obj = 0x52

namespace Field

/-- A field with one default and one range. -/
def plain (obj fld size : Nat) (attr : Attr) (lo hi dflt : Nat) : Field :=
  { obj, fld, size, attr := fun _ => attr, dflt := fun _ => dflt, ok := fun _ _ v => decide (lo ≤ v ∧ v ≤ hi) }

/-- A field whose range depends on the merged values. -/
def cond (obj fld size : Nat) (attr : Attr) (dflt : Nat) (ok : View → Nat → Nat → Bool) : Field :=
  { obj, fld, size, attr := fun _ => attr, dflt := fun _ => dflt, ok }

/-- A field whose value is a row of bytes, each in a range. -/
def bytes (obj fld size : Nat) (attr : Attr) (dflt : Nat) (ok : Nat → Bool) : Field :=
  { obj, fld, size, attr := fun _ => attr, dflt := fun _ => dflt,
    ok := fun _ _ v => (natLE size v).all (fun b => ok b.toNat) }

/-- 0x10, power budget (R174). -/
def budget : List Field :=
  [ plain 0x10 1 2 .live 600 15000 15000, plain 0x10 2 1 .live 0 2 0, plain 0x10 3 2 .live 100 60000 500,
    plain 0x10 4 2 .live 100 50000 2000, plain 0x10 5 1 .live 1 64 4,
    cond 0x10 6 2 .live 200 (fun g i v => decide (1 ≤ v ∧ v ≤ 1000 ∧ 216 + 5 * g ⟨0x10, i, 5⟩ ≤ v * g ⟨0x10, i, 5⟩)),
    plain 0x10 7 2 .live 0 2000 200, plain 0x10 8 2 .live 50 2000 1700, plain 0x10 9 1 .live 0 1 1,
    plain 0x10 0xA 1 .live 64 128 80, plain 0x10 0xB 1 .stopped 0 1 1 ]

/-- 0x11, Weir limits (R175). Full scale in 0.1 A is 400,000 divided by SHUNT_UOHM (R171). -/
def weir : List Field :=
  [ plain 0x11 1 1 .stopped 0 1 1, plain 0x11 2 2 .stopped 100 2000 200,
    cond 0x11 3 2 .stopped 1500 (fun g i v => decide (10 ≤ v ∧ v ≤ 1500 ∧ v * g ⟨0x11, i, 2⟩ ≤ 360000)),
    cond 0x11 4 2 .live 1400 (fun g i v => decide (g ⟨0x11, i, 5⟩ < v ∧ v ≤ g ⟨0x11, i, 3⟩)),
    plain 0x11 5 2 .live 10 600 200,
    cond 0x11 6 2 .live 1800 (fun g i v => decide (11 * g ⟨0x11, i, 3⟩ ≤ 10 * v ∧ v * g ⟨0x11, i, 2⟩ ≤ 400000)),
    plain 0x11 7 2 .live 50 20000 2000, plain 0x11 8 2 .live 10 10000 2000, plain 0x11 9 2 .live 1 1000 100,
    plain 0x11 0xA 1 .live 1 60 10, plain 0x11 0xB 1 .live 0 3 3, plain 0x11 0xC 2 .live 300 500 380,
    plain 0x11 0xD 2 .live 550 720 620 ]

/-- The stage-0 rails of R220: nominal, divider, low code, high code. -/
def stage0 : List (Nat × Nat × Nat × Nat) :=
  [ (750, 256, 445, 492), (850, 256, 505, 558), (1050, 256, 623, 689), (700, 256, 416, 459),
    (1800, 512, 534, 591), (1100, 256, 653, 722), (1800, 512, 534, 591), (3300, 768, 653, 722) ]

def stage0At (i : Nat) : Nat × Nat × Nat × Nat := stage0.getD i (0, 256, 1, 1023)
def heldBelow8 (a : Attr) (i : Nat) : Attr := if i < 8 then .held else a

/-- 0x20, rail table (R216). -/
def rail : List Field :=
  [ { plain 0x20 1 1 .stopped 0 1 0 with attr := heldBelow8 .stopped, dflt := fun i => if i < 8 then 1 else 0 },
    { plain 0x20 2 1 .stopped 0 15 0 with attr := heldBelow8 .stopped },
    { plain 0x20 3 1 .stopped 0 3 0 with attr := heldBelow8 .stopped, dflt := fun i => if i < 8 then 1 else 0 },
    { cond 0x20 4 1 .stopped 0xFF (fun _ _ v => decide (v ≤ 47 ∨ v = 0xFF)) with
      attr := heldBelow8 .stopped, dflt := fun i => if i < 8 then i else 0xFF },
    cond 0x20 5 1 .stopped 0xFF (fun _ _ v => decide (v ≤ 15 ∨ v = 0xFF)),
    plain 0x20 6 2 .stopped 0 0x7FFF 0,
    { plain 0x20 7 1 .stopped 0 0xFF 0 with attr := heldBelow8 .stopped },
    { plain 0x20 8 2 .stopped 100 20000 0 with dflt := fun i => (stage0At i).1 },
    { plain 0x20 9 2 .stopped 256 8192 256 with dflt := fun i => (stage0At i).2.1 },
    { plain 0x20 0xA 2 .live 1 1022 1 with dflt := fun i => (stage0At i).2.2.1 },
    { plain 0x20 0xB 2 .live 2 1023 1023 with dflt := fun i => (stage0At i).2.2.2 },
    plain 0x20 0xC 1 .live 0 15 5, plain 0x20 0xD 1 .live 1 50 10, plain 0x20 0xE 2 .live 0 20000 0,
    plain 0x20 0xF 2 .live 0 20000 0, plain 0x20 0x10 1 .live 0 255 0 ]

/-- 0x21, stage table (R218). -/
def stage : List Field :=
  [ plain 0x21 1 1 .stopped 0 1 0, plain 0x21 2 1 .stopped 1 7 1,
    cond 0x21 3 1 .stopped 0 (fun _ _ v => decide (v ≤ 0xFE ∧ v % 2 = 0)), plain 0x21 4 1 .live 0 200 20,
    { plain 0x21 5 1 .stopped 0 1 0 with dflt := fun i => if i = 0 then 1 else 0 },
    plain 0x21 6 2 .live 0 65535 1000, plain 0x21 7 1 .live 1 250 20, plain 0x21 8 2 .live 0 65535 500,
    plain 0x21 9 2 .live 5 1000 50 ]

/-- A byte that stands for a signed number in a range. -/
def signedIn (lo hi : Int) (v : Nat) : Bool := decide (lo ≤ toSigned 8 v ∧ toSigned 8 v ≤ hi)

/-- 0x30, fan zones (R267). -/
def zone : List Field :=
  [ { plain 0x30 1 2 .live 0 0xFFFF 0 with dflt := fun i => if i = 0 then 0xFFFF else 0 },
    { plain 0x30 2 1 .live 0 0xF 0 with dflt := fun i => if i = 0 then 0xF else 0 },
    { plain 0x30 3 4 .live 0 0xFFFFFFF 0 with dflt := fun i => if i = 0 then 0xFFF else 0 },
    plain 0x30 4 1 .live 0 1 0, plain 0x30 5 1 .live 0 100 60,
    bytes 0x30 6 8 .live (leNat [30, 40, 50, 60, 70, 80, 90, 100]) (signedIn (-40) 149),
    bytes 0x30 7 8 .live (leNat [30, 35, 40, 50, 60, 75, 90, 100]) (fun b => decide (b ≤ 100)),
    plain 0x30 8 2 .live 100 20000 1000, plain 0x30 9 1 .live 0 100 60, plain 0x30 0xA 2 .live 100 20000 800,
    plain 0x30 0xB 2 .live 0 65535 0, plain 0x30 0xC 2 .live 0 65535 0, plain 0x30 0xD 1 .live 0 0xF 0 ]

/-- One of three defaults, for channels 0 to 7, 8 to 11 and 12 to 27. -/
def by3 (a b c i : Nat) : Nat := if i < 8 then a else if i < 12 then b else c

/-- Range of PARAM_A and PARAM_B by TYPE (R250). -/
def paramOk (b : Bool) (type v : Nat) : Bool :=
  match type, b with
  | 1, false => decide (1000 ≤ v ∧ v ≤ 100000)
  | 1, true => decide (2000 ≤ v ∧ v ≤ 5000)
  | 3, false => decide (-1000 ≤ toSigned 32 v ∧ toSigned 32 v ≤ 1636)
  | 3, true => decide ((-100000 ≤ toSigned 32 v ∧ toSigned 32 v ≤ -100) ∨ (100 ≤ toSigned 32 v ∧ toSigned 32 v ≤ 100000))
  | _, _ => true

/-- 0x31, thermal thresholds (R253). -/
def therm : List Field :=
  [ { obj := 0x31, fld := 1, size := 1, attr := fun i => if i < 12 then .held else .staged,
      dflt := by3 6 7 0, ok := fun _ i v => if i < 12 then decide (v = by3 6 7 0 i) else decide (v ≤ 5) },
    cond 0x31 2 4 .staged 0 (fun g i v => paramOk false (g ⟨0x31, i, 1⟩) v),
    cond 0x31 3 4 .staged 0 (fun g i v => paramOk true (g ⟨0x31, i, 1⟩) v),
    plain 0x31 4 2 .staged 9500 10500 10080,
    { plain 0x31 5 1 .live 0 8 8 with attr := fun i => if i < 12 then .held else .live,
                                      dflt := fun i => if i < 8 then i else 8 },
    { obj := 0x31, fld := 6, size := 1, attr := fun _ => .live, dflt := by3 0xF 7 0,
      ok := fun g i v => decide (v ≤ 0xF ∧ (v = 0 ∨ (g ⟨0x31, i, 1⟩ ≠ 0 ∧ g ⟨0x31, i, 1⟩ ≠ 4 ∧ g ⟨0x31, i, 1⟩ ≠ 5))) },
    { cond 0x31 7 1 .live 0 (fun _ _ v => signedIn (-40) 149 v) with dflt := by3 95 100 70 },
    { cond 0x31 8 1 .live 0 (fun _ _ v => signedIn (-39) 149 v) with dflt := by3 110 110 85 },
    { cond 0x31 9 1 .live 0 (fun _ _ v => signedIn (-40) 148 v) with dflt := by3 85 90 60 },
    plain 0x31 0xA 2 .live 10 3600 60, plain 0x31 0xB 2 .live 10 1000 100,
    cond 0x31 0xC 1 .live 0 (fun _ _ v => signedIn (-100) 100 v) ]

/-- 0x32 leak policy (R278), 0x33 acoustic profile (R271). -/
def coolRest : List Field :=
  [ plain 0x32 1 1 .live 0 2 2, plain 0x32 2 2 .live 10 1000 100,
    plain 0x33 1 1 .live 20 100 100, plain 0x33 2 1 .live 1 60 5, plain 0x33 3 2 .live 10 3600 60,
    plain 0x33 4 1 .live 1 20 5, plain 0x33 5 1 .live 0 15 8, plain 0x33 6 1 .live 1 100 10, plain 0x33 7 1 .live 1 100 2 ]

/-- 0x40, cadence node (R316, R317). -/
def node : List Field :=
  [ plain 0x40 1 1 .staged 0 255 0, plain 0x40 2 1 .staged 0 4 0,
    cond 0x40 3 2 .staged 0 (fun g i v => decide (v ≤ 0xFFFF ∧ v % 2 ^ (16 - 4 * min 4 (g ⟨0x40, i, 2⟩)) = 0)),
    cond 0x40 4 1 .staged 0 (fun g i v => decide (v ≤ 2 ∧ (v = 0 ↔ g ⟨0x40, i, 2⟩ = 0))),
    cond 0x40 5 2 .staged 0 (fun g i v => decide (v ≤ 0xFFFF ∧ v &&& g ⟨0x40, i, 6⟩ = 0 ∧ (g ⟨0x40, i, 2⟩ = 4 → v = 0))),
    cond 0x40 6 2 .staged 0 (fun g i v => decide (v ≤ 0xFFFF ∧ (g ⟨0x40, i, 2⟩ = 4 → v = 0))),
    cond 0x40 7 32 .staged 0 (fun _ _ _ => true), plain 0x40 8 1 .live 0 90 50,
    cond 0x40 9 16 .live 0 (fun _ _ v => (List.range 8).all (fun k => decide (v / 65536 ^ k % 65536 ≤ 4000))) ]

/-- 0x41, group membership (R332). -/
def member : List Field :=
  [ plain 0x41 1 1 .staged 0 255 0,
    cond 0x41 2 1 .staged 0xFF (fun g _ v => decide (v = 0xFF ∨ (v ≤ 4 ∧ v ≤ g ⟨0x40, 0, 2⟩))),
    cond 0x41 3 1 .staged 0xFF (fun _ _ v => decide (v ≤ 15 ∨ v = 0xFF)) ]

/-- Sampling weights: 0 to 128, or 0xFF (R453). -/
def weightOk (b : Nat) : Bool := b ≤ 128 || b = 0xFF
/-- 2,048 bytes of 0xFF. -/
def allOnes (k : Nat) : Nat := 2 ^ (8 * k) - 1

/-- 0x50 sampling plan (R453), 0x51 vote schedule (R475), 0x52 margin policy (R470). -/
def integ : List Field :=
  [ plain 0x50 1 1 .staged 0 1 0, plain 0x50 2 1 .staged 0 16 8, cond 0x50 3 8 .staged 0 (fun _ _ _ => true),
    plain 0x50 4 1 .staged 0 128 16, bytes 0x50 5 2048 .staged (allOnes 2048) weightOk,
    bytes 0x50 6 2048 .staged (allOnes 2048) weightOk, plain 0x50 7 1 .live 2 255 16, plain 0x50 8 1 .live 0 1 0,
    plain 0x50 9 2 .live 1 1024 64, cond 0x50 0xA 4 .live 0 (fun _ _ _ => true),
    plain 0x51 1 1 .staged 0 1 0, cond 0x51 2 1 .staged 0xFF (fun _ _ v => decide (v ≤ 15 ∨ v = 0xFF)),
    cond 0x51 3 1 .staged 0xFF (fun _ _ v => decide (v ≤ 15 ∨ v = 0xFF)), plain 0x51 4 1 .staged 0 1 1,
    plain 0x51 5 2 .live 0 65535 3600,
    bytes 0x52 1 8 .staged (allOnes 8) (fun b => b ≤ 63 || b = 0xFF), plain 0x52 2 1 .live 1 4 4,
    plain 0x52 3 2 .live 0 8760 168, plain 0x52 4 1 .live 0 15 1, plain 0x52 5 1 .live 0 16 3 ]

/-- 0x70 lease (R145), 0x90 trace (R550). -/
def rest : List Field :=
  [ plain 0x70 1 2 .live 128 65535 2048, plain 0x70 2 1 .live 0 0xF 0xF,
    cond 0x90 1 128 .live 0 (fun _ _ _ => true), plain 0x90 2 2 .live 1 4096 256 ]

/-- Activation tables and layers of object 0x60 (R434): the size is what the value states. -/
def table (t : Nat) : Field :=
  { obj := 0x60, fld := 0x100 + t, size := 16, attr := fun _ => .staged, dflt := fun _ => 0,
    ok := fun _ _ v => decide (v / 2 ^ 64 % 65536 = 0 ∨ (v % 2 ^ 64 % 8 = 0 ∧ 36 ≤ v / 2 ^ 64 % 65536 ∧ v / 2 ^ 64 % 65536 ≤ 1296)) }

end Field

/-- Tensor descriptor of the layer map (R435). -/
structure Tensor where
  base : Nat
  nblk : Nat
  rows : Nat
  klen : Nat
  fmt : Nat
  blk : Nat
  kind : Nat
  scaleT : Nat
  deriving DecidableEq, Repr

/-- A layer's entry of the layer map (R434). -/
structure LayerMap where
  act : Nat
  tensors : List Tensor
  deriving DecidableEq, Repr

def Tensor.parse (b : Bytes) : Tensor :=
  { base := b.num 0 8, nblk := b.num 8 4, rows := b.num 0xC 4, klen := b.num 0x10 4, fmt := b.num 0x14 1,
    blk := b.num 0x15 1, kind := b.num 0x16 1, scaleT := b.num 0x17 1 }

/-- The entry that a LAYER_L value spells; none when NTENS is 0, which removes the layer (R434). -/
def LayerMap.parse (v : Nat) : Option LayerMap :=
  let n := v / 256 % 256
  if n = 0 then none else
    let b := natLE (8 + 32 * n) v
    some { act := v % 256, tensors := (List.range n).map (fun i => Tensor.parse (b.part (8 + 32 * i) 32)) }

/-- Bits of an element of a format (R364); 0 for no format. -/
def fmtBits : Nat → Nat
  | 0x01 => 4 | 0x02 => 6 | 0x03 => 6 | 0x04 => 8 | 0x05 => 8 | 0x08 => 8 | 0x09 => 4
  | 0x10 => 16 | 0x11 => 16 | 0x20 => 32 | 0x30 => 8 | _ => 0

/-- Block sizes a format admits as an operand (R372). -/
def blkOk (fmt blk : Nat) : Bool :=
  match fmt with
  | 0x01 | 0x02 | 0x03 | 0x08 | 0x09 => blk = 16 || blk = 32
  | 0x04 | 0x05 => blk = 0 || blk = 16 || blk = 32
  | 0x10 | 0x11 | 0x20 => blk = 0
  | _ => false

/-- Bytes of `n` packed elements (R368): FP6 in whole 24-bit groups. -/
def packedBytes (fmt n : Nat) : Nat :=
  if fmtBits fmt = 6 then 3 * ceilDiv n 4 else ceilDiv (n * fmtBits fmt) 8

/-- Elements a tensor holds (R435). -/
def Tensor.elements (t : Tensor) : Nat := if t.kind = 1 then t.rows * ceilDiv t.klen t.blk else t.rows * t.klen

/-- Range rules of one tensor descriptor (R435, R436 rule 0x01). -/
def Tensor.ok (t : Tensor) : Bool :=
  t.base % 8 = 0 && 1 ≤ t.rows && t.rows ≤ 1048576 && 1 ≤ t.klen && t.klen ≤ 1048576 && t.kind ≤ 1 &&
  (if t.kind = 1 then t.fmt = 0x30 && (t.blk = 16 || t.blk = 32) && t.scaleT = 0xFF
   else t.fmt ≠ 0x30 && blkOk t.fmt t.blk && ((t.scaleT = 0xFF) == (t.blk = 0))) &&
  t.nblk = ceilDiv (packedBytes t.fmt t.elements) 4096

/-- LAYER_L (R434). -/
def Field.layer (l : Nat) : Field :=
  { obj := 0x60, fld := 0x1000 + l, size := 8, attr := fun _ => .staged, dflt := fun _ => 0,
    ok := fun _ _ v =>
      match LayerMap.parse v with
      | none => true
      | some m => (m.act ≤ 63 || m.act = 0xFF) && m.tensors.length ≤ 16 && m.tensors.all Tensor.ok }

/-- Fields of an object apart from those of object 0x60. -/
def objFields : Nat → List Field
  | 0x10 => Field.budget
  | 0x11 => Field.weir
  | 0x20 => Field.rail
  | 0x21 => Field.stage
  | 0x30 => Field.zone
  | 0x31 => Field.therm
  | 0x32 | 0x33 => Field.coolRest
  | 0x40 => Field.node
  | 0x41 => Field.member
  | 0x50 | 0x51 | 0x52 => Field.integ
  | 0x60 => [Field.plain 0x60 1 4 .staged 0 0xFFFFFFFF 0]
  | 0x70 | 0x90 => Field.rest
  | _ => []

/-- The field a key names, when the object tables define it. Fields 1 to 4 of object 0x21 exist in
instance 0 alone, and IDEALITY in channels 0 to 7 alone (DEDUCED, log 12). -/
def fieldOf (k : Key) : Option Field :=
  if objInstances k.obj ≤ k.inst then none
  else if k.obj = 0x21 && k.inst ≠ 0 && k.fld ≤ 4 then none
  else if k.obj = 0x31 && 8 ≤ k.inst && k.fld = 4 then none
  else if k.obj = 0x60 && 0x100 ≤ k.fld && k.fld < 0x140 then some (Field.table (k.fld - 0x100))
  else if k.obj = 0x60 && 0x1000 ≤ k.fld && k.fld < 0x2000 then some (Field.layer (k.fld - 0x1000))
  else (objFields k.obj).find? (fun f => f.obj = k.obj && f.fld = k.fld)

/-- Size in bytes of a field holding a value (R160). -/
def fieldSize (k : Key) (v : Nat) : Nat :=
  if k.obj = 0x60 && 0x1000 ≤ k.fld then 8 + 32 * (v / 256 % 256)
  else match fieldOf k with
    | some f => f.size
    | none => 0

/-- The default of a field (R144). -/
def dfltOf (k : Key) : Nat :=
  match fieldOf k with
  | some f => f.dflt k.inst
  | none => 0

def attrOf (k : Key) : Attr :=
  match fieldOf k with
  | some f => f.attr k.inst
  | none => .held

/-- Order of keys: object, instance, field (R162). -/
def Key.le (a b : Key) : Bool :=
  a.obj < b.obj || (a.obj = b.obj && (a.inst < b.inst || (a.inst = b.inst && a.fld ≤ b.fld)))

/-- Setting a value in a list of values in rising order of keys. -/
def setKey (k : Key) (v : Nat) : List (Key × Nat) → List (Key × Nat)
  | [] => [(k, v)]
  | c :: m => if c.1 = k then (k, v) :: m else if Key.le k c.1 then (k, v) :: c :: m else c :: setKey k v m

/-- The value in effect of a field. -/
def State.cfgVal (s : State) (k : Key) : Nat := Assoc.get (dfltOf k) s.cfg.eff k
/-- The value in effect of a field, by numbers. -/
def State.fld (s : State) (obj inst fld : Nat) : Nat := s.cfgVal ⟨obj, inst, fld⟩

/-- Putting a value into effect; a value that equals the default is not listed. -/
def putEff (k : Key) (v : Nat) (eff : List (Key × Nat)) : List (Key × Nat) :=
  if v = dfltOf k then eff.filter (fun c => c.1 ≠ k) else setKey k v eff

/-- A layer of the map in effect (R434). -/
def State.layer (s : State) (l : Nat) : Option LayerMap := LayerMap.parse (s.fld 0x60 0 (0x1000 + l))
/-- An activation table of the map in effect: its base and length (R434). -/
def State.actTable (s : State) (t : Nat) : Option (Nat × Nat) :=
  let v := s.fld 0x60 0 (0x100 + t)
  if v / 2 ^ 64 % 65536 = 0 then none else some (v % 2 ^ 64, v / 2 ^ 64 % 65536)
/-- Layers of the map in effect, in rising order (R434). -/
def State.layers (s : State) : List (Nat × LayerMap) :=
  s.cfg.eff.filterMap (fun c =>
    if c.1.obj = 0x60 && 0x1000 ≤ c.1.fld then (LayerMap.parse c.2).map (fun m => (c.1.fld - 0x1000, m)) else none)

end Sys2Proof.Machine
end

