-- ==== Sys2Proof/Machine/Ops.lean ====
section
/-!
DEFINITION. Operations every family shares: the two counts of ticks, the counters and the log ring with the
action levels, and the command windows with their acceptance, completion and messages.
-/

namespace Sys2Proof.Machine

/-- Setting bit `i` of a bit vector. -/
def setBit {w : Nat} (x : BitVec w) (i : Nat) (b : Bool) : BitVec w :=
  if b then x ||| (1#w <<< i) else x &&& ~~~(1#w <<< i)

namespace State

/-! ### Time (R8, R63, R87, R88, R287) -/

/-- The local tick counter. -/
def lt (s : State) : Nat := s.dev.lt

/-- Domain time in 1/65,536 tick (R290). -/
def domFrac (s : State) : Nat := (65536 * (s.dev.lt : Int) + s.cad.offset).toNat
/-- Tick count of domain time. -/
def domTick (s : State) : Nat := s.domFrac / 65536
/-- Tick count the cadence mirror shows (R87). -/
def ct (s : State) : Nat := if s.cad.st = .alone then s.lt else s.domTick
/-- Sub-tick fraction the mirror shows (R8, R290). -/
def ctSub (s : State) : Nat := if s.cad.st = .alone then 0 else s.domFrac % 65536 / 64
/-- Local ticks until an instant of the mirror's time, as the difference at this moment gives them (R88). -/
def untilInstant (s : State) (t : Nat) : Nat := t - s.ct
/-- The first frame boundary at least `d` ticks ahead on the mirror's time (R157). -/
def boundaryAfter (s : State) (d : Nat) : Nat := ceilDiv (s.ct + d) 1024 * 1024

/-- The device is in Full. -/
def isFull (s : State) : Bool := s.dev.st = .full
/-- The keepers run: Keeper or Full, with K0 out of reset. -/
def keeperUp (s : State) : Bool := s.dev.phase = .running && (s.boot.cores.get 0).run
/-- Core `k` is out of reset. -/
def coreRuns (s : State) (k : Fin 8) : Bool := (s.boot.cores.get k).run

/-- A free value: drawing one advances the counter that the opaque constants are applied to. -/
def drawn (s : State) : State := { s with free := s.free + 1 }

/-- Sending a message. -/
def send (m : Msg) (s : State) : State := { s with out := s.out ++ [m] }
def sends (ms : List Msg) (s : State) : State := { s with out := s.out ++ ms }

/-! ### Counters and the log ring (R547, R548, R606 to R616) -/

/-- The value of a counter (R606). -/
def ctrVal (s : State) (c : Nat) : Nat := Assoc.get 0 s.ctr.vals c

/-- Adding an entry to the log ring, which keeps the last 16,384 (R547). `src` is the source of R548. -/
def logEntry (src code a0 a1 : Nat) (s : State) : State :=
  let e : LogEntry :=
    { tick := s.ct % 2 ^ 48, tag := BitVec.ofNat 16 (0x8000 + src * 1024 + code),
      arg0 := BitVec.ofNat 32 a0, arg1 := BitVec.ofNat 32 a1 }
  { s with ctr := { s.ctr with log := lastN 16384 (s.ctr.log ++ [e]), nextLog := s.ctr.nextLog + 1 } }

/-- An increment of a counter, which stays at its top (R606), with its summary bit (R89, R608). -/
def count (c : Nat) (s : State) : State :=
  { s with ctr := { s.ctr with
      vals := Assoc.set s.ctr.vals c (min (s.ctrVal c + 1) (2 ^ 64 - 1)),
      summary := setBit s.ctr.summary (c / 16) true } }

/-- `n` increments of a counter. -/
def countN (c n : Nat) (s : State) : State := (List.range n).foldl (fun s _ => s.count c) s

/-- Scope of an action: the tray, or one slot (R610). -/
abbrev Scope := Option (Fin 8)

/-- Level of the action that runs in a scope; a level-4 action covers every slot (R612). -/
def runningLevel (s : State) (sc : Scope) : Nat :=
  if s.weir.shutdown.isSome then 4
  else match sc with
    | none => 0
    | some i =>
      if (match s.casc.slotSeq.get i with | some q => !q.up | none => false) &&
          (((s.slots.get i).st = .quarantined && (s.slots.get i).cause = 1) ||
            (List.finRange 28).any (fun c => s.fld 0x31 c.1 5 = i.1 && (s.cool.chans.get c).tripped)) then 3
      else if (s.integ.slots.get i).stepDue.isSome || (s.integ.slots.get i).fences ≠ [] then 2 else 0

/-- An error of level `lv` is absorbed by the action that runs in its scope (R612). -/
def absorbs (s : State) (lv : Nat) (sc : Scope) : Bool := lv ≤ s.runningLevel sc

/-- The counter of the action that runs in a slot, for the log entry of R613 (DESIGN CHOICE, log 20). -/
def runningCounter (s : State) (i : Fin 8) : Nat :=
  if s.runningLevel (some i) = 2 then 0x0698 + i.1 else 0x07A0 + i.1

/-- Superseding the action that runs in a slot: what is not written stays unwritten (R613). -/
def supersede (i : Fin 8) (by_ : Nat) (s : State) : State :=
  let old := s.runningCounter i
  let s := { s with integ := { s.integ with
    slots := Vec.upd s.integ.slots i (fun x => { x with stepDue := none, fences := [] }) } }
  (s.logEntry 9 0x00C old by_).count 0x0008

/-- An error of a class: it is counted; unless absorbed it makes the log entry of level 1 and supersedes an action of a lower
level in its scope (R610 to R613). What the error calls for beyond that, its caller does when it is not absorbed. -/
def raise (c lv : Nat) (sc : Scope) (s : State) : State :=
  let ab := s.absorbs lv sc
  let la := s.runningLevel sc
  let s := s.count c
  if lv = 0 || ab then s
  else
    let s := s.logEntry 9 0x00B c (s.ctrVal c % 2 ^ 32)
    match sc with
    | some i => if 2 ≤ lv && 2 ≤ la then s.supersede i c else s
    | none =>
      if 4 ≤ lv then
        (List.finRange 8).foldl (fun t i => if 2 ≤ t.runningLevel (some i) then t.supersede i c else t) s
      else s

/-- A NOTICE of the tray. -/
def notice (c : Nat) (s : State) : State := s.raise c 1 none
/-- A NOTICE of a slot. -/
def noticeSlot (c : Nat) (i : Fin 8) (s : State) : State := s.raise c 1 (some i)

/-- A trace record, dropped and counted past the limit of the frame (R550). `pt` is the point. -/
def trace (pt a0 a1 : Nat) (s : State) : State :=
  if (s.fld 0x90 0 1).testBit pt then
    if s.ctr.trace < s.fld 0x90 0 2 then
      let e : LogEntry :=
        { tick := s.ct % 2 ^ 48, tag := BitVec.ofNat 16 ((if pt < 256 then pt / 128 else (pt - 256) / 128 + 2) * 1024 + pt),
          arg0 := BitVec.ofNat 32 a0, arg1 := BitVec.ofNat 32 a1 }
      { s with ctr := { s.ctr with log := lastN 16384 (s.ctr.log ++ [e]), nextLog := s.ctr.nextLog + 1, trace := s.ctr.trace + 1 } }
    else s.count 0x0014
  else s

/-! ### Command windows (R90 to R103, R122 to R124) -/

def win (s : State) (p : Port) : Window := s.wins.get p
def updWin (p : Port) (f : Window → Window) (s : State) : State := { s with wins := Vec.upd s.wins p f }

/-- The feature map negotiated for a port's session (R104, R126). -/
def sessionOf (s : State) (p : Port) : Option Session := if p = 7 then s.sess.sideband else s.sess.host
/-- A feature bit is in the negotiated set of a port. -/
def hasFeat (s : State) (p : Port) (b : Nat) : Bool :=
  match s.sessionOf p with
  | some x => x.map.testBit b
  | none => false

/-- Sending MSI-X vector `v`: pending while masked (PCIe Base Specification, R76, R100). -/
def msix (v : Nat) (s : State) : State :=
  if s.bus.msixEn && s.bus.bme then
    if s.bus.msixMask || (Mem.get 0 s.bus.msixTable (16 * v + 12)).getLsbD 0 then
      { s with bus := { s.bus with pba := setBit s.bus.pba v true } }
    else s.send (.msix v)
  else s

/-- The vector a window uses (R108). -/
def vectorOf (s : State) (p : Port) : Nat := if s.hasFeat p 15 then (s.win p).vec.toNat else p.1

end State

/-- WIN_STATUS STATE numbers (R91). -/
def WinState.num : WinState → Nat
  | .idle => 0 | .pending => 1 | .accepted => 2 | .done => 3 | .refused => 4

/-- Status code numbers (R654). -/
def Code.num : Code → Nat
  | .ok => 0 | .accepted => 1 | .inconsistent => 2 | .failed => 3 | .superseded => 4 | .abandoned => 5
  | .refusedBusy => 0x80 | .refusedBound => 0x81 | .refusedState => 0x82 | .badOpcode => 0x83 | .badParam => 0x84
  | .notNegotiated => 0x85 | .noDraft => 0x86 | .lockedField => 0x87

namespace State

/-- A sideband response body (R123). -/
def sbBody (kind : Nat) (w : Window) : Bytes :=
  let done := w.state = .done
  [byte kind, byte w.state.num] ++ natLE 2 w.opcode.toNat ++ natLE 4 w.tag.toNat ++ [byte w.code.num, 0]
    ++ natLE 2 (if done then w.rlen else 0) ++ natLE 4 w.acc ++ natLE 4 w.bound ++ natLE 4 w.done
    ++ (if done then Mem.read 0 w.data 0 w.rlen else [])

/-- Sending a Skeile message on the sideband, with the enterprise number of the identity region before it (R121 to R123). -/
def sbSend (kind : Nat) (s : State) : State :=
  s.send (.mctp 0x7F (Mem.read 0xFF s.boot.flash 0x7500014 4 ++ sbBody kind (s.win 7)))

/-- The message a window sends on DONE or REFUSED (R100). -/
def winMessage (p : Port) (s : State) : State := if p ≠ 7 && (s.win p).vecEn then s.msix (s.vectorOf p) else s

/-- A window's refusal (R94, R99): its parameters stay and RLEN is 0. -/
def refuse (p : Port) (c : Code) (s : State) : State :=
  (s.updWin p (fun w => { w with state := .refused, code := c, rlen := 0, acc := s.lt })).winMessage p

/-- A window's acceptance with its bound in ticks (R94, R95). -/
def accept (p : Port) (bound : Nat) (s : State) : State :=
  s.updWin p (fun w => { w with state := .accepted, code := .accepted, rlen := 0, acc := s.lt, bound := s.lt + bound })

/-- A window after its command ended: DONE with the reply, or IDLE when a Function Level Reset lost its result (R99, R118). -/
def endWin (c : Code) (reply : Bytes) (t : Nat) (p : Port) (w : Window) : Window :=
  if w.orphan then resetWin p
  else { w with state := .done, code := c, rlen := reply.length, done := t, data := Mem.cells 0 0 reply, notice := decide (p = 7) }

/-- The completion of an accepted command: reply, times and message (R99, R100, R124). -/
def finish (p : Port) (c : Code) (reply : Bytes) (s : State) : State :=
  let s' := s.updWin p (endWin c reply s.lt p)
  if (s.win p).orphan then s' else s'.winMessage p

/-- A command that ends ABANDONED (R102, R103, R116), counted; direct writes it has not brought into effect are withdrawn. -/
def abandon (p : Port) (s : State) : State :=
  let s := { s with cfg := { s.cfg with live := s.cfg.live.filter (fun w => w.port ≠ p) } }
  (s.finish p .abandoned []).count 0x0006

/-- A Draft command has arrived on the sideband (R139). -/
def draftTouch (op : Nat) (s : State) : State :=
  if 0x0101 ≤ op && op ≤ 0x0106 then
    { s with cfg := { s.cfg with draft := s.cfg.draft.map (fun d => if d.owner = 7 then { d with lastTick := s.lt } else d) } }
  else s

/-- Acceptance and completion in one step: the bound is stamped, and the command is done at once (log 4). -/
def answer (p : Port) (bound : Nat) (c : Code) (reply : Bytes) (s : State) : State :=
  (s.accept p bound).finish p c reply

/-- Completion during acceptance: WIN_BOUND and WIN_DONE_TIME equal WIN_ACCEPT_TIME (R95). -/
def answerNow (p : Port) (c : Code) (reply : Bytes) (s : State) : State := s.answer p 0 c reply

/-- The parameters of the command in a window (R93). -/
def params (s : State) (p : Port) : Bytes := Mem.read 0 (s.win p).data 0 (s.win p).plen.toNat

/-- The ports whose accepted command has this opcode. -/
def acceptedOn (s : State) (op : Nat) : List Port :=
  (List.finRange 8).filter (fun p => (s.win p).state = .accepted && (s.win p).opcode.toNat = op)
def anyAccepted (s : State) (ops : List Nat) : Bool := ops.any (fun o => s.acceptedOn o ≠ [])

/-- The pause of a live handover, from 64 ticks before HO_FRAME until it ends (R576). -/
def handoverPause (s : State) : Bool := match s.upd.handover with | some h => decide (h.frame ≤ s.lt + 64) | none => false
/-- Windows 0 to 5 are served: U0 runs in Full and no handover pauses it (R90, R103). -/
def hostServed (s : State) : Bool := s.isFull && s.coreRuns 2 && !s.handoverPause
/-- Window 6 and the sideband are served by K1 (R90, R120). -/
def keeperServed (s : State) : Bool := s.keeperUp && s.coreRuns 1

end State

/-- An opcode: its number, where it is served, the features that admit it, its checks 4 to 9 of R97, its bound in
ticks, and what it does from acceptance on. -/
structure OpSpec where
  opcode : Nat
  /-- In the keeper subset (R106). -/
  keeper : Bool
  /-- Served on window 6 and the sideband alone (R555). -/
  keeperOnly : Bool := false
  /-- Not served on the sideband (R131). -/
  noSideband : Bool := false
  /-- Admitted before a session exists (R105). -/
  free : Bool := false
  /-- Feature bits that admit it (R107). -/
  feats : List Nat
  /-- PLEN as the opcode table gives it, when it is one number (R97 check 4). -/
  plen : Option Nat
  /-- The first failing check from 4 on (R97). -/
  check : Port → Bytes → State → Option Code
  /-- Ticks from acceptance to the promised completion (R95). -/
  bound : Port → Bytes → State → Nat
  /-- Its effect; it stamps the window by `accept`, `answer` or `answerNow`. -/
  run : Port → Bytes → Nat → State → State
  /-- What a refusal by the opcode's own checks leaves beside the window (R573). -/
  refused : Port → Bytes → State → State := fun _ _ s => s

/-- The first check that fails, in order. -/
def firstFail : List (Code × Bool) → Option Code
  | [] => none
  | (c, b) :: l => if b then some c else firstFail l

namespace OpSpec

/-- The window serves the opcode (R90, R106, R131, R555). -/
def served (o : OpSpec) (p : Port) (s : State) : Bool :=
  if p.1 < 6 then !o.keeperOnly
  else if p = 6 then o.keeper
  else !o.noSideband && (o.keeper || s.isFull)

/-- The opcode is in the negotiated set of the port's session (R105, R108). -/
def negotiated (o : OpSpec) (p : Port) (s : State) : Bool :=
  o.free || ((s.sessionOf p).isSome && o.feats.all (s.hasFeat p))

/-- Its bound would lie beyond a pending reset (R604), or in the pause of a scheduled handover (R574, R96). -/
def boundMissed (b : Nat) (p : Port) (s : State) : Bool :=
  (match s.rst.reqTick with | some t => b ≠ 0 && t < s.lt + b | none => false) ||
  (match s.upd.handover with
   | some h => p.1 < 6 && b ≠ 0 && h.frame - 64 ≤ s.lt + b && s.lt + b ≤ h.frame + 960
   | none => false)

/-- A command that returns a reply computed from the state and changes nothing, with a bound of 1 ms. -/
def query (opcode : Nat) (keeper : Bool) (feats : List Nat) (plen : Nat) (check : Port → Bytes → State → Option Code)
    (reply : Bytes → State → Bytes) : OpSpec :=
  { opcode, keeper, feats, plen := some plen, check, bound := fun _ _ _ => 1000,
    run := fun p ps b s => s.answer p b .ok (reply ps s) }

/-- No check of R97 beyond PLEN fails. -/
def free4 : Port → Bytes → State → Option Code := fun _ _ _ => none

/-- The checks of R97 in their order. -/
def verdict (o : OpSpec) (p : Port) (ps : Bytes) (s : State) : Option Code :=
  if !o.served p s then some .badOpcode
  else if !o.negotiated p s then some .notNegotiated
  else if 3840 < (s.win p).plen.toNat then some .badParam
  else if (match o.plen with | some n => decide (ps.length ≠ n) | none => false) then some .badParam
  else match o.check p ps s with
    | some c => some c
    | none => if boundMissed (o.bound p ps s) p s then some .refusedBound else none

/-- A submitted command on a port whose serving core runs. -/
def decide (o : OpSpec) (p : Port) (ps : Bytes) (s : State) : State :=
  match o.verdict p ps s with
  | some c => (if o.served p s && o.negotiated p s then o.refused p ps s else s).refuse p c
  | none => o.run p ps (o.bound p ps s) s

end OpSpec

namespace State

/-- A window enters PENDING (R93). -/
def pend (p : Port) (s : State) : State := s.updWin p (fun w => { w with state := .pending })

/-- The submission of the command that stands in a window, with the opcode's meaning when it exists (R93, R94,
R97, R103). -/
def goWith (o : Option OpSpec) (p : Port) (s : State) : State :=
  let s := s.pend p
  if p.1 < 6 && s.keeperServed && !s.hostServed then s.refuse p .refusedState
  else if !s.keeperServed then s
  else match o with
    | none => s.refuse p .badOpcode
    | some o => o.decide p (s.params p) s

/-- A window takes writes and a GO: it is not PENDING or ACCEPTED (R92, R93). -/
def winBusy (s : State) (p : Port) : Bool := (s.win p).state = .pending || (s.win p).state = .accepted

/-- The function answers PCIe memory accesses: it is served, PERST_N is released and Memory Space Enable is set (R57, R82). -/
def pcieUp (s : State) : Bool := s.keeperServed && !s.bus.perst && s.bus.mse

/-- A window or slot takes a command: opcode, tag, PLEN and parameters (R91, R93, R122); the sideband's fill the slot's data anew. -/
def fill (op : Nat) (tag : BitVec 32) (ps : Bytes) (p : Port) (s : State) : State :=
  s.updWin p (fun w => { w with
    opcode := BitVec.ofNat 16 op, tag := tag, plen := BitVec.ofNat 12 ps.length, orphan := false, notice := false
    data := Mem.write 0 (if p = 7 then [] else w.data) 0 (ps.take 3840) })

/-- The host's whole submission on a window: the parameters in one write, PLEN, TAG and OPCODE with GO; on a busy window each write is
dropped and counted (R92; DEDUCED, log 99). -/
def submitHost (op : Nat) (o : Option OpSpec) (p : Port) (tag : BitVec 32) (ps : Bytes) (s : State) : State :=
  if !s.pcieUp then s
  else if s.winBusy p then s.countN 0x0000 (if ps = [] then 3 else 4)
  else (s.fill op tag ps p).goWith o p

/-- A command packet that comes while the slot is ACCEPTED is refused; the slot keeps its command (R125). -/
def sbBusy (op : Nat) (tag : BitVec 32) (s : State) : State :=
  let w := { (s.win 7) with
    state := WinState.refused, code := .refusedBusy, opcode := BitVec.ofNat 16 op, tag := tag, rlen := 0, acc := s.lt }
  s.send (.mctp 0x7F (Mem.read 0xFF s.boot.flash 0x7500014 4 ++ sbBody 0x81 w))

/-- The response to a command packet, after which no notice is owed for a command that has ended (R124). -/
def sbRespond (op : Nat) (s : State) : State :=
  ((s.draftTouch op).sbSend 0x81).updWin 7 (fun w => { w with notice := false })

/-- A command packet on the sideband: refused while the slot is ACCEPTED, else taken and answered (R124, R125). -/
def submitSideband (op : Nat) (o : Option OpSpec) (tag : BitVec 32) (ps : Bytes) (s : State) : State :=
  if !s.keeperServed || s.sess.i3cAddr.isNone then s
  else if s.winBusy 7 then s.sbBusy op tag
  else ((s.fill op tag ps 7).goWith o 7).sbRespond op

/-- A whole submission on a port. -/
def submit (o : OpSpec) (p : Port) (tag : BitVec 32) (ps : Bytes) (s : State) : State :=
  if p = 7 then s.submitSideband o.opcode (some o) tag ps else s.submitHost o.opcode (some o) p tag ps

end State

/-- A step that goes on. -/
def go (s : State) : Host.Outcome State Fault Refusal := .next s

end Sys2Proof.Machine
end

