-- ==== Sys2Proof/Machine/Lines.lean ====
section
/-!
DEFINITION. The Basin's lines: the Reed-Solomon code, reads with their corrections and poison, tensor blocks and their tags, pushes,
and the initialisation of the tiers (R67, R387 to R391, R425 to R432, R439, R444).
-/

namespace Sys2Proof.Machine

/-! ### The line code (R426, R427) -/

/-- Multiplication by α in GF(2^8). -/
def gfDouble (a : Nat) : Nat := if a < 128 then 2 * a else (2 * a) ^^^ 0x11D
/-- Product in GF(2^8). -/
def gfMul (a b : Nat) : Nat :=
  ((List.range 8).foldl (fun (x : Nat × Nat) i => (if b.testBit i then x.1 ^^^ x.2 else x.1, gfDouble x.2)) (0, a)).1
def gfPow (a n : Nat) : Nat := Nat.repeat (gfMul a) n 1
def gfInv (a : Nat) : Nat := gfPow a 254
/-- α to a power. -/
def gfExp (n : Nat) : Nat := Nat.repeat gfDouble n 1

/-- Coefficients of the generator from x^7 down to x^0; that of x^8 is 1 (R426). -/
def rsGen : List Nat :=
  ((List.range 8).foldl (fun g k =>
    (List.zip (g ++ [0]) (0 :: g)).map (fun c => c.1 ^^^ gfMul c.2 (gfExp k))) [1]).drop 1

/-- One step of the division by the generator: the remainder, from x^7 down, and the next data byte. -/
def rsStep (r : List Nat) (b : Byte) : List Nat :=
  let f := b.toNat ^^^ r.headD 0
  (List.zip (r.drop 1 ++ [0]) rsGen).map (fun c => c.1 ^^^ gfMul f c.2)

/-- The eight check bytes of a line's data (R426). -/
def lineCheck (data : Bytes) : Bytes := (data.foldl rsStep (List.replicate 8 0)).map byte

/-- The 72 bytes of a line's codeword. -/
def lineWord (data : Bytes) : Bytes := data ++ lineCheck data

/-- A codeword with the bits of some bytes flipped. -/
def flipBytes (w : Bytes) (errs : List (Fin 72 × Byte)) : Bytes :=
  errs.foldl (fun w e => w.set e.1.1 (w.getD e.1.1 0 ^^^ e.2)) w

/-- The eight syndromes of a word, at α^0 to α^7. -/
def syndromes (w : Bytes) : List Nat :=
  (List.range 8).map (fun k => w.foldl (fun a b => gfMul a (gfExp k) ^^^ b.toNat) 0)

/-- Sum of two polynomials, lowest coefficient first. -/
def polyAdd : List Nat → List Nat → List Nat
  | [], q => q
  | p, [] => p
  | a :: p, b :: q => (a ^^^ b) :: polyAdd p q

def polyEval (p : List Nat) (x : Nat) : Nat := p.foldr (fun c a => c ^^^ gfMul a x) 0

/-- State of the locator search: locator, previous locator, length, shift and previous discrepancy. -/
structure Locator where
  c : List Nat
  b : List Nat
  l : Nat
  m : Nat
  d : Nat

/-- One syndrome of the Berlekamp-Massey search. -/
def Locator.step (s : List Nat) (x : Locator) (n : Nat) : Locator :=
  let d := ((List.range (x.l + 1)).map (fun i => gfMul (x.c.getD i 0) (s.getD (n - i) 0))).foldl (· ^^^ ·) 0
  if d = 0 then { x with m := x.m + 1 }
  else
    let c := polyAdd x.c (List.replicate x.m 0 ++ x.b.map (gfMul (gfMul d (gfInv x.d))))
    if 2 * x.l ≤ n then { c, b := x.c, l := n + 1 - x.l, m := 1, d }
    else { x with c, m := x.m + 1 }

/-- The error pattern of at most 4 bytes that syndromes stand for: places and flipped bits; none when there is no such pattern. -/
def findErrors (s : List Nat) : Option (List (Fin 72 × Byte)) :=
  let x := (List.range 8).foldl (Locator.step s) { c := [1], b := [1], l := 0, m := 1, d := 1 }
  let places := (List.finRange 72).filter (fun p => polyEval x.c (gfInv (gfExp (71 - p.1))) = 0)
  let omega := (List.range 8).map (fun n =>
    ((List.range (n + 1)).map (fun i => gfMul (x.c.getD i 0) (s.getD (n - i) 0))).foldl (· ^^^ ·) 0)
  let deriv := (List.range x.c.length).map (fun i => if i % 2 = 0 then x.c.getD (i + 1) 0 else 0)
  let es := places.map (fun p =>
    let y := gfInv (gfExp (71 - p.1))
    (p, byte (gfMul (gfExp (71 - p.1)) (gfMul (polyEval omega y) (gfInv (polyEval deriv y))))))
  if x.l ≤ 4 && places.length = x.l && es.all (fun e => e.2 ≠ 0) && syndromes (flipBytes (List.replicate 72 0) es) = s then some es
  else none

/-- What a read makes of a codeword. -/
inductive LineRead
  /-- Zero syndrome: the data. -/
  | clean (data : Bytes)
  /-- Corrected: the data and the number of bytes changed. -/
  | corrected (data : Bytes) (n : Nat)
  | bad
  deriving DecidableEq, Repr

/-- Decoding a word that has `n` bytes in error; `wide` decides what R427 leaves open for more than 8. -/
def decodeLine (w : Bytes) (n : Nat) (wide : Bool) : LineRead :=
  let s := syndromes w
  if s.all (fun x => x = 0) then .clean (w.take 64)
  else match findErrors s with
    | some es => if 8 < n && !wide then .bad else .corrected ((flipBytes w es).take 64) es.length
    | none => .bad

/-! ### Tensor blocks and their tags (R387 to R390) -/

/-- How a consumer judges a block (R390). -/
inductive Judged
  | good
  | poisoned
  /-- The reason code of R413. -/
  | tag (reason : Nat)
  deriving DecidableEq, Repr

/-- The judgement of 4,096 payload bytes and an 8-byte tag. -/
def judgeBlock (raw : Bytes) (index fmt : Nat) (blk16 : Bool) : Judged :=
  let tag : Bytes := raw.drop 4096
  if bit (Bytes.num tag 7 1) 0 then .poisoned
  else if Bytes.num tag 0 4 ≠ crc32c (raw.take 4096) then .tag 0x10
  else if Bytes.num tag 4 2 ≠ index % 65536 then .tag 0x11
  else if Bytes.num tag 6 1 ≠ fmt then .tag 0x12
  else if bit (Bytes.num tag 7 1) 1 ≠ blk16 then .tag 0x13
  else .good

namespace State

/-! ### Poison (R429 to R431) -/

/-- The seal state of a layer; none while it is UNSEALED (R439). -/
def sealOf (s : State) (l : Nat) : Option SealSt := (s.basin.seals.find? (fun c => c.1 = l)).map (fun c => c.2)
def setSeal (l : Nat) (x : Option SealSt) (s : State) : State :=
  let rest := s.basin.seals.filter (fun c => c.1 ≠ l)
  { s with basin := { s.basin with seals := match x with
      | some v => sortBy (fun a b => decide (a.1 ≤ b.1)) (rest ++ [(l, v)])
      | none => rest } }
def isSealed (s : State) (l : Nat) : Bool := match s.sealOf l with | some (.sealed _) => true | _ => false

/-- A seal lost other than by BASIN_UNSEAL, which is counted (R439). -/
def loseSeal (l : Nat) (s : State) : State := if s.isSealed l then (s.setSeal l none).notice 0x070C else s

/-- Blocks of a tensor whose payload overlaps a line (R429). -/
def blocksAt (t : Tensor) (line : Nat) : List Nat :=
  let b := (line - t.base) / 4104
  [b, b + 1].filter (fun b =>
    b < t.nblk && t.base + b * 4104 ≤ line + 63 && line ≤ t.base + b * 4104 + 4095)

/-- Setting POISON in the stored tag of block `b`, unless the line that holds the tag is poisoned (R429). -/
def markTag (line : Nat) (t : Tensor) (b : Nat) (s : State) : State :=
  let a := t.base + b * 4104 + 4096 + 7
  let l := a / 64 * 64
  if l = line || s.basin.poison.contains l then s
  else { s with basin := { s.basin with mem := Mem.write 0 s.basin.mem a [Mem.get 0 s.basin.mem a ||| 1] } }

/-- An uncorrectable line is poisoned (R429, R431). -/
def poisonLine (line : Nat) (s : State) : State :=
  let s := s.notice 0x0705
  let s := if s.basin.poison.length < 1048576 then
      { s with basin := { s.basin with poison := sortBy (fun a b => decide (a ≤ b)) (s.basin.poison ++ [line]) } }
    else ({ s with basin := { s.basin with poisonFull := true } }).notice 0x0707
  s.layers.foldl (fun s c =>
    let hit := c.2.tensors.flatMap (fun t => (blocksAt t line).map (fun b => (t, b)))
    let s := hit.foldl (fun s h => s.markTag line h.1 h.2) s
    if hit = [] then s else s.loseSeal c.1) s

/-! ### Reads (R427, R428, R432) -/

/-- A correction is written back and counted, and a line corrected three times within a pass is weak (R428). -/
def correctLine (line : Nat) (data : Bytes) (n : Nat) (s : State) : State :=
  let k := Assoc.get 0 s.basin.corr line + 1
  let s := { s with basin := { s.basin with
    mem := Mem.write 0 s.basin.mem line data, corr := Assoc.set s.basin.corr line k } }
  let s := s.count (0x0700 + n - 1)
  if k = 3 then s.notice 0x0704 else s

/-- A read of one line with the errors that reads find; it tells whether the line is poisoned and leaves the errors not met yet. -/
def readLine (line : Nat) (r : List LineErr × State) : Bool × List LineErr × State :=
  if r.2.basin.poison.contains line then (true, r)
  else match r.1.find? (fun e => e.line = line) with
    | none => (false, r)
    | some e =>
      let word := lineWord (Mem.read 0 r.2.basin.mem line 64)
      let got := flipBytes word e.errs
      let n := ((List.zip word got).filter (fun c => c.1 ≠ c.2)).length
      let s := if 8 < n then r.2.drawn else r.2
      let rest := r.1.filter (fun x => x.line ≠ line)
      match decodeLine got n (Config.wideCorrects r.2.free) with
      | .clean data => (false, rest, { s with basin := { s.basin with mem := Mem.write 0 s.basin.mem line data } })
      | .corrected data k => (false, rest, s.correctLine line data k)
      | .bad => (true, rest, s.poisonLine line)

/-- Offsets of the lines that `len` bytes from an offset touch. -/
def linesOf (off len : Nat) : List Nat :=
  (List.range ((off + len + 63) / 64 - off / 64)).map (fun i => (off / 64 + i) * 64)

/-- A read of bytes: the poisoned lines it met, the data with free bytes where a line is poisoned, and what is left. -/
def readBytes (off len : Nat) (r : List LineErr × State) : List Nat × Bytes × List LineErr × State :=
  let x := (linesOf off len).foldl (fun (x : List Nat × List LineErr × State) l =>
    let y := readLine l x.2
    (if y.1 then x.1 ++ [l] else x.1, y.2)) ([], r)
  let s := x.2.2
  let data := (List.range len).map (fun i =>
    if x.1.contains ((off + i) / 64 * 64) then Config.poisonByte s.free (off + i) else Mem.get 0 s.basin.mem (off + i))
  (x.1, data, x.2.1, if x.1 = [] then s else s.drawn)

/-- A read and judgement of block `b` of a tensor of the layer map: a poisoned line makes it poisoned (R390, R432). -/
def readBlock (t : Tensor) (b : Nat) (r : List LineErr × State) : Judged × Bytes × List LineErr × State :=
  let x := readBytes (t.base + b * 4104) 4104 r
  (if x.1 ≠ [] then .poisoned else judgeBlock x.2.1 b t.fmt (t.blk = 16), x.2)

/-! ### Traffic and start requests (R67, R68) -/

/-- Both tiers' memories hold work: a request starts the Basin, with its PLL, out of self-refresh (R65, R67). -/
def startBasin (s : State) : State :=
  let s := { s with basin := { s.basin with traffic := true } }
  if s.basin.awake = .awake || !(s.basin.hbmUsable || s.basin.dimmUsable) then s
  else
    { s with
      basin := { s.basin with awake := .waking }
      dev := { s.dev with plls := if s.dev.plls.get 4 = .stopped || s.dev.plls.get 4 = .failed then s.dev.plls.set 4 .starting else s.dev.plls } }

/-- Traffic of a Basin that is awake. -/
def basinTraffic (s : State) : State := { s with basin := { s.basin with traffic := true } }

/-! ### The tiers' initialisation (R425, R51) -/

/-- Every line zero, no poison, no seal; each seal lost is counted (R425, R439). -/
def basinClear (s : State) : State :=
  let s := (s.basin.seals.filter (fun c => s.isSealed c.1)).foldl (fun t c => t.loseSeal c.1) s
  { s with basin := resetBasin }

/-! ### Pushes (R444, R445) -/

/-- What a push has come to: blocks written, REASON and BAD_BLOCK. -/
structure PushRes where
  written : Nat
  reason : Nat
  bad : Nat
  deriving DecidableEq, Repr

/-- Pushing up to `n` blocks from block `b`, at a stride of 4,104 bytes (R444). -/
def pushBlocks (t : Tensor) : (n b dest w : Nat) → List LineErr × State → PushRes × State
  | 0, _, _, w, r => ({ written := w, reason := 0, bad := 0 }, r.2)
  | n + 1, b, dest, w, r =>
    let x := readBlock t b r
    match x.1 with
    | .good => pushBlocks t n (b + 1) (dest + 4104) (w + 1) (x.2.2.1, x.2.2.2.send (.pcieWrite dest x.2.1))
    | .poisoned =>
      let raw := x.2.1.set 4103 (x.2.1.getD 4103 0 ||| 1)
      ({ written := w + 1, reason := 1, bad := b }, x.2.2.2.send (.pcieWrite dest raw))
    | .tag _ => ({ written := w, reason := 2, bad := b }, x.2.2.2)

/-- The reply of BASIN_PUSH (R447). -/
def pushReply (x : PushRes) (t : Nat) : Bytes :=
  natLE 4 x.written ++ [byte x.reason, 0, 0, 0] ++ natLE 4 x.bad ++ zeros 4 ++ natLE 8 t

/-- The tensor that the parameters of a push name. -/
def pushTensor (s : State) (ps : Bytes) : Option Tensor := (s.layer (ps.num 2 2)).bind (fun m => m.tensors[ps.num 1 1]?)

/-- An accepted push ends before its last block, since its slot or the link is lost; how far it came is not stated (R445, log 82). -/
def pushCut (p : Port) (reason : Nat) (s : State) : State :=
  let ps := s.params p
  match s.pushTensor ps with
  | none => s.finish p .failed (pushReply { written := 0, reason, bad := 0 } s.lt)
  | some t =>
    let x := pushBlocks t (Config.pushed s.free % max 1 (ps.num 8 4)) (ps.num 4 4) (ps.num 0x10 8) 0 ([], s.drawn)
    let res := if x.1.reason = 0 then { x.1 with reason } else x.1
    x.2.finish p .failed (pushReply res s.lt)

/-- Every accepted push ends with the link (R445). -/
def pushLinkDown (s : State) : State := (s.acceptedOn 0x0607).foldl (fun t p => t.pushCut p 4) s
/-- The accepted pushes of a slot end with it (R445). -/
def pushSlotGone (i : Fin 8) (s : State) : State :=
  ((s.acceptedOn 0x0607).filter (fun p => (s.params p).num 0 1 = i.1)).foldl (fun t p => t.pushCut p 3) s

end State

end Sys2Proof.Machine
end

