-- ==== Sys2Proof/Machine/Tray.lean ====
section
/-!
DEFINITION. What several blocks share: slots and their states, cadence groups with the causes that request steps, the emergency
throttle, the cells of the uplink, and what leaving Full does.
-/

namespace Sys2Proof.Machine

/-- The OP-cell payload as 100 bits (R349). -/
def packOp (c : OpPayload) : BitVec 100 :=
  (c.fn ++ c.dir ++ c.group ++ c.seq ++ c.word ++ c.flags ++ c.data ++ (0 : BitVec 5) : BitVec 100)

/-- The OP-cell payload that 100 bits spell (R349). -/
def parseOp (b : BitVec 100) : OpPayload :=
  { fn := b.extractLsb' 96 4, dir := b.extractLsb' 94 2, group := b.extractLsb' 86 8, seq := b.extractLsb' 78 8,
    word := b.extractLsb' 73 5, flags := b.extractLsb' 69 4, data := b.extractLsb' 5 64 }

/-- A group no command has touched. -/
def noGroup : GroupSt :=
  { step := 0, held := false, reach := none, host := none, loss := 0, integ := 0, gust := 0, kids := [], expelled := 0 }

namespace State

/-! ### Rails as slots see them (R217, R220) -/

def rail (s : State) (n : Fin 64) : RailSt := s.casc.rails.get n
def updRail (n : Fin 64) (f : RailSt → RailSt) (s : State) : State :=
  { s with casc := { s.casc with rails := Vec.upd s.casc.rails n f } }
def railUsed (s : State) (n : Fin 64) : Bool := s.fld 0x20 n.1 1 = 1
def railStage (s : State) (n : Fin 64) : Nat := s.fld 0x20 n.1 2
def owners (s : State) (n : Fin 64) : Nat := s.fld 0x20 n.1 7
/-- The slot that owns the rail alone (R217). -/
def ownerOf (s : State) (n : Fin 64) : Option (Fin 8) :=
  (List.finRange 8).find? (fun i => s.owners n = 2 ^ i.1)
/-- Slots that own the rail or depend on it (R217). -/
def ownersOf (s : State) (n : Fin 64) : List (Fin 8) := (List.finRange 8).filter (fun i => (s.owners n).testBit i.1)
/-- Rails in use. -/
def usedRails (s : State) : List (Fin 64) := (List.finRange 64).filter s.railUsed
/-- Rails that a slot owns alone. -/
def ownRails (s : State) (i : Fin 8) : List (Fin 64) := s.usedRails.filter (fun n => s.ownerOf n = some i)
/-- Rails that a slot owns or depends on. -/
def slotRails (s : State) (i : Fin 8) : List (Fin 64) := s.usedRails.filter (fun n => (s.owners n).testBit i.1)
/-- A rail is turned on: rising or good. -/
def railOn (s : State) (n : Fin 64) : Bool := (s.rail n).phase = .rising || (s.rail n).phase = .good
/-- Stage 0 of the BT-8's own rails is at power-good (R85, R226, R657); without a rail in stage 0, it is while the sequencer is not in
ALL_OFF (DEDUCED, log 101). -/
def stage0Pg (s : State) : Bool :=
  s.usedRails.all (fun n => s.railStage n ≠ 0 || (s.rail n).pg) &&
    (s.usedRails.any (fun n => s.railStage n = 0) || s.casc.st ≠ .allOff)

/-! ### Slots (R485 to R494) -/

def slot (s : State) (i : Fin 8) : SlotSt := s.slots.get i
def updSlot (i : Fin 8) (f : SlotSt → SlotSt) (s : State) : State := { s with slots := Vec.upd s.slots i f }
def islot (s : State) (i : Fin 8) : IntSlot := s.integ.slots.get i
def updIslot (i : Fin 8) (f : IntSlot → IntSlot) (s : State) : State :=
  { s with integ := { s.integ with slots := Vec.upd s.integ.slots i f } }

/-- The slot's rails are on: its own, or those it depends on when it owns none. -/
def slotRailsOn (s : State) (i : Fin 8) : Bool :=
  if s.ownRails i = [] then (s.slotRails i).any s.railOn else (s.ownRails i).any s.railOn

/-- A slot is powered (R485); the removal of its card takes its outputs away at once (R488). -/
def powered (s : State) (i : Fin 8) : Bool :=
  (s.slot i).present && match (s.slot i).st with
  | .powering | .held | .running => true
  | .quarantined => (s.slot i).cause ≠ 1 && s.slotRailsOn i
  | _ => false

def running (s : State) (i : Fin 8) : Bool := (s.slot i).st = .running
def anyRunning (s : State) : Bool := (List.finRange 8).any s.running

/-- A rail that the slot owns or depends on is marked (R486, R657). -/
def railMarked (s : State) (i : Fin 8) : Bool := (s.slotRails i).any (fun n => (s.rail n).mark ≠ .none)

/-! ### Cadence groups (R331 to R339) -/

def groupOf (s : State) (i : Fin 8) : Nat := s.fld 0x41 i.1 1
def members (s : State) (g : Nat) : List (Fin 8) := (List.finRange 8).filter (fun i => s.groupOf i = g)
/-- Groups with a member slot on this node, each once, in rising order. -/
def groupsHere (s : State) : List Nat := (List.range 256).filter (fun g => (List.finRange 8).any (fun i => s.groupOf i = g))
def grp (s : State) (g : Nat) : GroupSt := Assoc.get noGroup s.gop.groups (Fin.ofNat 256 g)
def updGrp (g : Nat) (f : GroupSt → GroupSt) (s : State) : State :=
  { s with gop := { s.gop with groups := Assoc.set s.gop.groups (Fin.ofNat 256 g) (f (s.grp g)) } }
/-- Own depth below the root (R316). -/
def depth (s : State) : Nat := s.fld 0x40 0 2
/-- This node is configured as a root (R314). -/
def isRoot (s : State) : Bool := s.fld 0x40 0 4 = 0
/-- Depth of a group's apex as the member slots name it (R332). -/
def apexDepth (s : State) (g : Nat) : Nat :=
  match s.members g with
  | i :: _ => if s.fld 0x41 i.1 2 = 0xFF then s.depth else s.fld 0x41 i.1 2
  | [] => s.depth
/-- The node is the group's apex (R333). A node without a member slot is not told its depth: it takes itself as the apex when it is the
root (DESIGN CHOICE, log 70). -/
def apexHere (s : State) (g : Nat) : Bool := if s.members g = [] then s.isRoot else s.apexDepth g = s.depth
/-- The group is tray-local: its apex is the node itself, and no child reports a member (R333; DEDUCED, log 40). -/
def localGroup (s : State) (g : Nat) : Bool := s.apexHere g && (s.grp g).kids.isEmpty
/-- D of the records that the children of an apex have sent (R336). -/
def reduceOf (kids : List (Nat × Reach)) : Nat :=
  240 + 2 * (kids.map (fun k => k.2.cost)).foldl max 0 + 40 * (kids.map (fun k => k.2.levels)).foldl max 0
/-- D(G) in ns: at the apex from the records of its children, 240 for a tray-local group (R336, R337), else as the apex last sent it. -/
def reduceNs (s : State) (g : Nat) : Option Nat :=
  if s.apexHere g then some (reduceOf (s.grp g).kids) else (s.grp g).reach.map (fun r => r.1)
/-- D(domain) in ns (R338). -/
def domainNs (s : State) : Option Nat := if s.isRoot then some (reduceOf s.gop.domainKids) else s.gop.domain
/-- D of a scope: a group, or 0xFFFF for the domain (R334, R338). -/
def scopeNs (s : State) (scope : Nat) : Option Nat := if scope = 0xFFFF then s.domainNs else s.reduceNs scope
/-- λ(G) in ns (R339). -/
def leadNs (d : Nat) : Nat := 2 * d + 64000
/-- The first frame boundary at least λ(G) ahead (R339). -/
def legalEpoch (s : State) (d : Nat) : Nat := ceilDiv (1000 * s.ct + leadNs d) 1024000 * 1024
/-- A slot is an expected contributor: RUNNING and not expelled (R343, R356). -/
def expected (s : State) (i : Fin 8) : Bool := s.running i && !(s.slot i).expelled

/-- This node's request for a group: the highest of its active causes (R26, R353). -/
def request (s : State) (g : Nat) : Nat :=
  let x := s.grp g
  let tray := max s.weir.budgetStep s.cool.ceilStep
  max (if s.members g = [] then 0 else tray) (max (max x.gust x.loss) (max x.integ (x.host.getD 0)))

/-! ### Link cells (R303 to R305) -/

def port (s : State) (p : Fin 18) : PortSt := s.cad.ports.get p
def updPort (p : Fin 18) (f : PortSt → PortSt) (s : State) : State :=
  { s with cad := { s.cad with ports := Vec.upd s.cad.ports p f } }

/-- Sending one cell on a port (R303). -/
def sendCell (p : Fin 18) (type : Nat) (payload : BitVec 100) (s : State) : State :=
  (s.send (.cell p.1 type (s.port p).txSeq payload)).updPort p (fun x => { x with txSeq := x.txSeq + 1 })

/-- Sending an OP cell, twice in consecutive slots (R305). -/
def sendOp (p : Fin 18) (c : OpPayload) (s : State) : State := (s.sendCell p 2 (packOp c)).sendCell p 2 (packOp c)

/-- The port of the active uplink (R319). -/
def upPort (s : State) : Fin 18 := if s.cad.active = 0 then 16 else 17
/-- Downlinks that lead to children of this node: primary children, and standby children it has adopted (R320). -/
def childPorts (s : State) : List (Fin 18) :=
  (List.finRange 18).filter (fun p =>
    p.1 < 16 && (s.port p).st = .up &&
      ((s.fld 0x40 0 5).testBit p.1 || ((s.fld 0x40 0 6).testBit p.1 && (s.port p).adopted)))

/-- Sending a code-lane word to a slot (R296). -/
def sendLane (i : Fin 8) (type : Nat) (payload : BitVec 72) (s : State) : State := s.send (.lane i.1 type payload)

/-- OP code of an epoch function on the slot lanes (R298) and in OP cells (R349). -/
def epochOp : EpochFn → Nat
  | .commit => 1 | .reset => 2 | .snapshot => 3 | .cadence => 4
def epochFnCode : EpochFn → Nat
  | .commit => 8 | .reset => 9 | .snapshot => 0xA | .cadence => 0xB

/-- Word 0 of an epoch proposal: EPOCH_FRAME and ARG (R349). -/
def epochWord (epoch arg : Nat) : BitVec 64 := (BitVec.ofNat 54 (epoch / 1024) ++ BitVec.ofNat 8 arg ++ (0 : BitVec 2) : BitVec 64)

/-- The epoch of word 0. -/
def epochOf (d : BitVec 64) : Nat := (d.extractLsb' 10 54).toNat * 1024
def argOf (d : BitVec 64) : Nat := (d.extractLsb' 2 8).toNat

/-- An OP cell of an epoch function. -/
def epochCell (fn : EpochFn) (dir g word flags : Nat) (data : BitVec 64) : OpPayload :=
  { fn := BitVec.ofNat 4 (epochFnCode fn), dir := BitVec.ofNat 2 dir, group := BitVec.ofNat 8 g, seq := 0,
    word := BitVec.ofNat 5 word, flags := BitVec.ofNat 4 flags, data }

/-! ### CADENCE_AT and the emergency throttle (R27, R29 to R31, R353, R358 to R360) -/

/-- A pending epoch operation before anything is known of it. -/
def pendingOp : EpochOp :=
  { group := 0, fn := .cadence, domain := false, epoch := 0, arg := 0, commitId := 0, ports := [], spread := false, since := 0, armed := 0,
    refused := false, selfArmed := false, reduceStarted := false, kids := [], decided := none, throttle := false }

/-- The node decides the operations of the scope: it is the group's apex, or the root for the domain (R334). -/
def decidesHere (s : State) (o : EpochOp) : Bool := if o.domain then s.isRoot else s.apexHere o.group.1

/-- FLAGS of an OP cell (R349). -/
def opFlags (o : EpochOp) (last : Bool) : Nat := b2n last + 4 * b2n o.domain

/-- The cells of a proposal (R349); SNAP_ID, wider than ARG, goes in word 1 (DESIGN CHOICE, log 71). -/
def proposalCells (o : EpochOp) (dir : Nat) : List OpPayload :=
  let second := fun (d : BitVec 64) =>
    [epochCell o.fn dir o.group.1 0 (opFlags o false) (epochWord o.epoch 0), epochCell o.fn dir o.group.1 1 (opFlags o true) d]
  match o.fn with
  | .commit => second (o.commitId.setWidth 64)
  | .snapshot => second (BitVec.ofNat 64 o.arg)
  | _ => [epochCell o.fn dir o.group.1 0 (opFlags o true) (epochWord o.epoch 0)]

def sendOps (p : Fin 18) (cs : List OpPayload) (s : State) : State := cs.foldl (fun t c => t.sendOp p c) s

/-- Child links that have members of a group (R343). -/
def kidPorts (s : State) (g : Nat) : List (Fin 18) :=
  s.childPorts.filter (fun p => (s.grp g).kids.any (fun k => k.1 = p.1))
/-- Child links that lead to members of an operation's scope (R334). -/
def scopePorts (s : State) (o : EpochOp) : List (Fin 18) := if o.domain then s.childPorts else s.kidPorts o.group.1

/-- One operation: same scope, function and epoch, and the same COMMIT_ID (R351). -/
def sameOp (a b : EpochOp) : Bool :=
  a.fn = b.fn && a.domain = b.domain && (a.domain || a.group = b.group) && a.epoch = b.epoch &&
    (a.fn ≠ .commit || a.commitId = b.commitId)

/-- Slots of this node that an operation's EPOCH, CANCEL and ARM words concern (R350). -/
def opSlots (s : State) (o : EpochOp) : List (Fin 8) :=
  (List.finRange 8).filter (fun i => s.running i && (o.domain || s.groupOf i = o.group.1))

/-- PAYLOAD of an EPOCH word, and of a CANCEL word (R298). The step of a CADENCE_AT is not known yet, and ARG is 0. -/
def epochPayload (o : EpochOp) : BitVec 72 :=
  (BitVec.ofNat 8 (epochOp o.fn) ++ BitVec.ofNat 54 (o.epoch / 1024) ++ (0 : BitVec 10) : BitVec 72)

/-- Pending epoch operations of an operation's scope (R351 condition 3). -/
def pendingOf (s : State) (o : EpochOp) : Nat :=
  (s.gop.epochs.filter (fun x => x.domain = o.domain && (x.domain || x.group = o.group))).length

/-- The operation is pending here. -/
def knowsOp (s : State) (o : EpochOp) : Bool := s.gop.epochs.any (sameOp o)
/-- Changing a pending operation. -/
def updOp (o : EpochOp) (f : EpochOp → EpochOp) (s : State) : State :=
  { s with gop := { s.gop with epochs := s.gop.epochs.map (fun x => if sameOp o x then f x else x) } }
def dropOp (o : EpochOp) (s : State) : State :=
  { s with gop := { s.gop with epochs := s.gop.epochs.filter (fun x => !sameOp o x) } }

/-- Recording an operation; one that is known takes over the commands, the ARG and the throttle. With 8 pending already, a new one will not
be armed for (R351). -/
def recordOp (o : EpochOp) (s : State) : State :=
  if s.knowsOp o then
    s.updOp o (fun x => { x with
      ports := x.ports ++ o.ports, throttle := x.throttle || o.throttle, arg := if o.ports = [] then x.arg else o.arg })
  else { s with gop := { s.gop with epochs := s.gop.epochs ++ [{ o with refused := decide (8 ≤ s.pendingOf o) }] } }

/-- A proposal has come to a member from the apex: it goes on to the children and as EPOCH words to the RUNNING slots (R350
step 2). -/
def proposalArrives (o : EpochOp) (s : State) : State :=
  if s.gop.epochs.any (fun x => sameOp o x && x.spread) then s
  else
    let s := if s.knowsOp o then s else s.recordOp o
    let s := s.updOp o (fun x => { x with spread := true, since := s.lt })
    let s := (s.scopePorts o).foldl (fun t p => t.sendOps p (proposalCells o 1)) s
    (s.opSlots o).foldl (fun t i => t.sendLane i 0x02 (epochPayload o)) s

/-- The initiating node accepts an epoch operation; its proposal climbs to the apex and descends from there (R350 steps 1 and 2). One that is
pending already is one operation with it (R351). -/
def propose (o : EpochOp) (s : State) : State :=
  let known := s.knowsOp o
  let s := s.recordOp o
  if known then s
  else if s.decidesHere o then s.proposalArrives o else s.sendOps s.upPort (proposalCells o 0)

/-- Issuing a CADENCE_AT for the earliest legal epoch: the proposal climbs to the apex (R350 step 2). Without reach none can be
issued; one that an emergency throttle calls for then counts as ended without effect, for the first frame boundary 64 ticks ahead (R337,
R359). -/
def issueCadence (g : Nat) (thr : Bool) (s : State) : State :=
  let o := { pendingOp with group := Fin.ofNat 256 g, fn := .cadence, throttle := thr }
  match s.reduceNs g with
  | some d => s.propose { o with epoch := s.legalEpoch d }
  | none =>
    if thr then (s.recordOp { o with epoch := s.boundaryAfter 64, decided := some (false, 0) }).notice 0x0575 else s

/-- After a cause changed its request: a CADENCE_AT for every group that spans trays; tray-local groups take theirs at the next
frame boundary (R27). -/
def requestsChanged (s : State) : State :=
  s.groupsHere.foldl (fun t g => if t.localGroup g then t else t.issueCadence g false) s

/-- The slots an emergency throttle asserts on (R29). -/
def poweredMask (s : State) : BitVec 8 :=
  BitVec.ofNat 8 (maskOf 8 (fun i => s.powered (Fin.ofNat 8 i)))

/-- Asserting the throttle now, and awaiting the step change of every group of the tray (R29, R30). -/
def assertThrottle (s : State) : State :=
  let aw := s.groupsHere.map (fun g =>
    (g, if s.localGroup g then none else match s.reduceNs g with | some d => some (s.legalEpoch d) | none => some (s.boundaryAfter 64)))
  let x := s.gop.throt
  let s := { s with gop := { s.gop with throt := { x with
    mask := s.poweredMask, since := if x.mask = 0 then s.lt else x.since, awaits := aw, back := false } } }
  s.groupsHere.foldl (fun t g => if t.localGroup g then t else t.issueCadence g true) s

/-- An emergency throttle, whose cause has raised its request (R30); held back within 4,096 ticks of a release (R360). -/
def emergency (s : State) : State :=
  match s.gop.throt.lastRelease with
  | some t =>
    if s.lt < t + 4096 then
      let s := { s with gop := { s.gop with throt := { s.gop.throt with back := true } } }
      (s.groupsHere.foldl (fun t g => if t.localGroup g then t else t.issueCadence g true) s).count 0x0576
    else s.assertThrottle
  | none => s.assertThrottle

/-- Releasing the throttle on every slot it was asserted on (R30, R360). -/
def releaseThrottle (s : State) : State :=
  if s.gop.throt.mask = 0 then { s with gop := { s.gop with throt := { s.gop.throt with awaits := [] } } }
  else { s with gop := { s.gop with throt := { s.gop.throt with mask := 0, awaits := [], lastRelease := some s.lt } } }

/-! ### Lane operations that lose a member (R343, R348) -/

/-- FN of an OP_ID (R341). -/
def opFn (o : LaneOp) : Nat := o.opId.toNat / 16

/-- The operation still waits for a slot's contribution (R343). -/
def waitsFor (s : State) (o : LaneOp) (i : Fin 8) : Bool :=
  o.result.isNone && o.deadline.isNone && o.group.1 = s.groupOf i &&
  (if opFn o = 7 then
     s.fld 0x41 i.1 3 ≠ 0xFF && !o.contribs.any (fun c => c.2.1 = s.fld 0x41 i.1 3)
   else (opFn o = 0 || (2 ≤ opFn o && opFn o ≤ 6)) && !o.contribs.any (fun c => c.1 = .slot i))

/-- The cell that carries a failure notice to other nodes (R349). -/
def noticeCell (o : LaneOp) (dir reason : Nat) : OpPayload :=
  { fn := BitVec.ofNat 4 (opFn o), dir := BitVec.ofNat 2 dir, group := BitVec.ofNat 8 o.group.1, seq := BitVec.ofNat 8 (o.opId.toNat % 16),
    word := 0, flags := 3, data := BitVec.ofNat 64 (reason * 2 ^ 56) }

/-- Changing a lane operation. -/
def updLane (o : LaneOp) (f : LaneOp → LaneOp) (s : State) : State :=
  { s with gop := { s.gop with lanes := s.gop.lanes.map (fun (x : LaneOp) => if x.group = o.group && x.opId = o.opId then f x else x) } }

/-- Ending a lane operation with a failure notice, counted at this node; it goes to the apex, and from the apex to every child with
members (R348). -/
def failLane (o : LaneOp) (reason : Nat) (s : State) : State :=
  let s := (s.updLane o (fun x => { x with result := some (.inr reason) })).count (0x0580 + reason)
  if s.apexHere o.group.1 then (s.kidPorts o.group.1).foldl (fun t p => t.sendOp p (noticeCell o 1 reason)) s
  else s.sendOp s.upPort (noticeCell o 0 reason)

/-- Every operation that waits for the slot ends with MEMBER_LOST (R343). -/
def memberLost (i : Fin 8) (s : State) : State :=
  (s.gop.lanes.filter (fun o => s.waitsFor o i)).foldl (fun t o => t.failLane o 6) s

/-- BAR 4 offset of an offset in page `p` of the notebook of slot `i` (R78). -/
def nbAddr (i : Fin 8) (p off : Nat) : Nat := (8 * i.1 + p) * 0x400000 + 0x3E0000 + off
/-- Zero bytes in every page of a slot's notebook, which is then open and not valid (R505); no write meets the clearing (log 30). -/
def nbClear (i : Fin 8) (s : State) : State :=
  { s with
    chk := { s.chk with bar4 := (List.range 8).foldl (fun m p => m.erase (nbAddr i p 0) 131072) s.chk.bar4 }
    slots := Vec.upd s.slots i (fun x => { x with nbValid := false, planGen := 0, announced := [] }) }

/-! ### Slot state changes (R489, R490, R659) -/

/-- A Lull test ordered and not begun is cancelled when the slot leaves RUNNING or its Lull map goes (R462). -/
def cancelLull (i : Fin 8) (s : State) : State :=
  let l := (s.islot i).lull
  if l.st = .ordered then
    (s.updIslot i (fun x => { x with lull := { l with
      st := if l.owed ≠ [] then .retestOwed else .idle, sent := false, lastTick := s.lt } })).count (0x06B0 + i.1)
  else s

/-- What a slot loses when it is no longer powered (R485, R486, R493, R503). -/
def unpowerSlot (s : State) (i : Fin 8) : State :=
  let s := s.updSlot i (fun x => { x with
    rst := true, releaseAt := none, pulseEnd := none, releasedAt := none, identNext := none, identified := false,
    serial := 0, fwVer := 0, alert := false, addressed := false, base := none, pack := none, packDone := false,
    runAt := none, planDue := none, streak := 0, forecast := none, measured := none })
  { s with gop := { s.gop with throt := { s.gop.throt with mask := setBit s.gop.throt.mask i.1 false } } }

/-- The STATES bytes that slot commands reply with (R513). -/
def SlotState.num : SlotState → Nat
  | .absent => 0 | .off => 1 | .powering => 2 | .held => 3 | .running => 4 | .quarantined => 5 | .failed => 6
def slotStates (s : State) : Bytes := (List.finRange 8).map (fun i => byte (SlotState.num (s.slot i).st))

/-- The reply of SLOT_POWER (R513). -/
def slotPowerReply (s : State) : Bytes := s.slotStates ++ natLE 8 s.lt

/-- Ports whose accepted SLOT_POWER with this ACTION names the slot, and the mask each names (R515). -/
def slotPowers (s : State) (action : Nat) (i : Fin 8) : List (Port × Nat) :=
  (s.acceptedOn 0x0702).filterMap (fun p =>
    let ps := s.params p
    if ps.num 1 1 = action && (ps.num 0 1).testBit i.1 then some (p, ps.num 0 1) else none)

/-- A slot has arrived where SLOT_POWER on takes it (R515). -/
def arrived (s : State) (i : Fin 8) : Bool :=
  (s.slot i).st = .held || (s.slot i).st = .running || (s.slot i).st = .quarantined

/-- SLOT_POWER on, when a named slot has changed state: OK when every named slot has arrived, FAILED when one reaches OFF, ABSENT or
FAILED first (R515). -/
def slotPowerSettle (i : Fin 8) (s : State) : State :=
  (s.slotPowers 1 i).foldl (fun t (p, m) =>
    if (t.slot i).st = .off || (t.slot i).st = .absent || (t.slot i).st = .failed then t.finish p .failed t.slotPowerReply
    else if (List.finRange 8).all (fun j => !m.testBit j.1 || t.arrived j) then t.finish p .ok t.slotPowerReply
    else t) s

/-- A slot's change of state (R490) with what follows at that instant. -/
def setSlot (i : Fin 8) (st : SlotState) (cause : Nat) (s : State) : State :=
  let old : SlotState := (s.slot i).st
  let s := s.updSlot i (fun x => { x with st := st, cause := cause, stateTick := s.lt })
  let s := if old = .running && st ≠ .running then (s.memberLost i).cancelLull i else s
  let s := match st with
    | .absent | .off | .failed => s.unpowerSlot i
    | .powering => (s.nbClear i).updSlot i (fun x => { x with rst := true, releaseAt := none })
    | .held => if old = SlotState.powering then s.updSlot i (fun x => { x with releaseAt := some (s.lt + 10000) }) else s
    | .running | .quarantined => s.updSlot i (fun x => { x with runAt := none })
  let s := if s.arrived i then s else s.pushSlotGone i
  s.slotPowerSettle i

/-- Holding a slot: RUNNING to HELD (R490). -/
def holdSlot (i : Fin 8) (s : State) : State := if s.running i then s.setSlot i .held 0 else s

/-! ### Draft commits that end (R139, R150 to R155) -/

/-- The reply of DRAFT_COMMIT without a failure list (R161). -/
def commitReply (instant reason : Nat) : Bytes := natLE 8 instant ++ [byte reason, 0, 0, 0] ++ natLE 2 0 ++ natLE 2 0

/-- The session that opened the Draft is over (R139). -/
def draftOrphan (s : State) (d : Draft) : Bool :=
  match s.sessionOf d.owner with
  | some x => x.id ≠ d.session
  | none => true

/-- A pending commit ends without taking effect: FAILED with a reason, or ABANDONED; its Draft stays open unless its session
is over (R139, R152). -/
def failCommit (c : Code) (reason : Nat) (s : State) : State :=
  match s.cfg.commit with
  | none => s
  | some m =>
    let keep := match s.cfg.draft with | some d => !s.draftOrphan d | none => false
    let s := { s with cfg := { s.cfg with commit := none, draft := if keep then s.cfg.draft else none } }
    if c = .abandoned then s.abandon m.port else s.finish m.port c (commitReply m.instant reason)

/-! ### Leaving Full (R23, R50, R51, R113, R155, R321, R417, R425, R546, R656) -/

/-- The mirror's time jumps when Full is left: the node runs a domain time apart from its local tick counter (R155). -/
def jumpsOnLeave (s : State) : Bool := s.cad.stepped || s.cad.rootHeld

/-- The feature map of the keeper image alone (R112; DEDUCED, log 14). -/
def keeperMap : Nat := 0xF31B
/-- The feature map in Full (R112). -/
def fullMap : Nat := 0xFFFF
def devMap (s : State) : Nat := if s.isFull then fullMap else keeperMap

/-- A change of the device map: FEATURES_CHANGED, and the sessions lose what is no longer offered (R113). -/
def mapChanged (s : State) : State :=
  let cut := fun (x : Session) => { x with map := x.map &&& s.devMap }
  { s with
    bus := { s.bus with featuresChanged := true }
    sess := { s.sess with host := s.sess.host.map cut, sideband := s.sess.sideband.map cut } }

/-- The commit that was pending when Full was left (R155). -/
def commitOnLeave (jump : Bool) (s : State) : State :=
  match s.cfg.commit with
  | none => s
  | some m =>
    let fullObj := match s.cfg.draft with | some d => d.staged.any (fun e => fullOnly e.1.obj) | none => false
    if m.port.1 < 6 || fullObj then
      let s := s.failCommit .abandoned 0
      if m.port.1 < 6 then { s with cfg := { s.cfg with draft := none } } else s
    else if m.mode = 2 then (s.failCommit .failed 2).notice 0x0013
    else if !jump then s
    else if m.mode = 1 then s.failCommit .abandoned 0
    else { s with cfg := { s.cfg with commit := some { m with instant := ceilDiv (s.lt + 64) 1024 * 1024 } } }

/-- Opcodes that are served in Full alone (R106). -/
def fullOpcode (op : Nat) : Bool :=
  (0x0400 ≤ op && op < 0x0700) || op = 0x0704 || op = 0x0705

/-- Emptying the check engine: records sealed or checking are lost, one count an area (R398, R417). -/
def chkLeave (s : State) : State :=
  let n := (Vec.find s.chk.areas (fun a => a.st = .sealed || a.st = .checking)).length
  let s := (List.range n).foldl (fun t _ => t.notice 0x0649) s
  { s with chk := { resetChk with bar4 := s.chk.bar4 } }

/-- What the integrity policy loses with Full (R450, R465). -/
def integLeave (s : State) : State :=
  let s := if s.integ.rx.isSome then s.count 0x06D7 else s
  let s := (List.finRange 8).foldl (fun t i => t.cancelLull i) s
  { s with integ := { s.integ with
      rx := none, queue := [], plans := [], lastVote := []
      slots := Vec.mapIdx s.integ.slots (fun _ x => { x with
        stepDue := none, items := [], fences := [], selected := 0, missing := 0, recent := [], short := false, devCount := 0,
        lull := { x.lull with st := .idle, sent := false, owed := [] } }) } }

/-- The upper cores stopped, and everything that ends with them. `stage0` tells that stage 0 was lost, the reason a pending
handover fails with (R579). -/
def leaveFull (s : State) : State :=
  if !s.isFull then s else
    let jump := s.jumpsOnLeave
    let s := match s.upd.handover with
      | some h => ({ s with upd := { s.upd with handover := none, lastReason := 8 } }).finish h.port .failed
          ([8, 0, 0, 0] ++ natLE 4 h.fromVer ++ natLE 4 0 ++ zeros 4 ++ natLE 8 h.frame)
      | none => s
    let s := (List.finRange 8).foldl (fun t i => t.holdSlot i) s
    let s := s.commitOnLeave jump
    let s := (List.finRange 8).foldl (fun t p =>
      if (t.win p).state = .accepted && (p.1 < 6 || fullOpcode (t.win p).opcode.toNat) then t.abandon p else t) s
    let s := match s.cfg.draft with
      | some d => if d.owner.1 < 6 && s.cfg.commit.isNone then { s with cfg := { s.cfg with draft := none } } else s
      | none => s
    let s := ((s.chkLeave).integLeave).basinClear
    let s := match s.upd.session with
      | some u => if u.full then { s with upd := { s.upd with session := none } } else s
      | none => s
    let s := { s with
      dev := { s.dev with
               st := .keeper
               frame := s.dev.lt / 1024
               plls := Vec.tab 5 (fun i => if i.1 = 0 then s.dev.plls.get i else .stopped) },
      cad := resetCad,
      gop := { resetGop with
        snaps := s.gop.snaps
        groups := s.gop.groups.filterMap (fun (c : Fin 256 × GroupSt) => if c.2.loss = 0 && c.2.gust = 0 then none
          else some (c.1, { noGroup with loss := c.2.loss, gust := c.2.gust })) },
      cfg := { s.cfg with
               eff := s.cfg.eff.filter (fun c => c.1.obj ≠ 0x50 && c.1.obj ≠ 0x51 && c.1.obj ≠ 0x60) },
      boot := { s.boot with
                upper := none, upperHo := 0, upperCompat := [], ucodeCompat := []
                meas := s.boot.meas.set 1 (zeros 32)
                cores := Vec.mapIdx s.boot.cores (fun k c => if 2 ≤ k.1 then { c with run := false, mapLocked := false, sectionsOk := false } else c) },
      upd := { s.upd with live := false, liveDue := false, block := [] } }
    s.mapChanged

end State

end Sys2Proof.Machine
end

