-- ==== Sys2Proof/Machine/Evidence.lean ====
section
/-!
DEFINITION. What a finished check hands on: its counters, the result log, the evidence it gives and the Lull-test bookkeeping (R415,
R421, R450, R462, R463).
-/

namespace Sys2Proof.Machine

/-- The unit of a slot (R466). -/
def slotUnit (i : Fin 8) : UnitKey := { kind := 2, serial := 0, index := i.1 }

/-- How a Lull test ends (R462). -/
inductive Fate
  | pass | fail | void
  deriving DecidableEq, Repr

namespace State

/-- The unit of a core, or of the slot when the core is not known (R450, R466). -/
def coreUnit (s : State) (i : Fin 8) (core : Nat) : UnitKey :=
  if core = 0xFFFF then slotUnit i else { kind := 0, serial := (s.slot i).lastSerial, index := core }
/-- The unit of a stack, or of the slot when the stack is not known. -/
def stackUnit (s : State) (i : Fin 8) (hbm : Nat) : UnitKey :=
  if hbm = 0xFF then slotUnit i else { kind := 1, serial := (s.slot i).lastSerial, index := hbm }

/-- The evidence of a result; none for what is counted only (R415, R450). -/
def resultEvidence (s : State) (r : CheckRes) : Option Evidence :=
  let i := Fin.ofNat 8 r.slot
  if bits r.flags 1 3 ≠ 0 then none
  else match r.outcome with
    | 0 => some { slot := i, key := s.coreUnit i r.core, kind := .sample, retest := false }
    | 1 => some { slot := i, key := s.coreUnit i r.core, kind := .mismatch, retest := false }
    | 3 => some { slot := i, key := s.stackUnit i r.hbm, kind := .mismatch, retest := false }
    | _ => none

/-- Handing an item to the integrity policy (R452). -/
def pushEvidence (e : Evidence) (s : State) : State := { s with integ := { s.integ with queue := s.integ.queue ++ [e] } }

/-- The end of the Lull test that a slot was ordered (R462, R463). -/
def lullEnds (i : Fin 8) (f : Fate) (s : State) : State :=
  let l := (s.islot i).lull
  let c := (l.core, l.test)
  let owed := if f = Fate.void then l.owed else if l.isRetest then l.owed.erase c else if f = Fate.fail then l.owed ++ [c] else l.owed
  let s := s.updIslot i (fun x => { x with lull := { l with
    st := if owed ≠ [] then .retestOwed else .idle
    sent := false, isRetest := false, owed := owed, lastTick := s.lt
    passes := l.passes + b2n (f = Fate.pass), fails := l.fails + b2n (f = Fate.fail), void := l.void + b2n (f = Fate.void) } })
  match f with
  | .pass => s
  | .fail => s.pushEvidence { slot := i, key := s.coreUnit i l.core, kind := .lullFail, retest := l.isRetest }
  | .void => s.count (0x06A8 + i.1)

/-- A result with LULL, for the test whose order number it carries (R414, R461, R462). -/
def lullResult (r : CheckRes) (s : State) : State :=
  let i := Fin.ofNat 8 r.slot
  let l := (s.islot i).lull
  if !bit r.flags 3 || bit r.flags 2 || !(l.st = .ordered || l.st = .running || l.st = .awaiting) || r.seqEcho ≠ l.order then s
  else s.lullEnds i
    (if r.core ≠ l.core then .void
     else if r.outcome = 0 then .pass
     else if (r.outcome = 1 || r.outcome = 3) && !bit r.flags 1 then .fail
     else .void)

/-- U2 enters a result in the log and hands it on (R415). -/
def reportCheck (r : CheckRes) (s : State) : State :=
  let s := s.count (0x0600 + 8 * r.outcome + r.slot)
  let s := if r.reason = 0 then s else s.count (0x0620 + r.reason)
  let log := s.chk.log ++ [r]
  let s := { s with chk := { s.chk with log := log.drop (log.length - 4096) } }
  let s := match s.resultEvidence r with
    | some e => s.pushEvidence e
    | none => s
  s.lullResult r

/-- The results that waited for U2, once it runs again (R417). -/
def reportOwed (s : State) : State :=
  s.chk.owed.foldl (fun t r => t.reportCheck r) { s with chk := { s.chk with owed := [] } }

/-- Base of a record area in BAR 4 (R78). -/
def areaBase (a : Nat) : Nat := a * 0x400000

/-- Changing a record area, with the AREA_STATE byte that reads show (R398). -/
def setArea (a : Fin 64) (x : AreaSt) (s : State) : State :=
  let code : Byte := match x.st with | .free => 0 | .sealed => 1 | .checking => 2 | .done => 3
  { s with chk := { s.chk with
      areas := s.chk.areas.set a.1 x
      bar4 := Mem.write 0 s.chk.bar4 (areaBase a.1 + 8) [code] } }

/-- The 192 bytes of a result block (R412). -/
def resultBlock (r : CheckRes) : Bytes :=
  [byte r.outcome, byte r.reason, byte r.flags, 0] ++ natLE 2 r.seqEcho ++ natLE 2 r.firstEntry ++ natLE 4 r.firstDiff
    ++ natLE 4 r.diffCount ++ natLE 4 r.scaleDiff ++ natLE 4 r.refCode ++ natLE 4 r.dxCode ++ [byte r.badDesc, 0, 0, 0]
    ++ natLE 4 r.badBlock ++ zeros 4 ++ natLE 8 r.sealTick ++ natLE 8 r.doneTick ++ natLE 8 r.seq ++ zeros 128

/-- A check ends: the result block, then DONE, then the report once U2 runs (R402, R415, R417). -/
def endCheck (a : Fin 64) (r : CheckRes) (s : State) : State :=
  let r := { r with doneTick := s.ct, seq := s.chk.nextSeq }
  let s := { s with chk := { s.chk with
    nextSeq := s.chk.nextSeq + 1, bar4 := Mem.write 0 s.chk.bar4 (areaBase a.1 + 0x40) (resultBlock r) } }
  let s := s.setArea a { (s.chk.areas.get a) with st := .done, res := none }
  if s.coreRuns 4 && s.chk.owed = [] then s.reportCheck r
  else { s with chk := { s.chk with owed := s.chk.owed ++ [r] } }

/-- A result that names no block, from what a record's header holds; `reason` with UNVERIFIABLE (R412, R413). -/
def plainResult (s : State) (a : Fin 64) (reason : Nat) : CheckRes :=
  let h := fun (off k : Nat) => Mem.num 0 s.chk.bar4 (areaBase a.1 + off) k
  { outcome := 2, reason, flags := bits (h 0x103 1) 0 2 * 4, seqEcho := h 2 2, firstEntry := 0, firstDiff := 0, diffCount := 0, scaleDiff := 0,
    refCode := 0, dxCode := 0, badDesc := 0xFF, badBlock := 0, sealTick := (s.chk.areas.get a).sealTick, doneTick := 0, seq := 0,
    step := h 0x110 8, tile := h 0x108 4, layer := h 0x106 2, core := h 0x10C 2, hbm := h 0x10E 1, slot := a.1 / 8, area := a.1,
    formed := false }

/-- Sealed areas in the order of their checks: SEAL_TICK, then area number (R409). -/
def waitingAreas (s : State) : List (Fin 64) :=
  sortBy (fun a b =>
    decide ((s.chk.areas.get a).sealTick < (s.chk.areas.get b).sealTick) ||
      ((s.chk.areas.get a).sealTick = (s.chk.areas.get b).sealTick && decide (a.1 ≤ b.1)))
    (Vec.find s.chk.areas (fun x => x.st = .sealed))

/-- Every record that waits ends at once with a reason (R65, R417, R420). -/
def endWaiting (reason : Nat) (s : State) : State :=
  s.waitingAreas.foldl (fun t a => t.endCheck a (t.plainResult a reason)) s

/-- Records sealed or checking end UNVERIFIABLE with reason ENGINE: a PLL failed twice (R65, R417). -/
def engineFails (s : State) : State :=
  let s := (Vec.find s.chk.areas (fun x => x.st = .checking)).foldl (fun t a => t.endCheck a (t.plainResult a 7)) s
  s.endWaiting 7

end State

end Sys2Proof.Machine
end

