-- ==== Sys2Proof/Machine/Clear.lean ====
section
/-!
DEFINITION. What a system reset clears (R587), and its start with the stretch through the down-sequence left to the Cascade.
-/

namespace Sys2Proof.Machine

namespace State

/-- Settings of objects 0x30 to 0x33, which fans, pumps, trips and leak response hold through a system reset (R587). -/
def coolObj (o : Nat) : Bool := 0x30 ≤ o && o ≤ 0x33

/-- A feed after a system reset: what the VBAT and always-on domains hold stays (R189, R198, R587). -/
def clearFeed (f : FeedSt) : FeedSt :=
  { resetFeed with
    st := f.st, trip := f.trip, retries := f.retries, latched := f.latched, cooldown := f.cooldown, minOff := f.minOff,
    inWin := f.inWin, inSince := f.inSince, settled := f.settled, soa := f.soa, lastTrip := f.lastTrip, wasOn := f.wasOn, vin := f.vin,
    vout := f.vout, i := f.i }

/-- A rail after a system reset: what the comparators judge, and a STUCK rail's latch with its Spillway output (R233). -/
def clearRail (r : RailSt) : RailSt :=
  { resetRail with
    stuck := r.stuck, dsc := r.stuck && r.dsc, pg := r.pg, discharged := r.discharged, mv := r.mv, evTick := r.evTick }

/-- A slot after a system reset: OFF, or ABSENT, with the request and BOOT code that the backup register keeps (R494). -/
def clearSlot (x : SlotSt) : SlotSt :=
  { resetSlot with
    st := if x.present then .off else .absent
    request := x.request, boot := x.boot, present := x.present, lastSerial := x.lastSerial, stateTick := x.stateTick }

/-- Clearing the blocks of R587 at the end of the stretch; option loading begins (R592). -/
def systemClear (s : State) : State :=
  { s with
    dev := { s.dev with
      st := .calm, phase := .optionLoading, rstLow := true, plls := Vec.tab 5 (fun _ => .stopped), wake := false }
    bus := { reset.bus with perst := s.bus.perst, lanes := s.bus.lanes, gts := s.bus.gts }
    wins := Vec.tab 8 resetWin
    sess := { reset.sess with nextId := s.sess.nextId, i3cAddr := s.sess.i3cAddr }
    cfg := { reset.cfg with eff := s.cfg.eff.filter (fun c => coolObj c.1.obj), nextDraft := s.cfg.nextDraft }
    weir := { reset.weir with
      feeds := Vec.mapIdx s.weir.feeds (fun _ f => clearFeed f)
      heldLeak := s.weir.heldLeak, heldTrip := s.weir.heldTrip, vbatLost := s.weir.vbatLost, offTick := s.weir.offTick }
    casc := { reset.casc with
      rails := Vec.mapIdx s.casc.rails (fun _ r => clearRail r)
      casIn := s.casc.casIn, casInSince := s.casc.casInSince, downDone := s.casc.downDone }
    cool := { s.cool with
      zones := Vec.mapIdx s.cool.zones (fun _ z => { z with takeover := false })
      ceilStep := 0, ceilApplied := 0, overStart := none,
      underStart := none, returnStart := none, released := false, lastGust := none }
    cad := resetCad
    gop := resetGop
    chk := resetChk
    basin := resetBasin
    integ := resetInt
    slots := Vec.mapIdx s.slots (fun _ x => clearSlot x)
    boot := { resetBoot with
      flash := s.boot.flash, keys := s.boot.keys, failRec := s.boot.failRec
      cores := Vec.mapIdx s.boot.cores (fun _ c => { resetCore with wdFires := c.wdFires }) }
    upd := { reset.upd with nextId := s.upd.nextId }
    rst := { s.rst with
      stretch := none, window := none, reqTick := none, rstSince := s.rst.rstSince
      stretched := s.rst.stretch.isSome
      stretchUs := match s.rst.stretch with | some t => s.lt - t | none => 0 } }

/-- Holding every core in reset while a stretch runs (R592). -/
def haltCores (s : State) : State :=
  { s with boot := { s.boot with cores := Vec.mapIdx s.boot.cores (fun _ c => { c with run := false }) } }

/-- Adding a bit to RESET_CAUSE (R599). -/
def addCause (b : Nat) (s : State) : State := { s with rst := { s.rst with cause := setBit s.rst.cause b true } }

/-- What every system reset does at once: the cause and LAST, its counter, TMC_RST_N driven low, the escalation window closed, the
cores held (R591, R594, R599, R617). -/
def resetBegin (b : Nat) (s : State) : State :=
  let s := (s.addCause b).notice (0x0830 + b)
  let s := s.leaveFull
  let s := s.haltCores
  { s with
    dev := { s.dev with rstLow := true }
    rst := { s.rst with last := b, window := none, rstSince := s.lt, reqTick := none } }

end State

end Sys2Proof.Machine
end

