-- ==== Sys2Proof/Machine/Notebook.lean ====
section
/-!
DEFINITION. The slot notebook as the BT-8 reads it: header, schedule time, forecast, Lull map and manifest (R504 to R511), and
the limit that a forecast gives a feed (R181).
-/

namespace Sys2Proof.Machine

namespace State

def nbNum (s : State) (i : Fin 8) (p off k : Nat) : Nat := Mem.num 0 s.chk.bar4 (nbAddr i p off) k
def nbRead (s : State) (i : Fin 8) (p off k : Nat) : Bytes := Mem.read 0 s.chk.bar4 (nbAddr i p off) k

/-- Header fields (R506). -/
def nbGen (s : State) (i : Fin 8) : Nat := s.nbNum i 0 8 4
def nbOriginFrame (s : State) (i : Fin 8) : Nat := s.nbNum i 0 0x10 8
def nbOriginStep (s : State) (i : Fin 8) : Nat := s.nbNum i 0 0x18 8
def nbCycleSteps (s : State) (i : Fin 8) : Nat := s.nbNum i 0 0x20 4
def nbCycleUnits (s : State) (i : Fin 8) : Nat := s.nbNum i 0 0x24 4
def nbPeriod (s : State) (i : Fin 8) : Nat := s.nbNum i 0 0x28 2
def nbStatic (s : State) (i : Fin 8) : Nat := s.nbNum i 0 0x2A 2
def nbLulls (s : State) (i : Fin 8) : Nat := s.nbNum i 0 0x2C 2
def nbManifest (s : State) (i : Fin 8) : Nat := s.nbNum i 0 0x30 4

/-- Bytes of consecutive pages from the start of page `p`; pages are 4 MiB apart (R78). -/
def nbReadPages (s : State) (i : Fin 8) (p n : Nat) : Bytes :=
  (List.range n).map (fun k => Mem.get 0 s.chk.bar4 (nbAddr i (p + k / 131072) (k % 131072)))

/-- The check of a notebook: MAGIC, FORMAT, every count and CRC (R505, R506). -/
def nbCheck (s : State) (i : Fin 8) : Bool :=
  let per := s.nbPeriod i
  let lul := s.nbLulls i
  let man := s.nbManifest i
  s.nbRead i 0 0 4 = ascii "SKNB" && s.nbNum i 0 4 2 = 1 && 1 ≤ s.nbCycleSteps i && 1 ≤ per && per ≤ 16384 &&
    lul ≤ 16384 && man ≤ 24576 &&
    s.nbNum i 0 0xC 4 = crc32c (s.nbRead i 0 0x10 0x30 ++ s.nbRead i 0 0x40 (2 * per) ++
      s.nbReadPages i 1 (16 * lul) ++ s.nbReadPages i 3 (16 * man))

/-- Number of the frame that a tick count lies in. -/
def frameOf (t : Nat) : Nat := t / 1024

/-- Schedule time at the start of frame `f` (R507). -/
def sigma (s : State) (i : Fin 8) (f : Nat) : Nat :=
  ((s.slot i).runs.map (fun r => (min f r.2.1 - max (s.nbOriginFrame i) r.1) * (16 - r.2.2))).sum

/-- The notebook is valid and the slot runs (R505, R507). -/
def nbLive (s : State) (i : Fin 8) : Bool := s.running i && (s.slot i).nbValid

/-- The forecast entry for frame `k` (R507). -/
def forecastEntry (s : State) (i : Fin 8) (k : Nat) : Option Nat :=
  if s.nbLive i && s.nbOriginFrame i ≤ k && 0 < s.nbPeriod i then
    some (s.nbNum i 0 (0x40 + 2 * (s.sigma i k / 16 % s.nbPeriod i)) 2)
  else none

/-- The forecast in mW for frame `k` at a step (R502). -/
def forecastMw (s : State) (i : Fin 8) (k step : Nat) : Option Nat :=
  (s.forecastEntry i k).map (fun e =>
    ((1000 * (s.nbStatic i : Int) + 1000 * ((e : Int) - s.nbStatic i) * (16 - (step : Int)) / 16)).toNat)

/-- Lull entry `n`: core, step in cycle, start, length (R508). -/
def lullEntry (s : State) (i : Fin 8) (n : Nat) : Nat × Nat × Nat × Nat :=
  let a := 16 * n
  let p := 1 + a / 131072
  let o := a % 131072
  (s.nbNum i p o 2, s.nbNum i p (o + 4) 4, s.nbNum i p (o + 8) 4, s.nbNum i p (o + 12) 4)

/-- Manifest entry `n`: step in cycle, end, first tile, layer, count (R509). -/
def manifestEntry (s : State) (i : Fin 8) (n : Nat) : Nat × Nat × Nat × Nat × Nat :=
  let a := 16 * n
  let p := 3 + a / 131072
  let o := a % 131072
  (s.nbNum i p o 4, s.nbNum i p (o + 4) 4, s.nbNum i p (o + 8) 4, s.nbNum i p (o + 12) 2, s.nbNum i p (o + 14) 2)

/-- Lanes of a slot are driven (R294). -/
def laneDriven (s : State) (i : Fin 8) : Bool := s.isFull && s.powered i

/-! ### Limits of the Weir from the forecasts (R181) -/

def feed (s : State) (f : Feed) : FeedSt := s.weir.feeds.get f
def updFeed (f : Feed) (g : FeedSt → FeedSt) (s : State) : State :=
  { s with weir := { s.weir with feeds := Vec.upd s.weir.feeds f g } }
def feedsOn (s : State) : List Feed := (List.finRange 2).filter (fun f => (s.feed f).st = .on)
def connected (s : State) (f : Feed) : Bool := s.fld 0x11 f.1 1 = 1
/-- The ceiling in mA. -/
def ceilingMa (s : State) (f : Feed) : Nat := 100 * s.fld 0x11 f.1 3
/-- The other feed. -/
def otherFeed (f : Feed) : Feed := if f = 0 then 1 else 0

/-- Power expected for frame `k`, in mW (R181). -/
def expectedMw (s : State) (k : Nat) : Nat :=
  1000 * s.fld 0x10 0 7 +
    ((List.finRange 8).map (fun i =>
      if (s.slot i).st = .absent || (s.slot i).st = .off then 0
      else match s.forecastMw i k (s.grp (s.groupOf i)).step with
        | some f => f
        | none => 1000 * s.fld 0x10 0 8)).sum

/-- Bus voltage for the limit, in mV: the lowest over the feeds in ON (R181). -/
def busMv (s : State) : Nat :=
  match s.feedsOn.map (fun f => ((s.feed f).avgVout).getD (s.feed f).vout) with
  | [] => 0
  | v :: vs => vs.foldl min v

/-- The regulated limit of a feed in ON for frame `k`, in mA (R181, R35). -/
def limitMa (s : State) (f : Feed) (k : Nat) : Nat :=
  let cur := 100 * s.fld 0x11 f.1 4
  if s.fld 0x10 0 9 = 0 then cur
  else
    let n := if s.fld 0x10 0 0xB = 1 then max 1 s.feedsOn.length else 1
    let need := s.expectedMw k * 1000 * s.fld 0x10 0 0xA / (max 1 s.busMv * n * 64)
    min (max cur need) (s.ceilingMa f)

end State

end Sys2Proof.Machine
end

