-- ==== Sys2Proof/Machine/Power.lean ====
section
/-!
DEFINITION. What the Weir and the Cascade share: switching rails, failed rails and quarantine, sequences of the tray and of a slot, the
orderly shutdown, and all-off.
-/

namespace Sys2Proof.Machine

namespace State

/-! ### Switching a rail (R213 to R215, R224, R232) -/

/-- A PMBus write of one byte to the regulator of a rail, after PAGE when it is used (R214, R216). -/
def pmbusByte (n : Fin 64) (cmd v : Nat) (s : State) : State :=
  let c := s.fld 0x20 n.1 6
  let s := if bit c 14 then s.send (.pmbus (bits c 0 2) (bits c 2 7) (bits c 9 5) 0x00 [byte (bits c 9 5)]) else s
  s.send (.pmbus (bits c 0 2) (bits c 2 7) (bits c 9 5) cmd [byte v])

/-- The OPERATION write of the sequencing engine; a write that is not acknowledged is repeated once, and a second failure is counted
(R214). -/
def pmbusOperation (n : Fin 64) (v : Nat) (nack : Bool) (s : State) : State :=
  let s := s.pmbusByte n 0x01 v
  if nack then (s.pmbusByte n 0x01 v).count 0x0282 else s

def driveOf (s : State) (n : Fin 64) : Nat := s.fld 0x20 n.1 3
def hasEna (s : State) (n : Fin 64) : Bool := s.fld 0x20 n.1 4 ≠ 0xFF
def hasDsc (s : State) (n : Fin 64) : Bool := s.fld 0x20 n.1 5 ≠ 0xFF
/-- DRIVE names the enable; DRIVE names PMBus (R216). -/
def drivesEna (s : State) (n : Fin 64) : Bool := (s.driveOf n).testBit 0
def drivesPmbus (s : State) (n : Fin 64) : Bool := (s.driveOf n).testBit 1

/-- Turning a rail on: its Spillway output released, OPERATION, then the enable (R215, R224). -/
def turnOn (nack : BitVec 64) (s : State) (n : Fin 64) : State :=
  let bad := nack.getLsbD n.1
  let s := if s.drivesPmbus n then s.pmbusOperation n 0x80 bad else s
  s.updRail n (fun r => { r with
    phase := if r.pg then .good else .rising
    ena := s.drivesEna n && s.hasEna n
    pmbus := s.drivesPmbus n && !bad
    dsc := false, discharged := false, early := false, rose := false, evTick := s.lt })

/-- Turning a rail off: the enable released, then OPERATION, its Spillway output asserted until it is discharged (R215, R226, R232). -/
def turnOff (nack : BitVec 64) (s : State) (n : Fin 64) : State :=
  let bad := nack.getLsbD n.1
  let s := if s.drivesPmbus n then s.pmbusOperation n 0x00 bad else s
  s.updRail n (fun r => { r with
    phase := if r.discharged then .off else .falling
    ena := false
    pmbus := r.pmbus && bad
    dsc := s.hasDsc n && !r.discharged
    pg := false, evTick := s.lt })

/-! ### Sequences (R222, R224, R229, R232) -/

def seqOf (s : State) (q : Seq) : Option SeqRun :=
  match q with
  | none => s.casc.tray
  | some i => s.casc.slotSeq.get i
def setSeq (q : Seq) (r : Option SeqRun) (s : State) : State :=
  match q with
  | none => { s with casc := { s.casc with tray := r } }
  | some i => { s with casc := { s.casc with slotSeq := Vec.upd s.casc.slotSeq i (fun _ => r) } }

/-- Stages in use (R218). -/
def stages (s : State) : List Nat := (List.range 16).filter (fun k => s.fld 0x21 k 5 = 1)
/-- The last stage: the highest in use (R218). -/
def lastStage (s : State) : Nat := s.stages.foldl max 0
/-- Stages that hold a rail the slot owns (R229). -/
def ownStages (s : State) (i : Fin 8) : List Nat :=
  (List.range 16).filter (fun k => (s.ownRails i).any (fun n => s.railStage n = k))
def stageRails (s : State) (k : Nat) : List (Fin 64) := s.usedRails.filter (fun n => s.railStage n = k)
/-- Stages a sequence goes through, in ascending order. -/
def seqStages (s : State) (q : Seq) : List Nat :=
  match q with
  | none => s.stages
  | some i => s.ownStages i
/-- Rails a sequence switches in a stage (R229). -/
def seqRails (s : State) (q : Seq) (k : Nat) : List (Fin 64) :=
  match q with
  | none => s.stageRails k
  | some i => (s.ownRails i).filter (fun n => s.railStage n = k)

def slaveRole (s : State) : Bool := s.fld 0x21 0 1 = 1
def slavesMask (s : State) : Nat := if s.slaveRole then 0 else s.fld 0x21 0 3

/-- The main bus is held: a feed is in ON, or, in a slave, the master reports it (R219, R223). -/
def busHeld (s : State) : Bool := if s.slaveRole then s.casc.busRx else s.feedsOn ≠ []

/-- Channel of a thermal trip whose scope is the slot, tripped (R255). -/
def slotTripped (s : State) (i : Fin 8) : Bool :=
  (List.finRange 28).any (fun c => s.fld 0x31 c.1 5 = i.1 && (s.cool.chans.get c).tripped)
/-- The slot's trip channel is latched (R257, R515). -/
def slotLatched (s : State) (i : Fin 8) : Bool :=
  (List.finRange 28).any (fun c => s.fld 0x31 c.1 5 = i.1 && (s.cool.chans.get c).latched)

/-- Every rail the slot owns or depends on is power-good in a completed stage (R490). -/
def railsReady (s : State) (i : Fin 8) : Bool :=
  (s.slotRails i).all (fun n => (s.rail n).pg && s.railOn n) && (s.casc.slotSeq.get i).isNone &&
    (s.casc.st = .on ||
      match s.casc.tray with
      | some r => s.casc.st = .up && (s.slotRails i).all (fun n => s.railStage n < r.stage)
      | none => false)

/-- Slots that have risen enter HELD (R490). -/
def arrive (s : State) : State :=
  (List.finRange 8).foldl (fun t i => if (t.slot i).st = .powering && t.railsReady i then t.setSlot i .held 0 else t) s

/-- Slots that a rail's turn-on takes from OFF to POWERING (R659). -/
def powering (s : State) (n : Fin 64) : State :=
  (s.ownersOf n).foldl (fun t i =>
    if (t.slot i).st = .off && (t.slot i).present && (t.slot i).request && (t.ownerOf n = some i || t.ownRails i = []) then
      t.setSlot i .powering 0 else t) s

/-- The stage's rails have all arrived where the sequence takes them (R224, R232). -/
def stageDone (s : State) (q : Seq) (r : SeqRun) : Bool :=
  (s.seqRails q r.stage).all (fun n =>
    if r.up then !s.railOn n || (s.rail n).pg else (s.rail n).phase ≠ .falling)

/-- The next stage of a sequence. -/
def nextStage (s : State) (q : Seq) (r : SeqRun) : Option Nat :=
  if r.up then (s.seqStages q).find? (fun k => r.stage < k)
  else (s.seqStages q).reverse.find? (fun k => k < r.stage)

/-- SLOT_POWER off completes for slots whose down-sequence has ended (R515). -/
def slotOffSettle (s : State) : State :=
  (s.acceptedOn 0x0702).foldl (fun t p =>
    let ps := t.params p
    if ps.num 1 1 = 0 && (List.finRange 8).all (fun j =>
        !(ps.num 0 1).testBit j.1 ||
          ((t.casc.slotSeq.get j).isNone && ((t.slot j).st = .off || (t.slot j).st = .absent || (t.slot j).st = .failed ||
            ((t.slot j).st = .quarantined && !t.powered j)))) then
      t.finish p .ok t.slotPowerReply
    else t) s

/-- A slot sequence has ended (R229, R490). -/
def slotSeqEnd (i : Fin 8) (up : Bool) (s : State) : State :=
  let s := s.setSeq (some i) none
  if up then s.arrive
  else
    let s := if (s.slot i).present then s else if (s.slot i).st = .absent then s else s.setSlot i .absent 6
    s.slotOffSettle

/-- A slot's down-sequence starts: from the highest stage that holds one of its rails turned on; a running one goes on, and with no rail
on there is none (R229, R230). The slot drops out of a running tray up-sequence. -/
def slotDown (i : Fin 8) (s : State) : State :=
  let s := { s with casc := { s.casc with
    decided := s.casc.decided ||| 2 ^ i.1
    included := s.casc.included &&& (255 - 2 ^ i.1) } }
  if (match s.seqOf (some i) with | some r => !r.up | none => false) then s
  else match (s.ownStages i).reverse.find? (fun k => (s.seqRails (some i) k).any s.railOn) with
    | some k => s.setSeq (some i) (some { up := false, stage := k, phase := .delay, since := s.lt })
    | none => s.slotSeqEnd i false

/-- The Cascade is ON and slot management may turn the slot on (R229, R490). -/
def mayRise (s : State) (i : Fin 8) : Bool :=
  let x := s.slot i
  s.casc.st = .on && x.st = .off && x.present && x.request && (s.seqOf (some i)).isNone && !s.slotTripped i

/-- A slot up-sequence; a slot without rails of its own rises with those it depends on (R229, R659). -/
def slotUp (i : Fin 8) (s : State) : State :=
  if !s.mayRise i then s
  else match s.ownStages i with
    | k :: _ => s.setSeq (some i) (some { up := true, stage := k, phase := .delay, since := s.lt })
    | [] => (s.setSlot i .powering 0).arrive

/-! ### Quarantine and failed rails (R226, R227, R491, R610 to R614, R657) -/

/-- Quarantining a slot; `c` is the cause, `n` the rail of cause 1. The caller has raised the error that calls for it. -/
def quarantine (i : Fin 8) (c : Nat) (n : Option (Fin 64)) (s : State) : State :=
  let x := s.slot i
  let fresh := x.st = .powering || x.st = .held || x.st = .running
  let worse := x.st = .quarantined && c = 1 && x.cause ≠ 1
  let s := if fresh || worse then (s.setSlot i .quarantined c).count (0x07A0 + i.1) else s
  let s := if (s.slot i).st = .quarantined && (s.slot i).cause = 1 then
      s.updSlot i (fun y => { y with badRails := y.badRails ++ (n.toList.map (fun m => m.1)) }) else s
  if (fresh || worse) && c = 1 then
    (s.updSlot i (fun y => { y with request := false, rst := true, releaseAt := none })).slotDown i
  else s

/-- A failed rail with owners: one count, one log entry, and each slot that owns it or depends on it quarantined unless the error is absorbed
there (R226, R227, R612, R617). -/
def railFailed (c : Nat) (n : Fin 64) (s : State) : State :=
  if s.owners n = 0 then s.notice c
  else
    let open_ := (s.ownersOf n).filter (fun i => !s.absorbs 3 (some i))
    let s := s.count c
    let s := if open_ = [] then s else s.logEntry 9 0x00B c (s.ctrVal c % 2 ^ 32)
    (s.ownersOf n).foldl (fun t i =>
      let t := if open_.contains i && 2 ≤ t.runningLevel (some i) then t.supersede i c else t
      let t := t.updSlot i (fun y => { y with rst := true })
      t.quarantine i 1 (some n)) s

/-- A rail that has not become power-good in time (R226). -/
def failRise (nack : BitVec 64) (s : State) (n : Fin 64) : State :=
  let s := s.turnOff nack n
  let s := s.updRail n (fun r => { r with mark := .failRise, evTick := s.lt })
  s.railFailed (0x0100 + n.1) n

/-! ### Orderly shutdown, all-off and the loss of the bus (R197 to R199, R231 to R237) -/

/-- Replies of the power opcodes (R203). -/
def FeedState.num : FeedState → Nat
  | .disconnected => 0 | .off => 1 | .ramp => 2 | .on => 3 | .cooldown => 4 | .latched => 5 | .outOfWindow => 6 | .minOff => 7
def feedByte (s : State) (f : Feed) : Byte := byte (FeedState.num (s.feed f).st)
def weirOffReply (s : State) : Bytes := [s.feedByte 0, s.feedByte 1] ++ zeros 6 ++ natLE 8 s.weir.offTick

/-- Setting a feed's bit of BKP_0 (R198, R601). -/
def setFeedBkp (f : Feed) (b : Bool) (s : State) : State :=
  { s with rst := { s.rst with bkp := Vec.upd s.rst.bkp 0 (fun x => setBit x f.1 b) } }

/-- A feed with its gate low: nothing regulated, no timer. -/
def gateLow (st : FeedState) (x : FeedSt) : FeedSt :=
  { x with st := st, limit := 0, fast := 0, inLimit := false, faultStart := none, i := 0, avgVout := none }

/-- A feed at all-off (R198, R205). -/
def feedAllOff (named : Nat) (s : State) (f : Feed) : State :=
  let x := s.feed f
  if (named.testBit f.1 || x.offCmd) && x.st ≠ .disconnected && x.st ≠ .latched then
    (s.updFeed f (fun y => { gateLow .off y with wasOn := false })).setFeedBkp f false
  else if x.st = .disconnected || x.st = .latched || x.st = .cooldown then s
  else s.updFeed f (fun y => { gateLow .minOff y with minOff := 1000 * s.fld 0x10 0 3, wasOn := false })

/-- The end of an orderly shutdown: feeds to MIN_OFF or OFF, WEIR_OFF completes, a stretched reset proceeds (R198, R199, R205, R236). -/
def shutdownEnd (s : State) : State :=
  match s.weir.shutdown with
  | none => s
  | some (_, named) =>
    let s := (List.finRange 2).foldl (fun t f => t.feedAllOff named f) s
    let s := { s with weir := { s.weir with shutdown := none, offTick := s.lt } }
    let s := (s.acceptedOn 0x0202).foldl (fun t p => t.finish p .ok t.weirOffReply) s
    if s.rst.stretch.isSome then s.systemClear else s

/-- The Cascade enters ALL_OFF (R222, R232 step 5, R234). -/
def allOff (s : State) : State :=
  let s := { s with casc := { s.casc with
    st := .allOff, stage := 0, tray := none, slotSeq := Vec.tab 8 (fun _ => none), decided := 0, included := 0
    casOut := false, downDone := s.lt, upRx := false
    rails := Vec.mapIdx s.casc.rails (fun _ r => if r.rose && !r.stuck then { r with dsc := false } else r) } }
  let s := (List.finRange 8).foldl (fun t i =>
    if (t.slot i).present then t else if (t.slot i).st = .absent then t else t.setSlot i .absent 6) s
  (s.slotOffSettle).shutdownEnd

/-- Every SLT_n_RST_N asserted and every slot off (R232 step 1, R237, R490). -/
def slotsOff (s : State) : State :=
  (List.finRange 8).foldl (fun t i =>
    match (t.slot i).st with
    | .powering | .held | .running => t.setSlot i .off 0
    | .quarantined => t.updSlot i (fun x => { x with rst := true, releaseAt := none })
    | _ => t) s

/-- The tray down-sequence starts (R232 steps 1 and 2, R238). -/
def startDown (s : State) : State :=
  if s.casc.st ≠ .up && s.casc.st ≠ .on then s
  else
    let top := if s.casc.st = .on then s.lastStage
      else (s.usedRails.filter s.railOn).foldl (fun k n => max k (s.railStage n)) 0
    let s := { s with casc := { s.casc with
      st := .down, casOut := false, downStart := s.lt, stage := top, txDown := s.slavesMask ≠ 0
      slotSeq := Vec.mapIdx s.casc.slotSeq (fun _ r => match r with | some q => if q.up then none else r | none => none)
      tray := some { up := false, stage := top, phase := if s.slavesMask = 0 then .delay else .slaves, since := s.lt } } }
    s.slotsOff

/-- An orderly shutdown (R198); `named` are the feeds of WEIR_OFF. -/
def orderlyShutdown (c : ShutCause) (named : Nat) (s : State) : State :=
  let s := { s with weir := { s.weir with
    holdup := none
    shutdown := match s.weir.shutdown with
      | none => some (c, named)
      | some (c', m) => some (c', m ||| named) } }
  match s.casc.st with
  | .allOff => s.shutdownEnd
  | .up | .on => s.startDown
  | .down => s

/-- A sequence whose stage is complete goes on (R224, R225, R229, R232). -/
def advance (q : Seq) (s : State) : State :=
  match s.seqOf q with
  | none => s
  | some r =>
    if r.phase ≠ .wait || !s.stageDone q r then s
    else match s.nextStage q r with
      | some k =>
        let s := s.setSeq q (some { r with stage := k, phase := .delay, since := s.lt })
        let s := if q.isNone then { s with casc := { s.casc with stage := k } } else s
        if r.up then s.arrive else s
      | none =>
        match q with
        | some i => s.slotSeqEnd i r.up
        | none =>
          if r.up then
            arrive { s with casc := { s.casc with tray := none, st := .on, casOut := true, upDone := s.lt } }
          else s.allOff

/-- Every running sequence whose stage is complete goes on. -/
def advanceAll (s : State) : State :=
  (List.finRange 8).foldl (fun t i => t.advance (some i)) (s.advance none)

/-- Stage 0 loses power-good or the Weir turns off: the upper cores stop (R23, R50). -/
def weirOffFull (s : State) : State := if s.feedsOn = [] && s.weir.holdup.isNone && !s.slaveRole then s.leaveFull else s

/-- Every enable released, every configured Spillway output asserted until discharge, ALL_OFF (R235, R237). -/
def dropRails (nack : BitVec 64) (pmbusOff : Bool) (s : State) : State :=
  s.usedRails.foldl (fun t n =>
    if pmbusOff && (t.rail n).pmbus then t.turnOff nack n
    else t.updRail n (fun r => { r with
      phase := if t.railOn n then .falling else r.phase
      ena := false, pmbus := false, pg := false
      dsc := t.hasDsc n && !r.discharged
      evTick := if t.railOn n then t.lt else r.evTick })) s

/-- The bus is lost without a sequence (R237). -/
def loseBus (s : State) : State :=
  if s.casc.st = .allOff then s
  else
    let s := s.leaveFull
    let s := (s.notice 0x0280).dropRails 0 false
    (s.slotsOff).allOff

/-! ### Feeds that turn on (R177, R178, R197) -/

/-- A feed may enter RAMP but for its input (R177, R198, R199, R280). -/
def mayRamp (s : State) (f : Feed) : Bool :=
  s.keeperUp && s.connected f && s.weir.shutdown.isNone && !s.weir.heldLeak && !s.weir.heldTrip && !s.cool.leak &&
    (s.feed f).cooldown = 0 &&
    (match (s.feed f).lastTrip with | some t => t + 1000000 ≤ s.lt | none => true)

/-- A feed enters RAMP: integrator cleared, inrush limit, fast comparator at most full scale (R177). -/
def startRamp (f : Feed) (s : State) : State :=
  let inr := 100 * s.fld 0x11 f.1 5
  let full := 100 * (400000 / s.fld 0x11 f.1 2)
  (s.updFeed f (fun x => { x with
    st := .ramp, soa := 0, limit := inr, fast := min (inr + inr / 2) full, inLimit := false, faultStart := none
    rampStart := s.lt, rampMs := s.fld 0x10 0 6, wasOn := true, minOff := 0 })).setFeedBkp f true

/-- A feed that is meant to be on enters RAMP as soon as everything allows it (R177, R187, R196, R204). -/
def tryRamp (f : Feed) (s : State) : State :=
  let x := s.feed f
  if x.st = .off && x.wasOn && x.inWin && x.settled && s.mayRamp f then s.startRamp f else s

end State

end Sys2Proof.Machine
end

