-- ==== Sys2Proof/Machine/Cascade.lean ====
section
/-!
DEFINITION. The Cascade: sequences, rail supervision, the SEQ bus, forecast-led current limits and the cascade opcodes
(R208 to R247).
-/

namespace Sys2Proof.Machine

namespace State

/-! ### Up-sequences (R223 to R226, R229, R659) -/

/-- The conditions of R223, with CAS_IN high. -/
def mayStartUp (s : State) : Bool :=
  s.casc.st = .allOff && s.busHeld && s.cfg.loaded && s.weir.shutdown.isNone && s.rst.stretch.isNone &&
    (!s.slaveRole || s.casc.upRx)

/-- The tray up-sequence starts (R223). -/
def startUp (s : State) : State :=
  let k := s.stages.headD 0
  { s with casc := { s.casc with
    st := .up, stage := k, decided := 0, included := 0, txUp := s.slavesMask ≠ 0
    tray := some { up := true, stage := k, phase := .delay, since := s.lt } } }

/-- Deciding the inclusion of the slots whose first rail lies in a stage (R229, R230). -/
def decideSlots (k : Nat) (s : State) : State :=
  (List.finRange 8).foldl (fun t i =>
    if !t.casc.decided.testBit i.1 && (t.ownRails i).any (fun n => t.railStage n = k) then
      { t with casc := { t.casc with
        decided := t.casc.decided ||| 2 ^ i.1
        included := if (t.slot i).present && (t.slot i).request && !t.slotTripped i then t.casc.included ||| 2 ^ i.1
          else t.casc.included } }
    else t) s

/-- A rail is included in the tray up-sequence (R229). -/
def included (s : State) (n : Fin 64) : Bool :=
  match s.ownerOf n with
  | some i => s.casc.included.testBit i.1
  | none => true

/-- Rails that a stage of an up-sequence turns on (R224, R229). -/
def upRails (s : State) (q : Seq) (k : Nat) : List (Fin 64) :=
  if q.isNone then (s.seqRails q k).filter s.included else s.seqRails q k

/-- A stage's rails turned on (R224). -/
def stageUp (q : Seq) (nack : BitVec 64) (s : State) : State :=
  match s.seqOf q with
  | none => s
  | some r =>
    if !r.up || r.phase ≠ .delay then s
    else
      let s := if q.isNone then s.decideSlots r.stage else s
      let rails := s.upRails q r.stage
      let s := rails.foldl (State.turnOn nack) s
      let s := rails.foldl State.powering s
      (s.setSeq q (some { r with phase := .wait, since := s.lt })).advance q

/-- Rails of a stage's wait that are not power-good (R226). -/
def lateRails (s : State) (q : Seq) (r : SeqRun) : List (Fin 64) :=
  (s.upRails q r.stage).filter (fun n => s.railOn n && !(s.rail n).pg)

/-- PG_TIMEOUT_MS: late rails fail to rise, and the sequence goes on (R224, R226). -/
def stageLate (q : Seq) (nack : BitVec 64) (s : State) : State :=
  match s.seqOf q with
  | none => s
  | some r =>
    if !r.up || r.phase ≠ .wait then s
    else
      let s := (s.lateRails q r).foldl (State.failRise nack) s
      if s.seqOf q = some r then s.advance q else s

/-! ### Down-sequences (R229, R232, R233) -/

/-- A stage's rails turned off; the wait on slaves ends with the delay (R232 steps 2 and 3). -/
def stageDown (q : Seq) (nack : BitVec 64) (s : State) : State :=
  match s.seqOf q with
  | none => s
  | some r =>
    if r.up || r.phase = .wait then s
    else
      let s := if q.isNone && r.stage = 0 then s.leaveFull else s
      let s := ((s.seqRails q r.stage).filter s.railOn).foldl (State.turnOff nack) s
      (s.setSeq q (some { r with phase := .wait, since := s.lt })).advance q

/-- A rail not discharged in time is STUCK (R233). -/
def stick (s : State) (n : Fin 64) : State :=
  (s.updRail n (fun r => { r with stuck := true, phase := .off, dsc := s.hasDsc n, evTick := s.lt })).notice (0x01C0 + n.1)

/-- DSC_TIMEOUT_MS: rails still charged are STUCK, and the sequence goes on (R232 step 4, R233). -/
def stageStuck (q : Seq) (s : State) : State :=
  match s.seqOf q with
  | none => s
  | some r =>
    if r.up || r.phase ≠ .wait then s
    else (((s.seqRails q r.stage).filter (fun n => (s.rail n).phase = .falling)).foldl State.stick s).advance q

/-! ### Rails in service (R210, R221, R227, R228, R234) -/

/-- A sequence still waits for the rail to rise (R224). -/
def rising (s : State) (n : Fin 64) : Bool :=
  (none :: (List.finRange 8).map some).any (fun q =>
    match s.seqOf q with
    | some r => r.up && r.phase = .wait && (s.upRails q r.stage).contains n
    | none => false)

/-- A rail fails in service (R221, R227, R234). -/
def failInService (n : Fin 64) (high : Bool) (nack : BitVec 64) (s : State) : State :=
  let c := (if high then 0x0180 else 0x0140) + n.1
  let down := s.casc.st = .down
  let s := if high && (s.railStage n ≠ 0 || down) then s.turnOff nack n else s
  let s := s.updRail n (fun r => { r with mark := if high then .failHigh else .failLow, evTick := s.lt })
  if s.railStage n = 0 then
    let s := s.raise c 4 none
    if down then s.advanceAll else (s.leaveFull).orderlyShutdown .stage0 0
  else (s.railFailed c n).advanceAll

/-- A rail leaves power-good (R227, R234). -/
def railOut (n : Fin 64) (high : Bool) (nack : BitVec 64) (s : State) : State :=
  let s := s.updRail n (fun r => { r with pg := false })
  if !s.railOn n then s
  else if s.rising n then s.updRail n (fun r => { r with phase := .rising, evTick := s.lt })
  else if s.casc.st = .down && !high then
    (s.updRail n (fun r => { r with early := true })).count (0x0200 + n.1)
  else s.failInService n high nack

/-- L thresholds that put a rail outside its window are judged by its comparators, whose decision is a RAIL_LEAVES_WINDOW (R228). -/
def railGood (n : Fin 64) (mv : Nat) (s : State) : State :=
  let was := s.stage0Pg
  let s := s.updRail n (fun r => { r with
    pg := true, discharged := false, mv := mv
    phase := if r.phase = .rising then .good else r.phase
    evTick := if r.phase = .rising then s.lt else r.evTick })
  let s := if !was && s.stage0Pg then s.basinClear else s
  (s.advanceAll).arrive

/-- A rail is discharged: its Spillway output is released (R232 step 4, R233, R234). -/
def railEmpty (n : Fin 64) (mv : Nat) (s : State) : State :=
  let down := s.casc.st = .down
  let s := s.updRail n (fun r => { r with
    pg := false, discharged := true, mv := mv
    phase := if r.phase = .falling then .off else r.phase
    dsc := r.dsc && r.rose && down
    evTick := if r.phase = .falling then s.lt else r.evTick })
  s.advanceAll

/-! ### The SEQ bus (R242 to R245) -/

/-- A word with its CRC-8, most significant byte first (R242). -/
def seqCrc (w : BitVec 16) : Byte := byte (crc8 [byte (w.toNat / 256), byte w.toNat])
def seqWord (cmd addr arg : Nat) : BitVec 16 := BitVec.ofNat 16 (cmd * 4096 + addr * 512 + arg)
def sendSeq (w : BitVec 16) (s : State) : State := s.send (.seq w (seqCrc w))

def slaveList (s : State) : List Nat := bitsOf 8 s.slavesMask
/-- The next slave to poll, cycling through SLAVES (R244). -/
def pollAddr (s : State) : Option Nat :=
  match s.slaveList.find? (fun a => s.casc.pollNext ≤ a) with
  | some a => some a
  | none => s.slaveList.head?

def updSlave (a : Nat) (f : SlaveSt → SlaveSt) (s : State) : State :=
  { s with casc := { s.casc with slaves := Vec.upd s.casc.slaves (Fin.ofNat 8 a) f } }
def slave (s : State) (a : Nat) : SlaveSt := s.casc.slaves.get (Fin.ofNat 8 a)

/-- A slave's answer to a POLL, or none (R243, R245). -/
def pollReply (a : Nat) (reply : Option (BitVec 16 × Byte)) (s : State) : State :=
  match reply.filter (fun r => r.2 = seqCrc r.1) with
  | some (w, _) =>
    s.updSlave a (fun x => { x with
      st := bits w.toNat 13 3, stage := bits w.toNat 9 4, bits := bits w.toNat 6 3, missed := 0, seen := true, lost := false })
  | none =>
    let m := (s.slave a).missed + 1
    let fresh := 3 ≤ m && !(s.slave a).lost
    let s := s.updSlave a (fun x => { x with missed := min m 255, seen := false, lost := x.lost || 3 ≤ m })
    if fresh then s.notice 0x0283 else s

/-- The wait on slaves ends once every polled slave reports ALL_OFF (R232 step 2, R245). -/
def slavesOff (s : State) : State :=
  match s.casc.tray with
  | some r =>
    if r.phase = .slaves && s.slaveList.all (fun a => (s.slave a).seen && !(s.slave a).lost && (s.slave a).st = 0) then
      s.setSeq none (some { r with phase := .delay, since := s.lt })
    else s
  | none => s

/-- One transaction of the master (R244). -/
def transaction (reply : Option (BitVec 16 × Byte)) (s : State) : State :=
  let c := s.casc
  let next := { s with casc := { c with txCount := c.txCount + 1 } }
  let held := s.busHeld
  if c.txUp then ({ next with casc := { next.casc with txUp := false } }).sendSeq (seqWord 2 0 0)
  else if c.txDown then ({ next with casc := { next.casc with txDown := false } }).sendSeq (seqWord 3 0 0)
  else if held ≠ c.busSent || c.txCount % 16 = 15 then
    ({ next with casc := { next.casc with busSent := held } }).sendSeq (seqWord 4 0 (b2n held))
  else match s.pollAddr with
    | none => next
    | some a =>
      let t := ({ next with casc := { next.casc with pollNext := a + 1 } }).sendSeq (seqWord 1 a 0)
      (t.pollReply a reply).slavesOff

def markedRails (s : State) : List (Fin 64) := (List.finRange 64).filter (fun n => (s.rail n).mark ≠ .none)
def stuckRails (s : State) : List (Fin 64) := (List.finRange 64).filter (fun n => (s.rail n).stuck)

def SeqState.num : SeqState → Nat
  | .allOff => 0 | .up => 1 | .on => 2 | .down => 3

/-- The status word a slave replies with (R243). -/
def statusWord (s : State) : BitVec 16 :=
  BitVec.ofNat 16 (SeqState.num s.casc.st * 8192 + s.casc.stage * 512 + b2n (s.markedRails ≠ [] || s.stuckRails ≠ []) * 256
    + b2n s.casc.casIn * 128 + b2n s.casc.busRx * 64)

/-- A slave has received a valid frame (R245). -/
def seqFrame (s : State) : State := { s with casc := { s.casc with rxTick := s.lt, silent := false } }

/-! ### Forecast-led current limits (R239) -/

/-- The current limit of a rail for frame `k`, in mA (R239). -/
def ioutLimit (s : State) (n : Fin 64) (k : Nat) : Nat :=
  let ceil := 100 * s.fld 0x20 n.1 0xF
  match s.ownerOf n with
  | none => ceil
  | some i =>
    match s.forecastMw i k (s.grp (s.groupOf i)).step with
    | none => ceil
    | some f =>
      let need := f * 1000 * s.fld 0x20 n.1 0x10 * s.fld 0x10 0 0xA / (256 * s.fld 0x20 n.1 8 * 64)
      min ceil (max (100 * s.fld 0x20 n.1 0xE) need)

/-- A current in mA as a LINEAR11 word: the smallest exponent whose mantissa fits, rounded down (R239; log 31). -/
def linear11 (ma : Nat) : Nat :=
  let y := fun (e : Nat) => if e ≤ 16 then ma * 2 ^ (16 - e) / 1000 else ma / (1000 * 2 ^ (e - 16))
  match (List.range 32).find? (fun e => y e ≤ 1023) with
  | some e => (e + 16) % 32 * 2048 + y e
  | none => 0x7BFF

/-- A rail has a forecast-led limit (R239). -/
def hasIout (s : State) (n : Fin 64) : Bool :=
  s.railUsed n && s.drivesPmbus n && s.fld 0x20 n.1 0xF ≠ 0 &&
    (match s.ownerOf n with | some i => s.running i | none => false)

/-- K0 writes a rail's limit for the next frame when it differs by more than 1/16 from the last one written (R239). -/
def writeIout (n : Fin 64) (ack : Bool) (s : State) : State :=
  let lim := s.ioutLimit n (frameOf s.ct + 1)
  let due := match (s.rail n).iout with
    | none => true
    | some l => decide (l < 16 * (max lim l - min lim l))
  if !s.hasIout n || !due then s
  else
    let c := s.fld 0x20 n.1 6
    let s := if bit c 14 then s.send (.pmbus (bits c 0 2) (bits c 2 7) (bits c 9 5) 0x00 [byte (bits c 9 5)]) else s
    let s := s.send (.pmbus (bits c 0 2) (bits c 2 7) (bits c 9 5) 0x46 (natLE 2 (linear11 lim)))
    if ack then s.updRail n (fun r => { r with iout := some lim }) else s.count 0x0035

/-! ### Opcodes (R246, R247, R657) -/

/-- STATE of a rail's record (R247). -/
def railState (s : State) (n : Fin 64) : Nat :=
  let r := s.rail n
  if r.stuck then 8
  else match r.mark with
    | .failRise => 4
    | .failLow => 5
    | .failHigh => 6
    | .none =>
      if !s.railUsed n then 0
      else match r.phase with
        | .off => 1 | .rising => 2 | .good => 3 | .falling => 7

/-- The core rail of a slot (R470), none when it has none. -/
def coreRail (s : State) (i : Fin 8) : Option (Fin 64) :=
  let v := s.fld 0x52 0 1 / 256 ^ i.1 % 256
  if v < 64 then some (Fin.ofNat 64 v) else none

def railRecord (s : State) (n : Fin 64) : Bytes :=
  let r := s.rail n
  [byte (s.railState n),
   byte (b2n r.ena + 2 * b2n r.dsc + 4 * b2n r.pmbus + 8 * b2n r.early + 16 * b2n r.rose + 32 * b2n (r.margin ≠ 0)
     + 64 * b2n (match r.iout with | some l => s.hasIout n && decide (l < 100 * s.fld 0x20 n.1 0xF) | none => false))]
    ++ natLE 2 (min r.mv 65535) ++ natLE 4 r.evTick

def slaveRecord (x : SlaveSt) : Bytes := [byte x.st, byte x.stage, byte x.bits, byte x.missed]

/-- The reply of CASCADE_STATUS (R247). -/
def cascadeReply (s : State) : Bytes :=
  [byte (SeqState.num s.casc.st), byte s.casc.stage, byte s.lastStage,
   byte (b2n s.casc.casIn + 2 * b2n s.casc.casOut + 4 * b2n s.slaveRole + 8 * b2n s.busHeld),
   byte (Vec.mask s.casc.slaves (fun x => x.seen)), byte (Vec.mask s.casc.slaves (fun x => x.lost)),
   byte s.markedRails.length, byte s.stuckRails.length]
  ++ natLE 8 s.casc.upDone ++ natLE 8 s.casc.downDone ++ zeros 8
  ++ ((List.finRange 8).drop 1).flatMap (fun a => slaveRecord (s.casc.slaves.get a)) ++ zeros 4
  ++ (List.finRange 64).flatMap s.railRecord

/-- A marked rail stays marked: out of window in service, or STUCK and not discharged (R246). -/
def railKept (s : State) (n : Fin 64) : Bool :=
  let r := s.rail n
  (r.stuck && !r.discharged) || (s.railOn n && !r.pg)

/-- Clearing a rail's mark (R246, R657). -/
def clearMark (s : State) (n : Fin 64) : State :=
  s.updRail n (fun r => { r with mark := .none, stuck := false, evTick := s.lt })

end State

/-! ### The rows -/

def execUpSequenceStart (s : State) : Host.Outcome State Fault Refusal :=
  let s := { s with casc := { s.casc with
    casIn := true, casInSince := if s.casc.casIn then s.casc.casInSince else s.lt } }
  go (if s.mayStartUp then s.startUp else s)

def execCasInLow (s : State) : Host.Outcome State Fault Refusal :=
  let s := { s with casc := { s.casc with casIn := false, casInSince := s.lt } }
  go (if s.casc.st = .up || s.casc.st = .on then s.orderlyShutdown .casIn 0 else s)

def execStageUpDelayExpiry (q : Seq) (nack : BitVec 64) (s : State) : Host.Outcome State Fault Refusal := go (s.stageUp q nack)

def execRailPowerGood (n : Fin 64) (mv : Nat) (s : State) : Host.Outcome State Fault Refusal :=
  go (if s.railUsed n && !(s.rail n).pg then s.railGood n mv else s)

def execPgTimeout (q : Seq) (nack : BitVec 64) (s : State) : Host.Outcome State Fault Refusal := go (s.stageLate q nack)

def execRailLeavesWindow (n : Fin 64) (high : Bool) (mv : Nat) (nack : Bool) (s : State) : Host.Outcome State Fault Refusal :=
  if s.railUsed n && (s.rail n).pg then
    go ((s.updRail n (fun r => { r with mv := mv })).railOut n high (if nack then 1 <<< n.1 else 0))
  else go s

def execStageDownDelayExpiry (q : Seq) (nack : BitVec 64) (s : State) : Host.Outcome State Fault Refusal := go (s.stageDown q nack)

def execRailDischarged (n : Fin 64) (mv : Nat) (s : State) : Host.Outcome State Fault Refusal :=
  go (if (s.rail n).discharged then s else s.railEmpty n mv)

def execDscTimeout (q : Seq) (s : State) : Host.Outcome State Fault Refusal := go (s.stageStuck q)

def execDownSequenceTimeout (nack : BitVec 64) (s : State) : Host.Outcome State Fault Refusal :=
  go (if s.casc.st = .down then ((s.leaveFull.dropRails nack true).notice 0x0281).allOff else s)

/-- The loss of the bus, judged by the feeds; the energy of the bulk capacitance carries a hold-up and the shutdown after it
(R197, R237). -/
def execBusLost (s : State) : Host.Outcome State Fault Refusal :=
  let carried := s.weir.holdup.isSome || (match s.weir.shutdown with | some (.holdup, _) => true | _ => false)
  go (if s.slaveRole || s.feedsOn ≠ [] || carried then s else s.loseBus)

def execSeqTransaction (reply : Option (BitVec 16 × Byte)) (s : State) : Host.Outcome State Fault Refusal :=
  go (if s.slaveRole || !s.cfg.loaded then s else s.transaction reply)

def execSeqUpFrame (s : State) : Host.Outcome State Fault Refusal :=
  if s.slaveRole then
    let s := s.seqFrame
    go { s with casc := { s.casc with upRx := s.casc.upRx || s.casc.st = .allOff } }
  else go s

def execSeqDownFrame (s : State) : Host.Outcome State Fault Refusal :=
  if s.slaveRole then
    let s := s.seqFrame
    go (if s.casc.st = .up || s.casc.st = .on then s.orderlyShutdown .downFrame 0 else s)
  else go s

def execSeqBusFrame (held : Bool) (s : State) : Host.Outcome State Fault Refusal :=
  if s.slaveRole then
    let s := s.seqFrame
    let s := { s with casc := { s.casc with busRx := held } }
    go (if held then s else s.loseBus)
  else go s

/-- A frame addressed by POLL; UP, DOWN and BUS frames have rows of their own. -/
def execSeqPoll (word : BitVec 16) (crc : Byte) (s : State) : Host.Outcome State Fault Refusal :=
  if s.slaveRole && crc = State.seqCrc word then
    let s := s.seqFrame
    let cmd := bits word.toNat 12 4
    if cmd = 0 || 4 < cmd then go (s.count 0x0285)
    else if cmd = 1 && bits word.toNat 9 3 = s.fld 0x21 0 2 then go (s.sendSeq s.statusWord)
    else go s
  else go s

def execSeqSilent (s : State) : Host.Outcome State Fault Refusal :=
  if s.slaveRole && !s.casc.silent then go (({ s with casc := { s.casc with silent := true } }).count 0x0284) else go s

def execSlotUpSequence (slot : Fin 8) (s : State) : Host.Outcome State Fault Refusal := go (s.slotUp slot)

def execIoutLimitWrite (n : Fin 64) (ack : Bool) (s : State) : Host.Outcome State Fault Refusal :=
  go (if s.keeperUp then s.writeIout n ack else s)

def execRailRoseInShutdown (n : Fin 64) (s : State) : Host.Outcome State Fault Refusal :=
  let r := s.rail n
  if s.casc.st = .down && s.railUsed n && r.discharged && !s.railOn n then
    go ((s.updRail n (fun r => { r with discharged := false, rose := true, dsc := s.hasDsc n })).count (0x0240 + n.1))
  else go s

def cascadeStatusOp : OpSpec := .query 0x0210 true [3] 0 OpSpec.free4 (fun _ s => s.cascadeReply)

def execCascadeStatus (p : Port) (tag : BitVec 32) (params : Bytes) (s : State) : Host.Outcome State Fault Refusal :=
  go (s.submit cascadeStatusOp p tag params)

def railFlagClearOp : OpSpec :=
  { opcode := 0x0211, keeper := true, feats := [3], plen := some 8, check := OpSpec.free4, bound := fun _ _ _ => 0
    run := fun p ps _ s =>
      let named := (List.finRange 64).filter (fun n =>
        (ps.num 0 8).testBit n.1 && ((s.rail n).mark ≠ .none || (s.rail n).stuck))
      let kept := named.filter s.railKept
      let cleared := named.filter (fun n => !s.railKept n)
      let mask := fun (l : List (Fin 64)) => l.foldl (fun a n => a + 2 ^ n.1) 0
      (cleared.foldl State.clearMark s).answerNow p .ok (natLE 8 (mask cleared) ++ natLE 8 (mask kept)) }

def execRailFlagClear (p : Port) (tag : BitVec 32) (params : Bytes) (s : State) : Host.Outcome State Fault Refusal :=
  go (s.submit railFlagClearOp p tag params)

end Sys2Proof.Machine
end

