-- ==== Sys2Proof/Machine/Weir.lean ====
section
/-!
DEFINITION. The Weir: ramps, trips, retries, loss of a feed, hold-up, the power budget and the power opcodes (R169 to R207).
-/

namespace Sys2Proof.Machine

/-- Codes of trip causes (R183). -/
def TripCause.num : TripCause → Nat
  | .none => 0 | .soa => 1 | .faultTimer => 2 | .fast => 3 | .rampTimeout => 4

namespace State

/-! ### Commands that wait on feeds (R203, R204) -/

/-- Reply of WEIR_ON; `f` is the feed that tripped (R203, R204). -/
def weirOnReply (s : State) (trip : Option (Feed × TripCause)) : Bytes :=
  let t := fun (f : Feed) => match trip with
    | some (g, c) => if f = g then byte (TripCause.num c) else 0
    | none => (0 : Byte)
  [s.feedByte 0, s.feedByte 1, 0, 0, t 0, t 1, 0, 0] ++ natLE 8 s.lt

def namesFeed (s : State) (p : Port) (f : Feed) : Bool := ((s.params p).num 0 1).testBit f.1

/-- WEIR_ON completes OK when every named feed is in ON (R204). -/
def weirOnSettle (s : State) : State :=
  (s.acceptedOn 0x0201).foldl (fun t p =>
    if (List.finRange 2).all (fun f => !t.namesFeed p f || (t.feed f).st = .on) then t.finish p .ok (t.weirOnReply none) else t) s

/-- WEIR_ON that names a feed which trips, or which WEIR_OFF names, ends FAILED (R204). -/
def weirOnFail (f : Feed) (trip : Option (Feed × TripCause)) (s : State) : State :=
  (s.acceptedOn 0x0201).foldl (fun t p => if t.namesFeed p f then t.finish p .failed (t.weirOnReply trip) else t) s

/-! ### Trips and losses (R183 to R187, R194, R195) -/

def tripCounter (f : Feed) (c : TripCause) : Nat := 0x001F + 8 * f.1 + TripCause.num c

/-- A feed trips: its gate low, COOLDOWN or LATCHED (R183 to R187). -/
def tripFeed (f : Feed) (c : TripCause) (s : State) : State :=
  let x := s.feed f
  if x.st ≠ .ramp && x.st ≠ .on then s
  else
    let s := s.notice (tripCounter f c)
    let retry := decide (x.retries < s.fld 0x11 f.1 0xB)
    let s := s.updFeed f (fun y => { gateLow (if retry then .cooldown else .latched) y with
      trip := c, lastTrip := some s.lt
      retries := if retry then y.retries + 1 else y.retries
      latched := !retry
      cooldown := if retry then 1000000 * s.fld 0x11 f.1 0xA else 0 })
    let s := if retry then s else s.notice (0x0026 + 8 * f.1)
    (s.weirOnFail f (some (f, c))).weirOffFull

/-- Power in mW beyond 0.9 of a feed's ceiling at its input voltage (R195, R205). -/
def beyondCeiling (s : State) (f : Feed) (pMw : Nat) : Bool :=
  decide (9 * s.ceilingMa f * (s.feed f).vin < 10000 * pMw)

/-- The step the feed-loss cause requests for a group at step `s0` (R195). -/
def lossStepFor (pMw limit s0 : Nat) : Nat :=
  ((List.range 16).find? (fun k => s0 ≤ k && decide (10000 * pMw * (16 - k) ≤ limit * (16 - s0)))).getD 15

/-- The survivor of a lost feed: its limit to CEILING, and the emergency throttle when it cannot carry the load (R194, R195). -/
def surviveLoss (f : Feed) (pMw : Nat) (s : State) : State :=
  let o := otherFeed f
  if (s.feed o).st ≠ .on then s
  else
    let s := s.updFeed o (fun x => { x with limit := s.ceilingMa o })
    if !s.beyondCeiling o pMw then s
    else
      let lim := 9 * s.ceilingMa o * (s.feed o).vin
      let s := s.notice 0x0034
      let s := s.groupsHere.foldl (fun t g =>
        t.updGrp g (fun x => { x with loss := max x.loss (lossStepFor pMw lim x.step) })) s
      s.emergency

/-- Every connected feed's input is out of window (R197). -/
def allOut (s : State) : Bool := (List.finRange 2).all (fun f => !s.connected f || !(s.feed f).inWin) && (List.finRange 2).any s.connected

/-- A feed in ON is lost (R194): by reverse current to OFF, by its input to OUT_OF_WINDOW. -/
def loseFeed (f : Feed) (st : FeedState) (pMw : Nat) (s : State) : State :=
  let s := s.updFeed f (fun x => { gateLow st x with lost := true, settled := false })
  (s.notice (0x0025 + 8 * f.1)).surviveLoss f pMw

/-- The input of a feed leaves its window (R173, R194, R197). -/
def inputOut (f : Feed) (vinMv pMw : Nat) (s : State) : State :=
  let x := s.feed f
  let s := s.updFeed f (fun y => { y with inWin := false, settled := false, vin := vinMv })
  let s := s.count (0x0024 + 8 * f.1)
  let bus := x.st = .on || x.st = .ramp || s.casc.st ≠ .allOff
  let s := match x.st with
    | .on => s.loseFeed f .outOfWindow pMw
    | .ramp => s.updFeed f (fun y => gateLow .outOfWindow y)
    | .off => s.updFeed f (fun y => { y with st := .outOfWindow })
    | _ => s
  let s := if bus && s.allOut && s.weir.holdup.isNone && s.weir.shutdown.isNone then
      { s with weir := { s.weir with holdup := some s.lt } } else s
  s.weirOffFull

/-! ### Restore policy (R190, R198) -/

/-- The restore policy turns a feed on (R198). -/
def restoreOn (s : State) (f : Feed) : Bool :=
  !(s.feed f).offCmd &&
    (s.fld 0x10 0 2 = 1 || (s.fld 0x10 0 2 = 2 && ((s.rst.bkp.get 0).getLsbD f.1)))

/-- A wake event in Calm, or on the way there (R53, R55). -/
def wakeUp (s : State) : State :=
  match s.dev.phase with
  | .inCalm => { s with dev := { s.dev with phase := .resuming, wake := true } }
  | .calmEntering => { s with dev := { s.dev with wake := true } }
  | _ => s

/-- A feed meant to be on is marked so, and ramps when it can. -/
def wantFeed (f : Feed) (b : Bool) (s : State) : State :=
  (s.updFeed f (fun x => { x with wasOn := x.wasOn || b })).tryRamp f

/-- MIN_OFF ends under the restore policy (R198, R199, R280). -/
def minOffOver (f : Feed) (s : State) : State :=
  let cmd := (s.acceptedOn 0x0201).any (fun p => s.namesFeed p f)
  let on := (s.restoreOn f || cmd || (s.feed f).wasOn) && !s.weir.heldLeak && !s.weir.heldTrip
  let s := s.updFeed f (fun x => { x with
    st := if x.inWin then .off else .outOfWindow, minOff := 0, wasOn := on })
  let s := s.setFeedBkp f (on || (s.rst.bkp.get 0).getLsbD f.1)
  s.tryRamp f

/-- Withdrawing the feed-loss request (R196). -/
def withdrawLoss (s : State) : State :=
  if s.gop.groups.all (fun c => c.2.loss = 0) then s
  else
    let s := { s with gop := { s.gop with groups := s.gop.groups.map (fun (c : Fin 256 × GroupSt) => (c.1, { c.2 with loss := 0 })) } }
    s.requestsChanged

/-- A ramping feed reaches power-good (R178, R179, R196). -/
def feedGood (f : Feed) (vout : Nat) (i : Int) (s : State) : State :=
  let lost := (s.feed f).lost
  let s := s.updFeed f (fun x => { x with
    st := .on, vout := vout, i := i, onSince := s.lt, avgVout := none, lost := false, inLimit := false, faultStart := none })
  let s := { s with weir := { s.weir with onTick := s.lt } }
  let s := s.updFeed f (fun x => { x with limit := s.limitMa f (frameOf s.ct), fast := 100 * s.fld 0x11 f.1 6 })
  let s := if lost then s.withdrawLoss else s
  s.weirOnSettle

/-! ### Power budget (R200 to R202) -/

/-- A closed power window (R200 to R202). -/
def windowClose (pMw : Nat) (a b : FeedMeas) (s : State) : State :=
  let meas := fun (m : FeedMeas) (x : FeedSt) =>
    { x with vin := m.vin, vout := m.vout, avgVout := if x.st = .on then some m.vout else none }
  let s := ((s.updFeed 0 (meas a)).updFeed 1 (meas b))
  let s := { s with weir := { s.weir with winTick := s.lt - 10000, pMw := pMw } }
  let w := s.weir
  let st := w.budgetStep
  if st ≠ w.budgetApplied then s
  else
    let budget := 1000 * s.fld 0x10 0 1
    let o := if budget < pMw then w.overRun + 1 else 0
    let u := if 0 < st && 100 * pMw * (17 - st) ≤ 95 * budget * (16 - st) then w.underRun + 1 else 0
    if 3 ≤ o && st < 15 then
      let s := { s with weir := { s.weir with budgetStep := st + 1, overRun := 0, underRun := 0 } }
      (s.notice 0x0031).requestsChanged
    else if 100 ≤ u then
      let s := { s with weir := { s.weir with budgetStep := st - 1, overRun := min o 2, underRun := 0 } }
      (s.count 0x0032).requestsChanged
    else { s with weir := { s.weir with overRun := min o 2, underRun := u } }

/-! ### Opcodes (R203 to R207) -/

/-- A pending commit or direct write changes an X field of an instance (R17, R148). -/
def pendingX (s : State) (obj : Nat) (inst : Nat) : Bool :=
  let hit := fun (k : Key) (v : Nat) => k.obj = obj && k.inst = inst && attrOf k = .stopped && v ≠ s.cfgVal k
  (s.cfg.commit.isSome && (match s.cfg.draft with | some d => d.staged.any (fun e => hit e.1 e.2) | none => false)) ||
    s.cfg.live.any (fun w => hit w.key w.value)

/-- Feeds of a FEEDS parameter. -/
def namedFeeds (ps : Bytes) : List Feed := (List.finRange 2).filter (fun f => (ps.num 0 1).testBit f.1)
def badFeeds (ps : Bytes) : Bool := ps.num 0 1 = 0 || 4 ≤ ps.num 0 1

/-- The wait w of R203, in ticks. -/
def rampWait (s : State) (f : Feed) : Nat :=
  let x := s.feed f
  if x.st = .on || x.st = .ramp then 0
  else
    max (x.cooldown + x.minOff)
      (max (if x.settled then 0 else x.inSince + 100000 - s.lt)
        (match x.lastTrip with | some t => t + 1000000 - s.lt | none => 0))

/-- Bound of WEIR_ON (R203, R204). -/
def weirOnBound (s : State) (ps : Bytes) : Nat :=
  match (namedFeeds ps).filter (fun f => (s.feed f).st ≠ .on) with
  | [] => 0
  | fs => 1000 + (fs.map (fun f => s.rampWait f + 1000 * s.fld 0x10 0 6 + 20000)).foldl max 0

def weirOnCheck (ps : Bytes) (s : State) : Option Code :=
  let fs := namedFeeds ps
  firstFail [
    (.badParam, badFeeds ps),
    (.refusedState, fs.any (fun f =>
      let x := s.feed f
      x.st = .disconnected || x.st = .latched || x.st = .outOfWindow || (x.st ≠ .on && !x.inWin)) ||
      s.weir.shutdown.isSome || s.weir.heldTrip || s.weir.heldLeak || s.cool.leak),
    (.refusedBusy, s.pendingX 0x10 0 || fs.any (fun f => s.pendingX 0x11 f.1) ||
      (s.casc.st = .allOff && ((List.range 64).any (s.pendingX 0x20) || (List.range 16).any (s.pendingX 0x21)))),
    (.refusedBound, fs.any (fun f => decide (2 ^ 26 < s.rampWait f)))]

def weirOnRun (p : Port) (ps : Bytes) (b : Nat) (s : State) : State :=
  let s := s.accept p b
  let s := (namedFeeds ps).foldl (fun t f =>
    (t.updFeed f (fun x => { x with wasOn := true, offCmd := false })).setFeedBkp f true) s
  ((namedFeeds ps).foldl (fun t f => t.tryRamp f) s).weirOnSettle

def weirOffCheck (p : Port) (ps : Bytes) (s : State) : Option Code :=
  let rest := s.feedsOn.filter (fun f => !(namedFeeds ps).contains f)
  firstFail [
    (.badParam, badFeeds ps),
    (.refusedState, (s.feedsOn ≠ [] && rest = [] && p.1 < 6) ||
      (rest ≠ s.feedsOn && rest.any (fun f => s.beyondCeiling f s.weir.pMw)))]

/-- One named feed of WEIR_OFF (R198, R205). -/
def weirOffFeed (last : Bool) (s : State) (f : Feed) : State :=
  let s := s.weirOnFail f none
  let s := s.setFeedBkp f false
  s.updFeed f (fun x =>
    let x := { x with wasOn := false, offCmd := true }
    match x.st with
    | .ramp | .cooldown => gateLow .off x
    | .on => if last then x else gateLow .off x
    | _ => x)

def weirOffRun (p : Port) (ps : Bytes) (b : Nat) (s : State) : State :=
  let fs := namedFeeds ps
  let last := s.feedsOn ≠ [] && s.feedsOn.all (fun f => fs.contains f)
  let s := s.accept p b
  let s := fs.foldl (State.weirOffFeed last) s
  if last || s.weir.shutdown.isSome then s.orderlyShutdown .command (ps.num 0 1)
  else
    let s := { s with weir := { s.weir with offTick := s.lt } }
    s.finish p .ok s.weirOffReply

def weirClearRun (p : Port) (ps : Bytes) (s : State) : State :=
  let s := (namedFeeds ps).foldl (fun t f =>
    if (t.feed f).st = .latched then
      t.updFeed f (fun x => { x with st := .off, latched := false, retries := 0, wasOn := false })
    else t) s
  s.answerNow p .ok [s.feedByte 0, s.feedByte 1, 0, 0]

/-- A feed's record (R207). -/
def feedRecord (s : State) (f : Feed) : Bytes :=
  let x := s.feed f
  [s.feedByte f, byte (TripCause.num x.trip), byte x.retries,
   byte (b2n x.inLimit + 2 * b2n x.faultStart.isSome + 4 * b2n x.inWin)]
  ++ natLE 4 x.vin ++ natLE 4 x.vout ++ intLE 4 x.i ++ natLE 4 x.limit ++ natLE 4 (x.soa / 1000000)
  ++ natLE 4 ((if x.st = .minOff then max x.cooldown x.minOff else x.cooldown) / 1000) ++ zeros 4

/-- LOSS_STEP: the request of the feed-loss cause (R207). -/
def lossStep (s : State) : Nat := (s.gop.groups.map (fun c => c.2.loss)).foldl max 0

/-- The reply of WEIR_STATUS (R207). -/
def weirStatusReply (s : State) : Bytes :=
  let w := s.weir
  s.feedRecord 0 ++ s.feedRecord 1 ++ natLE 8 w.winTick ++ natLE 4 w.pMw
  ++ [byte w.budgetStep, byte s.lossStep, byte w.overRun,
      byte (b2n w.holdup.isSome + 2 * b2n w.shutdown.isSome + 4 * b2n w.vbatLost)]
  ++ natLE 4 (match w.holdup with | some t => t + s.fld 0x10 0 4 - s.lt | none => 0) ++ zeros 12

end State

def weirOnOp : OpSpec :=
  { opcode := 0x0201, keeper := true, feats := [3], plen := some 4, check := fun _ ps s => s.weirOnCheck ps
    bound := fun _ ps s => s.weirOnBound ps, run := State.weirOnRun }
def weirOffOp : OpSpec :=
  { opcode := 0x0202, keeper := true, feats := [3], plen := some 4, check := State.weirOffCheck
    bound := fun _ _ _ => 1700000, run := State.weirOffRun }
def weirClearOp : OpSpec :=
  { opcode := 0x0203, keeper := true, feats := [3], plen := some 4
    check := fun _ ps _ => firstFail [(.badParam, State.badFeeds ps)]
    bound := fun _ _ _ => 0, run := fun p ps _ s => s.weirClearRun p ps }
def weirStatusOp : OpSpec := .query 0x0204 true [3] 0 OpSpec.free4 (fun _ s => s.weirStatusReply)

def execWeirOn (p : Port) (tag : BitVec 32) (params : Bytes) (s : State) : Host.Outcome State Fault Refusal :=
  go (s.submit weirOnOp p tag params)
def execWeirOff (p : Port) (tag : BitVec 32) (params : Bytes) (s : State) : Host.Outcome State Fault Refusal :=
  go (s.submit weirOffOp p tag params)
def execWeirClear (p : Port) (tag : BitVec 32) (params : Bytes) (s : State) : Host.Outcome State Fault Refusal :=
  go (s.submit weirClearOp p tag params)
def execWeirStatus (p : Port) (tag : BitVec 32) (params : Bytes) (s : State) : Host.Outcome State Fault Refusal :=
  go (s.submit weirStatusOp p tag params)

/-- An input in window for 100 ms (R172, R177, R196, R53). -/
def execFeedInWindow (f : Feed) (vinMv : Nat) (s : State) : Host.Outcome State Fault Refusal :=
  if !s.connected f then go s
  else
    let s := s.updFeed f (fun x => { x with
      inWin := true, settled := true, vin := vinMv, inSince := if x.inWin then x.inSince else s.lt - 100000
      st := if x.st = .outOfWindow then .off else x.st })
    let s := if (s.feed f).wasOn || s.restoreOn f then s.wakeUp else s
    go (s.tryRamp f)

def execFeedOutOfWindow (f : Feed) (vinMv powerMw : Nat) (s : State) : Host.Outcome State Fault Refusal :=
  go (if s.connected f && (s.feed f).inWin then s.inputOut f vinMv powerMw else s)

/-- An input returns to its window after the filter: during hold-up its feed ramps at once (R173, R197). -/
def execFeedInputReturn (f : Feed) (vinMv : Nat) (s : State) : Host.Outcome State Fault Refusal :=
  if !s.connected f || (s.feed f).inWin then go s
  else
    let held := s.weir.holdup.isSome
    let s := s.updFeed f (fun x => { x with inWin := true, settled := false, inSince := s.lt, vin := vinMv })
    let s := if (s.feed f).wasOn || s.restoreOn f then s.wakeUp else s
    let s := { s with weir := { s.weir with holdup := none } }
    let st := (s.feed f).st
    go (if held && s.keeperUp && st ≠ .disconnected && st ≠ .latched && st ≠ .cooldown && st ≠ .minOff then s.startRamp f else s)

def execFeedPowerGood (f : Feed) (voutMv : Nat) (iMa : Int) (s : State) : Host.Outcome State Fault Refusal :=
  go (if (s.feed f).st = .ramp then s.feedGood f voutMv iMa else s)

def execRampTimeout (f : Feed) (s : State) : Host.Outcome State Fault Refusal :=
  go (if (s.feed f).st = .ramp then s.tripFeed f .rampTimeout else s)

def execCurrentLimitReached (f : Feed) (iMa : Int) (s : State) : Host.Outcome State Fault Refusal :=
  let x := s.feed f
  go (if x.st = .ramp || x.st = .on then
    s.updFeed f (fun x => { x with inLimit := true, i := iMa, faultStart := some (x.faultStart.getD s.lt) }) else s)

def execFaultTimerClear (f : Feed) (s : State) : Host.Outcome State Fault Refusal :=
  go (s.updFeed f (fun x => { x with inLimit := false, faultStart := none }))

def execFaultTimerExpiry (f : Feed) (s : State) : Host.Outcome State Fault Refusal :=
  go (if (s.feed f).faultStart.isSome then s.tripFeed f .faultTimer else s)

def execSoaTrip (f : Feed) (s : State) : Host.Outcome State Fault Refusal := go (s.tripFeed f .soa)

def execFastTrip (f : Feed) (s : State) : Host.Outcome State Fault Refusal := go (s.tripFeed f .fast)

def execFeedLoss (f : Feed) (powerMw : Nat) (s : State) : Host.Outcome State Fault Refusal :=
  go (if (s.feed f).st = .on then (s.loseFeed f .off powerMw).weirOffFull else s)

/-- The end of a cooldown; without K0 the feed waits (R59, R187, R190). -/
def execCooldownEnd (f : Feed) (s : State) : Host.Outcome State Fault Refusal :=
  let x := s.feed f
  let s := s.updFeed f (fun x => { x with cooldown := 0 })
  if x.st = .cooldown && s.keeperUp then
    let s := s.updFeed f (fun x => { x with
      st := if x.inWin then .off else .outOfWindow, wasOn := true, lastTrip := none })
    go (s.tryRamp f)
  else go (s.tryRamp f)

def execRetryCountReset (f : Feed) (s : State) : Host.Outcome State Fault Refusal :=
  go (if (s.feed f).st = .on then s.updFeed f (fun x => { x with retries := 0 }) else s)

def execHoldupExpiry (s : State) : Host.Outcome State Fault Refusal :=
  go (if s.weir.holdup.isSome then (s.raise 0x0033 4 none).orderlyShutdown .holdup 0 else s)

/-- The end of MIN_OFF; without K0 the feed waits (R198, R199). -/
def execMinOffEnd (f : Feed) (s : State) : Host.Outcome State Fault Refusal :=
  go (if (s.feed f).st ≠ .minOff then s
    else if s.keeperUp then s.minOffOver f
    else s.updFeed f (fun x => { x with minOff := 0 }))

/-- A power window closes at a multiple of 10,000 ticks (R200). -/
def execPowerWindowClose (pMw : Nat) (a b : FeedMeas) (s : State) : Host.Outcome State Fault Refusal :=
  go (if s.lt % 10000 = 0 && s.lt ≠ 0 && s.dev.phase ≠ .inCalm then s.windowClose pMw a b else s)

def execShareImbalance (s : State) : Host.Outcome State Fault Refusal :=
  go (if s.fld 0x10 0 0xB = 1 && s.feedsOn.length = 2 then s.count 0x0030 else s)

end Sys2Proof.Machine
end

