-- ==== Sys2Proof/Machine/Fans.lean ====
section
/-!
DEFINITION. Fans, pumps and zones: the channels as zones see them, spin-up and tach judgement, the table engine, the order of duties,
the acoustic ceiling and the flow meters (R252, R260 to R277).
-/

namespace Sys2Proof.Machine

/-- `a / b` rounded to the nearest integer, halves up. -/
def roundDiv (a b : Int) : Int := if b < 0 then (2 * -a - b) / (2 * -b) else (2 * a + b) / (2 * b)

namespace State

/-! ### Channels and zones -/

def chan (s : State) (c : Fin 28) : ChanSt := s.cool.chans.get c
def updChan (c : Fin 28) (f : ChanSt → ChanSt) (s : State) : State :=
  { s with cool := { s.cool with chans := Vec.upd s.cool.chans c f } }

def chanType (s : State) (c : Fin 28) : Nat := s.fld 0x31 c.1 1
/-- A bit of ENABLES (R253). -/
def chanBit (s : State) (c : Fin 28) (b : Nat) : Bool := (s.fld 0x31 c.1 6).testBit b
/-- A threshold of object 0x31 in 0.1 °C. -/
def threshold (s : State) (c : Fin 28) (f : Nat) : Int := 10 * toSigned 8 (s.fld 0x31 c.1 f)
/-- The slot that a trip turns off, none for the tray (R248, R253). -/
def chanScope (s : State) (c : Fin 28) : Scope :=
  if s.fld 0x31 c.1 5 < 8 then some (Fin.ofNat 8 (s.fld 0x31 c.1 5)) else none

/-- The channel takes part in warnings, trips, Gusts and fan zones (R252). -/
def chanAvail (s : State) (c : Fin 28) : Bool :=
  if c.1 < 8 then (s.slot (Fin.ofNat 8 c.1)).present
  else if c.1 < 10 then s.stage0Pg
  else if c.1 < 12 then true
  else s.chanType c ≠ 0 && s.chanType c ≠ 4 && s.chanType c ≠ 5

/-- The reading that every purpose uses, in 0.1 °C; none while unavailable or before a first conversion (R251, R252). -/
def chanReading (s : State) (c : Fin 28) : Option Int :=
  if s.chanAvail c && (s.chan c).hist ≠ [] then some (s.chan c).reading else none

/-- Zones whose CH_MASK holds the channel. -/
def zonesOf (s : State) (c : Fin 28) : List (Fin 4) := (List.finRange 4).filter (fun z => (s.fld 0x30 z.1 3).testBit c.1)
def updZone (z : Fin 4) (f : ZoneSt → ZoneSt) (s : State) : State :=
  { s with cool := { s.cool with zones := Vec.upd s.cool.zones z f } }


def zone (s : State) (z : Fin 4) : ZoneSt := s.cool.zones.get z
def output (s : State) (o : Fin 20) : OutSt := s.cool.outs.get o
def updOut (o : Fin 20) (f : OutSt → OutSt) (s : State) : State :=
  { s with cool := { s.cool with outs := Vec.upd s.cool.outs o f } }

def isPump (o : Fin 20) : Bool := 16 ≤ o.1
/-- The zone whose mask holds the output (R267; rule 0x03 of R146 leaves at most one). -/
def zoneOf (s : State) (o : Fin 20) : Option (Fin 4) :=
  (List.finRange 4).find? (fun z =>
    if isPump o then (s.fld 0x30 z.1 2).testBit (o.1 - 16) else (s.fld 0x30 z.1 1).testBit o.1)

/-- The effective mode of a zone is host (R270). -/
def hostMode (s : State) (z : Fin 4) : Bool := s.fld 0x30 z.1 4 = 1 && !(s.zone z).takeover

/-- Minimum speed of an output in rpm (R261, R264, R267). -/
def minRpm (s : State) (o : Fin 20) : Nat :=
  match s.zoneOf o with
  | some z => if s.cool.applied then s.fld 0x30 z.1 (if isPump o then 0xA else 8) else 500
  | none => 500

/-! ### The table engine (R268) -/

/-- Duty of a table at a temperature in 0.1 °C, in thousandths of a percent rounded up, which keeps every comparison with a whole
percentage exact (R268). -/
def interp (tp dp : Nat → Int) (t : Int) : Nat :=
  if t ≤ 10 * tp 0 then (1000 * dp 0).toNat
  else match (List.range 7).find? (fun k => decide (t ≤ 10 * tp (k + 1))) with
    | some k => (1000 * dp k - (-(1000 * (dp (k + 1) - dp k) * (t - 10 * tp k)) / (10 * (tp (k + 1) - tp k)))).toNat
    | none => (1000 * dp 7).toNat

def tPoint (s : State) (z : Fin 4) (k : Nat) : Int := toSigned 8 (s.fld 0x30 z.1 6 / 256 ^ k)
def dPoint (s : State) (z : Fin 4) (k : Nat) : Int := (s.fld 0x30 z.1 7 / 256 ^ k % 256 : Nat)

/-- The hottest reading of a zone (R268). -/
def zoneTemp (s : State) (z : Fin 4) : Option Int :=
  (((List.finRange 28).filter (fun c => (s.fld 0x30 z.1 3).testBit c.1)).filterMap s.chanReading).max?

/-- One evaluation of a zone's demand (R268). -/
def zoneEval (s : State) (z : Fin 4) : State :=
  match s.zoneTemp z with
  | none => s.updZone z (fun y => { y with demand := (1000 * s.dPoint z 0).toNat })
  | some t =>
    let held := match (s.zone z).tHeld with
      | none => t
      | some h => if h < t then t else if t < h - 20 then t + 20 else h
    s.updZone z (fun y => { y with tHeld := some held, demand := interp (s.tPoint z) (s.dPoint z) held })

/-! ### The order of duties (R263 to R266, R269, R277, R279) -/

def outFailed (s : State) (o : Fin 20) : Bool := (s.output o).drive = .failed
/-- FANS_FULL of HW_STATUS (R85, R263, R264). -/
def fansFull (s : State) : Bool := (List.finRange 20).any s.outFailed
def pumpFailed (s : State) : Bool := (List.finRange 20).any (fun o => isPump o && s.outFailed o)

/-- A channel of the zone is in warning (R254). -/
def zoneWarn (s : State) (z : Fin 4) : Bool :=
  (List.finRange 28).any (fun c => (s.fld 0x30 z.1 3).testBit c.1 && (s.chan c).warn)

/-- CEILING_PCT in thousandths of a percent. -/
def ceiling (s : State) : Nat := 1000 * s.fld 0x33 0 1

/-- Duty of orders 4 to 6 of R269 for a zone's fans, or with the ceiling left out for its pumps. -/
def zoneDuty (s : State) (z : Fin 4) (pump : Bool) : Nat :=
  let cap := fun (d : Nat) => if pump then d else min d s.ceiling
  if s.sess.fanHold.isSome || s.hostMode z then cap (1000 * s.fld 0x30 z.1 5)
  else if s.cool.released then (s.zone z).demand
  else cap (s.zone z).demand

/-- The pump is listed by a low flow meter (R277). -/
def flowPump (s : State) (o : Fin 20) : Bool :=
  (List.finRange 4).any (fun n => (s.cool.flows.get n).low && (s.fld 0x30 n.1 0xD).testBit (o.1 - 16))

/-- Duty of an output in thousandths of a percent, and whether it is applied without slew (R58, R265, R269). -/
def outTarget (s : State) (o : Fin 20) : Nat × Bool :=
  let x := s.output o
  let pump := isPump o
  if pump && s.cool.leakPumps then (0, true)
  else if s.cool.applied && (s.zoneOf o).isNone then (0, true)
  else if x.drive = .spinUp then (if x.pause then 0 else 100000, true)
  else if x.drive = .failed || s.cool.fullHold || (if pump then s.pumpFailed else s.fansFull) then (100000, true)
  else if !s.cool.applied then (60000, true)
  else match s.zoneOf o with
    | none => (0, true)
    | some z =>
      if s.zoneWarn z || (s.zone z).gust.isSome then (100000, true)
      else if pump then
        (if s.flowPump o then (100000, true) else (max (s.zoneDuty z true) (1000 * s.fld 0x30 z.1 9), false))
      else (s.zoneDuty z false, false)

/-- A spin-up begins (R261). -/
def spinUp (s : State) (o : Fin 20) : State :=
  s.updOut o (fun x => { x with
    drive := .spinUp, attempts := 1, attemptStart := s.lt, pause := false, late := false, slow := false, duty := 100000 })

/-- Duty after one evaluation: the slew limits are in percentage points a second, an evaluation is 16 ms (R257, R269, R271). -/
def slewed (s : State) (d t : Nat) : Nat :=
  if d < t then min t (d + 16 * s.fld 0x33 0 6) else max t (d - 16 * s.fld 0x33 0 7)

/-- One output takes its duty; `slew` at an evaluation of the engine (R261, R262, R265, R269). -/
def driveOut (slew : Bool) (s : State) (o : Fin 20) : State :=
  let x := s.output o
  let (t, ov) := s.outTarget o
  let stopped := isPump o && s.cool.leakPumps
  if !stopped && s.cool.applied && (s.zoneOf o).isNone then
    s.updOut o (fun y => { y with drive := .unused, duty := 0, slow := false, attempts := 0, pause := false, late := false })
  else if !stopped && x.drive = .unused then (if s.dev.armed then s.spinUp o else s)
  else if !stopped && x.drive = .stopped && t ≠ 0 then s.spinUp o
  else
    let d := if ov then t else if slew then s.slewed x.duty t else x.duty
    s.updOut o (fun y => { y with
      duty := d
      drive := if stopped then .stopped
        else if y.drive = .spinUp || y.drive = .failed then y.drive
        else if d = 0 then .stopped else .running
      slow := !stopped && d ≠ 0 && y.slow })

def driveAll (slew : Bool) (s : State) : State := (List.finRange 20).foldl (State.driveOut slew) s

/-- Code of the output's pulse width (R260). -/
def pwmCode (s : State) (o : Fin 20) : Int := roundDiv ((s.output o).duty * 1023) 100000

/-- An output fails: counted, a wake event, and the duties of R263 and R264 at once. -/
def failOut (o : Fin 20) (s : State) : State :=
  let s := s.updOut o (fun x => { x with drive := .failed, slow := false, pause := false, late := false })
  (((s.notice (0x0400 + o.1)).wakeUp).driveAll false)

/-- A phase of a spin-up ends: 2 s at full speed, 3 s since its start, or the pause of 1 s (R261). -/
def spinStep (o : Fin 20) (tachOk : Bool) (s : State) : State :=
  let x := s.output o
  if x.pause then
    s.updOut o (fun y => { y with
      attempts := y.attempts + 1, attemptStart := s.lt, pause := false, late := false, duty := 100000 })
  else if tachOk then (s.updOut o (fun y => { y with drive := .running, late := false })).driveOut false o
  else if !x.late then s.updOut o (fun y => { y with late := true })
  else if 3 ≤ x.attempts then s.failOut o
  else s.updOut o (fun y => { y with pause := true, late := false, duty := 0 })

/-! ### The acoustic ceiling (R272 to R276) -/

/-- Table-mode zones with a fan (R273). -/
def tableZones (s : State) : List (Fin 4) := (List.finRange 4).filter (fun z => !s.hostMode z && s.fld 0x30 z.1 1 ≠ 0)

/-- An override of orders 1 to 3 holds a fan above the ceiling (R276). -/
def overridden (s : State) : Bool :=
  (List.finRange 20).any (fun o => !isPump o && (s.outTarget o).2 && decide (s.ceiling < (s.output o).duty))

/-- K1 has applied the cooling settings and runs (R273, R276). -/
def ceilingRuns (s : State) : Bool := s.keeperUp && s.coreRuns 1 && s.cool.applied

/-- A timer that runs while its condition holds (R273 to R275). -/
def timer (s : State) (cond : Bool) (t : Option Nat) : Option Nat := if cond then some (t.getD s.lt) else none

/-- The ceiling timers after an evaluation (R273 to R276). -/
def ceilingTimers (s : State) : State :=
  let c := s.cool
  let on := s.ceilingRuns && !s.overridden
  let exceeds := s.tableZones.any (fun z => decide (s.ceiling < (s.zone z).demand))
  let under := s.tableZones.all (fun z => decide ((s.zone z).demand + 1000 * s.fld 0x33 0 4 ≤ s.ceiling))
  let settled := c.ceilApplied = c.ceilStep
  { s with cool := { c with
    overStart := s.timer (on && exceeds && settled && !c.released) c.overStart
    underStart := s.timer (on && under && settled && 0 < c.ceilStep) c.underStart
    returnStart := s.timer (on && !exceeds && c.released) c.returnStart } }

/-- A new ceiling part: counted, and requested for every group with a member slot (R27, R272). -/
def setCeiling (k : Nat) (s : State) : State :=
  ({ s with cool := { s.cool with ceilStep := k, overStart := none, underStart := none } }.count 0x0461).requestsChanged

/-- The over-timer reaches RAISE_S (R273, R274). -/
def ceilingOver (s : State) : State :=
  if s.cool.overStart.isNone then s
  else if s.cool.ceilStep < s.fld 0x33 0 5 then s.setCeiling (s.cool.ceilStep + 1)
  else ({ s with cool := { s.cool with released := true, overStart := none } }).notice 0x0460

/-- A step of the cooling cause has taken effect in every group, so that its timers run again (R273, R275). -/
def coolApplied (s : State) : State :=
  if s.gop.epochs.any (fun e => e.fn = .cadence && s.groupsHere.contains e.group.1) then s
  else { s with cool := { s.cool with ceilApplied := s.cool.ceilStep } }

/-! ### Flow meters (R277) -/

def updFlow (n : Fin 4) (f : FlowSt → FlowSt) (s : State) : State :=
  { s with cool := { s.cool with flows := Vec.upd s.cool.flows n f } }
/-- FLW_K and FLW_MIN_DL are both set. -/
def flowJudged (s : State) (n : Fin 4) : Bool := s.fld 0x30 n.1 0xB ≠ 0 && s.fld 0x30 n.1 0xC ≠ 0
/-- Flow in mL/min below FLW_MIN_DL. -/
def flowUnder (s : State) (n : Fin 4) : Bool := decide ((s.cool.flows.get n).flow < 100 * s.fld 0x30 n.1 0xC)

end State

/-! ### The rows -/

/-- The fan engine runs every 16 ms with the speeds that the tachs show (R257, R260, R268). -/
def execFanEngineEval (rpm : List Nat) (s : State) : Host.Outcome State Fault Refusal :=
  if !s.dev.armed then go s
  else
    let s := ((List.finRange 20).zip rpm).foldl (fun t c => t.updOut c.1 (fun x => { x with
      rpm := c.2, slow := x.slow && decide (c.2 < s.minRpm c.1) })) s
    let s := (List.finRange 4).foldl State.zoneEval { s with cool := { s.cool with evalTick := s.lt } }
    go (s.driveAll true).ceilingTimers

def execSpinUpStep (o : Fin 20) (tachOk : Bool) (s : State) : Host.Outcome State Fault Refusal :=
  go (if (s.output o).drive = .spinUp then s.spinStep o tachOk else s)

def execTachNoEdge (o : Fin 20) (s : State) : Host.Outcome State Fault Refusal :=
  go (if (s.output o).drive = .running && (s.output o).duty ≠ 0 then s.failOut o else s)

def execOutputSlow (o : Fin 20) (s : State) : Host.Outcome State Fault Refusal :=
  go (if (s.output o).drive = .running && !(s.output o).slow then
    (s.updOut o (fun x => { x with slow := true })).count (0x0440 + o.1) else s)

def execOutputRestored (o : Fin 20) (s : State) : Host.Outcome State Fault Refusal :=
  go (if s.outFailed o then
    ((s.updOut o (fun x => { x with drive := .running })).count (0x0420 + o.1)).driveAll false else s)

def execCeilingOverTimer (s : State) : Host.Outcome State Fault Refusal := go s.ceilingOver

def execCeilingReturn (s : State) : Host.Outcome State Fault Refusal :=
  go (if s.cool.returnStart.isSome then { s with cool := { s.cool with released := false, returnStart := none } } else s)

def execCeilingUnderTimer (s : State) : Host.Outcome State Fault Refusal :=
  go (if s.cool.underStart.isSome && 0 < s.cool.ceilStep then s.setCeiling (s.cool.ceilStep - 1) else s)

/-- A second of pulses (R277). -/
def execFlowMeasure (n : Fin 4) (pulses : Nat) (s : State) : Host.Outcome State Fault Refusal :=
  let k := s.fld 0x30 n.1 0xB
  go (s.updFlow n (fun x => { flow := if k = 0 then 0 else pulses * 60000 / k, low := x.low && s.flowJudged n }))

def execFlowLow (n : Fin 4) (s : State) : Host.Outcome State Fault Refusal :=
  go (if s.flowJudged n && s.flowUnder n && !(s.cool.flows.get n).low then
    ((s.updFlow n (fun x => { x with low := true })).notice (0x0470 + n.1)).driveAll false else s)

def execFlowRecover (n : Fin 4) (s : State) : Host.Outcome State Fault Refusal :=
  go (if (s.cool.flows.get n).low && !s.flowUnder n then (s.updFlow n (fun x => { x with low := false })).driveAll false else s)

end Sys2Proof.Machine
end

