-- ==== Sys2Proof/Machine/Thermal.lean ====
section
/-!
DEFINITION. Temperature channels: conversions, failed channels, warnings, trips with hold, history and latch, Gusts, and the opcodes
THERM_STATUS and TRIP_CLEAR (R248 to R259, R281, R284, R286).
-/

namespace Sys2Proof.Machine

/-! ### Readings of the analog inputs (R250) -/

/-- `ln 2` in units of 1/2^64. -/
def lnTwo : Int := 12786308645202655660

/-- The natural logarithm of `1 + m / 2^64` in units of 1/2^64, by the series of the inverse hyperbolic tangent (log 32). -/
def lnOnePlus (m : Nat) : Int :=
  let one := 2 ^ 64
  let z := m * one / (m + 2 * one)
  let z2 := z * z / one
  let r := (List.range 28).foldl (fun (acc : Nat × Nat) i => (acc.1 + acc.2 / (2 * i + 1), acc.2 * z2 / one)) (0, z)
  (2 * r.1 : Nat)

/-- The natural logarithm of `p / q` in units of 1/2^64. -/
def lnRatio (p q : Nat) : Int :=
  let x := p * 2 ^ 128 / q
  let k := Nat.log2 x
  ((k : Int) - 128) * lnTwo + lnOnePlus ((x - 2 ^ k) * 2 ^ 64 / 2 ^ k)

/-- Reading of an NTC thermistor in 0.1 °C at `uV` µV: none when the formula divides by 0 (R250 TYPE 1). -/
def ntcReading (uV a b : Nat) : Option Int :=
  let inv : Int := 2 ^ 64 * 100 / 29815 + lnRatio uV (20 * a) / b
  if inv = 0 then none else some (roundDiv (10 * 2 ^ 64 * 2 - 5463 * inv) (2 * inv))

/-- Resistance of a PT1000 at `n / 20` °C in units of 1 kΩ / 1.6e20, by IEC 60751 (R250 TYPE 2; PRESUMED, log 33). -/
def ptOhms (n : Int) : Int :=
  160000 * 10 ^ 15 + 39083 * 10 ^ 8 * 8000 * n - 5775 * 10 ^ 5 * 400 * n * n -
    (if n < 0 then 4183 * (n - 2000) * n * n * n else 0)

/-- The highest tenth of a degree from `lo` on, `2 ^ k` of them searched, whose lower rounding bound lies at or below the pin voltage. -/
def ptSearch (uV : Nat) : (k : Nat) → (lo : Int) → Int
  | 0, lo => lo
  | k + 1, lo =>
    let mid := lo + 2 ^ k
    ptSearch uV k (if ptOhms (2 * mid - 1) * 100000 ≤ (uV : Int) * (160000 * 10 ^ 15) then mid else lo)

/-- Reading of a PT1000 in 0.1 °C, none outside −200 °C to 850 °C, where IEC 60751 gives no coefficients. -/
def ptReading (uV : Nat) : Option Int :=
  let v := (uV : Int) * (160000 * 10 ^ 15)
  if v < ptOhms (-4000) * 100000 || ptOhms 17000 * 100000 < v then none else some (ptSearch uV 14 (-2000))

namespace State

/-- Rise over the last 100 ms in 0.1 °C (R258, R286). -/
def chanSlope (x : ChanSt) : Option Int :=
  match x.hist[100]? with
  | some old => some (x.reading - old)
  | none => none

/-! ### One conversion (R249 to R253) -/

/-- A free reading, where R250 states no temperature. -/
def freeReading (s : State) : Int × State := (Config.freeReading s.free, s.drawn)

/-- A conversion shows an open or shorted sensor, or a die-sensor fault (R251). -/
def convBad (s : State) (c : Fin 28) (v : Conv) : Bool :=
  match v with
  | .fault => true
  | .temp t => 8 ≤ c.1 && c.1 < 12 && (t < -400 || 1500 < t)
  | .pin uV => 12 ≤ c.1 && 1 ≤ s.chanType c && s.chanType c ≤ 3 && (uV < 2000 || 1620000 < uV)

/-- Temperature of a good conversion in 0.1 °C, OFFSET_DC not yet added (R249, R250). -/
def convTemp (s : State) (c : Fin 28) (v : Conv) : Option Int × State :=
  let a := s.fld 0x31 c.1 2
  let b := s.fld 0x31 c.1 3
  let orFree := fun (r : Option Int) => match r with
    | some t => (some t, s)
    | none => let (t, s') := s.freeReading; (some t, s')
  match v with
  | .temp t => if c.1 < 12 then (some t, s) else (none, s)
  | .pin uV =>
    if c.1 < 12 then (none, s)
    else match s.chanType c with
      | 1 => orFree (ntcReading uV a b)
      | 2 => orFree (ptReading uV)
      | 3 => (some (roundDiv (((uV : Int) - 1000 * toSigned 32 a) * 10) (toSigned 32 b)), s)
      | _ => (none, s)
  | .fault => (none, s)

/-- A value of TYPE 4 in mV or TYPE 5 in mA (R250). -/
def convValue (s : State) (c : Fin 28) (v : Conv) : Int :=
  let a := s.fld 0x31 c.1 2
  match v with
  | .pin uV =>
    if s.chanType c = 4 then roundDiv ((uV : Int) * a) 256000 else if s.chanType c = 5 then roundDiv ((uV : Int) * a) 1000 else 0
  | _ => 0

/-! ### Warnings (R254) -/

/-- Two conversions in a row toward a change of warning (R254). -/
def judgeWarn (c : Fin 28) (s : State) : State :=
  let x := s.chan c
  if !s.chanBit c 0 then s.updChan c (fun y => { y with warn := false, warnCnt := 0 })
  else
    let w := s.threshold c 7
    let toward := if x.warn then x.reading < w - 20 else w ≤ x.reading
    if !toward then s.updChan c (fun y => { y with warnCnt := 0 })
    else if x.warnCnt = 0 then s.updChan c (fun y => { y with warnCnt := 1 })
    else
      let s := s.updChan c (fun y => { y with warn := !y.warn, warnCnt := 0 })
      if x.warn then s else (s.count (0x0300 + c.1)).wakeUp

/-! ### Trips (R255 to R257, R281, R512) -/

/-- The tray goes off for a leak or a trip: the orderly shutdown, unless it is off already (R199, R255, R279). -/
def trayOff (c : ShutCause) (s : State) : State :=
  if s.casc.st = .allOff && s.feedsOn = [] && s.weir.shutdown.isNone && (s.feed 0).st ≠ .ramp && (s.feed 1).st ≠ .ramp then s
  else s.orderlyShutdown c 0

/-- A hardware trip of slot scope (R230, R490, R512). -/
def tripSlot (i : Fin 8) (s : State) : State :=
  match (s.slot i).st with
  | .powering | .held | .running => (s.setSlot i .off 4).slotDown i
  | .off => if (s.seqOf (some i)).isSome then s.slotDown i else s
  | .quarantined => s.slotDown i
  | .absent | .failed => s

/-- Another channel of the same scope is tripped. -/
def otherTripped (s : State) (c : Fin 28) : List (Fin 28) :=
  (List.finRange 28).filter (fun d => d ≠ c && s.chanScope d = s.chanScope c && (s.chan d).tripped)

/-- A channel trips (R255, R257). -/
def tripChan (c : Fin 28) (s : State) : State :=
  let x := s.chan c
  let latch := decide (3 ≤ (x.restarts.filter (fun t => decide (s.lt < t + 3600000000))).length)
  let on := maskOf 2 (fun f => (s.feed (Fin.ofNat 2 f)).st = .on)
  let sc := s.chanScope c
  let s := s.raise (0x0320 + c.1) (if sc.isSome then 3 else 4) sc
  let s := s.updChan c (fun y => { y with
    tripped := true, tripCnt := 0, latched := latch, holdSince := none, waiting := none, feedsOn := on })
  let s := if latch then s.raise (0x0360 + c.1) 1 sc else s
  match sc with
  | some i => s.tripSlot i
  | none => ({ s with weir := { s.weir with heldTrip := true } }).trayOff .thermal

/-- Two conversions in a row at or above TRIP_C; the hold of a tripped channel (R253, R255, R256). -/
def judgeTrip (c : Fin 28) (s : State) : State :=
  let x := s.chan c
  if x.tripped then
    if x.latched then s
    else if s.threshold c 9 ≤ x.reading then s.updChan c (fun y => { y with holdSince := none, waiting := none })
    else s.updChan c (fun y => { y with holdSince := some (y.holdSince.getD s.lt) })
  else if !(c.1 < 12 || s.chanBit c 1) || x.reading < s.threshold c 8 then s.updChan c (fun y => { y with tripCnt := 0 })
  else if x.tripCnt = 0 then s.updChan c (fun y => { y with tripCnt := 1 })
  else s.tripChan c

/-- A feed that a tray trip turned off restarts under RESTORE 1 or 2, and is OFF otherwise (R256). -/
def restartFeed (on : Nat) (s : State) (f : Feed) : State :=
  if on.testBit f.1 then
    let want := s.fld 0x10 0 2 = 1 || s.fld 0x10 0 2 = 2
    (s.updFeed f (fun x => { x with wasOn := want })).tryRamp f
  else s

/-- A trip ends: what it turned off restarts, unless another trip of its scope lasts; a restart made is counted, and entered in the
history when `record` (R256, R284). -/
def endTrip (c : Fin 28) (record : Bool) (s : State) : State :=
  let x := s.chan c
  let s := s.updChan c (fun y => { y with tripped := false, latched := false, tripCnt := 0, holdSince := none, waiting := none })
  let done := fun (t : State) =>
    (t.updChan c (fun y => { y with restarts := if record then y.restarts ++ [t.lt] else y.restarts })).raise
      (0x0340 + c.1) 1 (t.chanScope c)
  match s.otherTripped c with
  | d :: ds => (d :: ds).foldl (fun t e => t.updChan e (fun y => { y with feedsOn := y.feedsOn ||| x.feedsOn })) s
  | [] =>
    match s.chanScope c with
    | some i => if s.mayRise i then done (s.slotUp i) else s
    | none =>
      let s := { s with weir := { s.weir with heldTrip := false } }
      let made := x.feedsOn ≠ 0 && (s.fld 0x10 0 2 = 1 || s.fld 0x10 0 2 = 2)
      let s := (List.finRange 2).foldl (State.restartFeed x.feedsOn) s
      if made then done s else s

/-- The hold has lasted HOLD_S, or a latch is cleared: the restart waits for LEAK_CLEAR while the leak is latched (R281, R284). -/
def holdOver (c : Fin 28) (record : Bool) (s : State) : State :=
  if s.cool.leak then s.updChan c (fun y => { y with latched := false, waiting := some record }) else s.endTrip c record

/-- Restarts that waited for LEAK_CLEAR (R281). -/
def waitedRestarts (s : State) : State :=
  (List.finRange 28).foldl (fun t c => match (t.chan c).waiting with
    | some r => t.endTrip c r
    | none => t) s

/-- A channel becomes unavailable: no part in anything; a trip that is not latched ends without a restart (R252). -/
def chanGone (c : Fin 28) (s : State) : State :=
  let x := s.chan c
  let s := s.updChan c (fun y => { y with
    bad := 0, good := 0, failed := false, warn := false, warnCnt := 0, tripCnt := 0, hist := [], holdSince := none
    waiting := none, tripped := y.tripped && y.latched })
  if x.tripped && !x.latched && (s.chanScope c).isNone && s.otherTripped c = [] then
    { s with weir := { s.weir with heldTrip := false } }
  else s

/-! ### Gusts (R258, R259) -/

/-- A step change of a Gust is still pending (R259). -/
def gustPending (s : State) : Bool := s.groupsHere.any (fun g => decide ((s.grp g).step < (s.grp g).gust))

/-- A Gust: its zones at 100 %, and in Full with a slot RUNNING the throttle and the Gust part (R259, R281). -/
def gustOn (c : Fin 28) (s : State) : State :=
  let s := s.raise (0x03C0 + c.1) 1 (s.chanScope c)
  let s := (s.zonesOf c).foldl (fun t z => t.updZone z (fun y => { y with gust := some t.lt })) s
  let s := { s with cool := { s.cool with lastGust := some s.lt } }
  if !s.chanBit c 3 || !s.isFull || !s.anyRunning || s.gustPending then s
  else
    (s.groupsHere.foldl (fun t g => t.updGrp g (fun y => { y with gust := min 15 (y.step + 1) })) s).emergency

/-- A rise of GUST_DCPS over the preceding 100 ms (R258). -/
def judgeGust (c : Fin 28) (s : State) : State :=
  match chanSlope (s.chan c) with
  | none => s
  | some d =>
    if s.chanBit c 2 && (s.dev.st = .keeper || s.dev.st = .full) && (s.fld 0x31 c.1 0xB : Int) ≤ 10 * d then
      (s.updChan c (fun y => { y with gust := some s.lt })).gustOn c
    else s

/-- The reading for every purpose after a conversion (R251, R253). -/
def takeConv (c : Fin 28) (v : Conv) (s : State) : State :=
  let off := toSigned 8 (s.fld 0x31 c.1 0xC)
  let sc := s.chanScope c
  if s.convBad c v then
    let x := s.chan c
    let fails := !x.failed && x.bad ≠ 0
    let s := s.updChan c (fun y => { y with
      good := 0, bad := min 2 (y.bad + 1), failed := y.failed || fails
      reading := if y.failed || fails then 1500 else y.reading
      hist := if y.failed || fails then (1500 :: y.hist).take 101
        else match y.hist with | [] => [] | r :: rs => (r :: r :: rs).take 101 })
    if fails then s.raise (0x0380 + c.1) 1 sc else s
  else
    match s.convTemp c v with
    | (none, s) => s
    | (some t, s) =>
      let x := s.chan c
      let back := x.failed && 999 ≤ x.good
      let r := if x.failed && !back then 1500 else t + off
      let s := s.updChan c (fun y => { y with
        bad := 0, good := if y.failed && !back then y.good + 1 else 0, failed := y.failed && !back
        reading := r, hist := (r :: y.hist).take 101 })
      if back then s.count (0x03A0 + c.1) else s

/-- One channel's conversion, judged for failure, Gust, warning and trip. -/
def convert (s : State) (cv : Fin 28 × Conv) : State :=
  let c := cv.1
  if !s.chanAvail c then
    (s.chanGone c).updChan c (fun y => { y with reading := s.convValue c cv.2 })
  else
    let s := s.takeConv c cv.2
    if (s.chan c).hist = [] then s else ((s.judgeGust c).judgeWarn c).judgeTrip c

/-- The Gust part withdrawn (R259). -/
def withdrawGust (s : State) : State :=
  if s.gop.groups.all (fun c => c.2.gust = 0) then s
  else
    let s := { s with gop := { s.gop with groups := s.gop.groups.map (fun (c : Fin 256 × GroupSt) => (c.1, { c.2 with gust := 0 })) } }
    s.requestsChanged

/-- Every channel with bit 2 set reads below its WARN_C (R259). -/
def belowWarn (s : State) : Bool :=
  (List.finRange 28).all (fun c => !s.chanBit c 2 ||
    match s.chanReading c with
    | some r => decide (r < s.threshold c 7)
    | none => true)

/-- 10 s of the RC oscillator have passed since a tick, which ±2 % makes at least 9.8 s (R257, R259). -/
def tenSeconds (s : State) (t : Nat) : Bool := decide (t + 9800000 ≤ s.lt)

/-- The end of Gust boosts, and of the Gust part (R259). -/
def gustQuiet (s : State) : State :=
  let quiet := fun (g : Option Nat) => match g with | some t => s.tenSeconds t | none => true
  let s' := { s with cool := { s.cool with
    zones := Vec.mapIdx s.cool.zones (fun _ z => if quiet z.gust then { z with gust := none } else z) } }
  let s' := s'.driveAll false
  if quiet s.cool.lastGust && s'.belowWarn then s'.withdrawGust else s'

/-! ### Opcodes (R284, R286) -/

/-- STATUS and STATE of a channel's record (R286). -/
def chanStatus (s : State) (c : Fin 28) : Nat := if !s.chanAvail c then 2 else if (s.chan c).failed then 1 else 0
def chanState (x : ChanSt) : Nat :=
  if x.latched then 4
  else if x.tripped then (if x.holdSince.isSome || x.waiting.isSome then 3 else 2)
  else b2n x.warn

/-- A number held within signed `w`-bit bounds. -/
def clampInt (w : Nat) (z : Int) : Int := max (-(2 ^ (w - 1))) (min (2 ^ (w - 1) - 1) z)

def thermRecord (s : State) (c : Fin 28) : Bytes :=
  let x := s.chan c
  intLE 2 (clampInt 16 x.reading) ++ [byte (s.chanStatus c), byte (chanState x),
    byte (min 255 (x.restarts.filter (fun t => decide (s.lt < t + 3600000000))).length)]
  ++ intLE 1 (clampInt 8 ((chanSlope x).getD 0)) ++ zeros 2

/-- The reply of THERM_STATUS (R286). -/
def thermReply (s : State) : Bytes :=
  natLE 4 (Vec.mask s.cool.chans (fun x => x.tripped)) ++ natLE 4 (Vec.mask s.cool.chans (fun x => x.latched))
  ++ (List.finRange 28).flatMap s.thermRecord

/-- A latched channel that TRIP_CLEAR clears (R284). -/
def clearable (s : State) (c : Fin 28) : Bool :=
  (s.chan c).latched &&
    (!s.chanAvail c || (!(s.chan c).failed && decide ((s.chan c).reading < s.threshold c 9)))

def tripClearRun (p : Port) (ps : Bytes) (s : State) : State :=
  let named := (List.finRange 28).filter (fun c => (ps.num 0 4).testBit c.1)
  let cleared := named.filter s.clearable
  let mask := fun (l : List (Fin 28)) => l.foldl (fun a c => a + 2 ^ c.1) 0
  let t := cleared.foldl (fun t c => (t.updChan c (fun y => { y with restarts := [] })).holdOver c false) s
  t.answerNow p .ok (natLE 4 (mask cleared) ++ natLE 4 (mask (named.filter (fun c => !s.clearable c))))

end State

def thermStatusOp : OpSpec := .query 0x0303 true [4] 0 OpSpec.free4 (fun _ s => s.thermReply)
def tripClearOp : OpSpec :=
  { opcode := 0x0304, keeper := true, feats := [4], plen := some 4
    check := fun _ ps _ => firstFail [(.badParam, 2 ^ 28 ≤ ps.num 0 4)]
    bound := fun _ _ _ => 0, run := fun p ps _ s => s.tripClearRun p ps }

def execThermStatus (p : Port) (tag : BitVec 32) (params : Bytes) (s : State) : Host.Outcome State Fault Refusal :=
  go (s.submit thermStatusOp p tag params)
def execTripClear (p : Port) (tag : BitVec 32) (params : Bytes) (s : State) : Host.Outcome State Fault Refusal :=
  go (s.submit tripClearOp p tag params)

/-- A conversion of every channel; the hardware acts once its protections are armed (R58, R249). -/
def execTempConversion (cs : List Conv) (s : State) : Host.Outcome State Fault Refusal :=
  go (if s.dev.armed then (((List.finRange 28).zip cs).foldl State.convert s).driveAll false else s)

/-- HOLD_S below RELEASE_C have passed (R256). -/
def execTripHoldEnd (c : Fin 28) (s : State) : Host.Outcome State Fault Refusal :=
  let x := s.chan c
  go (if x.tripped && !x.latched && x.holdSince.isSome && x.waiting.isNone then s.holdOver c true else s)

def execGustQuiet (s : State) : Host.Outcome State Fault Refusal := go s.gustQuiet

end Sys2Proof.Machine
end

