-- ==== Sys2Proof/Machine/Leak.lean ====
section
/-!
DEFINITION. Leak ropes and the leak latch, LEAK_CLEAR and COOL_STATUS (R278 to R281, R284, R285).
-/

namespace Sys2Proof.Machine

namespace State

def rope (s : State) (r : Fin 8) : RopeSt := s.cool.ropes.get r
def updRope (r : Fin 8) (f : RopeSt → RopeSt) (s : State) : State :=
  { s with cool := { s.cool with ropes := Vec.upd s.cool.ropes r f } }
def ropeKind (s : State) (r : Fin 8) : Nat := s.fld 0x32 r.1 1

/-- One measurement of a rope: above 1 MΩ or below 100 kΩ its last decision stands until its time has passed; between the two
it is damp, counted on entry (R278). -/
def measureRope (s : State) (c : Fin 8 × Nat) : State :=
  let r := c.1
  let x := s.rope r
  if s.ropeKind r = 0 then s.updRope r (fun _ => { st := .dry, wet := false, kohm := c.2 })
  else if 100 ≤ c.2 && c.2 ≤ 1000 then
    let s := s.updRope r (fun y => { y with st := .damp, kohm := c.2 })
    if x.st = .damp then s else s.count (0x0488 + r.1)
  else s.updRope r (fun y => { y with st := if y.wet then .wet else .dry, kohm := c.2 })

/-- A rope turns wet (R278, R279). -/
def ropeWet (r : Fin 8) (s : State) : State :=
  let s := s.updRope r (fun y => { y with st := .wet, wet := true })
  if s.ropeKind r = 2 then
    let s := (s.raise (0x0480 + r.1) 4 none).wakeUp
    ({ s with
      cool := { s.cool with leak := true }
      weir := { s.weir with heldLeak := true } }).trayOff .leak
  else (s.count (0x0480 + r.1)).wakeUp

/-- Every pump at 0 % and no longer judged; a failure ends without a restore (R279, R281). -/
def stopPumps (s : State) : State :=
  ({ s with cool := { s.cool with
    leakPumps := true
    outs := Vec.mapIdx s.cool.outs (fun o x => if isPump o then
      { x with drive := .stopped, duty := 0, slow := false, pause := false, late := false } else x) } }).driveAll false

/-- A feed in OFF follows the "After MIN_OFF" column (R198, R284). -/
def feedAfterLeak (s : State) (f : Feed) : State :=
  if (s.feed f).st = .off || (s.feed f).st = .outOfWindow then
    (s.updFeed f (fun x => { x with wasOn := x.wasOn || s.restoreOn f })).tryRamp f
  else s

/-- The leak latch cleared: pumps back in their zones with a spin-up, feeds as the restore policy has it, restarts that waited
(R281, R284). -/
def clearLeak (s : State) : State :=
  let stopped := s.cool.leakPumps
  let s := { s with
    cool := { s.cool with leak := false, leakPumps := false }
    weir := { s.weir with heldLeak := false } }
  let s := if stopped then
      ((List.finRange 20).filter (fun o => isPump o && (!s.cool.applied || (s.zoneOf o).isSome))).foldl State.spinUp s
    else s
  (((List.finRange 2).foldl State.feedAfterLeak s).waitedRestarts).driveAll false

/-- The Gust part of the cooling cause: its highest request (R272, R285). -/
def gustStep (s : State) : Nat := (s.gop.groups.map (fun c => c.2.gust)).foldl max 0

/-- A duty in whole percent, as status replies give it. -/
def pct (d : Nat) : Byte := byte ((2 * d + 1000) / 2000)

def zoneRecord (s : State) (z : Fin 4) : Bytes :=
  let y := s.zone z
  let duty := match (List.finRange 20).find? (fun o => s.zoneOf o = some z) with
    | some o => (s.output o).duty
    | none => s.zoneDuty z false
  [byte (b2n (s.hostMode z)), pct y.demand, pct duty]
    ++ intLE 1 (clampInt 8 (roundDiv (y.tHeld.getD 0) 10))
    ++ [byte (b2n (s.zoneWarn z) + 2 * b2n y.gust.isSome + 4 * b2n s.fansFull + 8 * b2n s.sess.fanHold.isSome)] ++ zeros 3

def outRecord (s : State) (o : Fin 20) : Bytes :=
  let x := s.output o
  let st := match x.drive with
    | .unused => 0 | .spinUp => 1 | .running => if x.slow then 5 else 2 | .stopped => 3 | .failed => 4
  [byte st, pct x.duty, byte x.attempts, 0] ++ natLE 2 (min x.rpm 65535) ++ zeros 2

def ropeRecord (s : State) (r : Fin 8) : Bytes :=
  let x := s.rope r
  [(match x.st with | .dry => 0 | .damp => 1 | .wet => 2), byte (s.ropeKind r)] ++ natLE 2 (min x.kohm 65535)

/-- The reply of COOL_STATUS (R285). -/
def coolReply (s : State) : Bytes :=
  let c := s.cool
  natLE 4 (b2n s.fansFull + 2 * b2n c.leak + 4 * b2n c.leakPumps + 8 * b2n c.released + 16 * b2n c.fullHold
    + 32 * b2n ((List.finRange 4).any (fun z => (s.zone z).takeover)))
  ++ [byte (max c.ceilStep s.gustStep), byte c.ceilStep, byte s.gustStep, 0]
  ++ (List.finRange 4).flatMap s.zoneRecord
  ++ (List.finRange 20).flatMap s.outRecord
  ++ (List.finRange 4).flatMap (fun n => natLE 4 (c.flows.get n).flow ++ [byte (b2n (c.flows.get n).low), 0, 0, 0])
  ++ (List.finRange 8).flatMap s.ropeRecord

/-- KIND 2 ropes that are not dry (R284). -/
def electronicsWet (s : State) : Bool := (List.finRange 8).any (fun r => s.ropeKind r = 2 && (s.rope r).wet)

def leakClearRun (p : Port) (s : State) : State :=
  let wet := Vec.mask s.cool.ropes (fun x => x.wet)
  s.clearLeak.answerNow p .ok [byte wet, 0, 0, 0]

end State

def coolStatusOp : OpSpec := .query 0x0301 true [4] 0 OpSpec.free4 (fun _ s => s.coolReply)
def leakClearOp : OpSpec :=
  { opcode := 0x0305, keeper := true, feats := [4], plen := some 0
    check := fun _ _ s => firstFail [(.refusedState, s.electronicsWet)]
    bound := fun _ _ _ => 0, run := fun p _ _ s => s.leakClearRun p }

def execCoolStatus (p : Port) (tag : BitVec 32) (params : Bytes) (s : State) : Host.Outcome State Fault Refusal :=
  go (s.submit coolStatusOp p tag params)
def execLeakClear (p : Port) (tag : BitVec 32) (params : Bytes) (s : State) : Host.Outcome State Fault Refusal :=
  go (s.submit leakClearOp p tag params)

/-- Every 10 ms the ropes are measured (R278). -/
def execLeakMeasure (kohm : List Nat) (s : State) : Host.Outcome State Fault Refusal :=
  go (if s.dev.armed then ((List.finRange 8).zip kohm).foldl State.measureRope s else s)

/-- FILTER_MS below 100 kΩ have passed (R278, R279). -/
def execLeakWet (r : Fin 8) (s : State) : Host.Outcome State Fault Refusal :=
  go (if s.dev.armed && s.ropeKind r ≠ 0 && !(s.rope r).wet && (s.rope r).kohm < 100 then s.ropeWet r else s)

/-- 10 s above 1 MΩ have passed (R278). -/
def execRopeDry (r : Fin 8) (s : State) : Host.Outcome State Fault Refusal :=
  go (if 1000 < (s.rope r).kohm then s.updRope r (fun y => { y with st := .dry, wet := false }) else s)

def execLeakPumpStop (s : State) : Host.Outcome State Fault Refusal :=
  go (if s.cool.leak && s.casc.st = .allOff && !s.cool.leakPumps then s.stopPumps else s)

end Sys2Proof.Machine
end

