-- ==== Sys2Proof/Machine/Rules.lean ====
section
/-!
DEFINITION. Entries of Drafts and of the settings store, and the consistency rules over merged values (R142, R146, R158, R160, R655).
-/

namespace Sys2Proof.Machine

/-! ### Entries (R160) -/

/-- Bytes of an entry: its header, and its value padded to a multiple of 8 (R142, R160). -/
def entrySize (k : Key) (v : Nat) : Nat := 8 + ceilDiv (fieldSize k v) 8 * 8

/-- An entry (R160). -/
def entryBytes (c : Key × Nat) : Bytes :=
  let n := fieldSize c.1 c.2
  [byte c.1.obj, byte c.1.inst] ++ natLE 2 c.1.fld ++ natLE 2 n ++ zeros 2 ++ natLE (ceilDiv n 8 * 8) c.2

/-- An entry as it stands: key, LEN, value, and the bytes after it; none when the bytes end inside it. -/
def splitEntry (bs : Bytes) : Option (Key × Nat × Nat × Bytes) :=
  let n := bs.num 4 2
  let all := 8 + ceilDiv n 8 * 8
  if bs.length < all then none
  else some (⟨bs.num 0 1, bs.num 1 1, bs.num 2 2⟩, n, bs.num 8 n, bs.drop all)

/-- An entry's form is right: its field is defined and LEN is its size (R160). -/
def entryOk (k : Key) (n v : Nat) : Bool := (fieldOf k).isSome && 1 ≤ n && fieldSize k v = n

/-- `n` entries that fill a byte string, every one in the right form (R97 check 4, R160). -/
def parseEntries : (n : Nat) → Bytes → Option (List (Key × Nat))
  | 0, bs => if bs.isEmpty then some [] else none
  | n + 1, bs =>
    match splitEntry bs with
    | none => none
    | some (k, len, v, rest) =>
      if entryOk k len v then (parseEntries n rest).map (fun l => (k, v) :: l) else none

/-- The records of a store bank: those in the right form whose object is saved, and how many were skipped (R160, R167). The fuel is the number
of 8-byte units. -/
def parseRecords : (fuel : Nat) → Bytes → List (Key × Nat) × Nat
  | 0, _ => ([], 0)
  | fuel + 1, bs =>
    match splitEntry bs with
    | none => ([], 0)
    | some (k, len, v, rest) =>
      let r := parseRecords fuel rest
      if entryOk k len v && saved k.obj then ((k, v) :: r.1, r.2) else (r.1, r.2 + 1)

/-! ### Consistency rules (R146) -/

/-- A failure of a check: the field and the rule's code (R162). -/
abbrev Failure := Key × Nat

/-- Staged values over values in effect. -/
def mergeEff (staged eff : List (Key × Nat)) : List (Key × Nat) := staged.foldl (fun e c => putEff c.1 c.2 e) eff

def viewOf (m : List (Key × Nat)) : View := fun k => Assoc.get (dfltOf k) m k

/-- An instance is in use (R655). -/
def inUse (g : View) (obj inst : Nat) : Bool :=
  match obj with
  | 0x20 => g ⟨0x20, inst, 1⟩ = 1
  | 0x21 => g ⟨0x21, inst, 5⟩ = 1
  | 0x31 => g ⟨0x31, inst, 1⟩ ≠ 0
  | 0x32 => g ⟨0x32, inst, 1⟩ ≠ 0
  | _ => true

/-- Fields whose merged values are judged: all of the objects with few instances; of objects 0x50, 0x51 and 0x60 those that differ from their
defaults, which lie in range (R655). -/
def judgedKeys (m : List (Key × Nat)) (g : View) : List Key :=
  [0x10, 0x11, 0x20, 0x21, 0x30, 0x31, 0x32, 0x33, 0x40, 0x41, 0x52, 0x70, 0x90].flatMap (fun o =>
    (List.range (objInstances o)).flatMap (fun i =>
      if inUse g o i then
        ((objFields o).filter (fun f => f.obj = o && (fieldOf ⟨o, i, f.fld⟩).isSome)).map (fun f => ⟨o, i, f.fld⟩)
      else []))
  ++ (m.map (fun c => c.1)).filter (fun k => k.obj = 0x50 || k.obj = 0x51 || k.obj = 0x60)

/-- Rule 0x01, with R219's demand on a slave's feeds (DEDUCED, log 41). -/
def ruleRange (m : List (Key × Nat)) (g : View) (staged : List Key) : List Failure :=
  let keys := staged ++ (judgedKeys m g).filter (fun k => !staged.contains k)
  let bad := keys.filter (fun k => match fieldOf k with
    | some f => !f.ok g k.inst (g k)
    | none => true)
  let slave := (List.range 2).filter (fun f => g ⟨0x21, 0, 1⟩ = 1 && g ⟨0x11, f, 1⟩ = 1)
  bad.map (fun k => (k, 1)) ++ slave.map (fun f => (⟨0x11, f, 1⟩, 1))

def fails (k : Key) (rule : Nat) (bad : Bool) : List Failure := if bad then [(k, rule)] else []

/-- Rule 0x02. An order between two fields of an instance that is not in use is judged only when both are staged (R655). -/
def ruleOrder (g : View) (staged : List Key) : List Failure :=
  let on := fun (a b : Key) => inUse g a.obj a.inst || (staged.contains a && staged.contains b)
  let less := fun (a b at_ : Key) (bad : Bool) => fails at_ 2 (on a b && bad)
  (List.range 2).flatMap (fun i =>
    fails ⟨0x11, i, 5⟩ 2 (g ⟨0x11, i, 4⟩ ≤ g ⟨0x11, i, 5⟩) ++ fails ⟨0x11, i, 4⟩ 2 (g ⟨0x11, i, 3⟩ < g ⟨0x11, i, 4⟩)
      ++ fails ⟨0x11, i, 3⟩ 2 (1500 < g ⟨0x11, i, 3⟩))
  ++ (List.range 64).flatMap (fun i =>
    let nom := g ⟨0x20, i, 8⟩ * 2560
    let at_ := fun (f : Nat) => g ⟨0x20, i, f⟩ * 16 * g ⟨0x20, i, 9⟩
    less ⟨0x20, i, 0xA⟩ ⟨0x20, i, 8⟩ ⟨0x20, i, 0xA⟩ (nom ≤ at_ 0xA) ++ less ⟨0x20, i, 0xB⟩ ⟨0x20, i, 8⟩ ⟨0x20, i, 0xB⟩ (at_ 0xB ≤ nom))
  ++ (List.range 4).flatMap (fun i =>
    let t := fun (k : Nat) => toSigned 8 (g ⟨0x30, i, 6⟩ / 256 ^ k)
    let d := fun (k : Nat) => g ⟨0x30, i, 7⟩ / 256 ^ k % 256
    fails ⟨0x30, i, 6⟩ 2 ((List.range 7).any (fun k => t (k + 1) ≤ t k))
      ++ fails ⟨0x30, i, 7⟩ 2 ((List.range 7).any (fun k => d (k + 1) < d k)))
  ++ (List.range 28).flatMap (fun i =>
    let c := fun (f : Nat) => toSigned 8 (g ⟨0x31, i, f⟩)
    less ⟨0x31, i, 7⟩ ⟨0x31, i, 8⟩ ⟨0x31, i, 7⟩ (c 8 < c 7) ++ less ⟨0x31, i, 9⟩ ⟨0x31, i, 8⟩ ⟨0x31, i, 9⟩ (c 8 ≤ c 9)
      ++ less ⟨0x31, i, 8⟩ ⟨0x31, i, 8⟩ ⟨0x31, i, 8⟩ (150 ≤ c 8))

/-- Rails in use, of a view. -/
def viewRails (g : View) : List Nat := (List.range 64).filter (fun n => g ⟨0x20, n, 1⟩ = 1)
/-- APEX_DEPTH with 0xFF read as the node's own DEPTH (R332). -/
def viewApex (g : View) (i : Nat) : Nat := if g ⟨0x41, i, 2⟩ = 0xFF then g ⟨0x40, 0, 2⟩ else g ⟨0x41, i, 2⟩

/-- Rule 0x03 (R146, R267, R332). -/
def ruleDuplicate (g : View) : List Failure :=
  let outs := fun (f : Nat) => (viewRails g).flatMap (fun n =>
    fails ⟨0x20, n, f⟩ 3 (g ⟨0x20, n, f⟩ ≠ 0xFF && (viewRails g).any (fun m => m < n && g ⟨0x20, m, f⟩ = g ⟨0x20, n, f⟩)))
  let masks := fun (f : Nat) => (List.range 4).flatMap (fun i =>
    fails ⟨0x30, i, f⟩ 3 ((List.range i).any (fun j => g ⟨0x30, i, f⟩ &&& g ⟨0x30, j, f⟩ ≠ 0)))
  outs 4 ++ outs 5 ++ masks 1 ++ masks 2
  ++ (List.range 8).flatMap (fun i =>
    fails ⟨0x41, i, 2⟩ 3 ((List.range i).any (fun j => g ⟨0x41, j, 1⟩ = g ⟨0x41, i, 1⟩ && viewApex g j ≠ viewApex g i)))

/-- Layers and activation tables that a merged list holds (R434). -/
def mergedLayers (m : List (Key × Nat)) : List (Nat × LayerMap) :=
  m.filterMap (fun c => if c.1.obj = 0x60 && 0x1000 ≤ c.1.fld then (LayerMap.parse c.2).map (fun l => (c.1.fld - 0x1000, l)) else none)
def mergedTables (m : List (Key × Nat)) : List (Nat × Nat × Nat) :=
  m.filterMap (fun c =>
    if c.1.obj = 0x60 && 0x100 ≤ c.1.fld && c.1.fld < 0x140 && c.2 / 2 ^ 64 % 65536 ≠ 0 then
      some (c.1.fld - 0x100, c.2 % 2 ^ 64, c.2 / 2 ^ 64 % 65536) else none)

/-- An element tensor has its scale tensor exactly when its BLK is not 0 (R436 rule 0x04). -/
def scaleOk (l : LayerMap) (t : Tensor) : Bool :=
  t.kind ≠ 0 || t.blk = 0 && t.scaleT = 0xFF ||
    t.blk ≠ 0 && (match l.tensors[t.scaleT]? with
      | some u => u.kind = 1 && u.rows = t.rows && u.klen = t.klen && u.blk = t.blk
      | none => false)

/-- Rule 0x04 (R146, R436, R453, R470). -/
def ruleMissing (m : List (Key × Nat)) (g : View) : List Failure :=
  let groups := (List.range 8).map (fun i => g ⟨0x41, i, 1⟩)
  let layers := mergedLayers m
  let tables := (mergedTables m).map (fun t => t.1)
  (viewRails g).flatMap (fun n => fails ⟨0x20, n, 2⟩ 4 (g ⟨0x21, g ⟨0x20, n, 2⟩, 5⟩ = 0))
  ++ (List.range 16).flatMap (fun k =>
    fails ⟨0x21, k, 5⟩ 4 (g ⟨0x21, k, 5⟩ = 1 && (List.range k).any (fun j => g ⟨0x21, j, 5⟩ = 0)))
  ++ m.flatMap (fun c =>
    let k := c.1
    if (k.obj = 0x50 || k.obj = 0x51) && k.fld = 1 then fails k 4 (c.2 = 1 && !groups.contains k.inst)
    else if k.obj = 0x50 && (k.fld = 5 || k.fld = 6) then
      fails k 4 ((List.range 2048).any (fun i =>
        c.2 / 256 ^ i % 256 ≠ 0xFF && !layers.any (fun l => l.1 = i + if k.fld = 5 then 0 else 2048)))
    else [])
  ++ layers.flatMap (fun l =>
    fails ⟨0x60, 0, 0x1000 + l.1⟩ 4 ((l.2.act ≠ 0xFF && !tables.contains l.2.act) || !l.2.tensors.all (scaleOk l.2)))
  ++ fails ⟨0x52, 0, 1⟩ 4 ((List.range 8).any (fun i =>
    let r := g ⟨0x52, 0, 1⟩ / 256 ^ i % 256
    r ≠ 0xFF && !(g ⟨0x20, r, 1⟩ = 1 && 2 ≤ g ⟨0x20, r, 3⟩ && (g ⟨0x20, r, 7⟩).testBit i)))

/-- The reserved range of the HBM4 tier and the start of the DIMM tier (R422, R424). -/
def hbmReserved : Nat := 0x0FFC000000
def hbmEnd : Nat := 0x1000000000
def dimmBase : Nat := 0x4000000000

/-- Capacity of the DIMM tier (R422, R423). -/
def dimmSize (a b : Nat) : Nat := if a = 0 || b = 0 then max a b else 2 * min a b

/-- Regions of a layer map: start, end, field (R436 rule 0x06). -/
def mapRegions (m : List (Key × Nat)) : List (Nat × Nat × Nat) :=
  (mergedTables m).map (fun t => (t.2.1, t.2.1 + t.2.2, 0x100 + t.1))
  ++ (mergedLayers m).flatMap (fun l => l.2.tensors.map (fun t => (t.base, t.base + t.nblk * 4104, 0x1000 + l.1)))

/-- Rule 0x06 (R267, R436). -/
def ruleCapacity (m : List (Key × Nat)) (g : View) (dimm : Nat) : List Failure :=
  let regs := mapRegions m
  let fits := fun (r : Nat × Nat × Nat) => decide (r.2.1 ≤ hbmReserved) || decide (dimmBase ≤ r.1 ∧ r.2.1 ≤ dimmBase + dimm)
  let clash := fun (i : Nat) (r : Nat × Nat × Nat) =>
    regs.zipIdx.any (fun q => q.2 ≠ i && decide (q.1.1 < r.2.1 ∧ r.1 < q.1.2.1))
  fails ⟨0x33, 0, 1⟩ 6 ((List.range 4).any (fun z => g ⟨0x30, z, 1⟩ ≠ 0 && g ⟨0x33, 0, 1⟩ < g ⟨0x30, z, 7⟩ % 256))
  ++ (regs.zipIdx.flatMap (fun q => fails ⟨0x60, 0, q.1.2.2⟩ 6 (!fits q.1 || clash q.2 q.1))).dedup

/-- Rule 0x08; a slave has no feed to feed the sum, and the rule is not applied to it (DEDUCED, log 41). -/
def ruleBudget (g : View) : List Failure :=
  let sum := ((List.range 2).map (fun f => if g ⟨0x11, f, 1⟩ = 1 then g ⟨0x11, f, 3⟩ * 54 else 0)).sum
  fails ⟨0x10, 0, 1⟩ 8 (g ⟨0x21, 0, 1⟩ = 0 && sum < 10 * g ⟨0x10, 0, 1⟩)

/-- Rule 0x09 (R146, R220). -/
def ruleFixed (g : View) : List Failure :=
  fails ⟨0x21, 0, 5⟩ 9 (g ⟨0x21, 0, 5⟩ ≠ 1)
  ++ (List.range 8).flatMap (fun n =>
    fails ⟨0x20, n, 1⟩ 9 (g ⟨0x20, n, 1⟩ ≠ 1) ++ fails ⟨0x20, n, 2⟩ 9 (g ⟨0x20, n, 2⟩ ≠ 0) ++ fails ⟨0x20, n, 4⟩ 9 (g ⟨0x20, n, 4⟩ ≠ n))

namespace State

/-- The block that owns an instance's X fields is stopped (R174, R175, R216, R222). -/
def blockStopped (s : State) (obj inst : Nat) : Bool :=
  match obj with
  | 0x10 => (List.finRange 2).all (fun f => (s.feed f).st ≠ .ramp && (s.feed f).st ≠ .on)
  | 0x11 =>
    let st := (s.feed (Fin.ofNat 2 inst)).st
    st = .disconnected || st = .off || st = .latched
  | 0x20 | 0x21 => s.casc.st = .allOff
  | _ => true

/-- Capacity of the DIMM tier. -/
def dimmCap (s : State) : Nat := dimmSize s.basin.dimm0 s.basin.dimm1

/-- Rules 0x05 and 0x07 (R146, R148). -/
def ruleState (s : State) (staged : List (Key × Nat)) : List Failure :=
  staged.flatMap (fun c =>
    fails c.1 5 (attrOf c.1 = .stopped && !s.blockStopped c.1.obj c.1.inst && c.2 ≠ s.cfgVal c.1)
      ++ fails c.1 7 (fullOnly c.1.obj && !s.isFull))

/-- Every failure of the merged values, for the rules asked for (R146, R158, R167), in ascending order of field (R162). -/
def checkRules (s : State) (rules : List Nat) (eff staged : List (Key × Nat)) : List Failure :=
  let m := mergeEff staged eff
  let g := viewOf m
  let keys := staged.map (fun c => c.1)
  let all := ruleRange m g keys ++ ruleOrder g keys ++ ruleDuplicate g ++ ruleMissing m g ++ ruleCapacity m g s.dimmCap
    ++ ruleBudget g ++ ruleFixed g ++ s.ruleState staged
  sortBy (fun a b => Key.le a.1 b.1) (all.filter (fun f => rules.contains f.2))

/-- All nine rules. -/
def allRules : List Nat := [1, 2, 3, 4, 5, 6, 7, 8, 9]
/-- The rules of LIVE_SET (R158). -/
def liveRules : List Nat := [1, 2, 3, 4, 6, 8, 9]
/-- The rules at start-up: every block is stopped, and what waits for Full may be there (R167). -/
def storeRules : List Nat := [1, 2, 3, 4, 6, 8, 9]

end State

/-- FAILURES, LISTED and the listed entries of a check (R162), with the reserved bytes between them. -/
def failureReply (reserved : Nat) (fs : List Failure) : Bytes :=
  let l := fs.take 476
  natLE 2 fs.length ++ natLE 2 l.length ++ zeros reserved
    ++ l.flatMap (fun f => [byte f.1.obj, byte f.1.inst] ++ natLE 2 f.1.fld ++ [byte f.2, 0, 0, 0])

end Sys2Proof.Machine
end

