-- ==== Sys2Proof/Machine/Settings.lean ====
section
/-!
DEFINITION. Drafts, direct settings and the settings store (R137 to R168), and FAN_SET, which writes as LIVE_SET does (R283).
-/

namespace Sys2Proof.Machine

namespace State

/-! ### The open Draft -/

def stagedList (s : State) : List (Key × Nat) := match s.cfg.draft with | some d => d.staged | none => []
/-- Bytes of staged entries (R142). -/
def stagedBytes (l : List (Key × Nat)) : Nat := (l.map (fun c => entrySize c.1 c.2)).sum
/-- The open Draft belongs to another window (R138). -/
def draftElsewhere (s : State) (p : Port) : Bool := match s.cfg.draft with | some d => d.owner ≠ p | none => false
def commitPending (s : State) : Bool := s.cfg.commit.isSome
def setDraft (d : Option Draft) (s : State) : State := { s with cfg := { s.cfg with draft := d } }

/-- Staged entries after a DRAFT_SET (R143). -/
def stageAll (new old : List (Key × Nat)) : List (Key × Nat) := new.foldl (fun l c => setKey c.1 c.2 l) old

/-- COUNT entries of DRAFT_SET and LIVE_SET (R161). -/
def entriesOf (ps : Bytes) : Option (List (Key × Nat)) :=
  if ps.length < 8 then none else parseEntries (ps.num 0 2) (ps.drop 8)

/-- An entry names an object that may not be staged in Keeper (R106). -/
def keeperBad (s : State) (l : List (Key × Nat)) : Bool := !s.isFull && l.any (fun c => fullOnly c.1.obj)

def draftOpenRun (p : Port) (s : State) : State :=
  let id := s.cfg.nextDraft
  let d : Draft :=
    { id, owner := p, session := match s.sessionOf p with | some x => x.id | none => 0, staged := [], checked := false, lastTick := s.lt }
  ({ s with cfg := { s.cfg with draft := some d, nextDraft := id + 1 } }).answerNow p .ok (natLE 4 id)

def draftSetCheck (p : Port) (ps : Bytes) (s : State) : Option Code :=
  match entriesOf ps with
  | none => some .badParam
  | some l =>
    let all := stageAll l s.stagedList
    firstFail [
      (.badParam, 2048 < all.length || 65536 < stagedBytes all),
      (.refusedState, s.keeperBad l),
      (.refusedBusy, s.draftElsewhere p || s.commitPending),
      (.noDraft, s.cfg.draft.isNone),
      (.lockedField, l.any (fun c => attrOf c.1 = .held))]

def draftSetRun (p : Port) (ps : Bytes) (s : State) : State :=
  match entriesOf ps, s.cfg.draft with
  | some l, some d =>
    let all := stageAll l d.staged
    (s.setDraft (some { d with staged := all, checked := false })).answerNow p .ok
      (natLE 2 l.length ++ natLE 2 all.length ++ natLE 4 (stagedBytes all))
  | _, _ => s

/-- OBJ, INST and FIELD of DRAFT_GET and LIVE_GET (R161). -/
def keyParam (ps : Bytes) : Key := ⟨ps.num 0 1, ps.num 1 1, ps.num 2 2⟩

def draftGetReply (ps : Bytes) (s : State) : Bytes :=
  let k := keyParam ps
  match s.stagedList.find? (fun c => c.1 = k) with
  | some c => [1, 0, 0, 0, 0, 0, 0, 0] ++ entryBytes c
  | none => zeros 8 ++ entryBytes (k, s.cfgVal k)

/-- The failures of the open Draft (R146). -/
def draftFails (s : State) : List Failure := s.checkRules allRules s.cfg.eff s.stagedList

def markChecked (s : State) : State := s.setDraft (s.cfg.draft.map (fun d => { d with checked := true }))

def draftCheckRun (p : Port) (b : Nat) (s : State) : State :=
  match s.draftFails with
  | [] => s.markChecked.answer p b .ok (failureReply 4 [])
  | fs => s.answer p b .inconsistent (failureReply 4 fs)

/-! ### DRAFT_COMMIT (R149 to R155) -/

def commitMode (ps : Bytes) : Nat := ps.num 0 1
def commitScope (ps : Bytes) : Nat := ps.num 2 2
def draftChecked (s : State) : Bool := match s.cfg.draft with | some d => d.checked | none => false
/-- Ticks a check adds to the lead of a commit (R149). -/
def checkLead (s : State) : Nat := if s.draftChecked then 0 else 5000

/-- The instant of a commit, on the time of the mirror (R149). -/
def commitInstant (s : State) (ps : Bytes) : Nat :=
  if commitMode ps = 0 then s.boundaryAfter (64 + s.checkLead) else ps.num 8 8

/-- The instant lies too close (R149). -/
def commitLate (s : State) (ps : Bytes) : Bool :=
  let t := ps.num 8 8
  match commitMode ps with
  | 1 => t < s.ct + 64 + s.checkLead
  | 2 => match s.scopeNs (commitScope ps) with
    | some d => decide (1000 * t < 1000 * (s.ct + s.checkLead) + leadNs d)
    | none => false
  | _ => false

def draftCommitCheck (p : Port) (ps : Bytes) (s : State) : Option Code :=
  let mode := commitMode ps
  let t := ps.num 8 8
  firstFail [
    (.notNegotiated, mode = 2 && !s.hasFeat p 2),
    (.badParam, ps.length ≠ 16 || 2 < mode || (mode = 2 && 255 < commitScope ps && commitScope ps ≠ 0xFFFF) ||
      (mode ≠ 0 && (t % 1024 ≠ 0 || s.ct + 2 ^ 26 < t))),
    (.refusedState, mode = 2 && (s.cad.st ≠ .locked || (s.scopeNs (commitScope ps)).isNone)),
    (.refusedBusy, s.draftElsewhere p || s.commitPending),
    (.noDraft, s.cfg.draft.isNone),
    (.refusedBound, s.commitLate ps)]

/-- Groups whose sampling plan a list of values changes (R455). -/
def plansOf (s : State) (l : List (Key × Nat)) : List Nat :=
  ((l.filter (fun c => c.1.obj = 0x50 && c.2 ≠ s.cfgVal c.1)).map (fun c => c.1.inst)).dedup

/-- Sending the PLAN of a commit to the member slots is due (R455). -/
def planDue (instant : Nat) (s : State) : State :=
  (s.plansOf s.stagedList).foldl (fun t g =>
    (t.members g).foldl (fun u i => u.updSlot i (fun x => { x with planDue := some instant })) t) s

/-- A commit that has passed its check is recorded with its instant (R149, R150). -/
def recordCommit (p : Port) (ps : Bytes) (t : Nat) (s : State) : State :=
  { s with cfg := { s.cfg with
    draft := s.cfg.draft.map (fun d => { d with checked := true })
    commit := some { port := p, mode := commitMode ps, scope := commitScope ps, commitId := ps.num 4 4, instant := t } } }

/-- What fails a commit: a Draft that is checked and stays within the state's objects needs no new check (R149). -/
def commitFails (s : State) : List Failure := if s.draftChecked && !s.keeperBad s.stagedList then [] else s.draftFails

def draftCommitRun (p : Port) (ps : Bytes) (b : Nat) (s : State) : State :=
  let t := s.commitInstant ps
  if s.commitFails ≠ [] then s.answer p b .inconsistent (natLE 8 t ++ zeros 4 ++ failureReply 0 s.commitFails)
  else
    let s := (s.accept p b).recordCommit p ps t
    if commitMode ps ≠ 2 then s.planDue t
    else s.propose { pendingOp with
      group := Fin.ofNat 256 (commitScope ps), fn := .commit, domain := decide (commitScope ps = 0xFFFF), epoch := t
      commitId := BitVec.ofNat 32 (ps.num 4 4), ports := [p] }

def draftAbortCheck (p : Port) (ps : Bytes) (s : State) : Option Code :=
  firstFail [
    (.badParam, match s.cfg.draft with | some d => d.id % 2 ^ 32 ≠ ps.num 0 4 | none => true),
    (.refusedBusy, s.draftElsewhere p || s.commitPending)]

/-! ### Direct settings (R157 to R159, R283) -/

/-- A direct write to an X field whose block runs (R157). -/
def xRunning (s : State) (l : List (Key × Nat)) : Bool :=
  l.any (fun c => attrOf c.1 = .stopped && !s.blockStopped c.1.obj c.1.inst)

/-- The checks of a direct write from check 5 on (R157, R158). -/
def liveCheck (l : List (Key × Nat)) (s : State) : Option Code :=
  firstFail [
    (.refusedState, s.keeperBad l || s.xRunning l),
    (.lockedField, l.any (fun c => attrOf c.1 = .staged || attrOf c.1 = .held)),
    (.badParam, s.checkRules liveRules s.cfg.eff l ≠ [])]

/-- Writes that wait for their frame boundary (R157). -/
def liveWait (p : Port) (l : List (Key × Nat)) (s : State) : State :=
  { s with cfg := { s.cfg with live := s.cfg.live ++ l.map (fun c => { key := c.1, value := c.2, acc := s.lt, port := p }) } }

def fanZones (ps : Bytes) : List (Fin 4) := (List.finRange 4).filter (fun z => (ps.num 0 1).testBit z.1)

/-- The writes of FAN_SET (R283). -/
def fanWrites (ps : Bytes) : List (Key × Nat) :=
  (fanZones ps).flatMap (fun z =>
    (⟨0x30, z.1, 4⟩, ps.num 1 1) :: if ps.num 1 1 = 1 then [(⟨0x30, z.1, 5⟩, ps.num 2 1)] else [])

/-- APPLIED of FAN_SET: the duty that R269 allows the fans of each zone. -/
def fanApplied (s : State) : Bytes :=
  (List.finRange 4).map (fun z =>
    if s.fansFull || s.cool.fullHold || s.zoneWarn z || (s.zone z).gust.isSome then 100 else pct (s.zoneDuty z false))

/-! ### The settings store (R163 to R168) -/

/-- Flash offset of a bank of the store (R518). -/
def bankAt (n : Nat) : Nat := 0x2400000 + n * 0x80000
def flashNum (s : State) (a k : Nat) : Nat := Mem.num 0xFF s.boot.flash a k
def flashRead (s : State) (a k : Nat) : Bytes := Mem.read 0xFF s.boot.flash a k
def flashWrite (a : Nat) (bs : Bytes) (s : State) : State := { s with boot := { s.boot with flash := Mem.write 0xFF s.boot.flash a bs } }
def flashErase (a k : Nat) (s : State) : State := { s with boot := { s.boot with flash := s.boot.flash.erase a k } }

def bankSeq (s : State) (n : Nat) : Nat := s.flashNum (bankAt n + 8) 4
def bankLen (s : State) (n : Nat) : Nat := s.flashNum (bankAt n + 0xC) 4

/-- A bank is valid (R164). -/
def bankValid (s : State) (n : Nat) : Bool :=
  let a := bankAt n
  s.flashRead a 4 = ascii "SKST" && s.flashNum (a + 4) 2 = 1 && s.bankSeq n ≠ 0 && s.bankSeq n ≠ 0xFFFFFFFF &&
    s.bankLen n ≤ 524224 && s.flashNum (a + 0x3C) 4 = crc32c (s.flashRead a 0x3C ++ s.flashRead (a + 0x40) (s.bankLen n))

/-- Valid banks, the newest first (R164). -/
def validBanks (s : State) : List Nat :=
  let l := [0, 1].filter s.bankValid
  if l = [0, 1] && s.bankSeq 0 < s.bankSeq 1 then [1, 0] else l

/-- The configured values of the saved objects that differ from their defaults (R165); those that wait for Full are the store's
own. A record left out reads as its default (log 42). -/
def savedValues (s : State) : List (Key × Nat) :=
  let keep := s.cfg.eff.filter (fun c => saved c.1.obj && !(savedForFull c.1.obj && !s.isFull && s.cfg.later ≠ []))
  (if s.isFull then [] else s.cfg.later).foldl (fun l c => setKey c.1 c.2 l) keep

/-- The bytes of a bank: header and records (R163). -/
def bankBytes (s : State) (seq : Nat) : Bytes :=
  let recs := s.savedValues.flatMap entryBytes
  let h := ascii "SKST" ++ natLE 2 1 ++ [Config.profile, 0] ++ natLE 4 seq ++ natLE 4 recs.length ++ natLE 8 s.ct
    ++ natLE 4 s.boot.keeperVer ++ natLE 4 (s.boot.upper.getD 0) ++ zeros 28
  h ++ natLE 4 (crc32c (h ++ recs)) ++ recs

/-- SEQ of the next save, and the bank it goes to (R164, R165). -/
def saveSeq (s : State) : Nat := match s.validBanks.head? with | some n => s.bankSeq n + 1 | none => 1
def saveTarget (s : State) : Nat := match s.validBanks.head? with | some n => 1 - n | none => 0

/-- SETTINGS_SAVE from acceptance: the target bank is erased, and its contents are fixed (R165). -/
def settingsSaveRun (p : Port) (b : Nat) (s : State) : State :=
  if s.saveSeq = 0xFFFFFFFF then (s.answer p b .failed []).notice 0x0863
  else
    ({ s.accept p b with cfg := { s.cfg with save := some (s.saveTarget, s.saveSeq, s.bankBytes s.saveSeq) } }).flashErase
      (bankAt s.saveTarget) 0x80000

/-- The end of a save: records and header are programmed and the bank is read back; a bank that fails its check is left erased
(R165, R166). -/
def settingsSaved (ok : Bool) (s : State) : State :=
  match s.cfg.save with
  | none => s
  | some (n, seq, bs) =>
    let s := { s with cfg := { s.cfg with save := none } }
    let done := fun (c : Code) (r : Bytes) (t : State) => (t.acceptedOn 0x0107).foldl (fun u p => u.finish p c r) t
    if ok then done .ok ([byte n, 0, 0, 0] ++ natLE 4 seq) (s.flashWrite (bankAt n) bs)
    else done .failed [] (s.notice 0x0010)

/-- The first valid bank whose records pass together, with the counts on the way (R167, R168): at most two banks. -/
def chooseBank (s : State) : List Nat → Bool → Option (List (Key × Nat)) × State
  | [], _ => (none, s.notice 0x0012)
  | n :: rest, first =>
    let r := parseRecords (s.bankLen n / 8) (s.flashRead (bankAt n + 0x40) (s.bankLen n))
    let s := s.countN 0x0011 r.2
    let vals := stageAll r.1 []
    if s.checkRules storeRules [] vals = [] then (some vals, s)
    else chooseBank (if first && rest ≠ [] then s.notice 0x0862 else s) rest false

end State

/-! ### The rows -/

def draftOpenOp : OpSpec :=
  { opcode := 0x0101, keeper := true, feats := [1], plen := some 0
    check := fun _ _ s => firstFail [(.refusedBusy, s.cfg.draft.isSome)]
    bound := fun _ _ _ => 0, run := fun p _ _ s => s.draftOpenRun p }
def draftSetOp : OpSpec :=
  { opcode := 0x0102, keeper := true, feats := [1], plen := none, check := State.draftSetCheck
    bound := fun _ _ _ => 0, run := fun p ps _ s => s.draftSetRun p ps }
def draftGetOp : OpSpec :=
  .query 0x0103 true [1] 8
    (fun p ps s => firstFail [(.badParam, (fieldOf (State.keyParam ps)).isNone), (.refusedBusy, s.draftElsewhere p)])
    (fun ps s => s.draftGetReply ps)
def draftCheckOp : OpSpec :=
  { opcode := 0x0104, keeper := true, feats := [1], plen := some 0
    check := fun p _ s => firstFail [(.refusedBusy, s.draftElsewhere p), (.noDraft, s.cfg.draft.isNone)]
    bound := fun _ _ _ => 5000, run := fun p _ b s => s.draftCheckRun p b }
def draftCommitOp : OpSpec :=
  { opcode := 0x0105, keeper := true, feats := [1], plen := none, check := State.draftCommitCheck
    bound := fun _ ps s => s.untilInstant (s.commitInstant ps) + 50, run := State.draftCommitRun }
def draftAbortOp : OpSpec :=
  { opcode := 0x0106, keeper := true, feats := [1], plen := some 4, check := State.draftAbortCheck
    bound := fun _ _ _ => 1000, run := fun p _ b s => (s.setDraft none).answer p b .ok [] }
def settingsSaveOp : OpSpec :=
  { opcode := 0x0107, keeper := true, feats := [1], plen := some 0
    check := fun _ _ s => firstFail [(.refusedBusy, s.cfg.save.isSome)]
    bound := fun _ _ _ => 5000000, run := fun p _ b s => s.settingsSaveRun p b }
def liveSetOp : OpSpec :=
  { opcode := 0x0108, keeper := true, feats := [1], plen := none
    check := fun _ ps s => match State.entriesOf ps with
      | none => some .badParam
      | some l => s.liveCheck l
    bound := fun _ _ _ => 2100
    run := fun p ps b s => (s.accept p b).liveWait p ((State.entriesOf ps).getD []) }
def liveGetOp : OpSpec :=
  .query 0x0109 true [1] 8 (fun _ ps _ => firstFail [(.badParam, (fieldOf (State.keyParam ps)).isNone)])
    (fun ps s => zeros 8 ++ entryBytes (State.keyParam ps, s.cfgVal (State.keyParam ps)))
def fanSetOp : OpSpec :=
  { opcode := 0x0302, keeper := true, feats := [4], plen := some 8
    check := fun _ ps s =>
      if 16 ≤ ps.num 0 1 || 1 < ps.num 1 1 || 100 < ps.num 2 1 then some .badParam else s.liveCheck (State.fanWrites ps)
    bound := fun _ _ _ => 2100
    run := fun p ps b s => (s.accept p b).liveWait p (State.fanWrites ps) }

def execDraftOpen (p : Port) (tag : BitVec 32) (params : Bytes) (s : State) : Host.Outcome State Fault Refusal :=
  go (s.submit draftOpenOp p tag params)
def execDraftSet (p : Port) (tag : BitVec 32) (params : Bytes) (s : State) : Host.Outcome State Fault Refusal :=
  go (s.submit draftSetOp p tag params)
def execDraftGet (p : Port) (tag : BitVec 32) (params : Bytes) (s : State) : Host.Outcome State Fault Refusal :=
  go (s.submit draftGetOp p tag params)
def execDraftCheck (p : Port) (tag : BitVec 32) (params : Bytes) (s : State) : Host.Outcome State Fault Refusal :=
  go (s.submit draftCheckOp p tag params)
def execDraftCommit (p : Port) (tag : BitVec 32) (params : Bytes) (s : State) : Host.Outcome State Fault Refusal :=
  go (s.submit draftCommitOp p tag params)
def execDraftAbort (p : Port) (tag : BitVec 32) (params : Bytes) (s : State) : Host.Outcome State Fault Refusal :=
  go (s.submit draftAbortOp p tag params)
def execSettingsSave (p : Port) (tag : BitVec 32) (params : Bytes) (s : State) : Host.Outcome State Fault Refusal :=
  go (s.submit settingsSaveOp p tag params)
def execLiveSet (p : Port) (tag : BitVec 32) (params : Bytes) (s : State) : Host.Outcome State Fault Refusal :=
  go (s.submit liveSetOp p tag params)
def execLiveGet (p : Port) (tag : BitVec 32) (params : Bytes) (s : State) : Host.Outcome State Fault Refusal :=
  go (s.submit liveGetOp p tag params)
def execFanSet (p : Port) (tag : BitVec 32) (params : Bytes) (s : State) : Host.Outcome State Fault Refusal :=
  go (s.submit fanSetOp p tag params)

def execSettingsSaveComplete (readBackOk : Bool) (s : State) : Host.Outcome State Fault Refusal := go (s.settingsSaved readBackOk)

/-- 60 s without a Draft command on the sideband (R139). -/
def execSidebandDraftIdle (s : State) : Host.Outcome State Fault Refusal :=
  go (match s.cfg.draft with
    | some d => if d.owner = 7 && !s.commitPending && d.lastTick + 60000000 ≤ s.lt then (s.setDraft none).count 0x0864 else s
    | none => s)

end Sys2Proof.Machine
end

