-- ==== Sys2Proof/Machine/Image.lean ====
section
/-!
DEFINITION. Firmware images, the banks, Staging and the test-pack store in flash, owner keys and their checks (R518 to R527, R563,
R568, R570).
-/

namespace Sys2Proof.Machine

/-! ### Images (R522 to R525) -/

/-- The header of an image (R522). -/
structure ImgHeader where
  magicOk : Bool
  component : Nat
  version : Nat
  compat : Bytes
  length : Nat
  loadAddr : Nat
  entry : Nat
  hoOwn : Nat
  hoMin : Nat
  hoMax : Nat
  bodyCrc : Nat
  bodySha : Bytes
  keySlot : Nat
  pubkey : Bytes
  sig : Bytes
  /-- The bytes the signature covers (R523). -/
  covered : Bytes
  deriving DecidableEq, Repr

/-- The header that 1,024 bytes spell; MAGIC and HDR_VER are judged together. -/
def ImgHeader.parse (b : Bytes) : ImgHeader :=
  { magicOk := b.take 4 = ascii "SKIM" && b.num 4 2 = 1
    component := b.num 6 2, version := b.num 8 4, compat := b.part 0x10 32, length := b.num 0x30 4, loadAddr := b.num 0x34 4
    entry := b.num 0x38 4, hoOwn := b.num 0x3C 2, hoMin := b.num 0x3E 2, hoMax := b.num 0x40 2, bodyCrc := b.num 0x44 4
    bodySha := b.part 0x48 32, keySlot := b.num 0x68 1, pubkey := b.part 0x70 384, sig := b.part 0x1F0 384, covered := b.take 0x1F0 }

/-- The largest image of a component, header included (R525). -/
def imageLimit (comp : Nat) : Nat := if comp = 1 then 1048576 else if comp = 2 then 8388608 else 4194304

/-- The header check: MAGIC, HDR_VER, COMPONENT and the image length (R525, R543 step 2, R561). -/
def ImgHeader.formOk (h : ImgHeader) (comp : Nat) : Bool := h.magicOk && h.component = comp && h.length + 1024 ≤ imageLimit comp

/-- The version lies in the COMPAT range that an image holds for a component (R522, R570). -/
def inRange (compat : Bytes) (comp version : Nat) : Bool :=
  compat.num (8 * (comp - 1)) 4 ≤ version && version ≤ compat.num (8 * (comp - 1) + 4) 4

/-- An image is compatible with a component of this version and COMPAT; an absent component passes (R570). -/
def ImgHeader.compatWith (h : ImgHeader) (comp : Nat) (other : Option (Nat × Bytes)) : Bool :=
  match other with
  | none => true
  | some (v, c) => inRange h.compat comp v && inRange c h.component h.version

/-- A section of an image (R524). -/
structure Section where
  core : Nat
  kind : Nat
  off : Nat
  len : Nat
  load : Nat
  crc : Nat
  deriving DecidableEq, Repr

/-- The section table at the start of a body (R524). -/
def sectionsOf (body : Bytes) : List Section :=
  (List.range (body.num 0 2)).map (fun i =>
    let b := body.part (8 + 24 * i) 24
    { core := b.num 0 1, kind := b.num 1 1, off := b.num 4 4, len := b.num 8 4, load := b.num 0xC 4, crc := b.num 0x10 4 })

/-- Cores a component has sections for, and the size of the SRAM of each (R525). -/
def componentCores (comp : Nat) : List Nat := if comp = 1 then [0, 1] else if comp = 2 then [2, 3, 4, 5, 6, 7] else [8]
def sramSize (core : Nat) : Nat := if core < 2 then 262144 else if core < 8 then 1048576 else 2097152

/-- LOAD of a core's first text section (R524). -/
def firstText (ss : List Section) (core : Nat) : Option Nat := (ss.find? (fun x => x.core = core && x.kind = 0)).map (fun x => x.load)

/-- The section table keeps R524 and R525. -/
def sectionsOk (h : ImgHeader) (body : Bytes) : Bool :=
  let n := body.num 0 2
  let ss := sectionsOf body
  let cores := componentCores h.component
  1 ≤ n && n ≤ 16 && 8 + 24 * n ≤ body.length &&
  ss.all (fun x => cores.contains x.core && x.kind ≤ 3 && (x.kind = 3 || x.off + x.len ≤ body.length) && x.load % 4096 = 0 &&
    x.load + x.len ≤ sramSize x.core) &&
  (h.component = 3 || (cores.all (fun c => (firstText ss c).isSome) &&
    firstText ss (cores.headD 0) = some h.loadAddr && h.entry = h.loadAddr))

/-- The bytes a section places in SRAM (R524). -/
def Section.bytes (x : Section) (body : Bytes) : Bytes := if x.kind = 3 then zeros x.len else body.part x.off x.len

/-- SRAM of a core with its sections placed, in the table's order. -/
def placeSections (ss : List Section) (body : Bytes) (m : Mem) : Mem := ss.foldl (fun m x => Mem.write 0 m x.load (x.bytes body)) m

/-- Every section of a core passes its CRC where it stands (R524). -/
def sramOk (ss : List Section) (m : Mem) : Bool := ss.all (fun x => crc32c (Mem.read 0 m x.load x.len) = x.crc)

/-- Numbers of KIND, LOAD, LENGTH and CRC that a core keeps of its sections. -/
def keepSections (ss : List Section) : List (Nat × Nat × Nat × Nat) := ss.map (fun x => (x.kind, x.load, x.len, x.crc))

/-! ### The flash (R518, R520, R521, R563, R568) -/

/-- A directory entry of a bank or of Staging (R520). -/
structure DirEntry where
  comp : Nat
  off : Nat
  len : Nat
  sha : Bytes
  deriving DecidableEq, Repr

def DirEntry.parse (b : Bytes) : DirEntry := { comp := b.num 0 2, off := b.num 4 4, len := b.num 8 4, sha := b.part 0x10 32 }
def DirEntry.bytes (d : DirEntry) : Bytes := natLE 2 d.comp ++ zeros 2 ++ natLE 4 d.off ++ natLE 4 d.len ++ zeros 4 ++ d.sha.fit 32

/-- Bytes of a bank, and of Staging. -/
def setSize : Nat := 0xC00000
def bankBase (n : Nat) : Nat := n * 0xC00000
def stagingBase : Nat := 0x1800000
def identityBase : Nat := 0x7500000
def storeBase : Nat := 0x6500000

/-- The directory of a set: one keeper, at most one microcode, every entry inside, no two overlapping (R521). -/
def dirOk (ds : List DirEntry) : Bool :=
  (ds.filter (fun d => d.comp = 1)).length = 1 && (ds.filter (fun d => d.comp = 3)).length ≤ 1 &&
    ds.all (fun d => 0x1000 ≤ d.off && d.off + d.len ≤ setSize) &&
    (match ds with | [a, b] => a.off + a.len ≤ b.off || b.off + b.len ≤ a.off | _ => true)

/-- A pack of the store's directory (R568). -/
structure PackEntry where
  id : Nat
  version : Nat
  first : Nat
  blocks : Nat
  len : Nat
  sha : Bytes
  deriving DecidableEq, Repr

def PackEntry.parse (b : Bytes) : PackEntry :=
  { id := b.num 0 4, version := b.num 4 4, first := b.num 8 2, blocks := b.num 0xA 2, len := b.num 0xC 4, sha := b.part 0x10 32 }
def PackEntry.bytes (p : PackEntry) : Bytes :=
  natLE 4 p.id ++ natLE 4 p.version ++ natLE 2 p.first ++ natLE 2 p.blocks ++ natLE 4 p.len ++ p.sha.fit 32

namespace State

/-- The directory of a set at a base (R520, R563). -/
def setDir (s : State) (base : Nat) : List DirEntry :=
  (List.range (s.flashNum (base + 6) 2)).map (fun i => DirEntry.parse (s.flashRead (base + 0x10 + 48 * i) 48))
def setCount (s : State) (base : Nat) : Nat := s.flashNum (base + 6) 2

/-- Record of bank `n` (R520). -/
def fwSeq (s : State) (n : Nat) : Nat := s.flashNum (bankBase n + 8) 4
def trialBase (s : State) (n : Nat) : Nat := s.flashNum (bankBase n + 0x100) 4
def confirmed (s : State) (n : Nat) : Bool := s.flashNum (bankBase n + 0x104) 4 = 0
def rejectWord (s : State) (n : Nat) : Nat := s.flashNum (bankBase n + 0x108) 4

/-- MAGIC, FORMAT, COUNT, SEQ and the directory of a bank (R521). -/
def bankFormOk (s : State) (n : Nat) : Bool :=
  let a := bankBase n
  s.flashRead a 4 = ascii "SKBK" && s.flashNum (a + 4) 2 = 1 && 1 ≤ s.setCount a && s.setCount a ≤ 2 &&
    1 ≤ s.fwSeq n && s.fwSeq n ≤ 0xFFFFFFFE && dirOk (s.setDir a)
def setCrcOk (s : State) (a : Nat) : Bool := s.flashNum (a + 0x70) 4 = crc32c (s.flashRead a 0x70)
/-- A bank is valid (R521). -/
def fwValid (s : State) (n : Nat) : Bool := s.bankFormOk n && s.setCrcOk (bankBase n) && s.rejectWord n = 0xFFFFFFFF

/-- Valid banks in descending order of SEQ (R530). -/
def candidates (s : State) : List Nat :=
  let l := [0, 1].filter s.fwValid
  if l = [0, 1] && s.fwSeq 0 < s.fwSeq 1 then [1, 0] else l

/-- The entry of a component in a set. -/
def setEntry (s : State) (base comp : Nat) : Option DirEntry := (s.setDir base).find? (fun d => d.comp = comp)
/-- The whole image an entry names. -/
def setImage (s : State) (base : Nat) (d : DirEntry) : Bytes := s.flashRead (base + d.off) d.len

/-- Staging is verified (R563). -/
def stagingVerified (s : State) : Bool :=
  let a := stagingBase
  s.flashRead a 4 = ascii "SKSG" && s.flashNum (a + 4) 2 = 1 && 1 ≤ s.setCount a && s.setCount a ≤ 2 && s.setCrcOk a &&
    dirOk (s.setDir a) && s.flashNum (a + 0x100) 4 = 0 && s.flashNum (a + 0x104) 4 = 0xFFFFFFFF
/-- The component that the staged set changes, and its VERIFY_SHA (R563). -/
def stagedComponent (s : State) : Nat := s.flashNum (stagingBase + 8) 2
def stagedSha (s : State) : Bytes := s.flashRead (stagingBase + 0x120) 32

/-! ### Test packs (R464, R568, R572) -/

def packCopy (n : Nat) : Nat := storeBase + n * 0x10000
def packSeq (s : State) (n : Nat) : Nat := s.flashNum (packCopy n + 8) 4
/-- A directory copy is valid (R164, R568). -/
def packDirValid (s : State) (n : Nat) : Bool :=
  let a := packCopy n
  s.flashRead a 4 = ascii "SKPD" && s.flashNum (a + 4) 2 = 1 && s.flashNum (a + 6) 2 ≤ 32 && 1 ≤ s.packSeq n &&
    s.packSeq n ≤ 0xFFFFFFFE && s.flashNum (a + 0x610) 4 = crc32c (s.flashRead a 0x610)
/-- The directory copy that is read. -/
def packDir (s : State) : Option Nat :=
  match s.packDirValid 0, s.packDirValid 1 with
  | true, true => some (if s.packSeq 0 < s.packSeq 1 then 1 else 0)
  | true, false => some 0
  | false, true => some 1
  | false, false => none
/-- Installed packs in store order. -/
def packs (s : State) : List PackEntry :=
  match s.packDir with
  | none => []
  | some n =>
    (List.range (s.flashNum (packCopy n + 6) 2)).map (fun i => PackEntry.parse (s.flashRead (packCopy n + 0x10 + 48 * i) 48))
/-- Flash offset of a pack's header, and of its body. -/
def packAt (p : PackEntry) : Nat := storeBase + 0x20000 + p.first * 0x10000
def packHeader (s : State) (p : PackEntry) : ImgHeader := ImgHeader.parse (s.flashRead (packAt p) 1024)
def packById (s : State) (id : Nat) : Option PackEntry := s.packs.find? (fun p => p.id = id)

/-- The running keeper and upper image, as components with version and COMPAT (R570). -/
def runningKeeper (s : State) : Option (Nat × Bytes) := some (s.boot.keeperVer, s.boot.keeperCompat)
def runningUpper (s : State) : Option (Nat × Bytes) := s.boot.upper.map (fun v => (v, s.boot.upperCompat))
/-- A pack is dormant (R572). -/
def dormant (s : State) (p : PackEntry) : Bool :=
  let h := s.packHeader p
  !(h.compatWith 1 s.runningKeeper && h.compatWith 2 s.runningUpper)
/-- Judging dormancy again; the change is counted (R572). -/
def judgeDormancy (s : State) : State :=
  let now := (s.packs.filter s.dormant).map (fun p => p.id)
  let s' := { s with upd := { s.upd with dormant := now } }
  if now = s.upd.dormant then s else s'.count 0x06D6

/-- Measurement 4: SHA-256 over the headers of the installed packs, in store order (R130, R553). -/
def measurePacks (s : State) : State :=
  { s with boot := { s.boot with
    meas := s.boot.meas.set 3 (sha256 (s.packs.flatMap (fun p => s.flashRead (packAt p) 1024))) } }

/-- The version of the set of test packs that IDENTIFY reports (R132; log 51). -/
def packsVersion (s : State) : Nat :=
  if s.packs = [] then 0 else Config.packsVersion (s.packs.map (fun p => (p.id, p.version)))

/-! ### Owner keys (R523, R526) -/

/-- KEY_SLOT names an ACTIVE slot whose hash is that of PUBKEY. -/
def keyOk (s : State) (h : ImgHeader) : Bool :=
  (List.finRange 4).any (fun i =>
    i.1 = h.keySlot && (s.boot.keys.get i).st = .active && (s.boot.keys.get i).hash = sha256 h.pubkey)

def sigOk (h : ImgHeader) : Bool := pssVerify h.pubkey h.covered h.sig

/-- An image is authentic (R523). -/
def authentic (s : State) (h : ImgHeader) (body : Bytes) : Bool := s.keyOk h && sigOk h && sha256 body = h.bodySha

/-- Reasons of R545 and R585. -/
inductive Why
  | header | compat | key | hash | signature | sections | copyCrc | stage0 | length | flash | noSpace | hoVersion | noFrame
  deriving DecidableEq, Repr

def Why.num : Why → Nat
  | .header => 1 | .compat => 2 | .key => 3 | .hash => 4 | .signature => 5 | .sections => 6 | .copyCrc => 7 | .stage0 => 8
  | .length => 9 | .flash => 10 | .noSpace => 11 | .hoVersion => 12 | .noFrame => 13

/-- The first reason whose condition holds. -/
def firstWhy : List (Why × Bool) → Option Why
  | [] => none
  | (w, b) :: l => if b then some w else firstWhy l

/-- The microcode image of the booted bank: header and body, none when there is none (R544). -/
def bankUcode (s : State) : Option (ImgHeader × Bytes) :=
  match s.boot.bank with
  | none => none
  | some n => (s.setEntry (bankBase n) 3).map (fun d =>
      let b := s.setImage (bankBase n) d
      (ImgHeader.parse b, b.drop 1024))

/-- The keeper image of the booted bank. -/
def bankKeeper (s : State) : Option (ImgHeader × Bytes) :=
  match s.boot.bank with
  | none => none
  | some n => (s.setEntry (bankBase n) 1).map (fun d =>
      let b := s.setImage (bankBase n) d
      (ImgHeader.parse b, b.drop 1024))

/-- A body stands whole behind its header. -/
def bodyOk (h : ImgHeader) (body : Bytes) : Bool := body.length = h.length

/-- A microcode image passes R523 and R525. -/
def ucodeOk (s : State) (h : ImgHeader) (body : Bytes) : Bool :=
  h.formOk 3 && bodyOk h body && s.authentic h body && sectionsOk h body

/-- Identity-region fields (R551). -/
def identity (s : State) (off k : Nat) : Nat := s.flashNum (identityBase + off) k
def enterprise (s : State) : Bytes := s.flashRead (identityBase + 0x14) 4

end State

end Sys2Proof.Machine
end

