-- ==== Sys2Proof/Machine/Session.lean ====
section
/-!
DEFINITION. Sessions, the lease and its end, and the session and observability opcodes (R104 to R119, R126, R131 to R136, R658).
-/

namespace Sys2Proof.Machine

/-- State codes (R46). -/
def DevState.code : DevState → Nat
  | .off => 0 | .calm => 1 | .keeper => 2 | .full => 3

/-- How a host session ends (R86, R110, R116, R118, R119). -/
inductive SessEnd
  | expiry | reset | hello | release
  deriving DecidableEq, Repr

namespace State

/-! ### The end of a session (R110, R116, R118, R119, R126) -/

def ownerOfPort (p : Port) : Owner := if p = 7 then .sideband else .host

/-- An open Draft of the session is discarded unless its commit is accepted (R116 step 2, R139). -/
def dropDraft (o : Owner) (s : State) : State :=
  match s.cfg.draft with
  | some d => if ownerOfPort d.owner = o && s.cfg.commit.isNone then s.setDraft none else s
  | none => s

/-- The update session that the session owns ends (R557). -/
def dropUpdate (o : Owner) (s : State) : State :=
  match s.upd.session with
  | some u => if ownerOfPort u.owner = o then { s with upd := { s.upd with session := none, liveDue := false } } else s
  | none => s

/-- What a session holds is given back: its Basin hold and its pause of the check engine (R420, R447). -/
def dropHolds (o : Owner) (s : State) : State :=
  { s with
    basin := { s.basin with holds := s.basin.holds.filter (fun x => x ≠ o) }
    chk := { s.chk with paused := s.chk.paused.filter (fun x => x ≠ o) } }

/-- A host command that step 2 of R116 ends. -/
def endsWithSession (w : Window) : Bool :=
  let op := w.opcode.toNat
  w.state = .accepted && ((op / 256 = 1 && op ≠ 0x0105 && op ≠ 0x0107) || (0x0801 ≤ op && op ≤ 0x0803))

/-- The session itself after its end: none is open, ABSENT after an expiry or a reset, and the fan hold of R116 unless a HELLO replaces it. -/
def hostLeaves (e : SessEnd) (s : State) : State :=
  { s with sess := { s.sess with
    host := none
    absent := if e = SessEnd.expiry || e = SessEnd.reset then true else s.sess.absent
    fanHold := if e = SessEnd.hello then none else some (s.lt + 10000000) } }

/-- The notice of a session's end (R116, R118). -/
def endNotice (e : SessEnd) (s : State) : State :=
  match e with
  | .expiry => s.notice 0x0004
  | .reset => s.notice 0x0005
  | _ => s

/-- The host's commands that end with its session (R116 step 2). -/
def endCommands (s : State) : State :=
  (List.finRange 8).foldl (fun t p => if p ≠ 7 && endsWithSession (t.win p) then t.abandon p else t) s

/-- The end of the host session (R116 steps 1, 2 and 4). -/
def endHost (e : SessEnd) (s : State) : State :=
  if s.sess.host.isNone then s
  else ((((((s.hostLeaves e).endNotice e).endCommands).dropDraft .host).dropUpdate .host).dropHolds .host).driveAll false

/-- The end of the sideband session (R126). -/
def endSideband (s : State) : State :=
  match s.sess.sideband with
  | none => s
  | some _ =>
    let s := { s with sess := { s.sess with sideband := none } }
    ((s.dropDraft .sideband).dropUpdate .sideband).dropHolds .sideband

/-! ### HELLO and the lease (R107 to R115) -/

/-- PERIOD_MS (R145). -/
def period (s : State) : Nat := s.fld 0x70 0 1

/-- A fresh lease (R114). -/
def renewLease (s : State) : State := { s with sess := { s.sess with expiry := s.lt + 1000 * s.period } }

/-- The next session identifier, never 0 (R111). -/
def freshId (s : State) : Nat := let n := (s.sess.nextId + 1) % 2 ^ 64; if n = 0 then 1 else n

def setSession (p : Port) (x : Session) (s : State) : State :=
  { s with sess := if p = 7 then { s.sess with sideband := some x } else { s.sess with host := some x } }

/-- RENEW_SESSION names the port's present session (R110). -/
def renews (p : Port) (ps : Bytes) (s : State) : Bool :=
  match s.sessionOf p with
  | some x => (ps.num 4 4).testBit 0 && x.id = ps.num 8 8
  | none => false

/-- A renewed session keeps its identifier and takes the new map (R110). -/
def remap (p : Port) (map : Nat) (s : State) : State :=
  match s.sessionOf p with
  | some x => s.setSession p { x with map }
  | none => s

/-- A new session: the old one ends first, and a host session clears ABSENT and ends the fan hold (R110, R111, R116). -/
def newSession (p : Port) (map : Nat) (s : State) : State :=
  let s := if p = 7 then s.endSideband else s.endHost .hello
  let s' := ({ s with sess := { s.sess with nextId := s.freshId } }).setSession p { id := s.freshId, map }
  if p = 7 then s' else { s' with sess := { s'.sess with absent := false, fanHold := none } }

/-- Opening or renewing a session (R110, R658). -/
def openSession (p : Port) (ps : Bytes) (s : State) : State :=
  let neg := ps.num 0x10 32 &&& s.devMap
  let s := if s.renews p ps then s.remap p neg else s.newSession p neg
  if p = 7 then s else s.renewLease

def helloReply (p : Port) (hostMap : Nat) (s : State) : Bytes :=
  natLE 4 1 ++ zeros 4 ++ natLE 8 (match s.sessionOf p with | some x => x.id | none => 0)
  ++ natLE 32 s.devMap ++ natLE 32 (hostMap &&& s.devMap) ++ natLE 2 s.period ++ zeros 2 ++ natLE 4 s.sess.expiry
  ++ natLE 4 s.boot.keeperVer ++ natLE 4 (s.boot.upper.getD 0) ++ natLE 4 (DevState.code s.dev.st)

def helloRun (p : Port) (ps : Bytes) (b : Nat) (s : State) : State :=
  let s := s.openSession p ps
  s.answer p b .ok (s.helloReply p (ps.num 0x10 32))

/-! ### IDENTIFY (R132) -/

/-- Node address (R315). -/
def nodeAddr (s : State) : Nat := s.fld 0x40 0 3 + 65536 * s.fld 0x40 0 2 + 16777216 * s.fld 0x40 0 1

def ucodeVer (s : State) : Nat := match s.chk.ucode with | some u => u.1 | none => 0

/-- The bank as IDENTIFY and BOOT_STATUS report it. -/
def bankByte (s : State) : Byte := match s.boot.bank with | some n => byte n | none => 0xFF

def identifyReply (s : State) : Bytes :=
  (ascii "SKB-BT8-H64").fit 16 ++ natLE 2 0x0B08 ++ [s.dev.opt.siRev, 0] ++ zeros 4 ++ natLE 8 (s.identity 8 8)
  ++ natLE 4 s.boot.keeperVer ++ natLE 4 (s.boot.upper.getD 0) ++ natLE 4 s.ucodeVer ++ natLE 4 s.packsVersion
  ++ [byte (DevState.code s.dev.st), s.bankByte, byte s.dev.bootSrc.toNat, byte s.dev.clkMode.toNat]
  ++ natLE 4 s.nodeAddr ++ s.enterprise ++ zeros 4

/-! ### Observability (R133 to R136) -/

def counterReply (ps : Bytes) (s : State) : Bytes :=
  ps.take 4 ++ zeros 4 ++ natLE 8 s.ct ++
    (List.range (ps.num 2 2)).flatMap (fun i => natLE 8 (s.ctrVal (ps.num 0 2 + i)))

def LogEntry.bytes (e : LogEntry) : Bytes := natLE 6 e.tick ++ natLE 2 e.tag.toNat ++ natLE 4 e.arg0.toNat ++ natLE 4 e.arg1.toNat

/-- Number of the oldest entry kept (R135). -/
def oldestLog (s : State) : Nat := s.ctr.nextLog - s.ctr.log.length

def logReply (ps : Bytes) (s : State) : Bytes :=
  let start := max (ps.num 0 8) s.oldestLog
  let es := (s.ctr.log.drop (start - s.oldestLog)).take (ps.num 8 2)
  natLE 8 s.oldestLog ++ natLE 8 s.ctr.nextLog ++ natLE 2 es.length ++ zeros 6 ++ es.flatMap LogEntry.bytes

/-- A sensor of R127: its value in thousandths of its unit, and its status. -/
def sensor (s : State) (id : Nat) : Int × Nat :=
  let feedStatus := fun (f : Feed) => if s.connected f then 0 else 2
  let chan : Nat → Int × Nat := fun c =>
    let k := Fin.ofNat 28 c
    let ty := s.fld 0x31 k.1 1
    let x := s.chan k
    (if ty = 4 || ty = 5 then x.reading else 100 * x.reading, s.chanStatus k)
  let out : Nat → Int × Nat := fun o =>
    let x := s.cool.outs.get (Fin.ofNat 20 o)
    ((1000 * (x.rpm : Int)), if x.drive = Drive.unused then 2 else 0)
  if id ≤ 2 then (((s.feed (Fin.ofNat 2 (id - 1))).vin : Nat), feedStatus (Fin.ofNat 2 (id - 1)))
  else if id ≤ 4 then ((s.feed (Fin.ofNat 2 (id - 3))).i, feedStatus (Fin.ofNat 2 (id - 3)))
  else if id = 5 then ((s.weir.pMw : Nat), 0)
  else if id ≤ 33 then chan (id - 6)
  else if id ≤ 53 then out (id - 34)
  else if id ≤ 57 then
    let n := id - 54
    (((s.cool.flows.get (Fin.ofNat 4 n)).flow : Nat), if s.fld 0x30 n 0xB = 0 then 2 else 0)
  else ((Config.packageMw s.lt : Nat), 0)

def sensorReply (ps : Bytes) (s : State) : Bytes :=
  ps.take 4 ++ zeros 4 ++ natLE 8 s.ct ++
    (List.range (ps.num 2 2)).flatMap (fun i =>
      let v := s.sensor (ps.num 0 2 + i)
      intLE 4 (clampInt 32 v.1) ++ [byte v.2] ++ zeros 3)

/-- FIRST and COUNT of a read of numbered things lie in range. -/
def rangeBad (ps : Bytes) (maxCount lo hi : Nat) : Bool :=
  let f := ps.num 0 2
  let n := ps.num 2 2
  n = 0 || maxCount < n || f < lo || hi < f + n - 1

/-! ### PCIe events (R118) -/

/-- What a reset of the function clears beside the session: the command register, MSI-X and the reads held (PCIe Base
Specification; PRESUMED, log 9). -/
def functionReset (s : State) : State :=
  { s with bus := { s.bus with
    mse := false, bme := false, msixEn := false, msixMask := false, msixTable := resetMsix, pba := 0
    held := s.bus.held.filter (fun h => h.2.1.isSome) } }

/-- Windows 0 to 6 return to IDLE once their accepted commands have ended (R118). -/
def flrWindows (s : State) : State :=
  { s with wins := Vec.mapIdx s.wins (fun p w =>
      if p = 7 then w else if w.state = .accepted then { w with orphan := true } else resetWin p) }

/-- Step 5 of R116: table mode takes over the zones of ABSENT_ZONE_MASK (R145, R270). -/
def fanTakeover (s : State) : State :=
  let m := s.fld 0x70 0 2
  let s := { s with
    sess := { s.sess with fanHold := none }
    cool := { s.cool with zones := Vec.mapIdx s.cool.zones (fun z x => if m.testBit z.1 then { x with takeover := true } else x) } }
  s.driveAll false

end State

/-! ### The rows -/

def helloOp : OpSpec :=
  { opcode := 0x0001, keeper := true, free := true, feats := [0], plen := some 56
    check := fun _ ps _ => firstFail [(.badParam, ps.num 0 4 ≠ 1 || ps.num 0x10 1 % 2 = 0)]
    bound := fun _ _ _ => 1000, run := State.helloRun }
def leaseRenewOp : OpSpec :=
  { opcode := 0x0002, keeper := true, noSideband := true, feats := [0], plen := some 0, check := OpSpec.free4
    bound := fun _ _ _ => 0
    run := fun p _ _ s => let t := s.renewLease; t.answerNow p .ok (natLE 4 t.sess.expiry) }
def identifyOp : OpSpec := { OpSpec.query 0x0003 true [0] 0 OpSpec.free4 (fun _ s => s.identifyReply) with free := true }
def leaseReleaseOp : OpSpec :=
  { opcode := 0x0004, keeper := true, noSideband := true, feats := [0], plen := some 0, check := OpSpec.free4
    bound := fun _ _ _ => 1000, run := fun p _ b s => (s.endHost .release).answer p b .ok [] }
def counterReadOp : OpSpec :=
  .query 0x0901 true [12] 4 (fun _ ps _ => firstFail [(.badParam, State.rangeBad ps 478 0 0x0864)]) State.counterReply
def logReadOp : OpSpec :=
  { OpSpec.query 0x0902 true [12] 16 (fun _ ps _ => firstFail [(.badParam, ps.num 8 2 = 0 || 238 < ps.num 8 2)]) State.logReply
    with bound := fun _ _ _ => 2000 }
def sensorReadOp : OpSpec :=
  .query 0x0903 true [12] 4 (fun _ ps _ => firstFail [(.badParam, State.rangeBad ps 58 1 58)]) State.sensorReply

def execHello (p : Port) (tag : BitVec 32) (params : Bytes) (s : State) : Host.Outcome State Fault Refusal :=
  go (s.submit helloOp p tag params)
def execLeaseRenew (p : Port) (tag : BitVec 32) (params : Bytes) (s : State) : Host.Outcome State Fault Refusal :=
  go (s.submit leaseRenewOp p tag params)
def execIdentify (p : Port) (tag : BitVec 32) (params : Bytes) (s : State) : Host.Outcome State Fault Refusal :=
  go (s.submit identifyOp p tag params)
def execLeaseRelease (p : Port) (tag : BitVec 32) (params : Bytes) (s : State) : Host.Outcome State Fault Refusal :=
  go (s.submit leaseReleaseOp p tag params)
def execCounterRead (p : Port) (tag : BitVec 32) (params : Bytes) (s : State) : Host.Outcome State Fault Refusal :=
  go (s.submit counterReadOp p tag params)
def execLogRead (p : Port) (tag : BitVec 32) (params : Bytes) (s : State) : Host.Outcome State Fault Refusal :=
  go (s.submit logReadOp p tag params)
def execSensorRead (p : Port) (tag : BitVec 32) (params : Bytes) (s : State) : Host.Outcome State Fault Refusal :=
  go (s.submit sensorReadOp p tag params)

/-- LEASE_EXPIRY (R116). -/
def execLeaseExpiry (s : State) : Host.Outcome State Fault Refusal :=
  go (if s.sess.host.isSome && s.sess.expiry ≤ s.lt then s.endHost .expiry else s)
/-- FAN_HOLD_END (R116 step 5). -/
def execFanHoldEnd (s : State) : Host.Outcome State Fault Refusal :=
  go (match s.sess.fanHold with | some t => if t ≤ s.lt then s.fanTakeover else s | none => s)
/-- PERST_ASSERT (R118). -/
def execPerstAssert (s : State) : Host.Outcome State Fault Refusal :=
  go (if s.bus.perst then s
      else
        let s := ((s.endHost .reset).functionReset).pushLinkDown
        { s with bus := { s.bus with perst := true, link := false } })
/-- FUNCTION_LEVEL_RESET (R118): the configuration space takes it while K1 serves it. -/
def execFunctionLevelReset (s : State) : Host.Outcome State Fault Refusal :=
  go (if s.keeperServed && !s.bus.perst then ((s.endHost .reset).functionReset).flrWindows else s)
/-- PCIE_LINK_LOSS (R118). -/
def execPcieLinkLoss (s : State) : Host.Outcome State Fault Refusal :=
  go (if s.bus.link then
        let s := ((s.endHost .reset).functionReset).pushLinkDown
        { s with bus := { s.bus with link := false } }
      else s)

end Sys2Proof.Machine
end

