-- ==== Sys2Proof/Machine/Reset.lean ====
section
/-!
DEFINITION. Resets and their causes, core resets and watchdogs, release of cores, Calm, and the maintenance opcodes (R50 to R56, R64, R65,
R539 to R542, R586 to R605).
-/

namespace Sys2Proof.Machine

namespace State

/-! ### System and power-on resets (R236, R586 to R592, R603) -/

/-- A system reset with cause bit `b` of RESET_CAUSE (R588 to R592, R597, R603). -/
def systemReset (b : Nat) (s : State) : State :=
  match s.dev.phase with
  | .unpowered => s
  | .optionLoading | .optionFault =>
    let s := (((s.addCause b).notice (0x0830 + b)).count 0x0839)
    { s with
      dev := { s.dev with phase := .optionLoading }
      rst := { s.rst with last := b, optRestart := true, stretched := false, stretchUs := 0, rstSince := if s.dev.rstLow then s.rst.rstSince else s.lt } }
  | _ =>
    if s.rst.stretch.isSome then s.addCause b
    else
      let s := s.resetBegin b
      if s.casc.st ≠ .allOff then
        ({ s with rst := { s.rst with stretch := some s.lt } }).orderlyShutdown .reset 0
      else if (List.finRange 2).any (fun f => (s.feed f).st = .on || (s.feed f).st = .ramp) then
        (s.orderlyShutdown .reset 0).systemClear
      else s.systemClear

/-- What the VBAT domain keeps of a feed when standby power is lost (R189, R600). -/
def vbatFeed (lost : Bool) (x : FeedSt) : FeedSt :=
  if lost then resetFeed
  else { resetFeed with
    retries := x.retries, latched := x.latched, cooldown := x.cooldown
    st := if x.latched then .latched else if 0 < x.cooldown then .cooldown else .off }

/-- The state after a power-on reset with cause 0 POR or 1 BOR: what the VBAT domain, the fuses and the flash hold stays, and so do the
pins and what the discharge comparators see (R586, R587, R599, R606). -/
def powerOn (b : Nat) (lost restart : Bool) (s : State) : State :=
  let r := State.reset
  let t : State :=
    { r with
      dev := { r.dev with bootSrc := 0 }
      bus := { r.bus with perst := s.bus.perst, lanes := s.bus.lanes, gts := s.bus.gts }
      weir := { r.weir with feeds := Vec.mapIdx s.weir.feeds (fun _ x => vbatFeed lost x), vbatLost := lost }
      casc := { r.casc with
        rails := Vec.mapIdx s.casc.rails (fun _ x => { resetRail with discharged := x.discharged, mv := x.mv }) }
      boot := { r.boot with flash := s.boot.flash, keys := s.boot.keys }
      rst := { r.rst with
        cause := BitVec.ofNat 16 (2 ^ b), last := b, vbatLost := lost, optRestart := restart
        rtcSec := if lost then 0 else s.rst.rtcSec, rtcUs := if lost then 0 else s.rst.rtcUs
        alarm := if lost then 0 else s.rst.alarm, rtcValid := !lost && s.rst.rtcValid
        resetCount := if lost then 0 else s.rst.resetCount }
      ctr := { vals := [], summary := 0, log := [], nextLog := 0, trace := 0 }
      out := s.out, free := s.free, pending := s.pending }
  let t := t.notice (0x0830 + b)
  if restart then t.count 0x0839 else t

/-- Off: the backup domain alone is left, on VBAT (R46, R50, R60). -/
def powerOff (lost : Bool) (s : State) : State :=
  let t := s.powerOn 1 lost false
  { t with
    dev := { t.dev with st := .off, phase := .unpowered }
    ctr := { t.ctr with vals := [], summary := 0, log := [], nextLog := 0 }
    rst := { t.rst with cause := 0 } }

/-- The time that has passed on the local tick counter's scale, Calm included (R63). -/
def nowTick (s : State) : Nat :=
  match s.dev.phase with
  | .inCalm | .resuming => s.rst.calmLt + (1000000 * s.rst.rtcSec + s.rst.rtcUs - s.rst.calmRtc)
  | _ => s.lt

/-! ### Core resets (R539 to R542, R588, R593 to R595, R602) -/

def core (s : State) (k : Fin 8) : CoreSt := s.boot.cores.get k
def updCore (k : Fin 8) (f : CoreSt → CoreSt) (s : State) : State := { s with boot := { s.boot with cores := Vec.upd s.boot.cores k f } }

/-- A watchdog as a core's release starts it (R593). -/
def wdFresh (t : Nat) (c : CoreSt) : CoreSt := { c with wdMs := 256, wdSet := false, wdArmed := false, wdTick := t }

/-- A release bit acts: the map is locked, the sections passed, and the core is not held for good (R540, R542, R595). -/
def releasable (s : State) (k : Fin 8) : Bool := (s.core k).mapLocked && (s.core k).sectionsOk && !(s.core k).stopped
def releaseCore (k : Fin 8) (s : State) : State :=
  let s := s.updCore k (fun c => { wdFresh s.lt c with run := true })
  if k = 4 then s.reportOwed else s

/-- The text sections of a core pass their CRC where they stand (R542). -/
def textOk (s : State) (k : Fin 8) : Bool :=
  (s.core k).sections.all (fun x => x.1 ≠ 0 || crc32c (Mem.read 0 (s.core k).sram x.2.1 x.2.2.1) = x.2.2.2)

/-- The RESET_CAUSE bit of a core reset (R599): of a keeper KWD_CORE or FAULT_CORE, of an upper core its own. -/
def coreBit (k : Fin 8) (watchdog : Bool) : Nat := if 2 ≤ k.1 then 8 + k.1 else if watchdog then 8 else 9

/-- A core-reset record of retained SRAM, which keeps the last 16 (R602). -/
def coreRecord (k : Fin 8) (bit pc addr : Nat) (s : State) : State :=
  let l := s.rst.records ++ [(k.1, bit, s.lt, pc, addr, (s.core k).wdMs)]
  { s with rst := { s.rst with records := l.drop (l.length - 16) } }

/-- What a restart of a core touches beside its registers: a keeper's restarts the 10 s of R531, K1's clears the ceiling timers
(R276, R531). -/
def coreRestart (k : Fin 8) (s : State) : State :=
  let s := s.updCore k (wdFresh s.lt)
  let s := if k.1 < 2 then { s with boot := { s.boot with confirmFrom := s.lt } } else s
  if k = 1 then { s with cool := { s.cool with overStart := none, underStart := none, returnStart := none } } else s

/-- A core reset of a core that runs, with its text check; a failed check holds the core, and makes it a system reset with cause `sys` for
K0 (R41, R542, R603). -/
def coreReset (k : Fin 8) (watchdog text : Bool) (pc addr sys : Nat) (s : State) : State :=
  let b := coreBit k watchdog
  if s.rst.stretch.isSome || !(s.core k).run then (if (s.core k).stopped then s.addCause b else s)
  else
    let s := ((s.addCause b).logEntry 9 0x006 k.1 b).coreRecord k b pc addr
    let s := if k.1 < 2 then s.notice 0x0838 else s
    if text then s.coreRestart k
    else if k = 0 then s.systemReset sys
    else ((s.coreRestart k).updCore k (fun c => { c with run := false, stopped := true })).notice (0x0820 + k.1)

/-- A watchdog's timeout has passed without service, within the 2 % of its clock (R593). -/
def wdDue (s : State) (k : Fin 8) : Bool := s.coreRuns k && s.dev.phase = .running && decide ((s.core k).wdTick + 980 * (s.core k).wdMs ≤ s.lt)

/-- A watchdog fires: counted, and remembered for 60 s (R593, R595). -/
def wdFire (k : Fin 8) (s : State) : State :=
  (s.updCore k (fun c => { c with
    wdFires := min 255 (c.wdFires + 1)
    wdRecent := c.wdRecent.filter (fun t => s.lt < t + 60000000) ++ [s.lt] })).notice (0x0818 + k.1)

/-- A keeper watchdog fires (R594). -/
def keeperFire (k : Fin 8) (text : Bool) (s : State) : State :=
  let s := s.wdFire k
  if s.rst.window.isSome then s.systemReset 3
  else ({ s with rst := { s.rst with window := some (s.lt + 10000000) } }).coreReset k true text 0 0 3

/-- An upper watchdog fires; the third fire in 60 s holds the core (R595). -/
def upperFire (k : Fin 8) (text : Bool) (s : State) : State :=
  let s := s.wdFire k
  if 3 ≤ (s.core k).wdRecent.length then
    let b := coreBit k true
    (((((s.addCause b).logEntry 9 0x006 k.1 b).coreRecord k b 0 0).coreRestart k).updCore k (fun c =>
      { c with run := false, stopped := true })).notice (0x0820 + k.1)
  else s.coreReset k true text 0 0 3

/-- Requests that R589 permits. -/
def mayRequest (requester : Fin 8) : ResetTarget → Bool
  | .system => requester = 0
  | .core k => requester = k || (requester = 0 && 2 ≤ k.1)

/-- A reset asked for by software or debug (R588). -/
def requested (t : ResetTarget) (sys : Nat) (text : Bool) (s : State) : State :=
  match t with
  | .system => s.systemReset sys
  | .core k => s.coreReset k false text 0 0 sys

/-! ### Phase-locked loops (R64, R65) -/

def pllIdx : Pll → Fin 5
  | .keeper => 0 | .upper => 1 | .cadence => 2 | .check => 3 | .basin => 4
def pll (s : State) (p : Pll) : PllState := s.dev.plls.get (pllIdx p)
def setPll (p : Pll) (x : PllState) (s : State) : State := { s with dev := { s.dev with plls := Vec.upd s.dev.plls (pllIdx p) (fun _ => x) } }
/-- A start request of a PLL that neither runs nor starts (R65). -/
def startPll (p : Pll) (s : State) : State :=
  match s.pll p with
  | .stopped | .failed => s.setPll p .starting
  | _ => s

/-- A clock failure (R64, R596). -/
def clockFailure (s : State) : State := if s.dev.clkDegraded then s else s.systemReset 6

/-! ### Calm (R50 to R56, R63) -/

/-- The conditions of R52. -/
def mayCalm (s : State) : Bool :=
  s.dev.st = .keeper && (List.finRange 2).all (fun f => (s.feed f).st ≠ .on && (s.feed f).st ≠ .ramp) && s.bus.perst &&
    s.cfg.draft.isNone && s.upd.session.isNone &&
    (List.finRange 8).all (fun i => (s.slot i).st = .absent || (s.slot i).st = .off)

/-- Calm is reached; a wake event that came on the way acts at once (R55, R63). -/
def calmReached (s : State) : State :=
  { s with
    dev := { s.dev with
      st := .calm, phase := if s.dev.wake then .resuming else .inCalm
      plls := Vec.upd s.dev.plls 0 (fun _ => .stopped) }
    rst := { s.rst with calmLt := s.lt, calmRtc := 1000000 * s.rst.rtcSec + s.rst.rtcUs } }

/-- The keepers resume; watchdogs do not count the time they were gated (R56, R63, R593). -/
def keeperResume (s : State) : State :=
  let t := s.nowTick
  { s with
    dev := { s.dev with
      st := .keeper, phase := .running, wake := false, lt := t, plls := Vec.upd s.dev.plls 0 (fun _ => .locked) }
    boot := { s.boot with cores := Vec.mapIdx s.boot.cores (fun _ c => { c with wdTick := c.wdTick + (t - s.lt) }) } }

/-! ### RESET_CAUSE and the maintenance opcodes (R599 to R605) -/

/-- RESET_CAUSE (R599). -/
def resetCause (s : State) : Nat :=
  let r := s.rst
  r.cause.toNat + 65536 * r.last + 2 ^ 20 * b2n r.stretched + 2 ^ 21 * b2n r.vbatLost + 2 ^ 22 * b2n r.optRestart

def resetStatusReply (s : State) : Bytes :=
  let r := s.rst
  natLE 4 s.resetCause ++ natLE 2 r.resetCount.toNat
  ++ [byte (b2n s.dev.clkDegraded + 2 * b2n r.window.isSome + 4 * b2n r.rtcValid + 8 * b2n r.vbatLost + 16 * b2n r.reqTick.isSome), 0]
  ++ natLE 4 (match r.window with | some t => (t - s.lt) / 1000 | none => 0) ++ natLE 4 r.stretchUs ++ natLE 8 s.lt
  ++ natLE 8 (r.reqTick.getD 0) ++ (List.finRange 8).map (fun k => byte (s.core k).wdFires)
  ++ [byte (maskOf 6 (fun u => (s.core (Fin.ofNat 8 (u + 2))).stopped))] ++ zeros 23

/-- A backup register as BKP_READ shows it; BKP_1 holds the slots' requests and BOOT codes (R494, R601). -/
def bkpValue (s : State) (i : Fin 16) : Nat :=
  if i = 1 then
    maskOf 8 (fun n => (s.slot (Fin.ofNat 8 n)).request) +
      ((List.finRange 8).map (fun n => (s.slot n).boot.toNat * 2 ^ (8 + 2 * n.1))).sum
  else (s.rst.bkp.get i).toNat

def rtcReply (s : State) : Bytes :=
  natLE 8 s.rst.rtcSec ++ natLE 2 (s.rst.rtcUs * 32768 / 1000000) ++ [byte (b2n s.rst.rtcValid)] ++ zeros 5 ++ natLE 8 s.rst.alarm

/-- Setting time and alarm (R600, R604). -/
def rtcWrite (ps : Bytes) (s : State) : State :=
  let f := ps.num 0 1
  { s with rst := { s.rst with
    rtcSec := if f.testBit 0 then ps.num 8 8 else s.rst.rtcSec
    rtcValid := f.testBit 0 || s.rst.rtcValid
    alarm := if f.testBit 1 then ps.num 16 8 else s.rst.alarm } }

/-- Commands that hold RESET_REQUEST without FORCE (R604). -/
def holdReset : List Nat := [0x0107, 0x0802, 0x0803, 0x0804, 0x0B02, 0x0B05, 0x0B06]

end State

/-! ### The rows -/

def resetStatusOp : OpSpec := .query 0x0A01 true [13] 0 OpSpec.free4 (fun _ s => s.resetStatusReply)
def resetRequestOp : OpSpec :=
  { opcode := 0x0A02, keeper := true, feats := [13], plen := some 8
    check := fun _ ps s => firstFail [
      (.badParam, ps.num 2 2 < 2 || 60000 < ps.num 2 2),
      (.refusedBusy, ps.num 0 1 % 2 = 0 && s.anyAccepted State.holdReset)]
    bound := fun _ _ _ => 0
    run := fun p ps _ s =>
      let t := s.lt + 1000 * ps.num 2 2
      ({ s with rst := { s.rst with reqTick := some t } }).answerNow p .ok (natLE 8 t) }
def calmEnterOp : OpSpec :=
  { opcode := 0x0A03, keeper := true, feats := [13], plen := some 0
    check := fun _ _ s => firstFail [(.refusedState, !s.mayCalm)]
    bound := fun _ _ _ => 0
    run := fun p _ _ s =>
      let s := s.answerNow p .ok (natLE 8 s.lt)
      { s with dev := { s.dev with phase := .calmEntering, wake := false } } }
def rtcReadOp : OpSpec := .query 0x0A04 true [13] 0 OpSpec.free4 (fun _ s => s.rtcReply)
def rtcWriteOp : OpSpec :=
  { opcode := 0x0A05, keeper := true, feats := [13], plen := some 24
    check := fun _ ps _ => firstFail [(.badParam,
      (ps.num 0 1).testBit 0 && 2 ^ 48 ≤ ps.num 8 8 || (ps.num 0 1).testBit 1 && 2 ^ 48 ≤ ps.num 16 8)]
    bound := fun _ _ _ => 1000
    run := fun p ps b s => let t := s.rtcWrite ps; t.answer p b .ok t.rtcReply }
def bkpReadOp : OpSpec :=
  .query 0x0A06 true [13] 0 OpSpec.free4 (fun _ s => (List.finRange 16).flatMap (fun i => natLE 4 (s.bkpValue i)))
def bkpWriteOp : OpSpec :=
  { opcode := 0x0A07, keeper := true, feats := [13], plen := some 8
    check := fun _ ps _ => firstFail [(.badParam, ps.num 0 1 < 12 || 15 < ps.num 0 1)]
    bound := fun _ _ _ => 0
    run := fun p ps _ s =>
      let v := ps.num 4 4
      ({ s with rst := { s.rst with
        bkp := Vec.upd s.rst.bkp (Fin.ofNat 16 (ps.num 0 1)) (fun _ => BitVec.ofNat 32 v) } }).answerNow p .ok (natLE 4 v) }

def execResetStatus (p : Port) (tag : BitVec 32) (params : Bytes) (s : State) : Host.Outcome State Fault Refusal :=
  go (s.submit resetStatusOp p tag params)
def execResetRequest (p : Port) (tag : BitVec 32) (params : Bytes) (s : State) : Host.Outcome State Fault Refusal :=
  go (s.submit resetRequestOp p tag params)
def execCalmEnter (p : Port) (tag : BitVec 32) (params : Bytes) (s : State) : Host.Outcome State Fault Refusal :=
  go (s.submit calmEnterOp p tag params)
def execRtcRead (p : Port) (tag : BitVec 32) (params : Bytes) (s : State) : Host.Outcome State Fault Refusal :=
  go (s.submit rtcReadOp p tag params)
def execRtcWrite (p : Port) (tag : BitVec 32) (params : Bytes) (s : State) : Host.Outcome State Fault Refusal :=
  go (s.submit rtcWriteOp p tag params)
def execBkpRead (p : Port) (tag : BitVec 32) (params : Bytes) (s : State) : Host.Outcome State Fault Refusal :=
  go (s.submit bkpReadOp p tag params)
def execBkpWrite (p : Port) (tag : BitVec 32) (params : Bytes) (s : State) : Host.Outcome State Fault Refusal :=
  go (s.submit bkpWriteOp p tag params)

/-- POWER_ON_RESET (R57, R60, R587, R603): the supplies enter their windows. -/
def execPowerOnReset (vbatOk : Bool) (s : State) : Host.Outcome State Fault Refusal :=
  go (s.powerOn 0 (!vbatOk || (s.dev.phase = .unpowered && s.rst.vbatLost))
    (s.dev.phase = .optionLoading || s.dev.phase = .optionFault))
/-- BROWN_OUT (R50, R588): a dip from which the supplies recover, or, when it is deep, the loss of standby power (log 58). -/
def execBrownOut (deep vbatOk : Bool) (s : State) : Host.Outcome State Fault Refusal :=
  go (if s.dev.phase = .unpowered then s
      else if deep then s.powerOff (!vbatOk)
      else s.powerOn 1 (!vbatOk) (s.dev.phase = .optionLoading || s.dev.phase = .optionFault))
/-- PIN_RESET (R590): under 5 µs ignored, from 10 µs on a reset, and between them not defined. -/
def execPinReset (widthNs : Nat) (s : State) : Host.Outcome State Fault Refusal :=
  go (if s.dev.rstLow || widthNs < 5000 then s
      else if 10000 ≤ widthNs then s.systemReset 2
      else
        let b := Config.shortPulse s.free
        let s := s.drawn
        if b then s.systemReset 2 else s)
/-- CLOCK_FAILURE (R64, R596). -/
def execClockFailure (s : State) : Host.Outcome State Fault Refusal := go s.clockFailure
/-- CLOCK_RECOVERED (R596). -/
def execClockRecovered (s : State) : Host.Outcome State Fault Refusal := go { s with dev := { s.dev with clkDegraded := false } }
/-- KEEPER_WATCHDOG_FIRE (R593, R594). -/
def execKeeperWatchdogFire (k : Fin 2) (textOk : Bool) (s : State) : Host.Outcome State Fault Refusal :=
  go (if s.wdDue (k.castLE (by decide)) then s.keeperFire (k.castLE (by decide)) textOk else s)
/-- ESCALATION_WINDOW_CLOSE (R594): 10 s on the RC oscillator, which ±2 % makes at least 9.8 s. -/
def execEscalationWindowClose (s : State) : Host.Outcome State Fault Refusal :=
  go (match s.rst.window with
    | some t => if t ≤ s.nowTick + 200000 then { s with rst := { s.rst with window := none } } else s
    | none => s)
/-- UPPER_WATCHDOG_FIRE (R593, R595). -/
def execUpperWatchdogFire (u : Fin 6) (textOk : Bool) (s : State) : Host.Outcome State Fault Refusal :=
  go (if s.wdDue (Fin.ofNat 8 (u.1 + 2)) then s.upperFire (Fin.ofNat 8 (u.1 + 2)) textOk else s)
/-- KEEPER_LOCKUP (R588, R594). -/
def execKeeperLockup (k : Fin 2) (s : State) : Host.Outcome State Fault Refusal :=
  go (if s.coreRuns (k.castLE (by decide)) then s.systemReset 7 else s)
/-- UPPER_LOCKUP (R588). -/
def execUpperLockup (u : Fin 6) (textOk : Bool) (s : State) : Host.Outcome State Fault Refusal :=
  go (s.coreReset (Fin.ofNat 8 (u.1 + 2)) false textOk 0 0 7)
/-- PROTECTION_FAULT (R542). -/
def execProtectionFault (k : Fin 8) (addr pc : BitVec 32) (textOk : Bool) (s : State) : Host.Outcome State Fault Refusal :=
  go (if s.coreRuns k then
        ((s.notice (0x0810 + k.1)).logEntry 9 0x007 k.1 addr.toNat).coreReset k false textOk pc.toNat addr.toNat
          (2 + Config.faultSource.1)
      else s)
/-- SOFTWARE_RESET_REQUEST (R589). -/
def execSoftwareResetRequest (requester : Fin 8) (target : ResetTarget) (textOk : Bool) (s : State) : Host.Outcome State Fault Refusal :=
  go (if s.coreRuns requester && State.mayRequest requester target then s.requested target 4 textOk else s)
/-- DEBUG_RESET_REQUEST (R588). -/
def execDebugResetRequest (target : ResetTarget) (textOk : Bool) (s : State) : Host.Outcome State Fault Refusal :=
  go (s.requested target 5 textOk)
/-- RESET_REQUEST_DUE (R604). -/
def execResetRequestDue (s : State) : Host.Outcome State Fault Refusal :=
  go (match s.rst.reqTick with | some t => if t ≤ s.lt && s.keeperUp then s.systemReset 4 else s | none => s)

/-- RTC_ALARM (R53, R600). -/
def execRtcAlarm (s : State) : Host.Outcome State Fault Refusal :=
  go (if s.rst.alarm ≠ 0 && s.rst.rtcSec = s.rst.alarm then s.wakeUp else s)
/-- CALM_REACHED (R55, R63). -/
def execCalmReached (s : State) : Host.Outcome State Fault Refusal :=
  go (if s.dev.phase = .calmEntering then s.calmReached else s)
/-- KEEPER_RESUME (R56, R63). -/
def execKeeperResume (s : State) : Host.Outcome State Fault Refusal :=
  go (if s.dev.phase = .resuming then s.keeperResume else s)
/-- SIDEBAND_WAKE_TRANSFER (R53, R54). -/
def execSidebandWakeTransfer (s : State) : Host.Outcome State Fault Refusal :=
  go (if s.sess.i3cAddr.isSome && (s.dev.phase = .inCalm || s.dev.phase = .resuming || s.dev.phase = .calmEntering) then
        (s.send .i3cNack).wakeUp
      else s)
/-- PERST_RELEASE (R53, R57). -/
def execPerstRelease (s : State) : Host.Outcome State Fault Refusal :=
  go (if s.bus.perst then ({ s with bus := { s.bus with perst := false, link := true } }).wakeUp else s)

/-- REL_K1 (R539, R540). -/
def execRelK1 (s : State) : Host.Outcome State Fault Refusal :=
  go (if !s.keeperUp || s.coreRuns 1 then s
      else if s.releasable 1 then (s.releaseCore 1).logEntry 0 0x005 1 0
      else s.notice 0x0806)
/-- REL_U (R539, R540): the named cores that may be released are. -/
def execRelU (m : BitVec 6) (s : State) : Host.Outcome State Fault Refusal :=
  go (if !s.keeperUp || m = 0 then s
      else
        let ks := (List.finRange 8).filter (fun k => 2 ≤ k.1 && m.getLsbD (k.1 - 2) && !s.coreRuns k)
        let ok := ks.filter s.releasable
        let s' := ok.foldl (fun t k => t.releaseCore k) s
        let s' := if ok = [] then s' else s'.logEntry 0 0x005 (maskOf 8 (fun i => ok.any (fun k => k.1 = i + 1))) 0
        if ok = ks then s' else s'.notice 0x0806)
/-- HALT_U (R539): with no upper core left running the BT-8 leaves Full (R47; DEDUCED, log 59). -/
def execHaltU (m : BitVec 6) (s : State) : Host.Outcome State Fault Refusal :=
  go (if !s.keeperUp then s
      else
        let s := { s with boot := { s.boot with
          cores := Vec.mapIdx s.boot.cores (fun k c => if 2 ≤ k.1 && m.getLsbD (k.1 - 2) then { c with run := false } else c) } }
        if (List.finRange 8).any (fun k => 2 ≤ k.1 && s.coreRuns k) then s else s.leaveFull)
/-- WATCHDOG_SERVICE (R593): 0xA5 and then 0x5A with no other write between them. -/
def execWatchdogService (k : Fin 8) (vs : Bytes) (s : State) : Host.Outcome State Fault Refusal :=
  go (if s.coreRuns k then
        s.updCore k (fun c => vs.foldl (fun (c : CoreSt) (v : Byte) =>
          if v = 0x5A && c.wdArmed then { c with wdArmed := false, wdTick := s.lt } else { c with wdArmed := decide (v = 0xA5) }) c)
      else s)
/-- WATCHDOG_TIMEOUT_SET (R593). -/
def execWatchdogTimeoutSet (k : Fin 8) (ms : Nat) (s : State) : Host.Outcome State Fault Refusal :=
  go (if !s.coreRuns k then s
      else if (s.core k).wdSet then s.count 0x0828
      else if 1 ≤ ms && ms ≤ 1000 then s.updCore k (fun c => { c with wdMs := ms, wdSet := true })
      else s)

end Sys2Proof.Machine
end

