-- ==== Sys2Proof/Machine/Boot.lean ====
section
/-!
DEFINITION. From standby power to the keeper image: option loading, the reference, the ROM with its banks, Staging and recovery sources,
the keeper's start, confirmation, owner keys, and the boot and key opcodes (R57, R58, R516 to R538, R549, R553 to R556, R566, R596 to
R598).
-/

namespace Sys2Proof.Machine

namespace State

/-! ### Option loading and the reference (R57, R58, R596 to R598) -/

/-- Option loading ends (R57 step 3, R61, R597, R598). -/
def optionsDone (good : Bool) (o : OptionBlock) (src clk : BitVec 2) (s : State) : State :=
  if !good then
    { s with
      dev := { s.dev with phase := .optionFault }
      cool := { s.cool with outs := Vec.mapIdx s.cool.outs (fun _ x => { x with duty := 100000 }) } }
  else
    let s := { s with dev := { s.dev with st := .calm, phase := .optionLoaded, opt := o, bootSrc := src, clkMode := clk } }
    if clk = 3 then s.count 0x0809 else s

/-- The option block is loaded and no option fault holds. -/
def optionsIn (s : State) : Bool :=
  s.dev.phase ≠ .unpowered && s.dev.phase ≠ .optionLoading && s.dev.phase ≠ .optionFault

/-- Arming; outputs that already run through a system reset go on (R57 step 6, R58, R587). -/
def arm (s : State) : State :=
  if s.dev.armed then s
  else (List.finRange 20).foldl (fun t o => t.spinUp o) { s with dev := { s.dev with armed := true } }

/-! ### Staging adopted by the ROM (R566) -/

def programClear (s : State) : State := s.flashWrite (stagingBase + 0x104) (zeros 4)

/-- The bank that a verified Staging is copied into (R566). -/
def copyTarget (s : State) : Nat :=
  if !s.fwValid 0 then 0
  else if !s.fwValid 1 then 1
  else
    let n := s.candidates.headD 0
    if s.confirmed n then 1 - n else n

def topSeq (s : State) : Nat := (s.candidates.map s.fwSeq).foldl max 0

/-- The bank record that R566 step 5 programs from the staging record. -/
def bankRecord (s : State) (seq : Nat) : Bytes :=
  let ds := s.setDir stagingBase
  let head := ascii "SKBK" ++ natLE 2 1 ++ natLE 2 ds.length ++ natLE 4 seq ++ zeros 4 ++ Bytes.fit (ds.flatMap DirEntry.bytes) 96
  head ++ natLE 4 (crc32c head)

/-- An image stands in flash with the body CRC of its header. -/
def imageCrcOk (img : Bytes) : Bool :=
  let h := ImgHeader.parse img
  crc32c (img.part 1024 h.length) = h.bodyCrc

/-- Step 2 of R528 (R566). -/
def copyStaging (s : State) : State :=
  if !s.stagingVerified then s
  else
    let newest := s.candidates.head?
    let same : Bool := match newest with
      | some n => (match s.setEntry (bankBase n) s.stagedComponent with | some d => d.sha = s.stagedSha | none => false)
      | none => false
    if same then s.programClear
    else if s.topSeq = 0xFFFFFFFE then (s.programClear).notice 0x0804
    else
      let n := s.copyTarget
      let a := bankBase n
      let seq := s.topSeq + 1
      let rec_ := s.bankRecord seq
      let imgs := (s.setDir stagingBase).map (fun d => (d.off, s.setImage stagingBase d))
      let t := imgs.foldl (fun t c => t.flashWrite (a + c.1) c.2) (s.flashErase a setSize)
      if imgs.all (fun c => imageCrcOk c.2) then
        let t := ((t.flashWrite a rec_).programClear).notice 0x0802
        let t := t.logEntry 8 0x004 n seq
        { t with boot := { t.boot with stagingCopied := true } }
      else ((t.programClear).notice 0x0803).logEntry 8 0x003 n 2

/-! ### Candidates (R523, R525, R530) -/

/-- Attempt number of a bank's trial: 0 when confirmed (R530). -/
def attempt (s : State) (n : Nat) : Nat :=
  if s.confirmed n then 0
  else if s.trialBase n = 0xFFFFFFFF then 1
  else (s.rst.resetCount.toNat + 65536 - s.trialBase n % 65536) % 65536 + 1

/-- This start follows a power-on reset at which VBAT was lost (R530). -/
def vbatStart (s : State) : Bool := s.rst.vbatLost && s.rst.last ≤ 1

/-- The keeper image of a bank. -/
def keeperImage (s : State) (n : Nat) : Bytes :=
  match s.setEntry (bankBase n) 1 with
  | some d => s.setImage (bankBase n) d
  | none => []

/-- Why a keeper image fails, as log code 0x003 numbers it (R523, R525, R528 steps 4 and 6, R549). -/
def keeperBad' (s : State) (img : Bytes) : Option Nat :=
  let h := ImgHeader.parse (img.take 1024)
  let body := img.drop 1024
  let ss := sectionsOf body
  if !h.formOk 1 || body.length ≠ h.length then some 1
  else if crc32c body ≠ h.bodyCrc then some 2
  else if !s.keyOk h then some 4
  else if !sigOk h then some 5
  else if sha256 body ≠ h.bodySha then some 3
  else if !sectionsOk h body then some 1
  else if [0, 1].all (fun k => sramOk (ss.filter (fun x => x.core = k)) (placeSections (ss.filter (fun x => x.core = k)) body [])) then none
  else some 2

/-- Placing a core's sections in its SRAM (R524, R528 step 6). -/
def placeCore (body : Bytes) (s : State) (k : Fin 8) : State :=
  let ss := (sectionsOf body).filter (fun x => x.core = k.1)
  s.updCore k (fun c => { c with
    sram := placeSections ss body [], sections := keepSections ss, sectionsOk := sramOk ss (placeSections ss body []) })

/-- Steps 6 to 8 of R528: sections, measurements 1 and 6, locks, and the jump (R533, R553). -/
def handOver (bank : Option Nat) (trial : Nat) (img : Bytes) (s : State) : State :=
  let h := ImgHeader.parse (img.take 1024)
  let s := [(0 : Fin 8), 1].foldl (placeCore (img.drop 1024)) s
  let s := s.updCore 0 (fun c => { c with mapLocked := true })
  { s with
    dev := { s.dev with phase := .imageReady }
    rst := { s.rst with bkp := Vec.upd s.rst.bkp 2 (fun _ => 0) }
    boot := { s.boot with
      bank, recovery := bank.isNone, trial, keeperVer := h.version, keeperCompat := h.compat, romLock := true, k0MapLock := true
      meas := (s.boot.meas.set 0 (sha256 img)).set 5 [byte h.keySlot]
      bootBuf := [], rcvBuf := [], rcv := .waiting, rcvOffset := 0, rcvLen := 0 } }

def noteSkip (n why : Nat) (s : State) : State := s.logEntry 8 0x003 n why

/-- The log's entry for a started bank and the reset counter of its first attempt (R530). -/
def noteStart (n : Nat) (s : State) : State :=
  let t := s.logEntry 8 0x002 n (s.fwSeq n)
  if s.attempt n = 1 && t.trialBase n = 0xFFFFFFFF then t.flashWrite (bankBase n + 0x100) (natLE 2 t.rst.resetCount.toNat ++ zeros 2) else t

/-- Trying the candidates in order (R528 steps 3 to 6, R530); what was skipped, for the failure record. -/
def tryBanks (s : State) : List Nat → List (Nat × Nat) → Option State × State × List (Nat × Nat)
  | [], skipped => (none, s, skipped)
  | n :: rest, skipped =>
    let a := s.attempt n
    if 3 < a && !s.vbatStart then
      let s := ((s.flashWrite (bankBase n + 0x108) (zeros 4)).notice 0x0801).noteSkip n 6
      tryBanks s rest (skipped ++ [(n, 6)])
    else match s.keeperBad' (s.keeperImage n) with
      | some why =>
        let s := (s.notice 0x0800).noteSkip n why
        let s := { s with boot := { s.boot with skipped := true, imageBad := setBit s.boot.imageBad n true } }
        tryBanks s rest (skipped ++ [(n, why)])
      | none =>
        let t := s.noteStart n
        (some (t.handOver (some n) a (s.keeperImage n)), t, skipped)

/-- The ROM's failure record (R532, R602): reset counter, what was skipped and why, tick. -/
def failureRecord (s : State) (skipped : List (Nat × Nat)) : Bytes :=
  Bytes.fit (natLE 2 s.rst.resetCount.toNat ++ [byte skipped.length, 0] ++ Bytes.fit (skipped.flatMap (fun c => [byte c.1, byte c.2])) 4
    ++ natLE 8 s.lt) 64

/-- The ROM's first acts (R517, R536). -/
def romStart (s : State) : State :=
  let n := s.rst.resetCount + 1
  let s := { s with
    rst := { s.rst with resetCount := n }
    boot := { s.boot with
      released := false, skipped := false, stagingCopied := false, imageBad := 0
      cores := Vec.upd s.boot.cores 0 (fun c => { wdFresh s.lt c with run := true }) } }
  let s := s.logEntry 8 0x001 n.toNat s.dev.bootSrc.toNat
  if s.dev.bootSrc = 3 then s.count 0x0808 else s

/-- No candidate holds (R532): the failure record, the fans at full, BKP2 counts. -/
def romFailed (skipped : List (Nat × Nat)) (s : State) : State :=
  ({ s with
    dev := { s.dev with phase := .romFail }
    cool := { s.cool with fullHold := true }
    boot := { s.boot with failRec := some (s.failureRecord skipped) }
    rst := { s.rst with bkp := Vec.upd s.rst.bkp 2 (fun x => if x = BitVec.allOnes 32 then x else x + 1) } }).driveAll false

/-- The candidates of the flash, tried in order (R528). -/
def romBanks (s : State) : State :=
  match s.tryBanks s.candidates [] with
  | (some t, _, _) => t
  | (none, u, skipped) => u.romFailed skipped

/-- The ROM from its entry (R517, R528, R532, R536). -/
def romEntry (s : State) : State :=
  let s := s.romStart
  if s.dev.bootSrc = 1 || s.dev.bootSrc = 2 then
    { s with
      dev := { s.dev with phase := .recovery }
      boot := { s.boot with rcv := .waiting, bank := none, recovery := true } }
  else s.copyStaging.romBanks

/-! ### Recovery sources (R536 to R538) -/

/-- Bytes copied into the boot buffer of 1 MiB. -/
def rcvTake (off : Nat) (bs : Bytes) (s : State) : State :=
  if bs = [] || 1048576 < off + bs.length then s
  else { s with boot := { s.boot with
    bootBuf := Mem.write 0 s.boot.bootBuf off bs, bootLen := max s.boot.bootLen (off + bs.length), rcv := .copied } }

/-- Checking the recovery image and booting it, or refusing it (R523, R525, R536, R537). -/
def rcvBoot (s : State) : State :=
  let h := ImgHeader.parse (Mem.read 0 s.boot.bootBuf 0 1024)
  if !h.formOk 1 then { s with boot := { s.boot with rcv := .refusedHeader } }
  else
    let img := Mem.read 0 s.boot.bootBuf 0 (1024 + h.length)
    match s.keeperBad' img with
    | some _ => { s with boot := { s.boot with rcv := .refusedCheck } }
    | none => s.handOver none 0 img

def RcvState.num : RcvState → Nat
  | .waiting => 0 | .copying => 1 | .copied => 2 | .checking => 3 | .booting => 4 | .refusedHeader => 5 | .refusedCheck => 6

/-- The ROM waits for an image from this source (R517, R536). -/
def recovering (s : State) (src : BitVec 2) : Bool := s.dev.phase = .recovery && s.dev.bootSrc = src

/-- A private write of I3C recovery is whole (R538). -/
def rcvWriteOk (cmd len off : Nat) (data : Bytes) (crc : Byte) : Bool :=
  1 ≤ len && len ≤ 248 && data.length = len &&
    crc8 ([byte cmd, 0] ++ natLE 2 len ++ natLE 4 off ++ data) = crc.toNat

/-! ### The keeper image starts (R57 step 8, R58, R167, R190, R191, R534) -/

/-- The settings of the store, or defaults (R167, R168); measurement 5 is of the bank read (R553). -/
def loadStore (s : State) : State :=
  match s.chooseBank s.validBanks true with
  | (some vals, s) =>
    let put := fun (l : List (Key × Nat)) => l.foldl (fun e c => putEff c.1 c.2 e) []
    { s with cfg := { s.cfg with
        eff := put (vals.filter (fun c => !savedForFull c.1.obj)), later := vals.filter (fun c => savedForFull c.1.obj), loaded := true } }
  | (none, s) => { s with cfg := { s.cfg with eff := [], later := [], loaded := true } }

/-- The bank whose records were taken: the first valid one whose records pass. -/
def activeBank (s : State) : Option Nat :=
  s.validBanks.find? (fun n =>
    s.checkRules storeRules [] (stageAll (parseRecords (s.bankLen n / 8) (s.flashRead (bankAt n + 0x40) (s.bankLen n))).1 []) = [])

/-- Measurement 5: SHA-256 of the active bank of the settings store. -/
def measureStore (s : State) : State :=
  match s.activeBank with
  | some n => { s with boot := { s.boot with meas := s.boot.meas.set 4 (sha256 (s.flashRead (bankAt n) 0x80000)) } }
  | none => s

/-- A feed when K0 runs the keeper image (R59, R172, R190, R191, R198). -/
def feedStart (s : State) (f : Feed) : State :=
  if !s.connected f then s.updFeed f (fun x => { x with st := .disconnected, wasOn := false })
  else
    let s := s.updFeed f (fun x => if x.st = .disconnected then { x with st := .off } else x)
    if s.vbatStart then
      (s.updFeed f (fun x => { x with
        st := .cooldown, cooldown := 1000000 * s.fld 0x11 f.1 0xA, retries := 0, latched := false, wasOn := s.restoreOn f })).notice
          (0x0027 + 8 * f.1)
    else if (s.feed f).st = .off || (s.feed f).st = .cooldown then s.wantFeed f (s.restoreOn f)
    else s

/-- What K0 takes up first: Keeper, the settings, the measured times, measurements and the dormant packs (R57 step 8, R167, R531, R553). -/
def keeperLoad (tBe tPp : Nat) (s : State) : State :=
  let s := ({ s with dev := { s.dev with st := .keeper, phase := .running } }).loadStore
  let s := { s with boot := { s.boot with tBe, tPp, released := true, confirmFrom := s.lt } }
  let s := ((s.measureStore).measurePacks).logEntry 0 0x00A Config.regionMask 0
  { s with upd := { s.upd with dormant := (s.packs.filter s.dormant).map PackEntry.id } }

/-- K1's map is locked and K1 released, if its sections passed (R533, R540). -/
def releaseK1 (s : State) : State :=
  let s := s.updCore 1 (fun c => { c with mapLocked := true })
  if s.releasable 1 then (s.releaseCore 1).logEntry 0 0x005 1 0 else s.notice 0x0806

/-- The fans come under their zones (R58). -/
def keeperFans (s : State) : State := ({ s with cool := { s.cool with applied := true, fullHold := false } }).driveAll false

/-- K0 runs the keeper image. -/
def keeperStart (tBe tPp : Nat) (s : State) : State := (List.finRange 2).foldl feedStart (((s.keeperLoad tBe tPp).releaseK1).keeperFans)

/-- CONFIRM may be programmed (R531). -/
def mayConfirm (s : State) : Bool :=
  match s.boot.bank with
  | some n => s.keeperUp && !s.confirmed n && s.coreRuns 1 && s.cfg.loaded && decide (s.boot.confirmFrom + 10000000 ≤ s.lt)
  | none => false

/-- K0 programs CONFIRM of the booted bank (R531, R535). -/
def confirmBank (s : State) : State :=
  match s.boot.bank with
  | some n =>
    let s := (s.flashWrite (bankBase n + 0x104) (zeros 4)).logEntry 0 0x008 n (s.fwSeq n)
    { s with boot := { s.boot with trial := 0 } }
  | none => s

/-! ### BOOT_STATUS and owner keys (R526, R527, R555, R556) -/

/-- State of a bank as BOOT_STATUS shows it (R556). -/
def bankState (s : State) (n : Nat) : Nat :=
  if s.boot.imageBad.getLsbD n then 4
  else if s.bankFormOk n && s.setCrcOk (bankBase n) && s.rejectWord n ≠ 0xFFFFFFFF then 3
  else if !s.fwValid n then 0
  else if s.confirmed n then 1 else 2

def runningConfirmed (s : State) : Bool := match s.boot.bank with | some n => s.confirmed n | none => false

def bootStatusReply (s : State) : Bytes :=
  let b := s.boot
  [byte s.dev.bootSrc.toNat, s.bankByte, (b.meas.get 5).headD 0,
    byte (b2n s.runningConfirmed + 2 * b2n (s.basin.hbmUsable && !s.basin.stagingClosed) + 4 * b2n s.basin.stagingClosed
      + 8 * b2n s.rst.vbatLost + 16 * b2n b.stagingCopied + 32 * b2n b.skipped + 64 * b2n b.failRec.isSome), byte b.trial, 0, 0, 0]
  ++ natLE 2 s.rst.resetCount.toNat ++ zeros 2
  ++ [0, 1].flatMap (fun n => natLE 4 (if s.fwValid n then s.fwSeq n else 0))
  ++ [byte (s.bankState 0), byte (s.bankState 1), 0, 0] ++ natLE 4 b.keeperVer ++ natLE 4 s.ucodeVer ++ (b.meas.get 0).fit 32

def KeyState.num : KeyState → Nat
  | .blank => 0 | .active => 1 | .revoked => 2

def keyStatusReply (s : State) : Bytes :=
  (List.finRange 4).flatMap (fun i => [byte (KeyState.num (s.boot.keys.get i).st), 0, 0, 0] ++ (s.boot.keys.get i).hash.fit 32)

def setKeySlot (i : Fin 4) (k : KeySlot) (s : State) : State := { s with boot := { s.boot with keys := Vec.upd s.boot.keys i (fun _ => k) } }

/-- A command that checks a signature runs (R527). -/
def checkingSignature (s : State) : Bool := s.anyAccepted [0x0B02, 0x0803, 0x0804]

/-- KEY_REVOKE is refused (R527; a slot that is not ACTIVE: DEDUCED, log 60). -/
def mayNotRevoke (i : Fin 4) (s : State) : Bool :=
  (s.boot.keys.get i).st ≠ .active ||
    (List.finRange 4).all (fun j => j = i || (s.boot.keys.get j).st ≠ .active) ||
    s.candidates.any (fun n => (ImgHeader.parse ((s.keeperImage n).take 1024)).keySlot = i.1)

end State

/-! ### The rows -/

/-- OPTION_LOADING_DONE (R57, R597, R598). -/
def execOptionLoadingDone (good : Bool) (opt : OptionBlock) (bootSrc clkMode : BitVec 2) (s : State) : Host.Outcome State Fault Refusal :=
  go (if s.dev.phase = .optionLoading then s.optionsDone good opt bootSrc clkMode else s)
/-- OPTION_FAULT_RETRY (R598). -/
def execOptionFaultRetry (s : State) : Host.Outcome State Fault Refusal :=
  go (if s.dev.phase = .optionFault then { s with dev := { s.dev with phase := .optionLoading } } else s)
/-- REFERENCE_CHECK (R57 step 4, R596); the keeper PLL starts. -/
def execReferenceCheck (ok : Bool) (s : State) : Host.Outcome State Fault Refusal :=
  go (if s.dev.phase = .optionLoaded then
        ({ s with dev := { s.dev with phase := .refChecked, clkDegraded := !ok } }).startPll .keeper
      else s)
/-- TMC_RST_N_RELEASE (R591). -/
def execTmcRstNRelease (heldLow : Bool) (s : State) : Host.Outcome State Fault Refusal :=
  go (if s.dev.rstLow && s.optionsIn && s.rst.stretch.isNone && s.rst.rstSince + 1000 ≤ s.lt then
        let s := { s with dev := { s.dev with rstLow := false } }
        if heldLow then s.systemReset 2 else s
      else s)
/-- PROTECTIONS_ARMED (R57 step 6, R58). -/
def execProtectionsArmed (s : State) : Host.Outcome State Fault Refusal := go (if s.optionsIn then s.arm else s)
/-- ROM_ENTRY (R528): K0 leaves reset once the keeper PLL is locked (R57 step 7). -/
def execRomEntry (s : State) : Host.Outcome State Fault Refusal :=
  go (if s.dev.phase = .refChecked && s.pll .keeper = .locked then s.romEntry else s)
/-- ROM_FAIL_RETRY (R532). -/
def execRomFailRetry (s : State) : Host.Outcome State Fault Refusal := go (if s.dev.phase = .romFail then s.systemReset 4 else s)
/-- KEEPER_IMAGE_START (R57 step 8). -/
def execKeeperImageStart (tBeMs tPpUs : Nat) (s : State) : Host.Outcome State Fault Refusal :=
  go (if s.dev.phase = .imageReady then s.keeperStart tBeMs tPpUs else s)
/-- BANK_CONFIRM (R531). -/
def execBankConfirm (s : State) : Host.Outcome State Fault Refusal := go (if s.mayConfirm then s.confirmBank else s)

/-- RCV_COPY (R537): LEN outside 1 to 32,768 copies nothing (DESIGN CHOICE, log 61). -/
def execRcvCopy (s : State) : Host.Outcome State Fault Refusal :=
  go (if s.recovering 2 && s.bus.mse && !s.bus.perst && s.boot.rcvLen ≤ 32768 then s.rcvTake s.boot.rcvOffset (Mem.read 0 s.boot.rcvBuf 0 s.boot.rcvLen) else s)
/-- RCV_CHECK_AND_BOOT (R537). -/
def execRcvCheckAndBoot (s : State) : Host.Outcome State Fault Refusal := go (if s.recovering 2 && s.bus.mse && !s.bus.perst then s.rcvBoot else s)
/-- RCV_I3C_COPY (R538). -/
def execRcvI3cCopy (len off : Nat) (data : Bytes) (crc : Byte) (s : State) : Host.Outcome State Fault Refusal :=
  go (if s.recovering 1 && State.rcvWriteOk 1 len off data crc then s.rcvTake off data else s)
/-- RCV_I3C_CHECK_AND_BOOT (R538). -/
def execRcvI3cCheckAndBoot (len off : Nat) (data : Bytes) (crc : Byte) (s : State) : Host.Outcome State Fault Refusal :=
  go (if s.recovering 1 && State.rcvWriteOk 2 len off data crc then s.rcvBoot else s)
/-- RCV_I3C_STATE_READ (R538). -/
def execRcvI3cStateRead (s : State) : Host.Outcome State Fault Refusal :=
  go (if s.recovering 1 then s.send (.i3cData [byte (State.RcvState.num s.boot.rcv), 0, 0, 0]) else s)

def bootStatusOp : OpSpec := .query 0x0B01 true [14] 0 OpSpec.free4 (fun _ s => s.bootStatusReply)
def keyStatusOp : OpSpec := .query 0x0B04 true [14] 0 OpSpec.free4 (fun _ s => s.keyStatusReply)
def keyProgramOp : OpSpec :=
  { opcode := 0x0B05, keeper := true, keeperOnly := true, feats := [14], plen := some 36
    check := fun _ ps s => firstFail [
      (.badParam, ps.num 0 1 = 0 || 3 < ps.num 0 1),
      (.refusedState, (s.boot.keys.get (Fin.ofNat 4 (ps.num 0 1))).st ≠ .blank),
      (.refusedBusy, s.checkingSignature)]
    bound := fun _ _ _ => 50000
    run := fun p ps b s => (s.setKeySlot (Fin.ofNat 4 (ps.num 0 1)) { st := .active, hash := ps.part 4 32 }).answer p b .ok [1, 0, 0, 0] }
def keyRevokeOp : OpSpec :=
  { opcode := 0x0B06, keeper := true, keeperOnly := true, feats := [14], plen := some 4
    check := fun _ ps s => firstFail [
      (.badParam, 3 < ps.num 0 1),
      (.refusedState, s.mayNotRevoke (Fin.ofNat 4 (ps.num 0 1))),
      (.refusedBusy, s.checkingSignature)]
    bound := fun _ _ _ => 50000
    run := fun p ps b s =>
      let i := Fin.ofNat 4 (ps.num 0 1)
      (s.setKeySlot i { (s.boot.keys.get i) with st := .revoked }).answer p b .ok [2, 0, 0, 0] }

def execBootStatus (p : Port) (tag : BitVec 32) (params : Bytes) (s : State) : Host.Outcome State Fault Refusal :=
  go (s.submit bootStatusOp p tag params)
def execKeyStatus (p : Port) (tag : BitVec 32) (params : Bytes) (s : State) : Host.Outcome State Fault Refusal :=
  go (s.submit keyStatusOp p tag params)
def execKeyProgram (p : Port) (tag : BitVec 32) (params : Bytes) (s : State) : Host.Outcome State Fault Refusal :=
  go (s.submit keyProgramOp p tag params)
def execKeyRevoke (p : Port) (tag : BitVec 32) (params : Bytes) (s : State) : Host.Outcome State Fault Refusal :=
  go (s.submit keyRevokeOp p tag params)

end Sys2Proof.Machine
end

