-- ==== Sys2Proof/Machine/Sideband.lean ====
section
/-!
DEFINITION. The I3C sideband: addressing, MCTP control, PLDM numeric sensors, SPDM attestation, and the messages of the command slot
(R120 to R130, R552). Message layouts are those of the DMTF standards that the spec names (PRESUMED, log 62).
-/

namespace Sys2Proof.Machine

/-- CRC-32 of IEEE 802.3, which PLDM appends to a version. -/
def crc32Bit (c : Nat) : Nat := if c % 2 = 1 then (c / 2) ^^^ 0xEDB88320 else c / 2
def crc32 (bs : Bytes) : Nat :=
  (bs.foldl (fun c (b : Byte) => Nat.repeat crc32Bit 8 (c ^^^ b.toNat)) 0xFFFFFFFF) ^^^ 0xFFFFFFFF

namespace State

/-- K1 serves the sideband, and the target has its address (R54, R120). -/
def sidebandUp (s : State) : Bool := s.keeperServed && s.sess.i3cAddr.isSome

def setAddr (a : BitVec 7) (s : State) : State := { s with sess := { s.sess with i3cAddr := some a } }

/-! ### MCTP control (R121, DSP0236) -/

def controlReply (cmd : Byte) (bs : Bytes) (s : State) : State := s.send (.mctp 0 ([0, cmd] ++ bs))

def mctpReply (cmd : Byte) (d : Bytes) (s : State) : State :=
  match cmd.toNat with
  | 1 =>
    let eid := (d.drop 1).headD 0
    if d.headD 0 = 0 || d.headD 0 = 1 then
      if eid = 0 || eid = 0xFF then s.controlReply cmd [2]
      else ({ s with sess := { s.sess with eid } }).controlReply cmd [0, 0, eid, 0]
    else s.controlReply cmd [2]
  | 2 => s.controlReply cmd [0, s.sess.eid, 0, 0]
  | 4 =>
    let t := d.headD 0
    if [0x00, 0x01, 0x05, 0x7F, 0xFF].contains t.toNat then s.controlReply cmd ([0, 1] ++ Bytes.fit (Config.mctpVersion t) 4)
    else s.controlReply cmd [0x80]
  | 5 => s.controlReply cmd [0, 3, 0x01, 0x05, 0x7F]
  | _ => s.controlReply cmd [5]

/-! ### PLDM (R127, R128, DSP0240, DSP0248) -/

def pldmReply (type cmd : Byte) (bs : Bytes) (s : State) : State := s.send (.mctp 1 ([0, type, cmd] ++ bs))

/-- Base unit of a sensor: degrees C, volts, amperes, watts, RPM, litres a minute. -/
def sensorUnit (s : State) (id : Nat) : Nat :=
  let ty := s.fld 0x31 (id - 6) 1
  if id ≤ 2 then 5
  else if id ≤ 4 then 6
  else if id = 5 || id = 58 then 7
  else if id ≤ 33 then (if ty = 4 then 5 else if ty = 5 then 6 else 2)
  else if id ≤ 53 then 19 else 41

/-- The Numeric Sensor PDR of a sensor: values are in thousandths of its unit, as SENSOR_READ gives them (R136; DEDUCED, log 62). -/
def pdr (s : State) (id : Nat) : Bytes :=
  natLE 4 id ++ [1, 2, 0, 0] ++ natLE 2 95 ++ zeros 2 ++ natLE 2 id ++ Bytes.fit (Config.pdrEntity id) 8
    ++ [byte (s.sensorUnit id), 0xFD] ++ Bytes.fit (Config.pdrRest id) 81

/-- Operational state of a PLDM sensor for a status of R136: enabled, failed, unavailable (R128). -/
def operational (status : Nat) : Byte := if status = 0 then 0 else if status = 1 then 5 else 2

def sensorMessage (s : State) (id : Nat) : Bytes :=
  if id = 0 || 58 < id then [0x80]
  else
    let v := s.sensor id
    [0, 5, operational v.2, 0] ++ Bytes.fit (Config.pldmStates id) 3 ++ intLE 4 (clampInt 32 v.1)

def pdrMessage (s : State) (h : Nat) : Bytes :=
  let id := if h = 0 then 1 else h
  if 58 < id then [0x82]
  else [0] ++ natLE 4 (if id = 58 then 0 else id + 1) ++ zeros 4 ++ [5] ++ natLE 2 (s.pdr id).length ++ s.pdr id

/-- Supported commands of a PLDM type as 32 bytes. -/
def pldmCommands (type : Byte) : Bytes :=
  let cs := if type = 0 then [2, 3, 4, 5] else [0x11, 0x50, 0x51]
  natLE 32 (maskOf 256 (fun i => cs.contains i))

/-! ### SPDM (R129, R130, R552, DSP0274) -/

/-- The certificate chain of slot 0 (R551). -/
def certChain (s : State) : Bytes := s.flashRead (identityBase + 0x110) (min 61168 (s.identity 0x100 4))

def setSpdm (v a : Bool) (x y z : Bytes) (s : State) : State :=
  { s with sess := { s.sess with spdmVersion := v, spdmAlgs := a, spdmA := x, spdmB := y, spdmL := z } }
def spdmSend (bs : Bytes) (s : State) : State := s.send (.mctp 5 bs)
/-- An ERROR response. -/
def spdmError (code : Byte) (req : Byte) (s : State) : State := s.spdmSend [0x12, 0x7F, code, req]

/-- What a signature is taken over: a prefix of 100 bytes with the context, and the hash of the transcript. -/
def spdmDigest (context : String) (transcript : Bytes) : Bytes :=
  let v := ascii "dmtf-spdm-v1.2.*"
  let c := ascii context
  sha256 (v ++ v ++ v ++ v ++ zeros (36 - c.length) ++ c ++ sha256 transcript)

/-- The signing engine's signature, 384 bytes; it draws a salt. -/
def signed (d : Bytes) (s : State) : Bytes × State := (Bytes.fit (Config.signature s.free d) 384, s.drawn)
def nonce (s : State) : Bytes × State := (Bytes.fit (Config.spdmNonce s.free) 32, s.drawn)

/-- A measurement block of DMTF form. -/
def measBlock (s : State) (i : Fin 6) : Bytes :=
  let v := s.boot.meas.get i
  let type : Byte := if i.1 < 4 then 1 else if i.1 = 4 then 3 else 0x83
  [byte (i.1 + 1), 1] ++ natLE 2 (3 + v.length) ++ [type] ++ natLE 2 v.length ++ v

def spdmVersions (s : State) : State :=
  let req : Bytes := [0x10, 0x84, 0, 0]
  let resp : Bytes := [0x10, 0x04, 0, 0, 0, 1, 0x00, 0x12]
  (s.setSpdm true false (req ++ resp) [] []).spdmSend resp

def spdmCapabilities (req : Bytes) (s : State) : State :=
  if !s.sess.spdmVersion then s.spdmError 4 0
  else
    let resp := [0x12, 0x61, 0, 0, 0, Config.spdmExponent, 0, 0] ++ natLE 4 0x16 ++ natLE 4 4096 ++ natLE 4 4096
    (s.setSpdm true false (s.sess.spdmA ++ req ++ resp) [] []).spdmSend resp

/-- Offering RSASSA-PSS over RSA-3072 and SHA-256 alone (R129). -/
def spdmAlgorithms (req : Bytes) (s : State) : State :=
  if !s.sess.spdmVersion then s.spdmError 4 0
  else
    let resp := [0x12, 0x63, 0, 0] ++ natLE 2 36 ++ [1, 0] ++ natLE 4 2 ++ natLE 4 (req.num 8 4 &&& 8) ++ natLE 4 (req.num 12 4 &&& 1)
      ++ zeros 16
    (s.setSpdm true true (s.sess.spdmA ++ req ++ resp) [] []).spdmSend resp

def spdmDigests (s : State) : State :=
  if !s.sess.spdmAlgs then s.spdmError 4 0
  else
    let resp := [0x12, 0x01, 0, 1] ++ sha256 s.certChain
    (s.setSpdm true true s.sess.spdmA (s.sess.spdmB ++ [0x12, 0x81, 0, 0] ++ resp) []).spdmSend resp

def spdmCertificate (slot : Byte) (off len : Nat) (s : State) : State :=
  let chain := s.certChain
  if !s.sess.spdmAlgs then s.spdmError 4 0
  else if slot.toNat % 16 ≠ 0 || chain.length ≤ off then s.spdmError 1 0
  else
    let part := chain.part off (min len 4088)
    let resp := [0x12, 0x02, slot, 0] ++ natLE 2 part.length ++ natLE 2 (chain.length - off - part.length) ++ part
    (s.setSpdm true true s.sess.spdmA (s.sess.spdmB ++ [0x12, 0x82, slot, 0] ++ natLE 2 off ++ natLE 2 len ++ resp) []).spdmSend resp

def spdmChallenge (slot hashType : Byte) (non : Bytes) (s : State) : State :=
  if !s.sess.spdmAlgs then s.spdmError 4 0
  else if slot.toNat % 16 ≠ 0 || (hashType ≠ 0 && hashType ≠ 1 && hashType ≠ 0xFF) then s.spdmError 1 0
  else
    let all := (List.finRange 6).flatMap s.measBlock
    let (n, s) := s.nonce
    let head := [0x12, 0x03, 0, 1] ++ sha256 s.certChain ++ n ++ (if hashType = 0 then [] else sha256 all) ++ zeros 2
    let m := s.sess.spdmA ++ s.sess.spdmB ++ [0x12, 0x83, slot, hashType] ++ Bytes.fit non 32 ++ head
    let (sg, s) := s.signed (spdmDigest "responder-challenge_auth signing" m)
    (s.setSpdm true true s.sess.spdmA [] []).spdmSend (head ++ sg)

def spdmMeasurements (attr op : Byte) (non : Bytes) (s : State) : State :=
  let k := op.toNat
  let sign := attr.getLsbD 0
  if !s.sess.spdmAlgs then s.spdmError 4 0
  else if 6 < k && k ≠ 255 then s.spdmError 1 0
  else
    let blocks := if k = 0 then [] else if k = 255 then List.finRange 6 else [Fin.ofNat 6 (k - 1)]
    let rec_ := blocks.flatMap s.measBlock
    let (n, s) := s.nonce
    let head := [0x12, 0x60, if k = 0 then 6 else 0, 0] ++ [byte blocks.length] ++ natLE 3 rec_.length ++ rec_ ++ n ++ zeros 2
    let l := s.sess.spdmL ++ [0x12, 0xE0, attr, op] ++ (if sign then Bytes.fit non 32 ++ [0] else []) ++ head
    if sign then
      let (sg, s) := s.signed (spdmDigest "responder-measurements signing" (s.sess.spdmA ++ l))
      (s.setSpdm true true s.sess.spdmA s.sess.spdmB []).spdmSend (head ++ sg)
    else (s.setSpdm true true s.sess.spdmA s.sess.spdmB l).spdmSend head

/-- What the sideband answers while K1 serves it. -/
def sidebandDo (f : State → State) (s : State) : Host.Outcome State Fault Refusal := go (if s.sidebandUp then f s else s)

end State

/-! ### The rows -/

/-- SIDEBAND_STATUS_QUERY (R124). -/
def execSidebandStatusQuery (s : State) : Host.Outcome State Fault Refusal := s.sidebandDo (fun s => s.sbSend 0x81)
/-- SIDEBAND_COMPLETION_NOTICE (R124). -/
def execSidebandCompletionNotice (s : State) : Host.Outcome State Fault Refusal :=
  s.sidebandDo (fun s => if (s.win 7).notice then (s.sbSend 0x82).updWin 7 (fun w => { w with notice := false }) else s)
/-- MCTP_CONTROL (R121). -/
def execMctpControl (cmd : Byte) (data : Bytes) (s : State) : Host.Outcome State Fault Refusal := s.sidebandDo (State.mctpReply cmd data)
/-- MCTP_OTHER_MESSAGE (R121): silently discarded. -/
def execMctpOtherMessage (_type : Byte) (_data : Bytes) (s : State) : Host.Outcome State Fault Refusal := go s
/-- I3C_ENTDAA (R120): a target without a dynamic address takes one. -/
def execI3cEntdaa (addr : BitVec 7) (s : State) : Host.Outcome State Fault Refusal :=
  go (if s.keeperServed && s.sess.i3cAddr.isNone then s.setAddr addr else s)
/-- I3C_SETDASA (R120). -/
def execI3cSetdasa (static addr : BitVec 7) (s : State) : Host.Outcome State Fault Refusal :=
  go (if s.keeperServed && s.sess.i3cAddr.isNone && static = s.dev.opt.static then s.setAddr addr else s)
/-- GET_TID (R127): no command assigns a terminus identifier. -/
def execGetTid (s : State) : Host.Outcome State Fault Refusal := s.sidebandDo (State.pldmReply 0 2 [0, 0])
/-- GET_PLDM_VERSION (R127). -/
def execGetPldmVersion (type : Byte) (s : State) : Host.Outcome State Fault Refusal :=
  s.sidebandDo (State.pldmReply 0 3 (
    let v := Bytes.fit (Config.pldmVersion type) 4
    if type = 0 || type = 2 then [0] ++ zeros 4 ++ [5] ++ v ++ natLE 4 (crc32 v) else [0x83]))
/-- GET_PLDM_TYPES (R127): types 0 and 2. -/
def execGetPldmTypes (s : State) : Host.Outcome State Fault Refusal := s.sidebandDo (State.pldmReply 0 4 ([0, 5] ++ zeros 7))
/-- GET_PLDM_COMMANDS (R127). -/
def execGetPldmCommands (type : Byte) (s : State) : Host.Outcome State Fault Refusal :=
  s.sidebandDo (State.pldmReply 0 5 (if type = 0 || type = 2 then [0] ++ State.pldmCommands type else [0x83]))
/-- GET_PDR_REPOSITORY_INFO (R127): 58 records of one size. -/
def execGetPdrRepositoryInfo (s : State) : Host.Outcome State Fault Refusal :=
  s.sidebandDo (State.pldmReply 2 0x50 ([0, 0] ++ Bytes.fit Config.pdrTimes 26 ++ natLE 4 58 ++ natLE 4 (58 * 105) ++ natLE 4 105
    ++ [Config.pdrTimeout]))
/-- GET_PDR (R127). -/
def execGetPdr (handle : BitVec 32) (s : State) : Host.Outcome State Fault Refusal :=
  s.sidebandDo (fun s => s.pldmReply 2 0x51 (s.pdrMessage handle.toNat))
/-- GET_SENSOR_READING (R128). -/
def execGetSensorReading (id : BitVec 16) (s : State) : Host.Outcome State Fault Refusal :=
  s.sidebandDo (fun s => s.pldmReply 2 0x11 (s.sensorMessage id.toNat))
/-- GET_VERSION (R129). -/
def execGetVersion (s : State) : Host.Outcome State Fault Refusal := s.sidebandDo State.spdmVersions
/-- GET_CAPABILITIES (R129). -/
def execGetCapabilities (req : Bytes) (s : State) : Host.Outcome State Fault Refusal := s.sidebandDo (State.spdmCapabilities req)
/-- NEGOTIATE_ALGORITHMS (R129). -/
def execNegotiateAlgorithms (req : Bytes) (s : State) : Host.Outcome State Fault Refusal := s.sidebandDo (State.spdmAlgorithms req)
/-- GET_DIGESTS (R129). -/
def execGetDigests (s : State) : Host.Outcome State Fault Refusal := s.sidebandDo State.spdmDigests
/-- GET_CERTIFICATE (R129). -/
def execGetCertificate (slot : Byte) (off len : BitVec 16) (s : State) : Host.Outcome State Fault Refusal :=
  s.sidebandDo (State.spdmCertificate slot off.toNat len.toNat)
/-- CHALLENGE (R129). -/
def execChallenge (slot hashType : Byte) (nonce : Bytes) (s : State) : Host.Outcome State Fault Refusal :=
  s.sidebandDo (State.spdmChallenge slot hashType nonce)
/-- GET_MEASUREMENTS (R130). -/
def execGetMeasurements (attr op : Byte) (nonce : Bytes) (s : State) : Host.Outcome State Fault Refusal :=
  s.sidebandDo (State.spdmMeasurements attr op nonce)
/-- KEY_EXCHANGE (R129): UnsupportedRequest. -/
def execKeyExchange (_req : Bytes) (s : State) : Host.Outcome State Fault Refusal := s.sidebandDo (State.spdmError 7 0xE4)
/-- PSK_EXCHANGE (R129): UnsupportedRequest. -/
def execPskExchange (_req : Bytes) (s : State) : Host.Outcome State Fault Refusal := s.sidebandDo (State.spdmError 7 0xE6)

end Sys2Proof.Machine
end

