-- ==== Sys2Proof/Machine/Basin.lean ====
section
/-!
DEFINITION. The Basin's commands and events: BAR 2, the tiers and self-refresh, the patrol scrub, seals and digests, pushes, and the
Basin opcodes (R67, R68, R77 to R82, R392, R393, R422 to R449).
-/

namespace Sys2Proof.Machine

namespace State

/-! ### Where a line lies (R77, R79, R422 to R425) -/

def dimmBase : Nat := 0x4000000000
def hbmTop : Nat := 0x1000000000
def reservedBase : Nat := 0x0FFC000000
def stagingTop : Nat := 0x0FFD000000

/-- What BAR 2 finds at a line. -/
inductive Place
  | unmapped
  | notReady
  | reserved
  | staging
  | store
  deriving DecidableEq, Repr

def placeOf (s : State) (line : Nat) : Place :=
  if line < hbmTop then
    if !s.basin.hbmUsable then .notReady
    else if line < reservedBase then .store
    else if line < stagingTop then .staging
    else .reserved
  else if line < dimmBase then .unmapped
  else if line < 0x8000000000 && !s.basin.dimmUsable then .notReady
  else if line - dimmBase < s.dimmCap then .store
  else .unmapped

/-- The endpoint passes memory accesses to BAR 2 and BAR 4: the device is in Keeper or Full, or in PCIe recovery, PERST_N is released and
Memory Space Enable is set (R80, R82, R537). -/
def barUp (s : State) : Bool :=
  (((s.dev.st = .keeper || s.dev.st = .full) && s.dev.phase = .running) || s.recovering 2) && !s.bus.perst && s.bus.mse

/-- A line is served by the memories. -/
def Place.served : Place → Bool
  | .store => true
  | .staging => true
  | _ => false

/-! ### BAR 2 reads (R68, R79 to R81, R424, R425) -/

/-- A read whose Basin lines, if any, can be served now. -/
def bar2Fetch (off len : Nat) (errs : List LineErr) (s : State) : State :=
  let x := (linesOf off len).foldl (fun (x : List Nat × List LineErr × State) l =>
    if (x.2.2.placeOf l).served then
      let y := readLine l x.2
      (if y.1 then x.1 ++ [l] else x.1, y.2)
    else x) ([], errs, s)
  let t := x.2.2
  let data := (List.range len).map (fun i =>
    let a := off + i
    match t.placeOf (a / 64 * 64) with
    | .notReady => (0xFF : Byte)
    | .unmapped => 0
    | .reserved => 0
    | .store | .staging => if x.1.contains (a / 64 * 64) then Config.poisonByte t.free a else Mem.get 0 t.basin.mem a)
  let t := { t with bus := { t.bus with rd := data, rdPoison := decide (x.1 ≠ []) } }
  if x.1 = [] then t else (t.drawn).notice 0x0003

/-! ### BAR 2 writes (R79, R424, R425, R430, R438, R440, R443) -/

def overlaps (a la b lb : Nat) : Bool := decide (a < b + lb) && decide (b < a + la)

/-- A write overlaps a tensor run, or the activation table, of a layer that is SEALING or SEALED (R440). -/
def hitsSeal (s : State) (off len : Nat) : Bool :=
  s.basin.seals.any (fun c =>
    match s.layer c.1 with
    | none => false
    | some m =>
      m.tensors.any (fun t => overlaps off len t.base (t.nblk * 4104)) ||
        (match s.actTable m.act with
         | some (b, l) => m.act ≠ 0xFF && overlaps off len b l
         | none => false))

/-- The part of a write that falls on one line: the counter of its drop, if it is dropped. -/
def storeLine (off : Nat) (data : Bytes) (line : Nat) (x : List Nat × List LineErr × State) : List Nat × List LineErr × State :=
  let lo := max off line
  let hi := min (off + data.length) (line + 64)
  let part := (data.drop (lo - off)).take (hi - lo)
  let drop := fun (c : Nat) => (if x.1.contains c then x.1 else x.1 ++ [c], x.2)
  match x.2.2.placeOf line with
  | .unmapped => drop 0x0001
  | .notReady => drop 0x070B
  | .reserved => drop 0x070A
  | p =>
    let s := x.2.2
    if p = .staging && s.basin.stagingClosed then drop 0x070E
    else if hi - lo = 64 then
      (x.1, x.2.1.filter (fun e => e.line ≠ line),
        { s with basin := { s.basin with
            mem := Mem.write 0 s.basin.mem line part, poison := s.basin.poison.filter (fun l => l ≠ line) } })
    else
      let y := readLine line x.2
      if y.1 then (if x.1.contains 0x0706 then x.1 else x.1 ++ [0x0706], y.2)
      else (x.1, y.2.1, { y.2.2 with basin := { y.2.2.basin with mem := Mem.write 0 y.2.2.basin.mem lo part } })

/-- A write that the Basin can take now; each reason of a drop counts once. -/
def bar2Store (off : Nat) (data : Bytes) (errs : List LineErr) (s : State) : State :=
  if s.hitsSeal off data.length then s.count 0x070D
  else
    let x := (linesOf off data.length).foldl (fun x l => storeLine off data l x) ([], errs, s)
    x.1.foldl (fun t c => t.count c) x.2.2

/-- The access touches a line that the memories serve. -/
def touchesBasin (s : State) (off len : Nat) : Bool := (linesOf off len).any (fun l => (s.placeOf l).served)

/-- A BAR 2 access: served, or held until the Basin is usable (R68). -/
def bar2Access (off : Nat) (data : Option Bytes) (len : Nat) (errs : List LineErr) (s : State) : State :=
  let serve := fun (t : State) => match data with
    | some d => t.bar2Store off d errs
    | none => t.bar2Fetch off len errs
  if !s.touchesBasin off len then serve s
  else
    let s := s.startBasin
    if s.basin.awake = .awake then serve s
    else { s with bus := { s.bus with held := s.bus.held ++ [(off, data, len, errs)] } }

/-! ### Self-refresh and the tiers (R67, R423, R425) -/

/-- Tensor work that keeps the Basin out of self-refresh: seals, verifies, pushes, checks and a scrub that catches up (R446). -/
def basinBusy (s : State) : Bool :=
  s.basin.jobs ≠ [] || s.acceptedOn 0x0607 ≠ [] || s.basin.catchUp || s.bus.held ≠ [] ||
    (List.finRange 64).any (fun a => (s.chk.areas.get a).st = .checking)

/-- A sampling plan is active (R67, R453). -/
def planActive (s : State) : Bool := s.cfg.eff.any (fun c => c.1.obj = 0x50 && c.1.fld = 1 && c.2 = 1)

/-- FLAGS of BASIN_STATUS (R448). -/
def basinFlags (s : State) : Nat :=
  b2n (s.basin.awake = .awake) + 2 * b2n s.basin.hbmUsable + 4 * b2n s.basin.dimmUsable + 8 * b2n (s.basin.holds ≠ [])
    + 16 * b2n s.basin.stagingClosed + 32 * b2n s.basin.poisonFull
    + 64 * b2n (s.basin.dimmUsable && (s.basin.dimm0 = 0) != (s.basin.dimm1 = 0))

/-- The held accesses complete, oldest first, and so do the BASIN_HOLD commands that wait (R68, R447). -/
def basinReady (s : State) : State :=
  let held := s.bus.held
  let s := { s with basin := { s.basin with awake := .awake, idle := 0 }, bus := { s.bus with held := [] } }
  let s := held.foldl (fun t h => match h.2.1 with
    | some d => t.bar2Store h.1 d h.2.2.2
    | none => t.bar2Fetch h.1 h.2.2.1 h.2.2.2) s
  (s.acceptedOn 0x0602).foldl (fun t p => t.finish p .ok ([byte t.basinFlags] ++ zeros 7)) s

/-! ### The patrol scrub (R433) -/

/-- Lines of the tiers, the reserved range included. -/
def scrubTotal (s : State) : Nat := hbmTop / 64 + s.dimmCap / 64
/-- Lines read since the schedule began. -/
def scrubRead (s : State) : Nat :=
  s.basin.scrubPasses * s.scrubTotal +
    (if s.basin.scrubOff < hbmTop then s.basin.scrubOff / 64 else hbmTop / 64 + (s.basin.scrubOff - dimmBase) / 64)
/-- Lines the schedule of one pass a day calls for. -/
def scrubDue (s : State) : Nat := (s.lt - s.basin.scrubFrom) * s.scrubTotal / 86400000000

/-- The place after a line; a finished pass is counted and its corrections are forgotten (R428, R433). -/
def scrubNext (s : State) : State :=
  let n := s.basin.scrubOff + 64
  let done := if n = hbmTop then !(s.basin.dimmUsable && 0 < s.dimmCap) else n = dimmBase + s.dimmCap
  if done then
    ({ s with basin := { s.basin with
        scrubOff := 0, corr := [], scrubDone := s.lt, scrubPasses := s.basin.scrubPasses + 1 } }).count 0x0708
  else { s with basin := { s.basin with scrubOff := if n = hbmTop then dimmBase else n } }

/-! ### Seals and digests (R392, R393, R439 to R442, R446, R449) -/

/-- Every block of a layer's tensors in order: tensor number, tensor, block. -/
def layerBlocks (m : LayerMap) : List (Nat × Tensor × Nat) :=
  (m.tensors.zipIdx).flatMap (fun c => (List.range c.1.nblk).map (fun b => (c.2, c.1, b)))

/-- Judging and collecting the payloads of blocks, until one stops the digest: its STATUS, tensor and block (R393, R441). -/
def digestRun : List (Nat × Tensor × Nat) → Bytes → List LineErr × State → Option (Nat × Nat × Nat) × Bytes × State
  | [], acc, r => (none, acc, r.2)
  | c :: l, acc, r =>
    let x := readBlock c.2.1 c.2.2 r
    match x.1 with
    | .good => digestRun l (acc ++ x.2.1.take 4096) x.2.2
    | .poisoned => (some (2, c.1, c.2.2), [], x.2.2.2)
    | .tag _ => (some (3, c.1, c.2.2), [], x.2.2.2)

/-- The record of a layer that is not mapped. -/
def notMapped (l : Nat) : Nat × Bytes × Nat × Nat × Nat := (l, zeros 32, 4, 0xFF, 0)

def jobWaits (j : SealJob) (l : Nat) : Bool :=
  decide (j.first ≤ l) && decide (l < j.first + j.count) && !j.done.any (fun d => d.1 = l)

/-- A job every one of whose layers has its record. -/
def jobDone (j : SealJob) : Bool := decide (j.count ≤ j.done.length)

/-- The reply of BASIN_SEAL and BASIN_VERIFY (R447, R449). -/
def jobReply (j : SealJob) : Bytes :=
  let ds := sortBy (fun a b => decide (a.1 ≤ b.1)) j.done
  natLE 2 j.first ++ natLE 2 j.count ++ natLE 2 ((ds.filter (fun d => d.2.2.1 = 0)).length) ++ [0, 0]
    ++ ds.flatMap (fun d => Bytes.fit d.2.1 32 ++ [byte d.2.2.1, byte d.2.2.2.1, 0, 0] ++ natLE 4 d.2.2.2.2)

/-- Finishing the jobs whose last record has come, while U2 runs (R446). -/
def endJobs (s : State) : State :=
  if !s.coreRuns 4 then s
  else
    let ready := s.basin.jobs.filter (fun j => jobDone j && !j.lost)
    let s := { s with basin := { s.basin with jobs := s.basin.jobs.filter (fun j => !jobDone j) } }
    ready.foldl (fun t j => t.finish j.port .ok (jobReply j)) s

/-- Adding a layer's record to a job. -/
def addRecord (j : SealJob) (r : Nat × Bytes × Nat × Nat × Nat) (s : State) : State :=
  { s with basin := { s.basin with
      jobs := s.basin.jobs.map (fun (x : SealJob) => if { x with done := [] } = { j with done := [] } then { x with done := x.done ++ [r] } else x) } }

/-- A layer whose BASIN_SEAL did not succeed returns to UNSEALED; a seal it had before is lost (R439, R441). -/
def sealFails (l : Nat) (s : State) : State :=
  match s.sealOf l with
  | some (.sealing was) =>
    let s := s.setSeal l none
    if was then s.notice 0x070C else s
  | _ => s

/-- The end of one layer of a job (R441, R447, R449). -/
def layerDone (j : SealJob) (l : Nat) (errs : List LineErr) (s : State) : State :=
  match s.layer l with
  | none => (s.addRecord j (notMapped l)).sealFails l
  | some m =>
    let before := s.sealOf l
    let x := digestRun (layerBlocks m) [] (errs, s.basinTraffic)
    let s := x.2.2
    match x.1 with
    | some (st, t, b) =>
      let s := s.addRecord j (l, zeros 32, st, t, b)
      if j.verify then s else s.sealFails l
    | none =>
      let d := sha256 x.2.1
      if j.verify then
        match before with
        | some (.sealed e) =>
          if d = e then s.addRecord j (l, d, 0, 0xFF, 0)
          else (s.addRecord j (l, d, 1, 0xFF, 0)).loseSeal l
        | _ => s.addRecord j (l, d, Config.verifyStatus.toNat, 0xFF, 0)
      else
        let good : Bool := match j.expect with
          | some ds => decide (ds.getD (l - j.first) [] = d)
          | none => true
        if good then (s.addRecord j (l, d, 0, 0xFF, 0)).setSeal l (some (.sealed d))
        else (s.addRecord j (l, d, 1, 0xFF, 0)).sealFails l

/-- What a layer-map commit does to the layers whose entries it changes: seals are lost, and seal work on them ends NOT_MAPPED (R437,
R446). -/
def layerChanged (l : Nat) (s : State) : State :=
  let s := (s.loseSeal l).sealFails l
  (s.basin.jobs.filter (fun j => jobWaits j l)).foldl (fun t j => t.addRecord j (notMapped l)) s

end State

/-! ### The Basin opcodes (R447) -/

/-- The reply to BASIN_STATUS (R447). -/
def State.basinStatusReply (s : State) : Bytes :=
  let sealed := (s.basin.seals.filter (fun c => s.isSealed c.1)).map (fun c => c.1)
  [byte s.basinFlags, 0, 0, 0] ++ natLE 4 (s.fld 0x60 0 1) ++ natLE 8 State.reservedBase
    ++ natLE 8 s.dimmCap ++ natLE 8 s.basin.scrubOff ++ natLE 8 s.basin.scrubDone ++ natLE 4 s.basin.scrubPasses
    ++ natLE 4 s.basin.poison.length ++ natLE 2 s.layers.length ++ natLE 2 sealed.length ++ zeros 12
    ++ (List.range 512).map (fun k => byte (maskOf 8 (fun i => sealed.contains (8 * k + i))))

/-- The Basin's PLL failed twice, and no later start request has locked it (R65). -/
def basinPllFailed (s : State) : Bool := s.dev.plls.get 4 = .failed

def basinStatusOp : OpSpec :=
  OpSpec.query 0x0601 false [7] 0 OpSpec.free4 (fun _ s => s.basinStatusReply)

def execBasinStatus (p : Port) (tag : BitVec 32) (params : Bytes) (s : State) : Host.Outcome State Fault Refusal :=
  go (s.submit basinStatusOp p tag params)

/-- BASIN_HOLD (R447): a hold starts the Basin and completes once it is awake. -/
def basinHoldOp : OpSpec where
  opcode := 0x0602
  keeper := false
  feats := [7]
  plen := some 8
  check := fun _ ps s => firstFail
    [(.badParam, decide (1 < ps.num 0 1)), (.refusedState, decide (ps.num 0 1 = 1) && basinPllFailed s)]
  bound := fun _ _ _ => 2100
  run := fun p ps b s =>
    let o := State.ownerOfPort p
    let rest := s.basin.holds.filter (fun x => x ≠ o)
    if ps.num 0 1 = 0 then
      let s := { s with basin := { s.basin with holds := rest } }
      s.answer p b .ok ([byte s.basinFlags] ++ zeros 7)
    else
      let s := ({ s with basin := { s.basin with holds := rest ++ [o] } }).startBasin
      if s.basin.awake = .awake then s.answer p b .ok ([byte s.basinFlags] ++ zeros 7) else s.accept p b

def execBasinHold (p : Port) (tag : BitVec 32) (params : Bytes) (s : State) : Host.Outcome State Fault Refusal :=
  go (s.submit basinHoldOp p tag params)

/-- Bytes of the tensor blocks of a named layer, tags included (R442). -/
def layerBytes (s : State) (l : Nat) : Nat :=
  match s.layer l with
  | some m => (m.tensors.map (fun t => t.nblk * 4104)).sum
  | none => 0

/-- The bound of BASIN_SEAL and BASIN_VERIFY (R442, R447). -/
def sealBound (ps : Bytes) (s : State) : Nat :=
  let bs := (List.range (ps.num 2 2)).map (fun i => layerBytes s (ps.num 0 2 + i))
  3100 + ceilDiv (2 * bs.sum + 32 * bs.foldl max 0) 64000

/-- Starting the digests of a job; one that has nothing to compute completes at once. -/
def startJob (j : SealJob) (b : Nat) (s : State) : State :=
  if State.jobDone j then s.answer j.port b .ok (State.jobReply j)
  else (({ s with basin := { s.basin with jobs := s.basin.jobs ++ [j] } }).startBasin).accept j.port b

/-- BASIN_SEAL (R441, R447). -/
def basinSealOp : OpSpec where
  opcode := 0x0603
  keeper := false
  feats := [7]
  plen := none
  check := fun _ ps s =>
    let n := ps.num 2 2
    firstFail
      [(.badParam, decide (ps.length ≠ 8 + (if bit (ps.num 4 1) 0 then 32 * n else 0) ∨ n = 0 ∨ 95 < n)),
       (.refusedState, basinPllFailed s)]
  bound := fun _ ps s => sealBound ps s
  run := fun p ps b s =>
    let f := ps.num 0 2
    let n := ps.num 2 2
    let ls := (List.range n).map (fun i => f + i)
    let mapped := ls.filter (fun l => (s.layer l).isSome)
    let expect : Option (List Bytes) :=
      if bit (ps.num 4 1) 0 then some ((List.range n).map (fun i => ps.part (8 + 32 * i) 32)) else none
    let s := mapped.foldl (fun t l => t.setSeal l (some (.sealing (t.isSealed l)))) s
    startJob { port := p, lost := false, verify := false, first := f, count := n, expect,
               done := (ls.filter (fun l => !mapped.contains l)).map State.notMapped } b s

def execBasinSeal (p : Port) (tag : BitVec 32) (params : Bytes) (s : State) : Host.Outcome State Fault Refusal :=
  go (s.submit basinSealOp p tag params)

/-- BASIN_UNSEAL (R447). -/
def basinUnsealOp : OpSpec where
  opcode := 0x0604
  keeper := false
  feats := [7]
  plen := some 8
  check := fun _ ps _ => firstFail [(.badParam, decide (ps.num 2 2 = 0 ∨ 4096 < ps.num 2 2))]
  bound := fun _ _ _ => 0
  run := fun p ps _ s =>
    let named := (s.basin.seals.filter (fun c => s.isSealed c.1 && ps.num 0 2 ≤ c.1 && c.1 < ps.num 0 2 + ps.num 2 2)).map (fun c => c.1)
    let s := named.foldl (fun t l => t.setSeal l none) s
    s.answerNow p .ok (natLE 2 named.length ++ zeros 6)

def execBasinUnseal (p : Port) (tag : BitVec 32) (params : Bytes) (s : State) : Host.Outcome State Fault Refusal :=
  go (s.submit basinUnsealOp p tag params)

/-- BASIN_VERIFY (R447): layers that are not SEALED are not recomputed. -/
def basinVerifyOp : OpSpec where
  opcode := 0x0605
  keeper := false
  feats := [7]
  plen := some 8
  check := fun _ ps s => firstFail
    [(.badParam, decide (ps.num 2 2 = 0 ∨ 95 < ps.num 2 2)), (.refusedState, basinPllFailed s)]
  bound := fun _ ps s => sealBound ps s
  run := fun p ps b s =>
    let f := ps.num 0 2
    let n := ps.num 2 2
    let out := ((List.range n).map (fun i => f + i)).filter (fun l => !s.isSealed l)
    startJob { port := p, lost := false, verify := true, first := f, count := n, expect := none,
               done := out.map (fun l =>
                 if (s.layer l).isSome then (l, zeros 32, Config.verifyStatus.toNat, 0xFF, 0) else State.notMapped l) } b s

def execBasinVerify (p : Port) (tag : BitVec 32) (params : Bytes) (s : State) : Host.Outcome State Fault Refusal :=
  go (s.submit basinVerifyOp p tag params)

/-- The reply to MODEL_DIGEST (R441, R447). -/
def State.modelDigestReply (s : State) : Bytes :=
  let ls := s.layers.map (fun c => c.1)
  let valid := ls.all s.isSealed
  let digest := if valid then sha256 (ls.flatMap (fun l => match s.sealOf l with | some (.sealed d) => d | _ => [])) else zeros 32
  [byte (b2n valid), 0] ++ natLE 2 ls.length ++ zeros 4 ++ digest

/-- MODEL_DIGEST (R392, R447). -/
def modelDigestOp : OpSpec where
  opcode := 0x0606
  keeper := false
  feats := [7]
  plen := some 0
  check := OpSpec.free4
  bound := fun _ _ _ => 0
  run := fun p _ _ s => s.answerNow p .ok s.modelDigestReply

def execModelDigest (p : Port) (tag : BitVec 32) (params : Bytes) (s : State) : Host.Outcome State Fault Refusal :=
  go (s.submit modelDigestOp p tag params)

/-- R_push in bytes a µs, doubled 16 times over: min(16 GB/s, lanes × GT/s ÷ 16) (R445). -/
def pushRate16 (s : State) : Nat := min (16 * 16000) (s.bus.lanes * s.bus.gts * 1000)

/-- BASIN_PUSH (R444, R445, R447). -/
def basinPushOp : OpSpec where
  opcode := 0x0607
  keeper := false
  feats := [7]
  plen := some 32
  check := fun _ ps s =>
    let n := ps.num 8 4
    let fits : Bool := match s.layer (ps.num 2 2) with
      | none => true
      | some m => match m.tensors[ps.num 1 1]? with
        | some t => decide (ps.num 4 4 + n ≤ t.nblk)
        | none => false
    firstFail
      [(.badParam, decide (7 < ps.num 0 1 ∨ n = 0 ∨ 2 ^ 20 < n) || !fits),
       (.refusedState, !s.bus.bme || !s.isSealed (ps.num 2 2) || !s.arrived (Fin.ofNat 8 (ps.num 0 1)) || basinPllFailed s)]
  bound := fun _ ps s => 3100 + ceilDiv (ps.num 8 4 * 4104 * 16) (max 1 (pushRate16 s))
  run := fun p _ b s => (s.startBasin).accept p b

def execBasinPush (p : Port) (tag : BitVec 32) (params : Bytes) (s : State) : Host.Outcome State Fault Refusal :=
  go (s.submit basinPushOp p tag params)

/-- The reply to POISON_LIST (R447). -/
def State.poisonListReply (ps : Bytes) (s : State) : Bytes :=
  let ls := (s.basin.poison.drop (ps.num 0 4)).take (ps.num 4 2)
  natLE 4 s.basin.poison.length ++ natLE 4 (ps.num 0 4) ++ natLE 2 ls.length ++ zeros 6 ++ ls.flatMap (natLE 8)

/-- POISON_LIST (R447). -/
def poisonListOp : OpSpec :=
  OpSpec.query 0x0608 false [7] 8 (fun _ ps _ => firstFail [(.badParam, decide (ps.num 4 2 = 0 ∨ 476 < ps.num 4 2))])
    (fun ps s => s.poisonListReply ps)

def execPoisonList (p : Port) (tag : BitVec 32) (params : Bytes) (s : State) : Host.Outcome State Fault Refusal :=
  go (s.submit poisonListOp p tag params)

/-! ### Events -/

/-- BAR2_WRITE (R80, R438). -/
def execBar2Write (off : Nat) (data : Bytes) (errs : List LineErr) (s : State) : Host.Outcome State Fault Refusal :=
  go (if !s.barUp || data = [] then s
      else if !s.stage0Pg || s.recovering 2 then s.count 0x0002
      else s.bar2Access off (some data) data.length errs)

/-- BAR2_READ (R68, R80). -/
def execBar2Read (off len : Nat) (errs : List LineErr) (s : State) : Host.Outcome State Fault Refusal :=
  go (if !s.barUp then s
      else if !s.stage0Pg || s.recovering 2 then { s with bus := { s.bus with rd := List.replicate len 0xFF, rdPoison := false } }
      else s.bar2Access off none len errs)

/-- BASIN_SELF_REFRESH (R67). -/
def execBasinSelfRefresh (s : State) : Host.Outcome State Fault Refusal :=
  go (if s.basin.awake = .awake && 64 ≤ s.basin.idle && s.basin.holds = [] && !s.planActive && !s.basinBusy then
        { s with
          basin := { s.basin with awake := .selfRefresh, idle := 0 }
          dev := { s.dev with plls := s.dev.plls.set 4 .stopped } }
      else s)

/-- BASIN_USABLE (R67). -/
def execBasinUsable (s : State) : Host.Outcome State Fault Refusal :=
  go (if s.basin.awake = .waking && s.stage0Pg && s.dev.plls.get 4 = .locked then s.basinReady else s)

/-- Sizes of a DIMM (R422). -/
def dimmOk (n : Nat) : Bool := [0, 16, 32, 64, 128].any (fun g => n = g * 2 ^ 30)

/-- TIER_USABLE (R423, R425): a tier is initialised, with the Basin's PLL locked, and the Basin is awake. -/
def execTierUsable (tier : Tier) (dimm0 dimm1 : Nat) (s : State) : Host.Outcome State Fault Refusal :=
  go (if !s.stage0Pg then s
      else
        let s' := { s with dev := { s.dev with plls := s.dev.plls.set 4 .locked } }
        match tier with
        | .hbm =>
          if s.basin.hbmUsable then s
          else ({ s' with basin := { s.basin with hbmUsable := true, scrubFrom := s.lt } }).basinReady
        | .dimm =>
          if s.basin.dimmUsable || !(dimmOk dimm0 && dimmOk dimm1) then s
          else
            let t := ({ s' with basin := { s.basin with dimmUsable := true, dimm0 := dimm0, dimm1 := dimm1 } }).basinReady
            if dimm0 ≠ 0 && dimm1 ≠ 0 && dimm0 ≠ dimm1 then t.notice 0x0709 else t)

/-- SCRUB_READ (R433): the next line is read, while the Basin is awake. -/
def execScrubRead (err : List (Nat × Byte)) (s : State) : Host.Outcome State Fault Refusal :=
  go (if !s.stage0Pg || s.basin.awake ≠ .awake then s
      else
        let s := if s.basin.scrubOff < State.hbmTop && !s.basin.hbmUsable && s.basin.dimmUsable then
            { s with basin := { s.basin with scrubOff := State.dimmBase } } else s
        let l := s.basin.scrubOff
        if !(s.placeOf l).served && s.placeOf l ≠ .reserved then s
        else
          let es := err.filterMap (fun e => if h : e.1 < 72 then some ((⟨e.1, h⟩ : Fin 72), e.2) else none)
          let s := ((State.readLine l ([{ line := l, errs := es }], s)).2.2).scrubNext
          if s.scrubDue ≤ s.scrubRead then { s with basin := { s.basin with catchUp := false } } else s)

/-- SCRUB_CATCH_UP (R433). -/
def execScrubCatchUp (s : State) : Host.Outcome State Fault Refusal :=
  go (if s.stage0Pg && s.basin.hbmUsable && s.scrubRead + s.scrubTotal / 24 ≤ s.scrubDue then
        ({ s with basin := { s.basin with catchUp := true } }).startBasin
      else s)

/-- DIGEST_DONE (R441): an engine finishes a layer of the oldest job that waits for it, and U2 takes the digest. -/
def execDigestDone (layer : Nat) (errs : List LineErr) (s : State) : Host.Outcome State Fault Refusal :=
  go (if s.basin.awake ≠ .awake then s
      else match s.basin.jobs.find? (fun j => State.jobWaits j layer) with
        | some j => (s.layerDone j layer errs).endJobs
        | none => s)

/-- PUSH_COMPLETE (R444): the blocks of the oldest accepted push are written and the confirming read returns, or the link is down. -/
def execPushComplete (linkDown : Bool) (errs : List LineErr) (s : State) : Host.Outcome State Fault Refusal :=
  go (if s.basin.awake ≠ .awake || !s.coreRuns 4 then s
      else match s.acceptedOn 0x0607 with
        | [] => s
        | p :: _ =>
          let ps := s.params p
          if linkDown then s.pushCut p 4
          else match s.pushTensor ps with
            | none => s.pushCut p 0
            | some t =>
              let x := State.pushBlocks t (ps.num 8 4) (ps.num 4 4) (ps.num 0x10 8) 0 (errs, s.basinTraffic)
              (x.2.send (.pcieRead (ps.num 0x10 8) 4)).finish p (if x.1.reason = 0 then .ok else .failed)
                (State.pushReply x.1 s.lt))

end Sys2Proof.Machine
end

