-- ==== Sys2Proof/Machine/Lanes.lean ====
section
/-!
DEFINITION. Operations carried on the slot lanes: BARRIER, BROADCAST, REDUCE and VOTE, their refusals and failures (R340 to
R348), and the Basin's part in a vote (R476).
-/

namespace Sys2Proof.Machine

/-- A digest's 256 bits as four words, byte 0 in the top byte of word 0 (R347). -/
def digestWords (d : BitVec 256) : List (BitVec 64) :=
  [d.extractLsb' 192 64, d.extractLsb' 128 64, d.extractLsb' 64 64, d.extractLsb' 0 64]

/-- Bytes of a run of words, the top byte of each first (R347). -/
def wordBytes (ws : List (BitVec 64)) : Bytes :=
  ws.flatMap (fun w => (natLE 8 w.toNat).reverse)

/-- The value REDUCE combines two values to (R346). -/
def reduceWord (fn : Nat) (a b : BitVec 64) : BitVec 64 :=
  match fn with
  | 2 => a &&& b
  | 3 => a ||| b
  | 4 => if a.toNat ≤ b.toNat then a else b
  | 5 => if a.toNat ≤ b.toNat then b else a
  | _ => a + b

namespace State

/-- Replicas that the expected member slots of this node and its Basin have in a group's votes (R336, R347, R475). -/
def ownReplicas (s : State) (g : Nat) : Nat :=
  let slots := maskOf 16 (fun r => (s.members g).any (fun i => s.expected i && s.fld 0x41 i.1 3 = r))
  let basin := if s.fld 0x51 g 1 = 1 && s.fld 0x51 g 2 ≠ 0xFF then 2 ^ (s.fld 0x51 g 2) else 0
  slots ||| basin

/-- The replica mask of a group as this node knows it (R336). -/
def replicaMask (s : State) (g : Nat) : Nat :=
  if s.apexHere g then (s.grp g).kids.foldl (fun m k => m ||| k.2.replicas) (s.ownReplicas g)
  else match (s.grp g).reach with
    | some r => r.2.2.1
    | none => s.ownReplicas g

/-- The authoritative replica, if one is named (R336, R475). -/
def authority (s : State) (g : Nat) : Option Nat :=
  if s.fld 0x51 g 3 ≠ 0xFF then some (s.fld 0x51 g 3)
  else if s.apexHere g then ((s.grp g).kids.filterMap (fun k => k.2.authority)).head?
  else (s.grp g).reach.bind (fun r => r.2.2.2)

/-! ### Cells and words -/

/-- Climbing or descending cells of a lane operation; a vote's climbing cells carry its replica in the upper half of SEQ (R349; DESIGN CHOICE,
log 72). -/
def laneCells (g : Nat) (opId : Byte) (dir replica : Nat) (ws : List (BitVec 64)) : List OpPayload :=
  ws.zipIdx.map (fun (w, k) =>
    { fn := opId.extractLsb' 4 4, dir := BitVec.ofNat 2 dir, group := BitVec.ofNat 8 g
      seq := BitVec.ofNat 8 (16 * replica + opId.toNat % 16), word := BitVec.ofNat 5 k
      flags := if k + 1 = ws.length then 1 else 0, data := w })

/-- OPDATA words down to a slot (R298, R342). -/
def laneWords (i : Fin 8) (opId : Byte) (ws : List (BitVec 64)) (s : State) : State :=
  ws.zipIdx.foldl (fun t (w, k) => t.sendLane i (0x40 + k) (opId ++ w : BitVec 72)) s

/-- The single word of index 31 that is a failure notice (R342). -/
def laneNotice (i : Fin 8) (opId : Byte) (reason : Nat) (s : State) : State :=
  s.sendLane i 0x5F (opId ++ BitVec.ofNat 64 (reason * 2 ^ 56) : BitVec 72)

/-- Refusing a lane operation before it starts: a notice to the sender, counted (R348). -/
def refuseLane (i : Fin 8) (opId : Byte) (reason : Nat) (s : State) : State :=
  (s.laneNotice i opId reason).count (0x0580 + reason)

/-! ### Progress -/

/-- Time now in ns of domain time. -/
def nowNs (s : State) : Nat := s.domFrac * 1000 / 65536

/-- T(G) − 120 ns − (w_up − 1) × 62.5 ns in tenths of a nanosecond, without D(G) (R340). -/
def laneSpan (fn words : Nat) : Int :=
  match fn with
  | 1 => 1250 * (words - 1 : Nat) - 1200 - 625 * (words - 1 : Nat)
  | 7 => 12567 - 1200 - 1875
  | _ => -1200

/-- The deadline of an operation that starts now, in ns (R340). -/
def laneDeadline (s : State) (o : LaneOp) (words : Nat) : Nat :=
  (((10 * s.nowNs + 10 * (s.reduceNs o.group.1).getD 240 : Nat) + laneSpan (opFn o) words) / 10).toNat

/-- Contributions in one replica's name: it dissents from itself when two differ (R347). -/
def replicaWords (o : LaneOp) (r : Nat) : List (List (BitVec 64)) :=
  (o.contribs.filter (fun c => c.2.1 = r)).map (fun c => c.2.2)

/-- The outcome word and prevailing digest of a vote (R347). `waited` tells that the wait of R348 ended first. A replica that holds no prevailing digest
counts as a dissenter, also when none prevails (DEDUCED, log 73). -/
def voteResult (s : State) (o : LaneOp) (waited : Bool) : List (BitVec 64) :=
  let mask := s.replicaMask o.group.1
  let reps := (List.range 16).filter (fun r => o.contribs.any (fun c => c.2.1 = r))
  let one := fun (r : Nat) => match replicaWords o r with
    | d :: l => if l.all (fun e => e = d) then some d else none
    | [] => none
  let votes := fun (d : List (BitVec 64)) => (reps.filter (fun r => one r = some d)).length
  let major := (reps.filterMap one).find? (fun d => reps.length < 2 * votes d)
  let auth := (s.authority o.group.1).bind one
  let win := match major with | some d => some d | none => auth
  let agree := maskOf 16 (fun r => win.isSome && reps.contains r && one r = win)
  let seen := maskOf 16 (fun r => reps.contains r)
  let code := if waited then 4 else match major with
    | some d => if votes d = reps.length then 0 else 1
    | none => if win.isSome then 2 else 3
  BitVec.ofNat 64 (code * 2 ^ 56 + agree * 2 ^ 32 + (seen - agree) * 2 ^ 16 + (mask &&& (0xFFFF ^^^ seen))) ::
    win.getD [0, 0, 0, 0]

/-- Every contribution this node waits for has come: its RUNNING member slots and the children with RUNNING members (R343). -/
def laneComplete (s : State) (o : LaneOp) : Bool :=
  (s.members o.group.1).all (fun i => !s.expected i || o.contribs.any (fun c => c.1 = .slot i)) &&
  (s.grp o.group.1).kids.all (fun k => !k.2.running || o.contribs.any (fun c => c.1 = .child (Fin.ofNat 18 k.1)))

/-- The words that the contributions of a BARRIER or REDUCE combine to (R344, R346). -/
def laneCombined (o : LaneOp) : BitVec 64 :=
  match o.contribs.filterMap (fun c => c.2.2.head?) with
  | [] => 0
  | w :: l => if opFn o = 0 then 0 else l.foldl (reduceWord (opFn o)) w

/-- The result at the apex: it starts down at once (R343). -/
def laneDone (o : LaneOp) (ws : List (BitVec 64)) (words : Nat) (s : State) : State :=
  let d := s.laneDeadline o words
  let ws := if opFn o = 0 then [BitVec.ofNat 64 (ceilDiv d 1000)] else ws
  let s := s.updLane o (fun x => { x with result := some (.inl ws), deadline := some d })
  (s.kidPorts o.group.1).foldl (fun t p => t.sendOps p (laneCells o.group.1 o.opId 1 0 ws)) s

/-- What a new contribution leads to (R343 to R347). -/
def laneProgress (o : LaneOp) (s : State) : State :=
  let g := o.group.1
  match opFn o with
  | 1 => match o.contribs.getLast? with
    | some c => if s.apexHere g then s.laneDone o c.2.2 c.2.2.length else s.sendOps s.upPort (laneCells g o.opId 0 0 c.2.2)
    | none => s
  | 7 =>
    if s.apexHere g then
      if (List.range 16).all (fun r => !(s.replicaMask g).testBit r || o.contribs.any (fun c => c.2.1 = r)) then
        s.laneDone o (s.voteResult o false) 4
      else s
    else match o.contribs.getLast? with
      | some c => s.sendOps s.upPort (laneCells g o.opId 0 c.2.1 c.2.2)
      | none => s
  | _ =>
    if s.laneComplete o then
      if s.apexHere g then s.laneDone o [laneCombined o] 1
      else (s.updLane o (fun x => { x with deadline := some (s.laneDeadline o 1) })).sendOps s.upPort
        (laneCells g o.opId 0 0 [laneCombined o])
    else s

/-- The operation of a group that uses a number and whose result has not gone out. -/
def laneUsing (s : State) (g : Nat) (opId : Byte) : Option LaneOp :=
  s.gop.lanes.find? (fun o => o.group.1 = g && o.opId.toNat % 16 = opId.toNat % 16 && !o.delivered)

/-- A contribution joins its operation or starts it; one that names a number in another function's use ends that operation, and so do
two senders of a broadcast (R345, R346, R348). -/
def contribute (g : Nat) (opId : Byte) (src : Source) (replica : Nat) (ws : List (BitVec 64)) (layer : Option Nat) (s : State) : State :=
  match s.laneUsing g opId with
  | none =>
    let o : LaneOp :=
      { group := Fin.ofNat 256 g, opId, contribs := [(src, replica, ws)], first := s.lt, deadline := none, result := none, layer
        delivered := false, acted := false }
    let keep := s.gop.lanes.filter (fun x => !(x.group.1 = g && x.opId.toNat % 16 = opId.toNat % 16))
    ({ s with gop := { s.gop with lanes := keep ++ [o] } }).laneProgress o
  | some o =>
    if o.opId ≠ opId then
      let s := if o.result.isNone then s.failLane o 4 else s
      match src with
      | .slot i => s.refuseLane i opId 4
      | _ => s.count 0x0584
    else if o.result.isSome then s
    else if opFn o = 1 then (if o.contribs.any (fun c => c.1 = src) then s else s.failLane o 4)
    else if opFn o ≠ 7 && o.contribs.any (fun c => c.1 = src) then s
    else
      let o' := { o with contribs := o.contribs ++ [(src, replica, ws)], layer := match o.layer with | some l => some l | none => layer }
      (s.updLane o (fun _ => o')).laneProgress o'

/-- Why a slot's contribution is refused (R337, R347, R348): a slot that is not RUNNING counts as HELD, and so does an expelled one. -/
def laneRefusal (s : State) (i : Fin 8) (fn : Nat) : Option Nat :=
  if !s.expected i then some 7
  else if (s.reduceNs (s.groupOf i)).isNone then some 3
  else if 8 ≤ fn || (fn = 7 && s.fld 0x41 i.1 3 = 0xFF) then some 4
  else none

/-- The lanes of a slot carry words: they are driven, and no time step silences them (R294, R324). -/
def laneLive (s : State) (i : Fin 8) : Bool := s.laneDriven i && s.cad.silentUntil.isNone

/-- A slot's message of OPDATA words has arrived whole. -/
def laneMessage (i : Fin 8) (fn : Nat) (seq : BitVec 4) (replica : Nat) (ws : List (BitVec 64)) (layer : Option Nat) (s : State) : State :=
  let opId : Byte := BitVec.ofNat 4 fn ++ seq
  if !s.laneLive i then s
  else match s.laneRefusal i fn with
    | some r => s.refuseLane i opId r
    | none => s.contribute (s.groupOf i) opId (.slot i) replica ws layer

/-- The announcement that a slot made for a vote's number (R476, R510). -/
def announcedLayer (s : State) (i : Fin 8) (seq : BitVec 4) : Option Nat :=
  ((s.slot i).announced.find? (fun a => a.1 = seq.toNat)).map (fun a => a.2.1)

/-- The Basin's digest of an announced layer enters the vote as replica BASIN_REPLICA while the layer is sealed (R476). -/
def basinVotes (g : Nat) (opId : Byte) (layer : Option Nat) (s : State) : State :=
  match layer with
  | none => s
  | some l =>
    let entered := match s.laneUsing g opId with
      | some o => o.contribs.any (fun c => c.1 = .basin) || o.opId ≠ opId
      | none => true
    if entered || s.fld 0x51 g 1 ≠ 1 || s.fld 0x51 g 2 = 0xFF then s
    else match Assoc.get (SealSt.sealing false) s.basin.seals l with
      | .sealed d => s.contribute g opId .basin (s.fld 0x51 g 2) (digestWords (BitVec.ofNat 256 (beNat d))) (some l)
      | .sealing _ => s

/-- A digest for a vote from a slot, and the Basin's entry with it (R347, R476). -/
def voteMessage (i : Fin 8) (seq : BitVec 4) (digest : BitVec 256) (s : State) : State :=
  let layer := s.announcedLayer i seq
  let ok := s.laneLive i && (s.laneRefusal i 7).isNone
  let s := s.laneMessage i 7 seq (s.fld 0x41 i.1 3) (digestWords digest) layer
  if ok then
    (s.basinVotes (s.groupOf i) (7#4 ++ seq) layer).updSlot i
      (fun x => { x with announced := x.announced.filter (fun a => a.1 ≠ seq.toNat) })
  else s

/-- The end of the wait of R348: a vote is decided over the replicas that contributed, anything else ends with TIMEOUT. -/
def laneTimeout (o : LaneOp) (s : State) : State :=
  if opFn o = 7 then s.laneDone o (s.voteResult o true) 4 else s.failLane o 1

/-- Slots that a result or notice goes to: of a vote the contributors, else every RUNNING member (R343, R347). -/
def laneTargets (s : State) (o : LaneOp) : List (Fin 8) :=
  if opFn o = 7 then (List.finRange 8).filter (fun i => o.contribs.any (fun c => c.1 = .slot i))
  else (s.members o.group.1).filter s.running

/-- A result or a notice reaches the lanes; U2 still acts on the result of a vote (R340, R347). -/
def laneDeliver (o : LaneOp) (s : State) : State :=
  match o.result with
  | none => s
  | some r =>
    let s := (s.laneTargets o).foldl (fun t i => if !t.laneLive i then t else match r with
      | .inl ws => t.laneWords i o.opId ws
      | .inr c => t.laneNotice i o.opId c) s
    let s := s.updLane o (fun x => { x with delivered := true })
    { s with gop := { s.gop with lanes := s.gop.lanes.filter (fun (x : LaneOp) =>
      !(x.group = o.group && x.opId = o.opId && (opFn o ≠ 7 || x.acted || (match r with | .inl _ => false | .inr _ => true)))) } }

def laneFind (s : State) (g : Fin 256) (opId : Byte) : Option LaneOp :=
  s.gop.lanes.find? (fun o => o.group = g && o.opId = opId)

/-- The path to the apex of every group whose apex lies above has failed or changed: its operations end with ROUTE (R320, R348,
R361). -/
def routeLost (s : State) : State :=
  (s.gop.lanes.filter (fun o => o.result.isNone && !s.apexHere o.group.1)).foldl (fun t o =>
    (t.updLane o (fun x => { x with result := some (.inr 5) })).count 0x0585) s

/-! ### Lane operations on the links (R343, R349) -/

/-- A climbing contribution of a child: at the root of a domain, one for a group whose apex lies elsewhere is discarded and counted, and ends with
ROUTE (R333, R348). -/
def laneClimb (p : Fin 18) (c : OpPayload) (ws : List (BitVec 64)) (s : State) : State :=
  let g := c.group.toNat
  let opId : Byte := c.fn ++ c.seq.extractLsb' 0 4
  if c.flags.getLsbD 1 then
    match s.laneFind c.group.toFin opId with
    | some o => if o.result.isNone then
        let s := s.updLane o (fun x => { x with result := some (.inr (c.data.extractLsb' 56 8).toNat) })
        if s.apexHere g then (s.kidPorts g).foldl (fun t q => t.sendOp q { c with dir := 1 }) s else s.sendOp s.upPort c
      else s
    | none => if s.apexHere g then (s.kidPorts g).foldl (fun t q => t.sendOp q { c with dir := 1 }) s else s.sendOp s.upPort c
  else if s.isRoot && !s.apexHere g then
    (s.count 0x0578).count 0x0585 |>.sendOp p
      { c with dir := 1, word := 0, flags := 3, data := BitVec.ofNat 64 (5 * 2 ^ 56) }
  else s.contribute g opId (.child p) (c.seq.toNat / 16) ws none

/-- A descending result or notice: kept for the lanes and passed to the children with members (R343). -/
def laneDescend (c : OpPayload) (ws : List (BitVec 64)) (s : State) : State :=
  let opId : Byte := c.fn ++ c.seq.extractLsb' 0 4
  let r : List (BitVec 64) ⊕ Nat := if c.flags.getLsbD 1 then .inr (c.data.extractLsb' 56 8).toNat else .inl ws
  let s := match s.laneFind c.group.toFin opId with
    | some o => s.updLane o (fun x => { x with result := match x.result with | some y => some y | none => some r })
    | none =>
      let o : LaneOp :=
        { group := c.group.toFin, opId, contribs := [], first := s.lt, deadline := none, result := some r, layer := none
          delivered := false, acted := false }
      { s with gop := { s.gop with lanes := s.gop.lanes ++ [o] } }
  let cells := match r with
    | .inl ws => laneCells c.group.toNat opId 1 0 ws
    | .inr _ => [c]
  (s.kidPorts c.group.toNat).foldl (fun t q => t.sendOps q cells) s

end State

/-! ### The rows -/

def execBarrier (slot : Fin 8) (seq : BitVec 4) (s : State) : Host.Outcome State Fault Refusal :=
  go (s.laneMessage slot 0 seq 0xFF [0] none)

/-- A message is of 1 to 32 words (R342, R345). -/
def execBroadcast (slot : Fin 8) (seq : BitVec 4) (words : List (BitVec 64)) (s : State) : Host.Outcome State Fault Refusal :=
  go (if words = [] then s else s.laneMessage slot 1 seq 0xFF (words.take 32) none)

def execReduce (slot : Fin 8) (fn seq : BitVec 4) (value : BitVec 64) (s : State) : Host.Outcome State Fault Refusal :=
  go (if fn.toNat < 2 || fn = 7 then s else s.laneMessage slot fn.toNat seq 0xFF [value] none)

def execVote (slot : Fin 8) (seq : BitVec 4) (digest : BitVec 256) (s : State) : Host.Outcome State Fault Refusal :=
  go (s.voteMessage slot seq digest)

/-- 1,024 ticks after the first contribution reached the apex (R348). -/
def execLaneOpTimeout (group : Fin 256) (opId : Byte) (s : State) : Host.Outcome State Fault Refusal :=
  go (match s.laneFind group opId with
    | some o =>
      if s.apexHere group.1 && o.result.isNone && o.first + 1024 ≤ s.lt then s.laneTimeout o else s
    | none => s)

def execLaneOpResult (group : Fin 256) (opId : Byte) (s : State) : Host.Outcome State Fault Refusal :=
  go (match s.laneFind group opId with
    | some o => if s.isFull && !o.delivered then s.laneDeliver o else s
    | none => s)

end Sys2Proof.Machine
end

