-- ==== Sys2Proof/Machine/Epochs.lean ====
section
/-!
DEFINITION. Reach, epoch-scheduled operations up to their decision, EXPEL, and the commands of global operations (R333 to R339, R349
to R353, R356 to R363).
-/

namespace Sys2Proof.Machine

namespace State

/-! ### Reach (R335 to R338) -/

/-- The hop cost of a link in ns (R335): its delay plus 73.36 ns, rounded up. -/
def hopNs (delay : Nat) : Nat := ceilDiv (delay * 100000 + 7336 * 65536) 6553600

/-- What the larger delay of a node with two uplinks adds to the cost of the active one (R319, R335). -/
def standbyCost (s : State) : Nat :=
  if s.fld 0x40 0 4 ≠ 2 then 0
  else match (s.port 16).upDelay, (s.port 17).upDelay with
    | some a, some b => hopNs (max a b) - hopNs (if s.cad.active = 0 then a else b)
    | _, _ => 0

/-- Groups with a member in this node's subtree (R336). -/
def groupsBelow (s : State) : List Nat :=
  (List.range 256).filter (fun g => s.members g ≠ [] || (s.grp g).kids ≠ [])

def maxOf (l : List Nat) : Nat := l.foldl max 0

/-- The REACH record of a group from this node (R336). -/
def ownReach (s : State) (g : Nat) : Reach :=
  let kids := (s.grp g).kids.map (fun k => k.2)
  { cost := maxOf (kids.map (fun k => k.cost)) + s.standbyCost
    levels := maxOf (kids.map (fun k => k.levels))
    running := (s.members g).any s.expected || kids.any (fun k => k.running)
    replicas := kids.foldl (fun m k => m ||| k.replicas) (s.ownReplicas g)
    authority := if s.fld 0x51 g 3 ≠ 0xFF then some (s.fld 0x51 g 3) else (kids.filterMap (fun k => k.authority)).head? }

/-- The record of the domain scope (R338). -/
def domainReach (s : State) : Reach :=
  { cost := maxOf (s.gop.domainKids.map (fun k => k.2.cost)) + s.standbyCost
    levels := maxOf (s.gop.domainKids.map (fun k => k.2.levels)), running := false, replicas := 0, authority := none }

/-- DATA of a REACH cell (R349). -/
def reachData (r : Reach) (d : Option Nat) : BitVec 64 :=
  let auth : Nat := match r.authority with | some a => 16 + a % 16 | none => 0
  let top := match d with | some n => n / 2 ^ 15 | none => r.cost
  let low := match d with | some n => n % 2 ^ 15 | none => 0
  (BitVec.ofNat 24 top ++ BitVec.ofNat 3 r.levels ++ BitVec.ofBool r.running ++ BitVec.ofNat 16 r.replicas ++ BitVec.ofNat 5 auth
    ++ BitVec.ofNat 15 low : BitVec 64)

def reachCell (g dir : Nat) (domain : Bool) (data : BitVec 64) : OpPayload :=
  { fn := 0xD, dir := BitVec.ofNat 2 dir, group := BitVec.ofNat 8 g, seq := 0, word := 0, flags := if domain then 5 else 1, data }

/-- The record that a REACH cell carries (R349). -/
def reachOf (b : BitVec 64) : Reach :=
  { cost := (b.extractLsb' 40 24).toNat, levels := (b.extractLsb' 37 3).toNat, running := b.getLsbD 36
    replicas := (b.extractLsb' 20 16).toNat
    authority := if b.getLsbD 19 then some (b.extractLsb' 15 4).toNat else none }
/-- D of a descending record (R349). -/
def reachD (b : BitVec 64) : Nat := (b.extractLsb' 40 24).toNat * 2 ^ 15 + (b.extractLsb' 0 15).toNat

/-- N(G): levels on the longest path (R336). -/
def levelsOf (s : State) (g : Nat) : Nat :=
  if s.apexHere g then maxOf ((s.grp g).kids.map (fun k => k.2.levels))
  else match (s.grp g).reach with | some r => r.2.1 | none => 0

/-- D(G) or D(domain) goes down to the children with members (R336, R338). -/
def sendDown (s : State) (g : Nat) : State :=
  match s.reduceNs g with
  | none => s
  | some d =>
    let r : Reach := { cost := 0, levels := s.levelsOf g, running := (s.ownReach g).running, replicas := s.replicaMask g, authority := s.authority g }
    (s.kidPorts g).foldl (fun t p => t.sendOp p (reachCell g 1 false (reachData r (some d)))) s
def sendDomainDown (s : State) : State :=
  match s.domainNs with
  | none => s
  | some d => s.childPorts.foldl (fun t p => t.sendOp p (reachCell 0 1 true (reachData s.domainReach (some d)))) s

/-- All reports of a node: records up for groups whose apex lies above, D down where it is the apex (R336, R338). -/
def reachReport (s : State) : State :=
  if !s.isFull then s
  else
    let s := s.groupsBelow.foldl (fun t g =>
      if t.apexHere g then t.sendDown g else t.sendOp t.upPort (reachCell g 0 false (reachData (t.ownReach g) none))) s
    if s.isRoot then s.sendDomainDown else s.sendOp s.upPort (reachCell 0 0 true (reachData s.domainReach none))

/-- A REACH record arrives: from a child it is combined, at the apex into a new D(G); from the parent it is this node's reach and goes
on (R336 to R338). -/
def reachRecord (p : Fin 18) (c : OpPayload) (s : State) : State :=
  let g := c.group.toNat
  let r := reachOf c.data
  if p.1 < 16 then
    if !s.childPorts.contains p then s
    else
      let r := { r with cost := r.cost + hopNs (s.port p).delay.toNat, levels := r.levels + 1 }
      if c.flags.getLsbD 2 then
        let s := { s with gop := { s.gop with domainKids := Assoc.set s.gop.domainKids p.1 r } }
        if s.isRoot then s.sendDomainDown else s
      else
        let s := s.updGrp g (fun x => { x with kids := Assoc.set x.kids p.1 r })
        if s.apexHere g then s.sendDown g else s
  else if p ≠ s.upPort then s
  else if c.flags.getLsbD 2 then
    { s with gop := { s.gop with domain := some (reachD c.data) } }.sendDomainDown
  else
    let s := s.updGrp g (fun x => { x with reach := some (reachD c.data, r.levels, r.replicas, r.authority) })
    let s := s.sendDown g
    if s.members g ≠ [] && s.request g ≠ (s.grp g).step then s.issueCadence g false else s

/-! ### Arming and deciding (R350 to R353) -/

/-- Error estimate in HOLDOVER, in ps (R323). -/
def holdoverPs (s : State) : Nat := s.cad.e0 * 1000 + (s.lt - s.cad.holdStart) / 2

def opScope (o : EpochOp) : Nat := if o.domain then 0xFFFF else o.group.1

/-- This node's Draft commit for a COMMIT_AT (R351 condition 4). -/
def commitFor (s : State) (o : EpochOp) : Option Commit :=
  s.cfg.commit.filter (fun m => m.mode = 2 && m.scope = opScope o && m.instant = o.epoch && m.commitId = o.commitId.toNat)

/-- A member arms (R351). -/
def canArm (s : State) (o : EpochOp) : Bool :=
  (s.cad.st = .locked || (o.fn = .cadence && s.cad.st = .holdover && s.holdoverPs ≤ 100000)) &&
  s.cad.adopt = .idle && (s.scopeNs (opScope o)).isSome && !o.refused &&
  match o.fn with
  | .commit => (s.commitFor o).isSome &&
      s.gop.epochs.all (fun x => !(x.fn = .commit && opScope x = opScope o && x.epoch = o.epoch) || x.commitId = o.commitId)
  | .cadence => true
  | _ => (s.opSlots o).all (fun i => o.armed.testBit i.1)

/-- The command that each function answers (R161, R362). -/
def opReply (o : EpochOp) (reason step : Nat) : Bytes :=
  match o.fn with
  | .cadence => natLE 8 o.epoch ++ [byte step, byte reason] ++ zeros 6
  | .commit => commitReply o.epoch reason
  | _ => byte reason :: zeros 7

/-- The commands of an epoch operation, other than DRAFT_COMMIT, end (R350 step 8). -/
def endOp (o : EpochOp) (c : Code) (reason : Nat) (s : State) : State :=
  let step := (s.grp o.group.1).step
  if o.fn = .commit then s
  else o.ports.foldl (fun t p => if (t.win p).state = .accepted then t.finish p c (opReply o reason step) else t) s

/-- Holding a group's slots of this node (R352, R356, R359). -/
def holdGroup (g : Nat) (s : State) : State :=
  ((s.members g).foldl (fun t i => t.holdSlot i) s).updGrp g (fun x => { x with held := true })

/-- A CADENCE_AT of an emergency throttle that ends without effect is issued again, and counted (R359). -/
def cadenceRetry (o : EpochOp) (s : State) : State :=
  if o.throttle then (s.notice 0x0575).issueCadence o.group.1 true else s

/-- The arm report of a node: STATUS, its request, and 48 bits of the epoch's frame (R349; DESIGN CHOICE, log 74). -/
def armCell (o : EpochOp) (ok : Bool) (req : Nat) : OpPayload :=
  epochCell o.fn 2 o.group.1 0 (opFlags o true)
    (BitVec.ofNat 48 (o.epoch / 1024) ++ BitVec.ofNat 8 req ++ BitVec.ofNat 8 (b2n (!ok)) : BitVec 64)

/-- The cells of a decision; the two low bits of word 0 tell the function it decides (R349; DESIGN CHOICE, log 75). -/
def decideCells (o : EpochOp) (go : Bool) (step : Nat) : List OpPayload :=
  let w0 := epochWord o.epoch (b2n go) ||| BitVec.ofNat 64 (epochFnCode o.fn - 8)
  let cell := fun (w : Nat) (last : Bool) (d : BitVec 64) =>
    ({ fn := 0xE, dir := 1, group := BitVec.ofNat 8 o.group.1, seq := 0, word := BitVec.ofNat 5 w
       flags := BitVec.ofNat 4 (opFlags o last), data := d } : OpPayload)
  if o.fn = .cadence then [cell 0 false w0, cell 1 true (BitVec.ofNat 64 step)] else [cell 0 true w0]

/-- A decision reaches this member: it goes on to the children; go stands until the epoch; cancel puts CANCEL words on the lanes and ends the
commands, and a throttle's operation holds the group at the epoch (R350 step 5, R359). -/
def decideHere (o : EpochOp) (ok : Bool) (step : Nat) (s : State) : State :=
  let s := (s.scopePorts o).foldl (fun t p => t.sendOps p (decideCells o ok step)) s
  if ok then s.updOp o (fun x => { x with decided := some (true, step) })
  else
    let s := (s.opSlots o).foldl (fun t i => t.sendLane i 0x03 (epochPayload o)) s
    let s := if o.throttle then s.updOp o (fun x => { x with decided := some (false, 0) }) else s.dropOp o
    let s := if o.fn = .commit && (s.commitFor o).isSome then s.failCommit .failed 1 else s
    (s.endOp o .failed 1).cadenceRetry o

/-- The arm reduce at this node, once it has started: when every child has reported, it decides or reports upward (R350 steps 4
and 5, R353). -/
def armAdvance (o : EpochOp) (s : State) : State :=
  if !o.reduceStarted || o.decided.isSome then s
  else if !(s.scopePorts o).all (fun p => o.kids.any (fun k => k.1 = p.1)) then s
  else
    let ok := o.selfArmed && o.kids.all (fun k => k.2.1)
    let own := if o.domain then 0 else s.request o.group.1
    let req := o.kids.foldl (fun m k => max m k.2.2) own
    if s.decidesHere o then s.decideHere o ok req else s.sendOp s.upPort (armCell o ok req)

/-- The first tick of the arm reduce: E − 32 ticks − D, rounded down (R350 step 4). -/
def reduceTick (s : State) (o : EpochOp) : Nat := (1000 * (o.epoch - 32) - (s.scopeNs (opScope o)).getD 0) / 1000

/-- The member arms; with a COMMIT_AT it sends the new plans (R350 step 3, R455). -/
def armReduce (o : EpochOp) (s : State) : State :=
  let o' := { o with reduceStarted := true, selfArmed := s.canArm o }
  let s := if o'.selfArmed && o.fn = .commit then s.planDue o.epoch else s
  (s.updOp o (fun _ => o')).armAdvance o'

/-- An arm report from a child (R349, R353). -/
def armReport (p : Fin 18) (c : OpPayload) (s : State) : State :=
  let domain := c.flags.getLsbD 2
  match s.gop.epochs.find? (fun o => o.domain = domain && (domain || o.group.1 = c.group.toNat) && epochFnCode o.fn = c.fn.toNat &&
      o.epoch / 1024 % 2 ^ 48 = (c.data.extractLsb' 16 48).toNat) with
  | none => s
  | some o =>
    let o' := { o with kids := o.kids ++ [(p.1, decide (c.data.extractLsb' 0 8 = 0), (c.data.extractLsb' 8 8).toNat)] }
    (s.updOp o (fun _ => o')).armAdvance o'

/-- The operation of a group, function and epoch that still waits for its decision. -/
def undecided (s : State) (g : Fin 256) (fn : EpochFn) (epoch : Nat) : Option EpochOp :=
  s.gop.epochs.find? (fun o => (o.domain || o.group = g) && o.fn = fn && o.epoch = epoch && o.decided.isNone)

/-- No decision came (R352, R359): a commit ends under R153 step 5, the other operations also hold the group's slots, and the throttle that waited for the epoch may
end. `now` tells that the epoch is reached; else the hold waits for it. -/
def noDecision (now : Bool) (o : EpochOp) (s : State) : State :=
  let s := s.notice 0x0574
  let s := if o.fn = .commit && (s.commitFor o).isSome then (s.failCommit .failed 2).notice 0x0013 else s
  let s := s.endOp o .failed 2
  let s := if o.fn = .commit then s.dropOp o
    else if now then (s.dropOp o).holdGroup o.group.1
    else s.updOp o (fun x => { x with decided := some (false, 0), ports := [] })
  let s := if now && o.throttle then
      let aw := s.gop.throt.awaits.filter (fun a => a ≠ (o.group.1, some o.epoch))
      let s := { s with gop := { s.gop with throt := { s.gop.throt with awaits := aw } } }
      if aw = [] then s.releaseThrottle else s
    else s
  s.cadenceRetry o

/-- Pending operations end because domain time steps, or, those that another node decides, because the active uplink changes (R352). -/
def opsLost (all : Bool) (s : State) : State :=
  (s.gop.epochs.filter (fun o => (all || !s.decidesHere o) && (match o.decided with | some (false, _) => false | _ => true))).foldl
    (fun t o => t.noDecision false o) s

/-! ### EXPEL (R356) -/

/-- The cells of an EXPEL: word 0 the epoch with SLOTS in ARG, word 1 the node address; FLAGS bit 1 tells that it failed (R349; DESIGN CHOICE,
log 76). -/
def expelCells (g : Nat) (dir : Nat) (failed : Bool) (epoch : Nat) (slots : BitVec 8) (node : BitVec 32) : List OpPayload :=
  let cell := fun (w : Nat) (last : Bool) (d : BitVec 64) =>
    ({ fn := 0xC, dir := BitVec.ofNat 2 dir, group := BitVec.ofNat 8 g, seq := 0, word := BitVec.ofNat 5 w
       flags := BitVec.ofNat 4 (b2n last + 2 * b2n failed), data := d } : OpPayload)
  [cell 0 false (epochWord epoch slots.toNat), cell 1 true (node.setWidth 64)]

/-- The accepted EXPEL commands of this node for a request (R362). -/
def expelPorts (s : State) (g : Nat) (slots : BitVec 8) (node : BitVec 32) : List Port :=
  (s.acceptedOn 0x0415).filter (fun p =>
    let ps := s.params p
    ps.num 0 1 = g && ps.num 1 1 = slots.toNat && ps.num 4 4 = node.toNat)

/-- The node named is in the group, as the apex knows it: itself, or below a child that reports members (R356). -/
def expelKnown (s : State) (g : Nat) (slots : BitVec 8) (node : BitVec 32) : Bool :=
  if node.toNat = s.nodeAddr then
    slots ≠ 0 && (List.finRange 8).all (fun i => !slots.getLsbD i.1 || s.groupOf i = g)
  else
    let path := node.toNat % 65536
    let sh := 2 ^ (16 - 4 * s.depth)
    let digit := path / 2 ^ (12 - 4 * s.depth) % 16
    node.toNat / 2 ^ 24 = s.fld 0x40 0 1 && s.depth < node.toNat / 65536 % 8 && path / sh = s.fld 0x40 0 3 / sh &&
      (s.grp g).kids.any (fun k => k.1 = digit)

/-- The apex decides (R356 step 2), or finds the node not in the group (R362). -/
def expelDecide (g : Nat) (slots : BitVec 8) (node : BitVec 32) (s : State) : State :=
  if s.expelKnown g slots node then
    let e := ceilDiv (1000 * s.ct + (s.reduceNs g).getD 240 + 64000) 1024000 * 1024
    let s := { s with gop := { s.gop with expels := s.gop.expels ++ [({ group := Fin.ofNat 256 g, node, slots, epoch := e } : ExpelDue)] } }
    (s.kidPorts g).foldl (fun t p => t.sendOps p (expelCells g 1 false e slots node)) s
  else
    let s := (s.expelPorts g slots node).foldl (fun t p => t.finish p .failed []) s
    (s.kidPorts g).foldl (fun t p => t.sendOps p (expelCells g 1 true 0 slots node)) s

/-- A decision from the apex reaches this node; one whose epoch is past is counted and acts at the next boundary (R356). -/
def expelArrives (g : Nat) (failed : Bool) (epoch : Nat) (slots : BitVec 8) (node : BitVec 32) (s : State) : State :=
  let s := (s.kidPorts g).foldl (fun t p => t.sendOps p (expelCells g 1 failed epoch slots node)) s
  if failed then (s.expelPorts g slots node).foldl (fun t p => t.finish p .failed []) s
  else
    let s := if epoch ≤ s.ct then s.notice 0x0577 else s
    { s with gop := { s.gop with expels := s.gop.expels ++ [({ group := Fin.ofNat 256 g, node, slots, epoch } : ExpelDue)] } }

/-- The named slots leave the group's expected contributors and move to HELD; the command completes (R356 step 3, R362). -/
def expelNow (d : ExpelDue) (s : State) : State :=
  let here := d.node.toNat = s.nodeAddr
  let gone := (List.finRange 8).filter (fun i => here && d.slots.getLsbD i.1 && s.groupOf i = d.group.1)
  let s := gone.foldl (fun t i =>
    let t := (t.updSlot i (fun x => { x with expelled := true })).updGrp d.group.1 (fun x => { x with expelled := x.expelled ||| 2 ^ i.1 })
    if t.running i then t.holdSlot i else t) s
  let s := { s with gop := { s.gop with expels := s.gop.expels.filter (fun x => x ≠ d) } }
  (s.expelPorts d.group.1 d.slots d.node).foldl (fun t p => t.finish p .ok (natLE 8 d.epoch)) s

/-! ### OP cells (R305, R349) -/

/-- A whole message of OP cells has come on a port. -/
def opMessage (p : Fin 18) (cs : List OpPayload) (s : State) : State :=
  match cs with
  | [] => s
  | c :: rest =>
    let g := c.group.toNat
    let fn := c.fn.toNat
    let second : BitVec 64 := match rest with | d :: _ => d.data | [] => 0
    let domain := c.flags.getLsbD 2
    let climb := c.dir = 0
    let op := fun (f : EpochFn) =>
      { pendingOp with group := c.group.toFin, fn := f, domain, epoch := epochOf c.data,
                       arg := if f = .snapshot then second.toNat % 65536 else argOf c.data, commitId := second.setWidth 32 }
    let epochFn : Option EpochFn :=
      match fn with | 8 => some .commit | 9 => some .reset | 0xA => some .snapshot | 0xB => some .cadence | _ => none
    if fn < 8 then
      if climb then s.laneClimb p c (cs.map (fun x => x.data)) else s.laneDescend c (cs.map (fun x => x.data))
    else if fn = 0xC then
      let slots := BitVec.ofNat 8 (argOf c.data)
      let node : BitVec 32 := second.setWidth 32
      if climb then (if s.apexHere g then s.expelDecide g slots node else s.sendOps s.upPort cs)
      else s.expelArrives g (c.flags.getLsbD 1) (epochOf c.data) slots node
    else if fn = 0xD then s.reachRecord p c
    else if fn = 0xE then
      match s.gop.epochs.find? (fun o => o.domain = domain && (domain || o.group.1 = g) && o.epoch = epochOf c.data &&
          epochFnCode o.fn - 8 = (c.data.extractLsb' 0 2).toNat && o.decided.isNone) with
      | some o => s.decideHere o (argOf c.data = 1) (second.toNat % 256)
      | none => s
    else match epochFn with
      | none => s
      | some f =>
        if c.dir = 2 then s.armReport p c
        else if climb && !s.decidesHere (op f) then s.sendOps s.upPort cs
        else s.proposalArrives (op f)

/-- Words of a message half received on a port (R349). -/
def rxOf (s : State) (p : Fin 18) : List OpPayload := Assoc.get [] s.gop.rx p
def setRx (p : Fin 18) (l : List OpPayload) (s : State) : State :=
  { s with gop := { s.gop with rx := if l = [] then s.gop.rx.filter (fun c => c.1 ≠ p) else Assoc.set s.gop.rx p l } }

/-- One OP cell: a message is kept until its last word; a word out of its place drops what came before (R349). -/
def opCell (p : Fin 18) (c : OpPayload) (s : State) : State :=
  let l := s.rxOf p
  let fits := match l with
    | [] => decide (c.word = 0)
    | d :: _ => c.word.toNat = l.length && c.fn = d.fn && c.group = d.group && c.dir = d.dir && c.seq = d.seq
  let l := if fits then l ++ [c] else if c.word = 0 then [c] else []
  if l = [] then s.setRx p []
  else if c.flags.getLsbD 0 then (s.setRx p []).opMessage p l
  else s.setRx p l

/-- Both copies of an OP cell failed: counted; a lane operation whose message it broke ends with LOST (R305, R348). -/
def opCellLost (p : Fin 18) (s : State) : State :=
  let s := s.notice (0x0550 + p.1)
  let l := s.rxOf p
  let s := s.setRx p []
  match l with
  | c :: _ =>
    if c.fn.toNat < 8 then
      match s.laneFind c.group.toFin (c.fn ++ c.seq.extractLsb' 0 4) with
      | some o => if o.result.isNone then s.failLane o 2 else s
      | none => s
    else s
  | [] => s

/-! ### Commands (R362, R363) -/

/-- The node may serve an operation of the group (R362). -/
def groupBad (s : State) (g : Nat) : Bool := s.members g = [] || (s.reduceNs g).isNone || s.cad.st ≠ .locked

/-- The group is known here: it has reach (R337). -/
def reachHere (s : State) (g : Nat) : Option Nat := if s.groupsBelow.contains g || !s.apexHere g then s.reduceNs g else none

/-- A GROUP_STATUS record (R363). -/
def groupRecord (s : State) (g : Nat) : Bytes :=
  let here := s.members g ≠ []
  let apex := s.groupsBelow.contains g && s.apexHere g
  let d := s.reachHere g
  let thr := (s.members g).any (fun i => s.gop.throt.mask.getLsbD i.1)
  [byte g,
   byte (b2n here + 2 * b2n apex + 4 * b2n d.isSome + 8 * b2n (s.grp g).held + 16 * b2n thr + 32 * b2n (here && s.gop.throt.back)),
   byte (s.grp g).step, byte (s.request g), byte (if here then s.apexDepth g else 0xFF), byte (s.levelsOf g)]
    ++ natLE 2 (s.replicaMask g)
    ++ natLE 4 (match d with | some n => n | none => 0xFFFFFFFF)
    ++ natLE 4 (match d with | some n => ceilDiv (leadNs n) 1000 | none => 0)

def groupStatusReply (ps : Bytes) (s : State) : Bytes :=
  let first := ps.num 0 1
  let count := ps.num 1 1
  [byte first, byte count, 0, 0, 0, 0, 0, 0] ++ (List.range count).flatMap (fun k => s.groupRecord (first + k))

/-- The boundary at which CAD_REQUEST takes effect (R362). -/
def requestEpoch (s : State) (g : Nat) : Nat :=
  if s.localGroup g then s.boundaryAfter 64
  else match s.reduceNs g with | some d => s.legalEpoch d | none => s.boundaryAfter 64

/-- CAD_REQUEST from acceptance: of a tray-local group the request changes at its boundary, of another now, with a CADENCE_AT (R357). -/
def cadRequestRun (p : Port) (ps : Bytes) (b : Nat) (s : State) : State :=
  let g := ps.num 0 1
  let v := ps.num 1 1
  let o := { pendingOp with group := Fin.ofNat 256 g, fn := .cadence, epoch := s.requestEpoch g, arg := v, ports := [p] }
  let s := s.accept p b
  if s.localGroup g then s.recordOp { o with decided := some (true, 0) }
  else (s.updGrp g (fun x => { x with host := if v = 0xFF then none else some v })).propose o

/-- The checks of an INSTANT that names an epoch (R362). -/
def epochCheck (s : State) (g t : Nat) : List (Code × Bool) :=
  [(.badParam, t % 1024 ≠ 0 || s.ct + 2 ^ 26 < t), (.refusedState, s.groupBad g),
   (.refusedBound, match s.reduceNs g with | some d => decide (1000 * t < 1000 * s.ct + leadNs d) | none => true)]

def snapOf (s : State) (id : Nat) : Option Snapshot := s.gop.snaps.reverse.find? (fun x => x.id = id)

def snapshotReply (ps : Bytes) (s : State) : Bytes :=
  match s.snapOf (ps.num 0 2) with
  | none => []
  | some x =>
    natLE 2 x.id ++ [byte x.group, byte x.step] ++ zeros 4 ++ natLE 8 x.epoch ++ x.slots.map byte ++ natLE 2 (ps.num 2 2)
      ++ natLE 2 (ps.num 4 2) ++ zeros 4 ++ (List.range (ps.num 4 2)).flatMap (fun k => natLE 8 (Assoc.get 0 x.counters (ps.num 2 2 + k)))

def expelRun (p : Port) (ps : Bytes) (b : Nat) (s : State) : State :=
  let s := s.accept p b
  let g := ps.num 0 1
  if s.apexHere g then s
  else s.sendOps s.upPort (expelCells g 0 false 0 (BitVec.ofNat 8 (ps.num 1 1)) (BitVec.ofNat 32 (ps.num 4 4)))

end State

/-! ### The rows -/

def groupStatusOp : OpSpec :=
  .query 0x0410 false [5] 8
    (fun _ ps _ => firstFail [(.badParam, ps.num 1 1 = 0 || 128 < ps.num 1 1 || 256 < ps.num 0 1 + ps.num 1 1)])
    (fun ps s => s.groupStatusReply ps)
def cadRequestOp : OpSpec :=
  { opcode := 0x0411, keeper := false, feats := [5], plen := some 8
    check := fun _ ps s => firstFail [(.badParam, 15 < ps.num 1 1 && ps.num 1 1 ≠ 0xFF), (.refusedState, s.groupBad (ps.num 0 1))]
    bound := fun _ ps s => s.untilInstant (s.requestEpoch (ps.num 0 1)) + 50
    run := fun p ps b s => s.cadRequestRun p ps b }
def resetAtOp : OpSpec :=
  { opcode := 0x0412, keeper := false, feats := [5], plen := some 16
    check := fun _ ps s => firstFail (s.epochCheck (ps.num 0 1) (ps.num 8 8))
    bound := fun _ ps s => s.untilInstant (ps.num 8 8) + 50
    run := fun p ps b s => (s.accept p b).propose { State.pendingOp with
      group := Fin.ofNat 256 (ps.num 0 1), fn := .reset, epoch := ps.num 8 8, ports := [p] } }
def snapshotAtOp : OpSpec :=
  { opcode := 0x0413, keeper := false, feats := [5], plen := some 16
    check := fun _ ps s => firstFail (s.epochCheck (ps.num 0 1) (ps.num 8 8))
    bound := fun _ ps s => s.untilInstant (ps.num 8 8) + 50
    run := fun p ps b s => (s.accept p b).propose { State.pendingOp with
      group := Fin.ofNat 256 (ps.num 0 1), fn := .snapshot, epoch := ps.num 8 8, arg := ps.num 2 2, ports := [p] } }
def snapshotReadOp : OpSpec :=
  .query 0x0414 false [5] 8
    (fun _ ps s => firstFail [(.badParam,
      (s.snapOf (ps.num 0 2)).isNone || ps.num 4 2 = 0 || 470 < ps.num 4 2 || 0x865 < ps.num 2 2 + ps.num 4 2)])
    (fun ps s => s.snapshotReply ps)
def expelOp : OpSpec :=
  { opcode := 0x0415, keeper := false, feats := [5], plen := some 8
    check := fun _ ps s => firstFail [(.badParam, ps.num 1 1 = 0), (.refusedState, s.groupBad (ps.num 0 1))]
    bound := fun _ ps s => ceilDiv (2 * (s.reduceNs (ps.num 0 1)).getD 240) 1000 + 1088 + 50
    run := fun p ps b s => s.expelRun p ps b }

def execGroupStatus (p : Port) (tag : BitVec 32) (params : Bytes) (s : State) : Host.Outcome State Fault Refusal :=
  go (s.submit groupStatusOp p tag params)
def execCadRequest (p : Port) (tag : BitVec 32) (params : Bytes) (s : State) : Host.Outcome State Fault Refusal :=
  go (s.submit cadRequestOp p tag params)
def execResetAt (p : Port) (tag : BitVec 32) (params : Bytes) (s : State) : Host.Outcome State Fault Refusal :=
  go (s.submit resetAtOp p tag params)
def execSnapshotAt (p : Port) (tag : BitVec 32) (params : Bytes) (s : State) : Host.Outcome State Fault Refusal :=
  go (s.submit snapshotAtOp p tag params)
def execSnapshotRead (p : Port) (tag : BitVec 32) (params : Bytes) (s : State) : Host.Outcome State Fault Refusal :=
  go (s.submit snapshotReadOp p tag params)
def execExpel (p : Port) (tag : BitVec 32) (params : Bytes) (s : State) : Host.Outcome State Fault Refusal :=
  go (s.submit expelOp p tag params)

/-- The first copy that passed its CRC is kept (R305); a port that does not carry every cell type drops it (R312). -/
def execOpCell (port : Fin 18) (first second : Option (BitVec 100)) (s : State) : Host.Outcome State Fault Refusal :=
  go (if !s.isFull || (s.port port).st ≠ .up then s
    else match first, second with
      | some b, _ => s.opCell port (parseOp b)
      | none, some b => s.opCell port (parseOp b)
      | none, none => s.opCellLost port)

def execReachReport (s : State) : Host.Outcome State Fault Refusal := go s.reachReport

def execReachRecord (port : Fin 18) (c : OpPayload) (s : State) : Host.Outcome State Fault Refusal :=
  go (if s.isFull && (s.port port).st = .up then s.reachRecord port c else s)

def execEpochProposal (group : Fin 256) (fn : EpochFn) (epoch arg : Nat) (commitId : BitVec 32) (s : State) :
    Host.Outcome State Fault Refusal :=
  go (if s.isFull && epoch % 1024 = 0 then s.proposalArrives { State.pendingOp with group, fn, epoch, arg, commitId } else s)

/-- An ARM word arms within 32 ticks of the EPOCH word (R351). -/
def execArmWord (slot : Fin 8) (op : Byte) (epochFrame : BitVec 54) (status : Byte) (s : State) : Host.Outcome State Fault Refusal :=
  go (match s.gop.epochs.find? (fun o => State.epochOp o.fn = op.toNat && o.epoch = epochFrame.toNat * 1024 && (s.opSlots o).contains slot) with
    | some o =>
      if !o.spread || o.since + 32 < s.lt || !s.laneLive slot then s
      else s.updOp o (fun x => if status = 0 then { x with armed := x.armed ||| 2 ^ slot.1 } else { x with refused := true })
    | none => s)

def execArmReduceStart (group : Fin 256) (fn : EpochFn) (epoch : Nat) (s : State) : Host.Outcome State Fault Refusal :=
  go (match s.undecided group fn epoch with
    | some o => if o.reduceStarted || !o.spread || s.ct < s.reduceTick o || epoch ≤ s.ct then s else s.armReduce o
    | none => s)

/-- A decision comes from the apex, so not to the node that decides (R334, R350). -/
def execDecide (group : Fin 256) (fn : EpochFn) (epoch : Nat) (goAhead : Bool) (step : BitVec 4) (s : State) : Host.Outcome State Fault Refusal :=
  go (match s.undecided group fn epoch with
    | some o => if s.decidesHere o || epoch ≤ s.ct then s else s.decideHere o goAhead step.toNat
    | none => s)

def execEpochNoDecision (group : Fin 256) (fn : EpochFn) (epoch : Nat) (s : State) : Host.Outcome State Fault Refusal :=
  go (match s.undecided group fn epoch with
    | some o => if epoch ≤ s.ct then s.noDecision true o else s
    | none => s)

def execExpelDecision (group : Fin 256) (node : BitVec 32) (slots : BitVec 8) (s : State) : Host.Outcome State Fault Refusal :=
  go (if s.isFull && s.apexHere group.1 then s.expelDecide group.1 slots node else s)

def execExpelEffect (group : Fin 256) (slots : BitVec 8) (epoch : Nat) (s : State) : Host.Outcome State Fault Refusal :=
  go (match s.gop.expels.find? (fun d => d.group = group && d.slots = slots && d.epoch = epoch) with
    | some d => if epoch ≤ s.ct then s.expelNow d else s
    | none => s)

end Sys2Proof.Machine
end

