-- ==== Sys2Proof/Machine/Cadence.lean ====
section
/-!
DEFINITION. The cadence node: its links and their calibration, domain time, holdover, steps and the standby uplink (R287 to R330).
-/

namespace Sys2Proof.Machine

namespace State

/-! ### Ports (R312 to R316) -/

/-- What a port is for (R330): 0 none, 1 child, 2 standby child, 3 primary uplink, 4 standby uplink. -/
def portRole (s : State) (p : Fin 18) : Nat :=
  if p.1 < 16 then
    if (s.fld 0x40 0 5).testBit p.1 then 1 else if (s.fld 0x40 0 6).testBit p.1 then 2 else 0
  else if p.1 = 16 then (if s.isRoot then 0 else 3)
  else if s.fld 0x40 0 4 = 2 then 4 else 0

/-- The lit states in which a port exchanges cells (R312). -/
def portLit (x : LinkState) : Bool := x ≠ .unused && x ≠ .dark
/-- The identity is accepted: time flows on the link (R312). -/
def portTimed (x : LinkState) : Bool := x = .calibrating || x = .up

/-- A port back at the start of training, keeping what its last peer left (R312, R318). -/
def portFresh (st : LinkState) (x : PortSt) : PortSt :=
  { x with
    st := st, identRun := 0, n := 0, sum := 0, delay := 0, upDelay := none, err := 0, missed := 0, rxSeq := none
    adoptRx := false, adopted := false }

/-- The set of child links that are UP has changed: the records that came on this one, and the domain reach, are void (R337,
R338). -/
def childGone (p : Fin 18) (s : State) : State :=
  if 16 ≤ p.1 then s
  else { s with gop := { s.gop with
    domain := none, domainKids := s.gop.domainKids.filter (fun k => k.1 ≠ p.1)
    groups := s.gop.groups.map (fun g => (g.1, { g.2 with kids := g.2.kids.filter (fun k => k.1 ≠ p.1) })) } }

/-- The uplink is usable for a switch: it is the standby, UP, and its STAMPs carry ERR 0 (R320). -/
def standbyReady (s : State) : Bool :=
  let q : Fin 18 := if s.cad.active = 0 then 17 else 16
  s.fld 0x40 0 4 = 2 && (s.port q).st = .up && (s.port q).err = 0 && (s.port q).missed < 64

/-- The active uplink has failed: it left UP, or gave no good STAMP for 64 TIME slots (R320, R321). -/
def uplinkFailed (s : State) : Bool := (s.port s.upPort).st ≠ .up || 64 ≤ (s.port s.upPort).missed

/-- The commands that wait for the uplink end FAILED when it is lost first (R328). -/
def uplinkCommandsFail (s : State) : State :=
  (s.acceptedOn 0x0403 ++ s.acceptedOn 0x0404).foldl (fun t p => t.finish p .failed []) s

/-- Loss of block lock or of cell alignment (R312). -/
def linkLost (p : Fin 18) (s : State) : State :=
  let s := ((s.updPort p (portFresh .dark)).notice (0x0510 + p.1)).childGone p
  let s := s.setRx p []
  if 16 ≤ p.1 && p = s.upPort && !s.isRoot then (s.routeLost).uplinkCommandsFail else s

/-- A peer's IDENT matches (R313). -/
def identMatches (s : State) (p : Fin 18) (c : IdentCell) : Bool :=
  let path := (c.addr.extractLsb' 0 16).toNat
  let depth := (c.addr.extractLsb' 16 3).toNat
  let own := s.fld 0x40 0 3
  let d := s.depth
  c.domain.toNat = s.fld 0x40 0 1 &&
  match s.portRole p with
  | 1 => depth = d + 1 && path = own + p.1 * 2 ^ (12 - 4 * d)
  | 2 => depth = d + 1 && path = s.fld 0x40 0 7 / 65536 ^ p.1 % 65536
  | 3 => depth + 1 = d && path = own / 2 ^ (20 - 4 * d) * 2 ^ (20 - 4 * d)
  | 4 => depth + 1 = d
  | _ => false

/-- An IDENT cell (R312, R313): two matching ones in a row lead from IDENTIFYING or MISWIRED to CALIBRATING; one that does not match
makes the port MISWIRED. ADOPT of a standby child is kept for the next frame boundary (R320). -/
def identCell (p : Fin 18) (c : IdentCell) (s : State) : State :=
  let x := s.port p
  let ok := s.identMatches p c
  let run := if ok then x.identRun + 1 else 0
  let st : LinkState := match x.st with
    | .identifying | .miswired => if 2 ≤ run then .calibrating else if ok then x.st else .miswired
    | .calibrating | .up | .tooLong => if ok then x.st else .miswired
    | y => y
  let adopt := c.adopt && st = .up && s.portRole p = 2
  let note := fun (y : PortSt) => { y with
    identRun := run, peerPath := (c.addr.extractLsb' 0 16).toNat, tickHi := c.tickHi.toNat
    adoptRx := adopt, adopted := y.adopted && adopt }
  if st = .miswired && x.st = .up then ((s.updPort p (fun y => note (portFresh .miswired y))).childGone p)
  else if st ≠ x.st then s.updPort p (fun y => note (portFresh st y))
  else s.updPort p note

/-! ### Calibration (R310) -/

/-- Factory trim of a port, in 1/65,536 tick (R310, R551). -/
def asym (s : State) (p : Fin 18) : Int := toSigned 32 (Mem.num 0xFF s.boot.flash (0x7500018 + 4 * p.1) 4)

/-- 10 µs, the longest calibrated delay (R312). -/
def longest : Int := 655360

/-- An echo at the parent end (R310); the link is UP or TOO_LONG once 1,024 are averaged. -/
def echo (p : Fin 18) (t1 t4 : Int) (turn : Nat) (s : State) : State :=
  let x := s.port p
  let d := (t4 - t1 - turn).tdiv 2 + s.asym p
  if x.n < 1024 then
    let sum := x.sum + d
    if x.n + 1 < 1024 then s.updPort p (fun y => { y with n := y.n + 1, sum := sum })
    else
      let delay := sum.tdiv 1024
      (s.updPort p (fun y => { y with
        n := 1024, sum := sum, delay := delay, st := if longest < delay then .tooLong else .up })).childGone p
  else
    let delay := x.delay + (d - x.delay).tdiv 64
    if longest < delay && x.st = .up then (s.updPort p (fun y => { y with delay := delay, st := .tooLong })).childGone p
    else s.updPort p (fun y => { y with delay := delay })

/-! ### Domain time (R289, R311, R322 to R325) -/

/-- 500 ps, and 100 ns, in 1/65,536 tick. -/
def within500ps (d : Int) : Bool := -32 ≤ d && d ≤ 32
def within100ns (d : Int) : Bool := -6553 ≤ d && d ≤ 6553

/-- The rate adjustment of R311 since the last STAMP: at most 1 ppm of the time passed, what is not spent carried on. -/
def slew (off : Int) (arrival : Nat) (s : State) : State :=
  let el := arrival - s.cad.stampAt
  let room := (el + s.cad.carry) / 1000000
  let adj : Int := if off < 0 then -(min room off.natAbs : Nat) else (min room off.natAbs : Nat)
  { s with cad := { s.cad with
    offset := s.cad.offset + adj, carry := (el + s.cad.carry) % 1000000, stampAt := arrival
    ratePpb := if el = 0 then s.cad.ratePpb else adj * 1000000000 / el } }

/-- A step is called for (R322 to R324). -/
def callStep (off : Int) (arrival : Nat) (s : State) : State :=
  { s with cad := { s.cad with step := some { offset := s.cad.offset + off, size := off }, stampAt := arrival, carry := 0 } }

/-- Entry to HOLDOVER with an error at entry (R321, R323). -/
def enterHoldover (e0 : Nat) (s : State) : State :=
  { s with cad := { s.cad with st := .holdover, holdStart := s.lt, e0 := e0, inRow := 0 } }

/-- A STAMP on the active uplink (R311, R321 to R323, R327). -/
def followStamp (off : Int) (err arrival : Nat) (s : State) : State :=
  let s := { s with cad := { s.cad with
    lastOffset := off, inRow := if err = 0 && within500ps off then s.cad.inRow + 1 else 0 } }
  match s.cad.st with
  | .joining =>
    if s.cad.stepOwed || !within100ns off then s.callStep off arrival
    else { s.slew off arrival with cad := { (s.slew off arrival).cad with step := none } }
  | .locked =>
    if within100ns off then s.slew off arrival else (s.enterHoldover (if err = 0 then 1 else err + 1)).callStep off arrival
  | .holdover =>
    if err = 0 && !within100ns off then s.callStep off arrival
    else { s.slew off arrival with cad := { (s.slew off arrival).cad with step := none } }
  | .alone => s

/-- A STAMP cell on an uplink (R306, R311, R312). The upper 16 bits of its TICK are those of the last IDENT. -/
def stampIn (p : Fin 18) (c : StampCell) (arrival : Nat) (s : State) : State :=
  let x := s.port p
  let known := c.delay ≠ 0xFFFFFF
  let st : LinkState := if x.st = .calibrating && known then (if longest < (c.delay.toNat : Int) then .tooLong else .up) else x.st
  let s := s.updPort p (fun y => { y with
    st := st, err := c.err.toNat, missed := 0, upDelay := if known then some c.delay.toNat else y.upDelay })
  if p = s.upPort && !s.isRoot && known && st = .up then
    let t : Int := ((x.tickHi * 2 ^ 48 + c.tick.toNat) * 65536 + c.frac.toNat + c.delay.toNat : Nat)
    s.followStamp (t - ((arrival : Int) + s.cad.offset)) c.err.toNat arrival
  else s

/-- REJOIN_WAIT: a step waits for slots that are RUNNING (R324). -/
def rejoinWait (s : State) : Bool := s.cad.st = .holdover && s.cad.step.isSome && s.anyRunning

/-- A frame boundary of the mirror's time falls within a tick of now. -/
def nearBoundary (s : State) : Bool :=
  let t := if s.cad.st = .alone then 65536 * s.lt else s.domFrac
  let b := (t + 33554432) / 67108864
  decide (t < b * 67108864 + 65536 ∧ b * 67108864 < t + 65536)

/-- The frame boundary that falls within a tick of now, on the mirror's time, and whose turn has not come (R8). -/
def boundaryNow (s : State) : Option Nat :=
  let t := if s.cad.st = .alone then 65536 * s.lt else s.domFrac
  let b := (t + 33554432) / 67108864
  if t < b * 67108864 + 65536 && b * 67108864 < t + 65536 && b ≠ s.dev.frame then some (1024 * b) else none

/-- Domain time steps (R324): lanes fall silent until the first boundary of the new time at least 2 ticks ahead, a MODE 1 commit ends (R150), and
so do pending epoch operations (R352). -/
def makeStep (x : TimeStep) (s : State) : State :=
  let s := (s.notice 0x0571).opsLost true
  let s := match s.cfg.commit with
    | some m => if m.mode = 1 then s.failCommit .abandoned 0
      else if m.mode = 0 then
        let t := ((65536 * (s.dev.lt : Int) + x.offset).toNat / 65536)
        { s with cfg := { s.cfg with commit := some { m with instant := ceilDiv (t + 64) 1024 * 1024 } } }
      else s
    | none => s
  let s := { s with cad := { s.cad with
    offset := x.offset, step := none, lastStep := x.size, stepped := true, stepOwed := false, inRow := 0 } }
  let restart := ceilDiv (s.domTick + 2) 1024 * 1024
  let s := { s with
    dev := { s.dev with frame := s.domTick / 1024 }
    cad := { s.cad with silentUntil := some (s.lt + (restart - s.domTick)) } }
  (List.finRange 8).foldl (fun t i => match (t.slot i).runAt with
    | some _ => t.updSlot i (fun y => { y with runAt := some restart })
    | none => t) s

/-- A step that is called for is made at a frame boundary of the old time while no slot is RUNNING (R324). -/
def tryStep (s : State) : State :=
  match s.cad.step with
  | some x => if s.anyRunning || !s.nearBoundary then s else s.makeStep x
  | none => s

/-- The node enters LOCKED (R321); CAD_REJOIN completes (R328). -/
def enterLocked (s : State) : State :=
  let groups := if s.cad.groupsHeld then
      s.gop.groups.map (fun g => (g.1, if s.localGroup g.1.1 then g.2 else { g.2 with held := false }))
    else s.gop.groups
  let s := { s with
    cad := { s.cad with st := .locked, groupsHeld := false }
    gop := { s.gop with groups := groups } }
  (s.acceptedOn 0x0403).foldl (fun t p => t.finish p .ok (intLE 8 t.cad.lastStep ++ natLE 8 t.ct)) s

/-- The switch to the other uplink (R320); operations through the old parent end (R352, R361). -/
def switchUplink (s : State) : State :=
  let s := ((s.notice 0x0570).routeLost).opsLost false
  let groups := s.gop.groups.map (fun g => (g.1, if s.apexHere g.1.1 then g.2 else { g.2 with reach := none }))
  { s with
    cad := { s.cad with active := 1 - s.cad.active, slewEnd := some (s.lt + 2000), adoptTx := true, adopt := .due, stampAt := s.lt * 65536, carry := 0 }
    gop := { s.gop with groups := groups, domain := none } }

/-! ### What the node sends in TIME slots (R306, R307) -/

def identPayload (s : State) (p : Fin 18) : BitVec 100 :=
  let flags := b2n (s.cad.adoptTx && p = s.upPort) + 2 * b2n (s.cad.st = .locked)
  ((2#4 : BitVec 4) ++ BitVec.ofNat 16 (s.domTick / 2 ^ 48) ++ BitVec.ofNat 8 (s.fld 0x40 0 1) ++ BitVec.ofNat 32 s.nodeAddr
    ++ BitVec.ofNat 5 p.1 ++ BitVec.ofNat 8 flags ++ (0 : BitVec 27) : BitVec 100)

/-- ERR of the STAMPs this node sends (R306). -/
def stampErr (s : State) : Nat := if s.cad.st = .holdover then min 255 (ceilDiv s.holdoverPs 1000) else 0

def stampPayload (s : State) (p : Fin 18) : BitVec 100 :=
  let delay := if (s.port p).n < 1024 then 0xFFFFFF else (s.port p).delay.toNat
  ((0#4 : BitVec 4) ++ BitVec.ofNat 48 s.domTick ++ BitVec.ofNat 16 (s.domFrac % 65536) ++ BitVec.ofNat 24 delay
    ++ BitVec.ofNat 8 s.stampErr : BitVec 100)

def echoPayload (e : EchoTimes) : BitVec 100 :=
  ((1#4 : BitVec 4) ++ e.ref ++ e.turn ++ (0 : BitVec 32) : BitVec 100)

/-- A TIME slot of a port (R307): STAMP on a downlink and ECHO on an uplink once the peer is accepted, and IDENT in every 1,024th slot
and wherever no time is carried. When the IDENT with ADOPT goes out, the new parent adopts at the first boundary after it
(R320). -/
def timeSlot (p : Fin 18) (e : EchoTimes) (s : State) : State :=
  let x := s.port p
  let ident := x.slots = 1023 || !portTimed x.st
  let timed := s.cad.st = .locked || s.cad.st = .holdover
  let s := s.updPort p (fun y => { y with slots := (y.slots + 1) % 1024, missed := if 16 ≤ p.1 then min 65535 (y.missed + 1) else y.missed })
  if ident || (p.1 < 16 && !timed) then
    let s := s.sendCell p 1 (s.identPayload p)
    if p = s.upPort && s.cad.adopt = .due && x.st = .up then
      { s with cad := { s.cad with adopt := .sent ((s.domFrac + (x.upDelay.getD 0)) / 67108864 * 1024 + 1024) } }
    else s
  else if p.1 < 16 then s.sendCell p 1 (s.stampPayload p)
  else s.sendCell p 1 (echoPayload e)

/-! ### At a frame boundary (R299, R318, R320, R325, R326) -/

/-- The FRAME word of a slot (R298, R299): HOLD for a slot that is not RUNNING (R489). -/
def framePayload (s : State) (i : Fin 8) (b : Nat) (stepped : Bool) : BitVec 72 :=
  let flags := b2n (!s.running i) + 2 * b2n (s.cad.st = .holdover) + 4 * b2n stepped
  (BitVec.ofNat 54 (b / 1024) ++ BitVec.ofNat 4 (s.grp (s.groupOf i)).step ++ BitVec.ofNat 8 (s.groupOf i) ++ BitVec.ofNat 6 flags : BitVec 72)

/-- One FRAME word to each driven slot, unless a time step silences the lanes (R299, R324). -/
def frameWords (b : Nat) (s : State) : State :=
  let stepped := match s.cad.silentUntil with | some t => decide (t ≤ s.lt + 1) | none => false
  if s.cad.silentUntil.isSome && !stepped then s
  else
    let s := { s with cad := { s.cad with silentUntil := none } }
    (List.finRange 8).foldl (fun t i => if t.laneDriven i then t.sendLane i 0x01 (t.framePayload i b stepped) else t) s

/-- The holds that the node's state calls for at a boundary: in JOINING (R326), for CAD_REJOIN (R328), and of the groups that span
trays once the holdover error has passed 100 ns (R325). -/
def cadenceHolds (s : State) : State :=
  let s := if s.cad.st = .joining || s.acceptedOn 0x0403 ≠ [] then (List.finRange 8).foldl (fun t i => t.holdSlot i) s else s
  if s.cad.groupsHeld && s.cad.st = .holdover then
    s.groupsHere.foldl (fun t g => if t.localGroup g || (t.grp g).held then t else t.holdGroup g) s
  else s

/-- What the ports and lanes count by the frame starts again, and adoptions take effect (R320, R330). -/
def portsBoundary (b : Nat) (s : State) : State :=
  let s := { s with cad := { s.cad with
    ports := Vec.mapIdx s.cad.ports (fun _ x => { x with badLast := x.badNow, badNow := 0, adopted := x.adopted || x.adoptRx })
    laneBad := Vec.tab 8 (fun _ => 0) } }
  match s.cad.adopt with
  | .sent t =>
    if t ≤ b then
      let s := { s with cad := { s.cad with adopt := .idle } }
      (s.acceptedOn 0x0404).foldl (fun t p => t.finish p .ok (byte t.cad.active.1 :: zeros 7 ++ natLE 8 b)) s
    else s
  | _ => s

/-! ### Commands (R328 to R330) -/

/-- 1/65,536 tick in ps. -/
def toPs (d : Int) : Int := d * 1000000 / 65536

/-- The error bound of CAD_STATUS (R291, R320, R323, R329): a root's own error is 0 (DEDUCED, log 77). -/
def errPs (s : State) : Nat :=
  match s.cad.st with
  | .locked =>
    if s.isRoot then 0
    else match s.cad.slewEnd with
      | some t => if s.lt < t then 2000 else 250 + 150 * s.depth
      | none => 250 + 150 * s.depth
  | .holdover => s.holdoverPs
  | _ => 0xFFFFFFFF

def cadNum (s : State) : Nat := match s.cad.st with | .alone => 0 | .joining => 1 | .locked => 2 | .holdover => 3

/-- The uplink delay of R319 in 1/65,536 tick. -/
def upDelayOf (s : State) : Nat :=
  if s.isRoot then 0
  else if s.fld 0x40 0 4 = 2 then max ((s.port 16).upDelay.getD 0) ((s.port 17).upDelay.getD 0)
  else (s.port 16).upDelay.getD 0

def cadStatusReply (s : State) : Bytes :=
  let slewing := match s.cad.slewEnd with | some t => decide (s.lt < t) | none => false
  [byte s.cadNum,
   byte (b2n s.isRoot + 2 * b2n (!s.isRoot && s.cad.active = 1) + 4 * b2n s.rejoinWait + 8 * b2n s.cad.groupsHeld + 16 * b2n s.standbyReady
     + 32 * b2n slewing),
   if s.isRoot then 0xFF else byte s.cad.active.1, 0]
    ++ natLE 4 s.nodeAddr ++ natLE 8 s.domTick ++ natLE 8 s.lt ++ natLE 4 s.errPs ++ intLE 4 (toPs s.cad.lastOffset)
    ++ natLE 8 (if s.cad.st = .holdover then s.cad.holdStart else 0) ++ natLE 4 (toPs s.upDelayOf).toNat ++ intLE 4 s.cad.ratePpb
    ++ natLE 2 (maskOf 16 (fun p => s.portRole (Fin.ofNat 18 p) = 1 && (s.port (Fin.ofNat 18 p)).st = .up))
    ++ natLE 2 (maskOf 16 (fun p => s.portRole (Fin.ofNat 18 p) = 2 && (s.port (Fin.ofNat 18 p)).adopted)) ++ zeros 12

def linkNum : LinkState → Nat
  | .unused => 0 | .dark => 1 | .training => 2 | .identifying => 3 | .calibrating => 4 | .up => 5 | .miswired => 6 | .tooLong => 7

def linkRecord (s : State) (p : Fin 18) : Bytes :=
  let x := s.port p
  let delay : Nat :=
    if p.1 < 16 then (if x.n < 1024 then 0xFFFFFFFF else (toPs x.delay).toNat)
    else match x.upDelay with | some d => (toPs d).toNat | none => 0xFFFFFFFF
  [byte (linkNum x.st), byte (s.portRole p)] ++ natLE 2 x.peerPath ++ natLE 4 delay ++ natLE 2 (min 65535 x.badLast) ++ intLE 2 x.rxPower ++ zeros 4

/-- The port that CAD_SWITCH names is UP and its STAMPs carry ERR 0 (R328). -/
def namedUp (s : State) (n : Nat) : Bool :=
  let q : Fin 18 := if n = 0 then 16 else 17
  (s.port q).st = .up && (s.port q).err = 0

def cadSwitchRun (p : Port) (ps : Bytes) (b : Nat) (s : State) : State :=
  if ps.num 0 1 = s.cad.active.1 then s.answerNow p .ok (byte s.cad.active.1 :: zeros 7 ++ natLE 8 s.ct)
  else (s.switchUplink).accept p b

end State

/-! ### The rows -/

def cadStatusOp : OpSpec := .query 0x0401 false [5] 0 OpSpec.free4 (fun _ s => s.cadStatusReply)
def linkStatusOp : OpSpec := .query 0x0402 false [5] 0 OpSpec.free4 (fun _ s => (List.finRange 18).flatMap s.linkRecord)
def cadRejoinOp : OpSpec :=
  { opcode := 0x0403, keeper := false, feats := [5], plen := some 0
    check := fun _ _ s => firstFail [(.refusedState, !s.rejoinWait)]
    bound := fun _ _ _ => 105000, run := fun p _ b s => s.accept p b }
def cadSwitchOp : OpSpec :=
  { opcode := 0x0404, keeper := false, feats := [5], plen := some 4
    check := fun _ ps s => firstFail [(.badParam, 1 < ps.num 0 1), (.refusedState, s.fld 0x40 0 4 ≠ 2 || !s.namedUp (ps.num 0 1))]
    bound := fun _ _ _ => 2100, run := fun p ps b s => s.cadSwitchRun p ps b }

def execCadStatus (p : Port) (tag : BitVec 32) (params : Bytes) (s : State) : Host.Outcome State Fault Refusal :=
  go (s.submit cadStatusOp p tag params)
def execLinkStatus (p : Port) (tag : BitVec 32) (params : Bytes) (s : State) : Host.Outcome State Fault Refusal :=
  go (s.submit linkStatusOp p tag params)
def execCadRejoin (p : Port) (tag : BitVec 32) (params : Bytes) (s : State) : Host.Outcome State Fault Refusal :=
  go (s.submit cadRejoinOp p tag params)
def execCadSwitch (p : Port) (tag : BitVec 32) (params : Bytes) (s : State) : Host.Outcome State Fault Refusal :=
  go (s.submit cadSwitchOp p tag params)

/-- Block lock on a named port; the received power is measured (R312, R330). -/
def execBlockLock (port : Fin 18) (rxPower : Int) (s : State) : Host.Outcome State Fault Refusal :=
  go (if s.isFull && (s.port port).st = .dark then
      s.updPort port (fun x => { x with st := .training, rxPower := rxPower })
    else s)

def execCellAlignment (port : Fin 18) (s : State) : Host.Outcome State Fault Refusal :=
  go (if s.isFull && (s.port port).st = .training then s.updPort port (fun x => { x with st := .identifying, identRun := 0 }) else s)

def execLinkLoss (port : Fin 18) (s : State) : Host.Outcome State Fault Refusal :=
  go (if s.isFull && State.portLit (s.port port).st then s.linkLost port else s)

def execLinkIdent (port : Fin 18) (c : IdentCell) (s : State) : Host.Outcome State Fault Refusal :=
  go (if s.isFull && State.portLit (s.port port).st && (s.port port).st ≠ .training then s.identCell port c else s)

def execEchoCell (port : Fin 18) (t1 t4 : Int) (turn : Nat) (s : State) : Host.Outcome State Fault Refusal :=
  go (if s.isFull && port.1 < 16 && State.portTimed (s.port port).st then s.echo port t1 t4 turn else s)

def execStampCell (port : Fin 18) (c : StampCell) (arrival : Nat) (s : State) : Host.Outcome State Fault Refusal :=
  go (if s.isFull && 16 ≤ port.1 && State.portTimed (s.port port).st then s.stampIn port c arrival else s)

def execTimeSlot (port : Fin 18) (echo : EchoTimes) (s : State) : Host.Outcome State Fault Refusal :=
  go (if s.isFull && (s.port port).st ≠ .unused then s.timeSlot port echo else s)

/-- A cell with a reserved TYPE or a failed CRC (R303, R330). -/
def execCellDiscarded (port : Fin 18) (badCrc : Bool) (s : State) : Host.Outcome State Fault Refusal :=
  go (if s.isFull && State.portLit (s.port port).st then
      (s.count (0x0530 + port.1)).updPort port (fun x => { x with badNow := x.badNow + b2n badCrc })
    else s)

/-- A code-lane word that is discarded; the seventeenth of a frame is the burst (R298, R300). -/
def execCodeLaneWordDiscard (slot : Fin 8) (s : State) : Host.Outcome State Fault Refusal :=
  go (if !s.laneLive slot then s
    else
      let n := s.cad.laneBad.get slot + 1
      let s := { s with cad := { s.cad with laneBad := Vec.upd s.cad.laneBad slot (fun _ => n) } }
      let s := s.count (0x0500 + slot.1)
      if n = 17 then s.noticeSlot (0x0508 + slot.1) slot else s)

/-- LOCKED to HOLDOVER (R321): the STAMPs carry an error, or the uplink fails and no switch is possible. -/
def execHoldoverEntry (s : State) : Host.Outcome State Fault Refusal :=
  go (if s.cad.st ≠ .locked || s.isRoot then s
    else if (s.port s.upPort).err ≠ 0 && !s.uplinkFailed then s.enterHoldover ((s.port s.upPort).err + 1)
    else if s.uplinkFailed && !s.standbyReady then s.enterHoldover 1
    else s)

/-- The holdover error passes 100 ns; the groups are held at the next boundary, and that is counted (R325). -/
def execHoldoverHold (s : State) : Host.Outcome State Fault Refusal :=
  go (if s.cad.st = .holdover && 100000 < s.holdoverPs && !s.cad.groupsHeld then
      ({ s with cad := { s.cad with groupsHeld := true } }).notice 0x0572
    else s)

/-- HOLDOVER to LOCKED after 64 STAMPs within 500 ps, or the step that comes before them (R321, R323). -/
def execRelock (s : State) : Host.Outcome State Fault Refusal :=
  go (if s.cad.st ≠ .holdover || s.uplinkFailed then s
    else if s.cad.step.isSome then s.tryStep
    else if 64 ≤ s.cad.inRow then s.enterLocked
    else s)

def execTimeStep (s : State) : Host.Outcome State Fault Refusal := go (if s.isFull then s.tryStep else s)

/-- JOINING to LOCKED after 64 STAMPs within 500 ps, or the step that comes before them (R322). -/
def execJoinLock (s : State) : Host.Outcome State Fault Refusal :=
  go (if s.cad.st ≠ .joining || s.uplinkFailed then s
    else if s.cad.step.isSome then s.tryStep
    else if 64 ≤ s.cad.inRow && !s.cad.stepOwed then s.enterLocked
    else s)

def execUplinkSwitch (s : State) : Host.Outcome State Fault Refusal :=
  go (if s.isFull && !s.isRoot && s.uplinkFailed && s.standbyReady then s.switchUplink else s)

/-- ADOPT from a standby child; it takes effect at the next frame boundary (R320). -/
def execAdopt (port : Fin 18) (s : State) : Host.Outcome State Fault Refusal :=
  go (if s.isFull && s.portRole port = 2 && (s.port port).st = .up then s.updPort port (fun x => { x with adoptRx := true }) else s)

end Sys2Proof.Machine
end

