-- ==== Sys2Proof/Machine/Arith.lean ====
section
/-!
DEFINITION. The reference arithmetic (R364 to R386): element formats and packing, block scales, the exact dot product, the FP32
epilogue with its activation tables, and the conversion to the output format.
-/

namespace Sys2Proof.Machine

/-- A decoded element: NaN, an infinity, or `mag * 2 ^ exp` with a sign, which a zero carries too (R365, R374). -/
inductive Num
  | nan
  | inf (neg : Bool)
  | fin (neg : Bool) (mag : Nat) (exp : Int)
  deriving DecidableEq, Repr

/-- Exponent bits, mantissa bits and bias of a floating-point format (R364). -/
def floatShape : Nat → Option (Nat × Nat × Nat)
  | 0x01 => some (2, 1, 1) | 0x02 => some (2, 3, 1) | 0x03 => some (3, 2, 3) | 0x04 => some (4, 3, 7)
  | 0x05 => some (5, 2, 15) | 0x10 => some (8, 7, 127) | 0x11 => some (5, 10, 15) | 0x20 => some (8, 23, 127)
  | _ => none

/-- The format has infinities (R364). -/
def hasInf (fmt : Nat) : Bool := fmt = 0x05 || fmt = 0x10 || fmt = 0x11 || fmt = 0x20

/-- The value of an element code (R364 to R367). -/
def decodeElem (fmt code : Nat) : Num :=
  match floatShape fmt with
  | none =>
    let z := toSigned (fmtBits fmt) code
    .fin (decide (z < 0)) z.natAbs 0
  | some (ew, mw, bias) =>
    let neg := bit code (ew + mw)
    let e := bits code mw ew
    let m := bits code 0 mw
    if hasInf fmt && e = 2 ^ ew - 1 then (if m = 0 then .inf neg else .nan)
    else if fmt = 0x04 && e = 15 && m = 7 then .nan
    else if e = 0 then .fin neg m (1 - (bias : Int) - mw)
    else .fin neg (2 ^ mw + m) ((e : Int) - bias - mw)

/-- An element under an E8M0 scale code (R369, R370). -/
def scaledBy (sc : Nat) (x : Num) : Num :=
  if sc = 0xFF then .nan
  else match x with
    | .fin neg mag e => .fin neg mag (e + sc - 127)
    | y => y

/-- Element `i` of a packed stream, whose byte `a` is `get a` (R368). -/
def packedElem (get : Nat → Nat) (fmt i : Nat) : Nat :=
  match fmtBits fmt with
  | 4 => get (i / 2) / 16 ^ (i % 2) % 16
  | 6 =>
    let g := 3 * (i / 4)
    bits (get g + 256 * get (g + 1) + 65536 * get (g + 2)) (6 * (i % 4)) 6
  | 8 => get i
  | 16 => get (2 * i) + 256 * get (2 * i + 1)
  | _ => get (4 * i) + 256 * get (4 * i + 1) + 65536 * get (4 * i + 2) + 16777216 * get (4 * i + 3)

/-! ### Rounding (R376, R377, R384, R385) -/

/-- The whole number of steps that `q + rem / den` rounds to: to nearest even, or by a 24-bit draw between the neighbours, where the
lower neighbour of a negative value has the larger magnitude. -/
def roundStep (draw : Option Nat) (neg : Bool) (q rem den : Nat) : Nat :=
  if rem = 0 then q
  else match draw with
    | none => if den < 2 * rem || (2 * rem = den && q % 2 = 1) then q + 1 else q
    | some r =>
      if neg then (if r < (den - rem) * 2 ^ 24 / den then q else q + 1)
      else (if r < rem * 2 ^ 24 / den then q + 1 else q)

/-- `mag * 2 ^ exp` in whole steps of `2 ^ lsb`, rounded. -/
def toSteps (draw : Option Nat) (neg : Bool) (mag : Nat) (exp lsb : Int) : Nat :=
  if lsb ≤ exp then mag * 2 ^ (exp - lsb).toNat
  else
    let den := 2 ^ (lsb - exp).toNat
    roundStep draw neg (mag / den) (mag % den) den

/-- Code of the largest finite magnitude (R386). -/
def maxCode : Nat → Nat
  | 0x01 => 0x7 | 0x02 => 0x1F | 0x03 => 0x1F | 0x04 => 0x7E | 0x05 => 0x7B | 0x08 => 0x7F | 0x09 => 0x7
  | 0x10 => 0x7F7F | 0x11 => 0x7BFF | _ => 0x7F7FFFFF

/-- Rounding `mag * 2 ^ exp` to a format, with saturation; a floating-point zero keeps the sign (R377, R384, R385). -/
def roundTo (fmt : Nat) (draw : Option Nat) (neg : Bool) (mag : Nat) (exp : Int) : Nat :=
  match floatShape fmt with
  | none =>
    let top := 2 ^ (fmtBits fmt - 1)
    let q := toSteps draw neg mag exp 0
    if neg then (2 * top - min q top) % (2 * top) else min q (top - 1)
  | some (ew, mw, bias) =>
    let sign := if neg then 2 ^ (ew + mw) else 0
    if mag = 0 then sign
    else
      let e := max ((Nat.log2 mag : Int) + exp) (1 - (bias : Int))
      sign + min ((e + bias - 1).toNat * 2 ^ mw + toSteps draw neg mag exp (e - mw)) (maxCode fmt)

/-! ### FP32 values (R376 to R378) -/

def fpNan : Nat := 0x7FC00000
def fpInf (neg : Bool) : Nat := if neg then 0xFF800000 else 0x7F800000
def fpNum (x : Nat) : Num := decodeElem 0x20 x
/-- Rounding an exact value to FP32. -/
def fpRound (neg : Bool) (mag : Nat) (exp : Int) : Nat := roundTo 0x20 none neg mag exp

/-- A finite FP32 value in units of 2^-149. -/
def fix149 (neg : Bool) (mag : Nat) (exp : Int) : Int :=
  let z : Int := mag * 2 ^ (exp + 149).toNat
  if neg then -z else z

def fpMul (x y : Nat) : Nat :=
  match fpNum x, fpNum y with
  | .nan, _ => fpNan
  | _, .nan => fpNan
  | .inf a, .inf b => fpInf (a != b)
  | .inf a, .fin b m _ => if m = 0 then fpNan else fpInf (a != b)
  | .fin a m _, .inf b => if m = 0 then fpNan else fpInf (a != b)
  | .fin a m e, .fin b n f => fpRound (a != b) (m * n) (e + f)

def fpAdd (x y : Nat) : Nat :=
  match fpNum x, fpNum y with
  | .nan, _ => fpNan
  | _, .nan => fpNan
  | .inf a, .inf b => if a = b then fpInf a else fpNan
  | .inf a, .fin _ _ _ => fpInf a
  | .fin _ _ _, .inf b => fpInf b
  | .fin a m e, .fin b n f =>
    let z := fix149 a m e + fix149 b n f
    if z = 0 then (if a && b && m = 0 && n = 0 then 0x80000000 else 0)
    else fpRound (decide (z < 0)) z.natAbs (-149)

/-! ### Activation tables (R380, R381) -/

structure ActTable where
  yNeg : Nat
  yPos : Nat
  /-- Origins and coefficients of the segments, in order. -/
  segs : List (Nat × Nat × Nat × Nat × Nat)
  deriving DecidableEq, Repr

/-- The finite value of an FP32 code in units of 2^-149. -/
def fpFix (x : Nat) : Option Int :=
  match fpNum x with
  | .fin a m e => some (fix149 a m e)
  | _ => none

def rising : List Int → Bool
  | a :: b :: l => decide (a < b) && rising (b :: l)
  | _ => true

/-- A valid table in the bytes that the layer map gives it (R380). -/
def ActTable.parse (b : Bytes) : Option ActTable :=
  let n := b.num 6 2
  let segs := (List.range n).map (fun i =>
    let c := 0x10 + 4 * n + 16 * i
    (b.num (0x10 + 4 * i) 4, b.num c 4, b.num (c + 4) 4, b.num (c + 8) 4, b.num (c + 12) 4))
  let finite (x : Nat) : Bool := (fpFix x).isSome
  if b.part 0 4 = ascii "SKAT" && b.num 4 2 = 1 && 1 ≤ n && n ≤ 64 && 0x10 + 20 * n ≤ b.length &&
      segs.all (fun g => finite g.1 && finite g.2.1 && finite g.2.2.1 && finite g.2.2.2.1 && finite g.2.2.2.2) &&
      rising (segs.filterMap (fun g => fpFix g.1)) then
    some { yNeg := b.num 8 4, yPos := b.num 0xC 4, segs }
  else none

/-- The segment of an input: the last whose origin is at or below it, else the first. -/
def ActTable.segment (t : ActTable) (x : Int) : Nat × Nat × Nat × Nat × Nat :=
  ((t.segs.filter (fun g => match fpFix g.1 with | some z => decide (z ≤ x) | none => false)).getLast?).getD
    (t.segs.headD (0, 0, 0, 0, 0))

/-- The activation of an FP32 input (R381). -/
def ActTable.apply (t : ActTable) (x : Nat) : Nat :=
  let canon (y : Nat) : Nat := if fpNum y = .nan then fpNan else y
  match fpNum x with
  | .nan => fpNan
  | .inf neg => canon (if neg then t.yNeg else t.yPos)
  | .fin a m e =>
    let (origin, c0, c1, c2, c3) := t.segment (fix149 a m e)
    let d := fpAdd x (origin ^^^ 0x80000000)
    fpAdd (fpMul (fpAdd (fpMul (fpAdd (fpMul c3 d) c2) d) c1) d) c0

/-! ### The dot product (R373 to R376) -/

/-- What a sum has met so far: NaN, infinities of either sign, and the finite part in units of 2^-320. -/
structure Sum where
  nan : Bool
  pos : Bool
  neg : Bool
  acc : Int
  deriving DecidableEq, Repr

def Sum.addFin (s : Sum) (neg : Bool) (mag : Nat) (exp : Int) : Sum :=
  let z : Int := mag * 2 ^ (exp + 320).toNat
  { s with acc := if neg then s.acc - z else s.acc + z }
def Sum.addInf (s : Sum) (neg : Bool) : Sum := if neg then { s with neg := true } else { s with pos := true }

/-- One product (R375). -/
def Sum.addMul (s : Sum) (x y : Num) : Sum :=
  match x, y with
  | .nan, _ => { s with nan := true }
  | _, .nan => { s with nan := true }
  | .inf a, .inf b => s.addInf (a != b)
  | .inf a, .fin b m _ => if m = 0 then { s with nan := true } else s.addInf (a != b)
  | .fin a m _, .inf b => if m = 0 then { s with nan := true } else s.addInf (a != b)
  | .fin a m e, .fin b n f => s.addFin (a != b) (m * n) (e + f)

/-- The addend CIN. -/
def Sum.addCin (s : Sum) (x : Num) : Sum :=
  match x with
  | .nan => { s with nan := true }
  | .inf a => s.addInf a
  | .fin a m e => s.addFin a m e

/-- The sum rounded to FP32 (R375, R376). -/
def Sum.toFp (s : Sum) : Nat :=
  if s.nan || (s.pos && s.neg) then fpNan
  else if s.pos then fpInf false
  else if s.neg then fpInf true
  else if s.acc = 0 then 0
  else fpRound (decide (s.acc < 0)) s.acc.natAbs (-320)

/-! ### The reference output (R379, R382 to R386) -/

/-- One batch entry of a tile: its shape, operands with their scales applied, and parameters (R372). -/
structure Tile where
  m : Nat
  n : Nat
  k : Nat
  a : Nat → Nat → Num
  b : Nat → Nat → Num
  cin : Option (Nat → Nat → Nat)
  oscale : Option (Nat → Nat)
  bias : Option (Nat → Nat)
  act : Option ActTable
  ofmt : Nat
  oblk : Nat
  stochastic : Bool
  seed : BitVec 64
  layer : Nat
  tile : Nat

/-- The finaliser of R385. -/
def mix64 (z : BitVec 64) : BitVec 64 :=
  let z := (z ^^^ (z >>> 30)) * 0xBF58476D1CE4E5B9
  let z := (z ^^^ (z >>> 27)) * 0x94D049BB133111EB
  z ^^^ (z >>> 31)

/-- The draw of R385. -/
def srBits (seed : BitVec 64) (layer tile row col : Nat) : Nat :=
  let c : BitVec 64 :=
    (BitVec.ofNat 64 layer <<< 52) ||| (BitVec.ofNat 64 tile <<< 20) ||| (BitVec.ofNat 64 row <<< 10) ||| BitVec.ofNat 64 col
  (mix64 (seed ^^^ mix64 c) >>> 40).toNat

namespace Tile

/-- Steps 1 to 5 of R379 for one output element. -/
def value (t : Tile) (m n : Nat) : Nat :=
  let s : Sum := { nan := false, pos := false, neg := false, acc := 0 }
  let s := match t.cin with | some f => s.addCin (fpNum (f m n)) | none => s
  let s := (List.range t.k).foldl (fun s k => s.addMul (t.a m k) (t.b k n)) s
  let v := s.toFp
  let v := match t.oscale with | some f => fpMul v (f n) | none => v
  let v := match t.bias with | some f => fpAdd v (f n) | none => v
  match t.act with
  | some tb => tb.apply v
  | none => v

/-- The NaN code of an output format (R386); formats without one use 0 under scale 0xFF (R383). -/
def nanCode : Nat → Nat
  | 0x04 => 0x7F | 0x05 => 0x7E | 0x10 => 0x7FC0 | 0x11 => 0x7E00 | 0x20 => 0x7FC00000 | _ => 0

/-- The format has NaN codes. -/
def hasNan (fmt : Nat) : Bool := nanCode fmt ≠ 0

/-- Code of an infinity of an unscaled output (R386). -/
def infCode (fmt : Nat) (neg : Bool) : Nat := maxCode fmt + 1 + (if neg then 2 ^ (fmtBits fmt - 1) else 0)

/-- An element's code; `x` is the exponent of its block's scale, or none (R382 to R386). -/
def elem (t : Tile) (x : Option Int) (m n v : Nat) : Nat :=
  let draw := if t.stochastic then some (srBits t.seed t.layer t.tile m n) else none
  match fpNum v with
  | .nan => nanCode t.ofmt
  | .inf neg =>
    if x.isNone && hasInf t.ofmt then infCode t.ofmt neg
    else if t.ofmt = 0x08 || t.ofmt = 0x09 then maxCode t.ofmt + b2n neg
    else maxCode t.ofmt + (if neg then 2 ^ (fmtBits t.ofmt - 1) else 0)
  | .fin neg mag e => roundTo t.ofmt draw neg mag (e - x.getD 0)

/-- emax of R383. -/
def emax : Nat → Int
  | 0x01 => 2 | 0x02 => 2 | 0x03 => 4 | 0x04 => 8 | 0x05 => 15 | 0x08 => 6 | _ => 2

/-- |v| in units of 2^-149 for the scale of R383 step 2; 0 for NaN. -/
def magFix (v : Nat) : Nat :=
  match fpNum v with
  | .nan => 0
  | .inf _ => (fix149 false (2 ^ 24 - 1) 104).natAbs
  | .fin _ m e => (fix149 false m e).natAbs

/-- The scale code of a block, or none for the NaN scale (R383 steps 1 to 3). -/
def scaleOf (ofmt : Nat) (vs : List Nat) : Option Int :=
  if !hasNan ofmt && vs.any (fun v => fpNum v = .nan) then none
  else
    let amax := (vs.map magFix).foldl max 0
    some (if amax = 0 then -127 else max ((Nat.log2 amax : Int) - 149 - emax ofmt) (-127))

/-- One output block of row `m` from column `n`: its codes and its scale code (R383). -/
def block (t : Tile) (m n : Nat) (vs : List Nat) : List Nat × Nat :=
  match scaleOf t.ofmt vs with
  | none => (vs.map (fun _ => 0), 0xFF)
  | some x => (vs.mapIdx (fun i v => t.elem (some x) m (n + i) v), (x + 127).toNat)

/-- The reference codes and scale codes of row `m`. -/
def row (t : Tile) (m : Nat) : List Nat × List Nat :=
  let vs := (List.range t.n).map (t.value m)
  if t.oblk = 0 then (vs.mapIdx (fun n v => t.elem none m n v), [])
  else
    let bs := (List.range (ceilDiv t.n t.oblk)).map (fun j => t.block m (j * t.oblk) ((vs.drop (j * t.oblk)).take t.oblk))
    (bs.flatMap (·.1), bs.map (·.2))

/-- The reference output of the entry: element codes and scale codes in the order of R371. -/
def output (t : Tile) : List Nat × List Nat :=
  let rs := (List.range t.m).map t.row
  (rs.flatMap (·.1), rs.flatMap (·.2))

end Tile

end Sys2Proof.Machine
end

