-- ==== Sys2Proof/Machine/Sampling.lean ====
section
/-!
DEFINITION. The choice of tiles: sampling plans and their instants, the selection function, end frames by the tile manifest, and the
tiles that are expected (R414, R453 to R458, R507, R509).
-/

namespace Sys2Proof.Machine

/-- The selection function (R454). -/
def Plan.selects (p : Plan) (layer tile step : Nat) : Bool :=
  if !p.enable then false
  else
    let w := if layer < 2048 then p.lo / 256 ^ layer % 256 else p.hi / 256 ^ (layer - 2048) % 256
    let w := if w = 0xFF then p.defaultW else w
    let t := min (w * 2 ^ 20 / 2 ^ p.rateN) (2 ^ 24)
    let key := p.seed ^^^ ((BitVec.ofNat 64 layer <<< 32) ||| BitVec.ofNat 64 tile)
    decide ((mix64 (mix64 key ^^^ BitVec.ofNat 64 step) >>> 40).toNat < t)

/-- The plan of a group's defaults, before any plan took effect: sampling is off (R453). -/
def noPlan : Plan := { enable := false, rateN := 8, seed := 0, defaultW := 16, lo := Field.allOnes 2048, hi := Field.allOnes 2048 }

namespace State

/-- The plan that the settings in effect give a group (R453). -/
def cfgPlan (s : State) (g : Nat) : Plan :=
  { enable := s.fld 0x50 g 1 = 1, rateN := s.fld 0x50 g 2, seed := BitVec.ofNat 64 (s.fld 0x50 g 3), defaultW := s.fld 0x50 g 4,
    lo := s.fld 0x50 g 5, hi := s.fld 0x50 g 6 }

/-- The plans of a group that took effect at or before a tick, newest first (R414). -/
def plansAt (s : State) (g t : Nat) : List (Nat × Plan) :=
  (s.integ.plans.filter (fun p => p.1 = g && p.2.1 ≤ t)).map (fun p => p.2)

/-- The plan in effect at a tick; before the first change the defaults hold. -/
def planAt (s : State) (g t : Nat) : Plan := match s.plansAt g t with | p :: _ => p.2 | [] => noPlan

/-- Plans that judge a tile at a tick: the one in effect and, less than 1,024 ticks after a change, the one it replaced (R414, R457). -/
def plansNear (s : State) (g t : Nat) : List Plan :=
  match s.plansAt g t with
  | [] => [noPlan]
  | p :: rest => if t < p.1 + 1024 then [p.2, (match rest with | q :: _ => q.2 | [] => noPlan)] else [p.2]

/-- Running stretches from the origin of schedule time, oldest first, with their frames and their rate (R507). -/
def stretches (s : State) (i : Fin 8) : List (Nat × Nat × Nat) :=
  (s.slot i).runs.map (fun r => (max (s.nbOriginFrame i) r.1, r.2.1 - max (s.nbOriginFrame i) r.1, 16 - r.2.2))

/-- The frame during which schedule time reaches a value above its start, while it has been reached (R509). -/
def frameReaching : List (Nat × Nat × Nat) → Nat → Option Nat
  | [], _ => none
  | r :: l, need =>
    if need ≤ r.2.1 * r.2.2 then some (r.1 + (need + r.2.2 - 1) / r.2.2 - 1)
    else frameReaching l (need - r.2.1 * r.2.2)

/-- The manifest entries of a slot (R509). -/
def manifest (s : State) (i : Fin 8) : List (Nat × Nat × Nat × Nat × Nat) :=
  (List.range (s.nbManifest i)).map (s.manifestEntry i)

/-- The end frame of an absolute step, when the manifest of a valid notebook names it and it is reached (R414, R509). -/
def endFrame (s : State) (i : Fin 8) (step : Nat) : Option Nat :=
  if !(s.slot i).nbValid || step < s.nbOriginStep i then none
  else
    let n := s.nbCycleSteps i
    let c := (step - s.nbOriginStep i) / n
    let k := (step - s.nbOriginStep i) % n
    match (s.manifest i).find? (fun e => e.1 = k) with
    | some e => frameReaching (s.stretches i) (max 1 (c * s.nbCycleUnits i + e.2.1))
    | none => none

/-- A record of a slot is selected: by either plan near the end frame's start, or near the seal when the manifest does not tell (R414). -/
def selectedRecord (s : State) (i : Fin 8) (layer tile step sealTick : Nat) : Bool :=
  let t := match s.endFrame i step with | some f => 1024 * f | none => sealTick
  (s.plansNear (s.groupOf i) t).any (fun p => p.selects layer tile step)

/-- Steps of a manifest entry that end in a frame: those whose end schedule time reaches in it. -/
def stepsEnding (s : State) (i : Fin 8) (f : Nat) (e : Nat × Nat × Nat × Nat × Nat) : List Nat :=
  let lo := s.sigma i f
  let hi := s.sigma i (f + 1)
  let u := s.nbCycleUnits i
  if u = 0 then (if lo < max 1 e.2.1 && max 1 e.2.1 ≤ hi then [s.nbOriginStep i + e.1] else [])
  else
    ((List.range (hi / u + 1)).drop ((lo - e.2.1) / u)).filterMap (fun c =>
      let v := max 1 (c * u + e.2.1)
      if lo < v && v ≤ hi then some (s.nbOriginStep i + c * s.nbCycleSteps i + e.1) else none)

/-- The tiles of a running slot that are selected and expected for the steps that end in frame `f`; close to a change of plan both plans
must select (R456, R457). -/
def tilesEnding (s : State) (i : Fin 8) (f : Nat) : List Expected :=
  let ps := s.plansNear (s.groupOf i) (1024 * f)
  if !ps.any (fun p => p.enable) then []
  else
    (s.manifest i).flatMap (fun e =>
      (s.stepsEnding i f e).flatMap (fun step =>
        (List.range e.2.2.2.2).filterMap (fun k =>
          let tile := (e.2.2.1 + k) % 2 ^ 32
          if ps.all (fun p => p.selects e.2.2.2.1 tile step) then
            some { layer := e.2.2.2.1, tile, step, frame := f, missing := false }
          else none)))

/-- The tiles kept: the last 4,096, and those that may still count as missing (R456, R458). -/
def keepExpected (f : Nat) (l : List Expected) : List Expected :=
  (l.zipIdx.filter (fun c => c.2 < 4096 || (!c.1.missing && f ≤ c.1.frame + 256))).map (fun c => c.1)

/-- Entering the tiles whose steps ended in frame `f` as selected (R456, R482). -/
def expectTiles (i : Fin 8) (f : Nat) (s : State) : State :=
  if !s.nbLive i || f < s.nbOriginFrame i then s
  else
    let ts := s.tilesEnding i f
    s.updIslot i (fun x => { x with selected := x.selected + ts.length, recent := keepExpected f (ts.reverse ++ x.recent) })

end State

end Sys2Proof.Machine
end

