-- ==== Sys2Proof/Machine/Check.lean ====
section
/-!
DEFINITION. The check engine: the intake of BAR 4 with its record areas and notebooks, the steps of a check, and the check opcodes
(R66, R78, R80, R395 to R421, R505).
-/

namespace Sys2Proof.Machine

namespace State

/-! ### Notebook writes (R80, R400, R504, R505) -/

/-- A notebook write that is dropped is counted with the counter that R617 gives R505 (DEDUCED, log 85). -/
def nbDrop (i : Fin 8) (s : State) : State := s.count (0x07A8 + i.1)

/-- A non-zero GEN closes a notebook, which is checked at once (R505; log 30). -/
def nbClose (i : Fin 8) (s : State) : State :=
  if s.nbCheck i then s.updSlot i (fun x => { x with nbValid := true })
  else (s.updSlot i (fun x => { x with nbValid := false })).count (0x07A8 + i.1)

/-- A write of 0 to GEN opens a notebook: its forecast, manifest and Lull map are gone, and the deviation streak restarts (R462, R505, R512). -/
def nbOpen (i : Fin 8) (s : State) : State :=
  (s.updSlot i (fun x => { x with nbValid := false, streak := 0 })).cancelLull i

/-- Vote announcements among the entries of page 6 that a write touched, which serve when their frame lies ahead (R476, R510). -/
def announce (i : Fin 8) (off len : Nat) (s : State) : State :=
  (linesOf off len).foldl (fun s l =>
    let kind := s.nbNum i 6 (l + 4) 1
    let frame := s.nbNum i 6 (l + 8) 8
    if kind = 1 && s.ct / 1024 + 1 ≤ frame then
      let e := (s.nbNum i 6 (l + 5) 1, s.nbNum i 6 (l + 6) 2, frame)
      s.updSlot i (fun x => { x with announced := (x.announced.filter (fun a => a.1 ≠ e.1 && s.ct / 1024 ≤ a.2.2 + 1024)) ++ [e] })
    else s) s

/-- A write to a page of a notebook (R505). -/
def nbWrite (i : Fin 8) (page off : Nat) (data : Bytes) (s : State) : State :=
  let data := data.take (131072 - off)
  let store : State → State := fun t => { t with chk := { t.chk with bar4 := Mem.write 0 t.chk.bar4 (nbAddr i page off) data } }
  if data = [] then s
  else if page = 7 then s.nbDrop i
  else if page = 6 then (store s).announce i off data.length
  else if s.nbGen i ≠ 0 then
    if page = 0 && off = 8 && data.length = 4 && leNat data = 0 then (store s).nbOpen i else s.nbDrop i
  else
    let s := store s
    if page = 0 && off ≤ 8 && 12 ≤ off + data.length then
      if s.nbGen i = 0 then s.nbOpen i else s.nbClose i
    else if s.nbGen i ≠ 0 then s.nbClose i
    else s

/-! ### Record areas (R398 to R402) -/

/-- Sealing an area (R399). -/
def sealArea (a : Fin 64) (s : State) : State :=
  let s := { s with chk := { s.chk with
    bar4 := (s.chk.bar4).erase (areaBase a.1 + 0x40) 192
    recordNow := s.chk.recordNow + Mem.num 0 s.chk.bar4 (areaBase a.1 + 4) 4 } }
  s.setArea a { st := .sealed, sealTick := s.ct, mapChanged := false, res := none }

/-- A write to an area: the seal word, the result block, the record and the notebook page at its end (R78, R399 to R401). -/
def areaWrite (a : Fin 64) (off : Nat) (data : Bytes) (s : State) : State :=
  let x := s.chk.areas.get a
  let busy : Bool := x.st = .sealed || x.st = .checking
  let stop := off + data.length
  let store := fun (lo hi : Nat) (t : State) =>
    if max lo off < min hi stop then
      { t with chk := { t.chk with
          bar4 := Mem.write 0 t.chk.bar4 (areaBase a.1 + max lo off) ((data.drop (max lo off - off)).take (min hi stop - max lo off)) } }
    else t
  let hits := fun (lo hi : Nat) => decide (max lo off < min hi stop)
  let s := if hits 8 0x100 then s.count 0x0648 else s
  let s :=
    if busy then (if hits 0 8 || hits 0x100 0x3E0000 then s.count (0x0640 + a.1 / 8) else s)
    else
      let s := store 0x100 0x3E0000 (store 0 8 s)
      if off = 0 && 8 ≤ data.length && leNat (data.take 2) = 0x5EA1 then s.sealArea a else s
  if hits 0x3E0000 0x400000 then
    let o := max 0x3E0000 off
    s.nbWrite (Fin.ofNat 8 (a.1 / 8)) (a.1 % 8) (o - 0x3E0000) (data.drop (o - off))
  else s

/-- A BAR 4 write: dropped without Memory Space Enable, counted and dropped outside Full (R80, R82). -/
def bar4Access (f : State → State) (s : State) : State :=
  if !s.barUp then s else if !s.isFull then s.count 0x0002 else f s

/-! ### The header of a record (R372, R403 to R406) -/

structure Header where
  sealLen : Nat
  version : Nat
  cls : Nat
  batch : Nat
  layer : Nat
  tile : Nat
  core : Nat
  hbm : Nat
  m : Nat
  n : Nat
  k : Nat
  afmt : Nat
  bfmt : Nat
  ofmt : Nat
  rmode : Nat
  ablk : Nat
  bblk : Nat
  oblk : Nat
  act : Nat
  cin : Nat
  oscale : Nat
  bias : Nat
  src : Nat
  oscaleVal : Nat
  seed : Nat
  gTensor : Nat
  gRow0 : Nat
  gK0 : Nat
  desc : List (Nat × Nat)
  deriving DecidableEq, Repr

def header (s : State) (a : Fin 64) : Header :=
  let h := fun (off k : Nat) => Mem.num 0 s.chk.bar4 (areaBase a.1 + off) k
  { sealLen := h 4 4, version := h 0x100 2, cls := h 0x102 1, batch := h 0x104 2, layer := h 0x106 2, tile := h 0x108 4,
    core := h 0x10C 2, hbm := h 0x10E 1, m := h 0x118 2, n := h 0x11A 2, k := h 0x11C 4, afmt := h 0x120 1, bfmt := h 0x121 1,
    ofmt := h 0x122 1, rmode := h 0x123 1, ablk := h 0x124 1, bblk := h 0x125 1, oblk := h 0x126 1, act := h 0x127 1,
    cin := h 0x128 1, oscale := h 0x129 1, bias := h 0x12A 1, src := h 0x12B 1, oscaleVal := h 0x12C 4, seed := h 0x130 8,
    gTensor := h 0x138 2, gRow0 := h 0x13C 4, gK0 := h 0x140 4,
    desc := (List.range 9).map (fun d => (h (0x150 + 16 * d) 4, h (0x154 + 16 * d) 4)) }

/-- Elements, tag format and tag BLK16 of each descriptor (R404). -/
def Header.roles (h : Header) : List (Nat × Nat × Bool) :=
  let a := h.src ≠ 1
  let b := h.src ≠ 2
  [ (if a then h.m * h.k * h.batch else 0, h.afmt, h.ablk = 16),
    (if a && h.ablk ≠ 0 then h.m * ceilDiv h.k h.ablk * h.batch else 0, 0x30, h.ablk = 16),
    (if b then h.n * h.k * h.batch else 0, h.bfmt, h.bblk = 16),
    (if b && h.bblk ≠ 0 then h.n * ceilDiv h.k h.bblk * h.batch else 0, 0x30, h.bblk = 16),
    (if h.cin = 1 then h.m * h.n * h.batch else 0, 0x20, false),
    (if h.oscale = 2 then h.n else 0, 0x20, false),
    (if h.bias = 1 then h.n else 0, 0x20, false),
    (h.m * h.n * h.batch, h.ofmt, h.oblk = 16),
    (if h.oblk ≠ 0 then h.m * ceilDiv h.n h.oblk * h.batch else 0, 0x30, h.oblk = 16) ]

/-- Two runs of blocks share no byte. -/
def apart (x y : Nat × Nat) : Bool := x.2 = 0 || y.2 = 0 || x.1 + x.2 * 4104 ≤ y.1 || y.1 + y.2 * 4104 ≤ x.1

/-- Every pair of a list satisfies `p`. -/
def pairwise {α : Type} (p : α → α → Bool) : List α → Bool
  | [] => true
  | x :: l => l.all (p x) && pairwise p l

/-- Step 1 of R409. -/
def Header.valid (h : Header) : Bool :=
  h.version = 1 && 0x200 ≤ h.sealLen && h.sealLen ≤ 0x3E0000 && 1 ≤ h.batch && h.batch ≤ 256 && h.layer ≤ 4095 &&
    (h.core ≤ 4095 || h.core = 0xFFFF) && (h.hbm ≤ 7 || h.hbm = 0xFF) &&
    1 ≤ h.m && h.m ≤ 1024 && 1 ≤ h.n && h.n ≤ 1024 && 1 ≤ h.k && h.k ≤ 65536 &&
    blkOk h.afmt h.ablk && blkOk h.bfmt h.bblk && blkOk h.ofmt h.oblk && h.rmode ≤ 1 && h.act ≤ 1 &&
    h.cin ≤ 1 && h.oscale ≤ 2 && h.bias ≤ 1 && h.src ≤ 2 &&
    (List.zip h.roles h.desc).all (fun c =>
      c.2.2 = ceilDiv (packedBytes c.1.2.1 c.1.1) 4096 &&
        (c.2.2 = 0 || (c.2.1 % 8 = 0 && 0x200 ≤ c.2.1 && c.2.1 + c.2.2 * 4104 ≤ h.sealLen))) &&
    pairwise apart h.desc

/-- Step 2 of R409 (R406). -/
def classOk (s : State) (h : Header) : Bool :=
  if h.cls = 1 then (h.src = 1 || h.src = 2) && h.batch = 1
  else if h.cls = 2 then h.src = 0
  else 0x10 ≤ h.cls && h.cls < 0x80 && (match s.chk.ucode with | some u => u.2.getLsbD h.cls | none => false)

/-! ### The golden region (R408) -/

/-- The golden tensor, its scale tensor and the rows taken. -/
def region (s : State) (h : Header) : Option (Tensor × Option Tensor × Nat) :=
  match s.layer h.layer with
  | none => none
  | some m => match m.tensors[h.gTensor]? with
    | none => none
    | some t =>
      let fmt := if h.src = 2 then h.bfmt else h.afmt
      let blk := if h.src = 2 then h.bblk else h.ablk
      let rows := if h.src = 2 then h.n else h.m
      if t.fmt = fmt && t.blk = blk && (blk = 0 || h.gK0 % blk = 0) && h.gK0 + h.k ≤ t.klen && h.gRow0 + rows ≤ t.rows then
        if blk = 0 then some (t, none, rows)
        else match m.tensors[t.scaleT]? with
          | some st => some (t, some st, rows)
          | none => none
      else none

/-- The first and last byte of a run of `n` elements from element `e` of a stream (R368). -/
def spanBytes (fmt e n : Nat) : Nat × Nat :=
  if fmtBits fmt = 6 then (3 * (e / 4), 3 * ((e + n - 1) / 4) + 2)
  else (e * fmtBits fmt / 8, ((e + n) * fmtBits fmt - 1) / 8)

/-- Blocks that runs of elements lie in, in rising order. -/
def blocksOf (fmt : Nat) (runs : List (Nat × Nat)) : List Nat :=
  sortBy (fun a b => decide (a ≤ b)) ((runs.flatMap (fun r =>
    let b := spanBytes fmt r.1 r.2
    (List.range (b.2 / 4096 + 1 - b.1 / 4096)).map (fun i => b.1 / 4096 + i))).eraseDups)

/-- Reading golden blocks in rising order; the first that is bad ends it: its judgement and its number (R410). -/
def goldenRun (t : Tensor) : List Nat → List (Nat × Bytes) → List LineErr × State →
    Option (Judged × Nat) × List (Nat × Bytes) × List LineErr × State
  | [], acc, r => (none, acc, r)
  | b :: l, acc, r =>
    let x := readBlock t b r
    let s := { x.2.2.2 with chk := { x.2.2.2.chk with goldenNow := x.2.2.2.chk.goldenNow + 4104 } }
    if x.1 = .good then goldenRun t l (acc ++ [(b, x.2.1.take 4096)]) (x.2.2.1, s)
    else (some (x.1, b), acc, x.2.2.1, s)

/-- A byte of a tensor's stream from the payloads read. -/
def goldenByte (pays : List (Nat × Bytes)) (a : Nat) : Nat := ((Assoc.get [] pays (a / 4096)).getD (a % 4096) 0).toNat

/-! ### The reference output and the comparison (R407, R411) -/

/-- Byte `b` of the stream of a descriptor of the record in area `a`. -/
def descByte (s : State) (a : Fin 64) (h : Header) (d b : Nat) : Nat :=
  (Mem.get 0 s.chk.bar4 (areaBase a.1 + (h.desc.getD d (0, 0)).1 + b / 4096 * 4104 + b % 4096)).toNat

/-- An operand element with its scale applied: `el` and `sc` give the codes. -/
def operand (fmt blk : Nat) (el sc : Nat) : Num := if blk = 0 then decodeElem fmt el else scaledBy sc (decodeElem fmt el)

/-- Batch entry `i` of a record as a tile; golden codes come from the payloads read (R371, R403, R407, R408). -/
def tileOf (s : State) (a : Fin 64) (h : Header) (i : Nat) (golden : Option (Tensor × List (Nat × Bytes) × List (Nat × Bytes)))
    (act : Option ActTable) : Tile :=
  let rec_ := fun (d fmt e : Nat) => packedElem (s.descByte a h d) fmt e
  let fromRec := fun (d fmt blk rows r k : Nat) =>
    operand fmt blk (rec_ d fmt (i * rows * h.k + r * h.k + k))
      (if blk = 0 then 0 else rec_ (d + 1) 0x30 (i * rows * ceilDiv h.k blk + r * ceilDiv h.k blk + k / blk))
  let fromBasin := fun (fmt blk r k : Nat) => match golden with
    | none => Num.nan
    | some (t, els, scs) =>
      let row := h.gRow0 + r
      operand fmt blk (packedElem (goldenByte els) fmt (row * t.klen + h.gK0 + k))
        (if blk = 0 then 0 else goldenByte scs (row * ceilDiv t.klen blk + (h.gK0 + k) / blk))
  { m := h.m, n := h.n, k := h.k
    a := fun r k => if h.src = 1 then fromBasin h.afmt h.ablk r k else fromRec 0 h.afmt h.ablk h.m r k
    b := fun k c => if h.src = 2 then fromBasin h.bfmt h.bblk c k else fromRec 2 h.bfmt h.bblk h.n c k
    cin := if h.cin = 1 then some (fun r c => rec_ 4 0x20 (i * h.m * h.n + r * h.n + c)) else none
    oscale := if h.oscale = 0 then none else if h.oscale = 1 then some (fun _ => h.oscaleVal) else some (fun c => rec_ 5 0x20 c)
    bias := if h.bias = 1 then some (fun c => rec_ 6 0x20 c) else none
    act, ofmt := h.ofmt, oblk := h.oblk, stochastic := h.rmode = 1, seed := BitVec.ofNat 64 h.seed, layer := h.layer
    tile := (h.tile + i) % 2 ^ 32 }

/-- What the comparison has found so far: the first difference (entry, element, reference and DX codes) and the two counts. -/
structure Diff where
  first : Option (Nat × Nat × Nat × Nat)
  codes : Nat
  scales : Nat
  deriving DecidableEq, Repr

/-- Comparing one batch entry with descriptors 7 and 8 (R411). -/
def compareEntry (s : State) (a : Fin 64) (h : Header) (i : Nat) (ref : List Nat × List Nat) (d : Diff) : Diff :=
  let nb := if h.oblk = 0 then 0 else ceilDiv h.n h.oblk
  let dx := fun (e : Nat) => packedElem (s.descByte a h 7) h.ofmt (i * h.m * h.n + e)
  let dxs := fun (e : Nat) => packedElem (s.descByte a h 8) 0x30 (i * h.m * nb + e)
  let sbad := fun (e : Nat) => dxs e ≠ ref.2.getD e 0
  let bad := (List.range (h.m * h.n)).filter (fun e => dx e ≠ ref.1.getD e 0)
  let hit := (List.range (h.m * h.n)).find? (fun e =>
    dx e ≠ ref.1.getD e 0 || (h.oblk ≠ 0 && sbad (e / h.n * nb + e % h.n / h.oblk)))
  { first := match d.first, hit with
      | none, some e => some (i, e, ref.1.getD e 0, dx e)
      | f, _ => f
    codes := d.codes + bad.length
    scales := d.scales + ((List.range (h.m * nb)).filter sbad).length }

/-! ### Judging a record (R409 to R411) -/

/-- The judgement of every block of a record: descriptor, block and what it is (R410). -/
def recordBlocks (s : State) (a : Fin 64) (h : Header) : List (Nat × Nat × Judged) :=
  ((List.zip h.roles h.desc).zipIdx).flatMap (fun c =>
    (List.range c.1.2.2).map (fun j =>
      (c.2, j, judgeBlock (Mem.read 0 s.chk.bar4 (areaBase a.1 + c.1.2.1 + j * 4104) 4104) j c.1.1.2.1 c.1.1.2.2)))

def isTag : Judged → Option Nat
  | .tag r => some r
  | _ => none

/-- Steps 7 and 8. -/
def compareRecord (s : State) (a : Fin 64) (h : Header) (golden : Option (Tensor × List (Nat × Bytes) × List (Nat × Bytes)))
    (act : Option ActTable) (r : CheckRes) : CheckRes :=
  let raw := if h.cls < 0x10 then [] else Mem.read 0 s.chk.bar4 (areaBase a.1) h.sealLen
  let d := (List.range h.batch).foldl (fun d i =>
    s.compareEntry a h i (if h.cls < 0x10 then (s.tileOf a h i golden act).output else Config.ucodeOutput h.cls raw i) d)
    { first := none, codes := 0, scales := 0 }
  let f := d.first.getD (0, 0, 0, 0)
  { r with
    outcome := if d.codes = 0 && d.scales = 0 then 0 else 1
    firstEntry := f.1, firstDiff := f.2.1, refCode := f.2.2.1, dxCode := f.2.2.2, diffCount := d.codes, scaleDiff := d.scales }

/-- Steps 6 to 8. -/
def judgeGolden (a : Fin 64) (h : Header) (act : Option ActTable) (r : CheckRes) (x : List LineErr × State) : CheckRes × State :=
  let count := fun (s : State) => { s with chk := { s.chk with opsNow := s.chk.opsNow + 2 * h.m * h.n * h.k * h.batch } }
  if h.cls ≠ 1 then (x.2.compareRecord a h none act r, count x.2)
  else match x.2.region h with
    | none => (r, x.2)
    | some (t, st, rows) =>
      let stop := fun (d : Nat) (j : Judged × Nat) => match j.1 with
        | .tag c => { r with outcome := 3, reason := c, flags := r.flags ||| 2, badDesc := d, badBlock := j.2 }
        | _ => { r with outcome := 2, reason := 5, flags := r.flags ||| 2, badDesc := d, badBlock := j.2 }
      let els := blocksOf t.fmt ((List.range rows).map (fun i => ((h.gRow0 + i) * t.klen + h.gK0, h.k)))
      let y := goldenRun t els [] (x.1, x.2.basinTraffic)
      match y.1 with
      | some j => (stop 9 j, y.2.2.2)
      | none => match st with
        | none => (y.2.2.2.compareRecord a h (some (t, y.2.1, [])) act r, count y.2.2.2)
        | some sc =>
          let nb := ceilDiv t.klen t.blk
          let scs := blocksOf 0x30 ((List.range rows).map (fun i => ((h.gRow0 + i) * nb + h.gK0 / t.blk, ceilDiv h.k t.blk)))
          let z := goldenRun sc scs [] y.2.2
          match z.1 with
          | some j => (stop 10 j, z.2.2.2)
          | none => (z.2.2.2.compareRecord a h (some (t, y.2.1, z.2.1)) act r, count z.2.2.2)

/-- Steps 5 to 8. -/
def judgeBlocks (a : Fin 64) (h : Header) (act : Option ActTable) (r : CheckRes) (x : List LineErr × State) : CheckRes × State :=
  let bs := x.2.recordBlocks a h
  match bs.findSome? (fun b => (isTag b.2.2).map (fun c => (b.1, b.2.1, c))) with
  | some (d, j, c) => ({ r with outcome := 3, reason := c, badDesc := d, badBlock := j }, x.2)
  | none => match bs.find? (fun b => b.2.2 = .poisoned) with
    | some b => ({ r with outcome := 2, reason := 5, badDesc := b.1, badBlock := b.2.1 }, x.2)
    | none => judgeGolden a h act r x

/-- The check of a record, step by step (R409); what it read from the Basin has had its effects. -/
def judgeRecord (a : Fin 64) (errs : List LineErr) (s : State) : CheckRes × State :=
  let r := s.plainResult a 0
  let h := s.header a
  if (s.chk.areas.get a).mapChanged then ({ r with reason := 6 }, s)
  else if !h.valid then ({ r with reason := 1 }, s)
  else
    let plain := bits r.flags 2 2 = 0
    let sel := s.selectedRecord (Fin.ofNat 8 (a.1 / 8)) h.layer h.tile r.step r.sealTick
    let r := { r with formed := true, flags := if plain && !sel then r.flags ||| 1 else r.flags }
    if !s.classOk h then ({ r with reason := 2 }, s)
    else if h.cls = 1 && (s.region h).isNone then ({ r with reason := 3 }, s)
    else
      let dimm : Bool := match s.region h with | some g => h.cls = 1 && dimmBase ≤ g.1.base | none => false
      let r := { r with flags := if dimm then r.flags ||| 16 else r.flags }
      if h.act = 0 then judgeBlocks a h none r (errs, s)
      else match (s.layer h.layer).bind (fun m => if m.act = 0xFF then none else s.actTable m.act) with
        | none => ({ r with reason := 4 }, s)
        | some (base, len) =>
          let x := readBytes base len (errs, s.basinTraffic)
          let t := { x.2.2.2 with chk := { x.2.2.2.chk with goldenNow := x.2.2.2.chk.goldenNow + len } }
          match x.1 with
          | l :: _ => ({ r with reason := 5, flags := r.flags ||| 2, badDesc := 11, badBlock := l / 64 - base / 64 }, t)
          | [] => match ActTable.parse x.2.1 with
            | none => ({ r with reason := 4 }, t)
            | some tb => judgeBlocks a h (some tb) r (x.2.2.1, t)

/-- A record's check reads the Basin (R67). -/
def needsBasin (s : State) (a : Fin 64) : Bool :=
  let h := s.header a
  !(s.chk.areas.get a).mapChanged && h.valid && s.classOk h && (h.cls = 1 || h.act = 1)

/-! ### Replies (R419 to R421) -/

def engineCode (s : State) : Nat :=
  if s.chk.paused ≠ [] then 3 else match s.chk.eng with | .stopped => 0 | .starting => 1 | .running => 2

/-- UCODE_CLASSES (R419). -/
def ucodeMask (s : State) : Nat :=
  6 + (match s.chk.ucode with | some u => u.2.toNat / 2 ^ 16 * 2 ^ 16 | none => 0)

/-- An entry of the result log (R421). -/
def logBytes (r : CheckRes) : Bytes :=
  natLE 8 r.seq ++ natLE 8 r.doneTick ++ natLE 8 r.step ++ natLE 4 r.tile ++ natLE 2 r.layer ++ natLE 2 r.core
    ++ [byte r.slot, byte r.area, byte r.outcome, byte r.reason, byte r.flags, byte r.hbm] ++ natLE 2 r.firstEntry
    ++ natLE 4 r.firstDiff ++ natLE 4 r.diffCount

end State

/-! ### BAR 4 events -/

/-- BAR4_RECORD_WRITE (R400). -/
def execBar4RecordWrite (area : Fin 64) (off : Nat) (data : Bytes) (s : State) : Host.Outcome State Fault Refusal :=
  go (if data = [] || 0x400000 ≤ off then s else s.bar4Access (fun t => t.areaWrite area off data))

/-- BAR4_SEAL_WRITE (R399). -/
def execBar4SealWrite (area : Fin 64) (data : Bytes) (s : State) : Host.Outcome State Fault Refusal :=
  go (if data = [] then s else s.bar4Access (fun t => t.areaWrite area 0 data))

/-- NOTEBOOK_WRITE (R505). -/
def execNotebookWrite (slot page : Fin 8) (off : Nat) (data : Bytes) (s : State) : Host.Outcome State Fault Refusal :=
  go (if 131072 ≤ off then s else s.bar4Access (fun t => t.nbWrite slot page.1 off data))

/-- NOTEBOOK_OPEN (R505). -/
def execNotebookOpen (slot : Fin 8) (s : State) : Host.Outcome State Fault Refusal :=
  go (s.bar4Access (fun t => t.nbWrite slot 0 8 (zeros 4)))

/-- NOTEBOOK_GEN_WRITE (R505). -/
def execNotebookGenWrite (slot : Fin 8) (gen : BitVec 32) (s : State) : Host.Outcome State Fault Refusal :=
  go (s.bar4Access (fun t => t.nbWrite slot 0 8 (natLE 4 gen.toNat)))

/-! ### The engine (R66, R409, R417) -/

/-- CHECK_ENGINE_START (R66): a start request for the check PLL (R65). -/
def execCheckEngineStart (s : State) : Host.Outcome State Fault Refusal :=
  go (if s.isFull && s.chk.eng = .stopped && s.waitingAreas ≠ [] then
        { s with
          chk := { s.chk with eng := .starting, idle := 0 }
          dev := { s.dev with plls := s.dev.plls.set 3 .starting } }
      else s)

/-- CHECK_ENGINE_STOP (R66): 16 frames have passed with no record waiting, and none is being checked. -/
def execCheckEngineStop (s : State) : Host.Outcome State Fault Refusal :=
  go (if s.chk.eng ≠ .stopped && 16 ≤ s.chk.idle && s.waitingAreas = [] &&
          (Vec.find s.chk.areas (fun x => x.st = .checking)).isEmpty then
        { s with
          chk := { s.chk with eng := .stopped, idle := 0 }
          dev := { s.dev with plls := s.dev.plls.set 3 .stopped } }
      else s)

/-- CHECK_START (R409): U2 starts the first record in order, unless a pause, a microcode load or a handover stops it (R420, R565, R576); one that needs the Basin starts it first and waits (R67, R417). -/
def execCheckStart (area : Fin 64) (errs : List LineErr) (s : State) : Host.Outcome State Fault Refusal :=
  go (if s.isFull && s.coreRuns 4 && s.chk.eng = .running && s.chk.paused = [] && !s.upd.liveDue && !s.handoverPause &&
          s.waitingAreas.head? = some area then
        if s.needsBasin area && s.basin.awake ≠ .awake then s.startBasin
        else
          let x := s.judgeRecord area errs
          x.2.setArea area { (x.2.chk.areas.get area) with st := .checking, res := some x.1 }
      else s)

/-- CHECK_DONE (R402). -/
def execCheckDone (area : Fin 64) (s : State) : Host.Outcome State Fault Refusal :=
  go (match (s.chk.areas.get area).st, (s.chk.areas.get area).res with
      | .checking, some r => s.endCheck area r
      | _, _ => s)

/-! ### The check opcodes (R418) -/

/-- CHECK_STATUS (R419); how many check tiles are at work while records are checked is a free value (log 84). -/
def State.checkStatusReply (s : State) : Bytes :=
  let busy := !(Vec.find s.chk.areas (fun x => x.st = .checking)).isEmpty
  let tiles := if busy then Config.tilesBusy s.free % 64 + 1 else 0
  [byte s.engineCode,
    byte (b2n (s.dev.plls.get 3 = .locked) + 2 * b2n (s.basin.awake = .awake) + 4 * b2n s.chk.ucode.isSome), byte tiles, 0]
    ++ natLE 4 (match s.chk.ucode with | some u => u.1 | none => 0) ++ natLE 16 s.ucodeMask ++ natLE 8 s.chk.nextSeq
    ++ (List.finRange 64).map (fun a => Mem.get 0 s.chk.bar4 (State.areaBase a.1 + 8))
    ++ natLE 8 s.chk.opsLast ++ natLE 8 s.chk.goldenLast ++ natLE 8 s.chk.recordLast ++ zeros 8

/-- CHECK_RESULTS (R421). -/
def State.checkResultsReply (ps : Bytes) (s : State) : Bytes :=
  let next := s.chk.nextSeq - s.chk.owed.length
  let oldest := next - s.chk.log.length
  let es := (s.chk.log.filter (fun r => ps.num 0 8 ≤ r.seq)).take (ps.num 8 2)
  natLE 8 oldest ++ natLE 8 next ++ natLE 2 es.length ++ zeros 6 ++ es.flatMap State.logBytes

def checkStatusOp : OpSpec where
  opcode := 0x0501
  keeper := false
  feats := [6]
  plen := some 0
  check := OpSpec.free4
  bound := fun _ _ _ => 1000
  run := fun p _ b s => (s.answer p b .ok s.checkStatusReply).drawn

def execCheckStatus (p : Port) (tag : BitVec 32) (params : Bytes) (s : State) : Host.Outcome State Fault Refusal :=
  go (s.submit checkStatusOp p tag params)

def checkResultsOp : OpSpec :=
  { OpSpec.query 0x0502 false [6] 16 (fun _ ps _ => firstFail [(.badParam, decide (ps.num 8 2 = 0 ∨ 79 < ps.num 8 2))]) State.checkResultsReply with
    bound := fun _ _ _ => 2000 }

def execCheckResults (p : Port) (tag : BitVec 32) (params : Bytes) (s : State) : Host.Outcome State Fault Refusal :=
  go (s.submit checkResultsOp p tag params)

/-- CHECK_CONTROL (R420). -/
def checkControlOp : OpSpec where
  opcode := 0x0503
  keeper := false
  feats := [6]
  plen := some 8
  check := fun _ ps _ => firstFail [(.badParam, decide (2 < ps.num 0 1))]
  bound := fun _ _ _ => 0
  run := fun p ps _ s =>
    let o := State.ownerOfPort p
    let running := (Vec.find s.chk.areas (fun x => x.st = .checking)).length
    let waiting := s.waitingAreas.length
    let rest := s.chk.paused.filter (fun x => x ≠ o)
    let s := match ps.num 0 1 with
      | 0 => { s with chk := { s.chk with paused := rest } }
      | 1 => { s with chk := { s.chk with paused := rest ++ [o] } }
      | _ => s.endWaiting 8
    s.answerNow p .ok ([byte s.engineCode, byte running, byte waiting] ++ zeros 5)

def execCheckControl (p : Port) (tag : BitVec 32) (params : Bytes) (s : State) : Host.Outcome State Fault Refusal :=
  go (s.submit checkControlOp p tag params)

end Sys2Proof.Machine
end

