-- ==== Sys2Proof/Machine/Packs.lean ====
section
/-!
DEFINITION. The test-pack store: free blocks, the directory's rewriting and the checks of a pack (R464, R564, R568, R569, R572).
-/

namespace Sys2Proof.Machine

namespace State

/-- Data blocks that a file of `n` bytes takes (R568). -/
def packBlocks (n : Nat) : Nat := ceilDiv n 65536
/-- A data block belongs to an installed pack. -/
def packUses (s : State) (b : Nat) : Bool := s.packs.any (fun e => decide (e.first ≤ b ∧ b < e.first + e.blocks))
/-- The first run of free blocks that holds `n` bytes, unless 32 packs are installed (R569). -/
def packPlace (s : State) (n : Nat) : Option Nat :=
  if 32 ≤ s.packs.length then none
  else (List.range 254).find? (fun b =>
    b + packBlocks n ≤ 254 && (List.range (packBlocks n)).all (fun k => !s.packUses (b + k)))
/-- Flash offset of a data block. -/
def packBlockAt (b : Nat) : Nat := storeBase + 0x20000 + b * 0x10000

/-- Programming a directory that lists these packs into the older copy, with SEQ one higher (R569). -/
def writePackDir (es : List PackEntry) (s : State) : State :=
  let n := match s.packDir with | some k => 1 - k | none => 0
  let seq := match s.packDir with | some k => s.packSeq k + 1 | none => 1
  let b := ascii "SKPD" ++ natLE 2 1 ++ natLE 2 es.length ++ natLE 4 seq ++ zeros 4 ++ Bytes.fit (es.flatMap PackEntry.bytes) 1536
  let s := (s.flashErase (packCopy n) 0x10000).flashWrite (packCopy n) (b ++ natLE 4 (crc32c b))
  s.measurePacks.judgeDormancy

/-- The checks of a pack once its file is whole: HASH, FLASH and SIGNATURE (R564 steps 2 and 3). -/
def packWhy (s : State) (h : ImgHeader) (body : Bytes) : Option Why :=
  firstWhy [(.hash, sha256 body ≠ h.bodySha), (.flash, crc32c body ≠ h.bodyCrc), (.signature, !(s.keyOk h && sigOk h))]

/-- The store holds this PACK_ID and VERSION. -/
def packHeld (s : State) (id version : Nat) : Bool := s.packs.any (fun e => e.id = id && e.version = version)

/-- Slots that hold a pack which the store no longer holds take the next one from its start (R500). -/
def packGone (id : Nat) (s : State) : State :=
  { s with slots := Vec.mapIdx s.slots (fun _ x =>
    if x.pack.map (fun p => p.1) = some id then { x with pack := none, packDone := false } else x) }

/-- Listing the file that stands whole in data blocks from `first` on, in place of any pack of the same PACK_ID (R569). -/
def listPack (first : Nat) (file : Bytes) (s : State) : State :=
  let h := ImgHeader.parse (file.take 1024)
  let id := Bytes.num file 1024 4
  if s.packHeld id h.version then s
  else
    let e : PackEntry := { id, version := h.version, first, blocks := packBlocks file.length, len := file.length, sha := h.bodySha }
    (s.packGone id).writePackDir (s.packs.filter (fun x => x.id ≠ id) ++ [e])

/-- Taking a pack out of the store (R559, R569). -/
def removePack (id : Nat) (s : State) : State := (s.packGone id).writePackDir (s.packs.filter (fun x => x.id ≠ id))

/-- TESTS of an installed pack, and entry `k` of its test table: TEST_ID and DURATION (R464). -/
def packTests (s : State) (e : PackEntry) : Nat := s.flashNum (packAt e + 1024 + 4) 2
def packTest (s : State) (e : PackEntry) (k : Nat) : Nat × Nat :=
  let a := packAt e + 1024 + 0x10 + 16 * k
  (s.flashNum a 2, s.flashNum (a + 4) 4)
/-- DX_MIN and DX_MAX admit a firmware version (R464, R500). -/
def packServes (s : State) (e : PackEntry) (v : Nat) : Bool :=
  s.flashNum (packAt e + 1024 + 8) 4 ≤ v && v ≤ s.flashNum (packAt e + 1024 + 12) 4

/-- The pack that a group's LULL_PACK selects: a named one that is not dormant, or with 0 the newest that is not (R453, R572); the newest is the last
listed. -/
def selectedPack (s : State) (g : Nat) : Option PackEntry :=
  let v := s.fld 0x50 g 0xA
  let live := s.packs.filter (fun e => !s.dormant e)
  if v = 0 then live.getLast? else live.find? (fun e => e.id = v)

end State

end Sys2Proof.Machine
end

