-- ==== Sys2Proof/Machine/Ledger.lean ====
section
/-!
DEFINITION. Unit histories and their journal in flash: entries, segments, snapshots and replay (R466 to R469).
-/

namespace Sys2Proof.Machine

/-- Code of a unit's state (R467). -/
def UnitState.num : UnitState → Nat
  | .clean => 0 | .transient => 1 | .permanent => 2 | .fenced => 3
def UnitState.ofNum (n : Nat) : UnitState := if n = 1 then .transient else if n = 2 then .permanent else if n = 3 then .fenced else .clean

/-- A unit without history. -/
def freshUnit : UnitSt :=
  { st := .clean, samples := 0, mismatches := 0, mmOrd := [], lullFails := 0, deviations := 0, remapped := false, entered := 0,
    dirty := false, wrote := 0, jseq := 0, rtc := 0 }

namespace State

def unit? (s : State) (k : UnitKey) : Option UnitSt := (s.integ.units.find? (fun c => c.1 = k)).map (fun c => c.2)
def unit (s : State) (k : UnitKey) : UnitSt := (s.unit? k).getD freshUnit
/-- Changing a unit, which is created when it has no history yet (R466). -/
def updUnit (k : UnitKey) (f : UnitSt → UnitSt) (s : State) : State :=
  { s with integ := { s.integ with
    units := if (s.unit? k).isSome then s.integ.units.map (fun c => if c.1 = k then (k, f c.2) else c)
      else s.integ.units ++ [(k, f freshUnit)] } }
/-- The units of a slot: cores and stacks of the DX last identified in it, and the slot (R466). -/
def unitsOf (s : State) (i : Fin 8) : List (UnitKey × UnitSt) :=
  s.integ.units.filter (fun c => if c.1.kind = 2 then c.1.index = i.1 else c.1.serial = (s.slot i).lastSerial)
/-- The slot that a unit's entry names: the one its DX was last identified in, 0xFF for none (log 86). -/
def slotOfUnit (s : State) (k : UnitKey) : Nat :=
  if k.kind = 2 then k.index
  else match (List.finRange 8).find? (fun i => (s.slot i).lastSerial = k.serial) with | some i => i.1 | none => 0xFF

/-! ### Entries (R469) -/

/-- MAGIC, TYPE, STATE and JSEQ. -/
def entryHead (type st jseq : Nat) : Bytes := natLE 2 0x4C44 ++ [byte type, byte st] ++ natLE 4 jseq
/-- The CRC at the end of an entry. -/
def sealEntry (b : Bytes) : Bytes := b ++ natLE 4 (crc32c b)
/-- A segment header, a snapshot's begin or its end. -/
def markEntry (type jseq rtc : Nat) : Bytes := sealEntry (entryHead type 0 jseq ++ zeros 56 ++ natLE 8 rtc ++ zeros 20)

/-- A unit record. -/
def unitEntry (s : State) (k : UnitKey) (u : UnitSt) (jseq rtc : Nat) : Bytes :=
  let margin := if k.kind = 2 then (s.islot (Fin.ofNat 8 k.index)).ladder else 0
  let ords := u.mmOrd.take 3
  sealEntry (entryHead 1 (UnitState.num u.st) jseq ++ natLE 8 (if k.kind = 2 then 0 else k.serial) ++ [byte k.kind, byte (s.slotOfUnit k)]
    ++ natLE 2 k.index ++ [byte margin, byte (min u.lullFails 255)] ++ natLE 2 (min u.deviations 65535) ++ natLE 8 u.samples
    ++ natLE 4 (min u.mismatches 0xFFFFFFFF) ++ natLE 4 (b2n u.remapped)
    ++ ords.flatMap (fun o => natLE 8 o) ++ List.replicate (24 - 8 * ords.length) 0xFF ++ natLE 8 rtc ++ zeros 20)

def entryOk (b : Bytes) : Bool := b.num 0 2 = 0x4C44 && b.num 0x5C 4 = crc32c (b.take 0x5C)
def entryKey (b : Bytes) : UnitKey := { kind := b.num 0x10 1, serial := b.num 8 8, index := b.num 0x12 2 }
def entryUnit (b : Bytes) : UnitSt :=
  { st := UnitState.ofNum (b.num 3 1), samples := b.num 0x18 8, mismatches := b.num 0x20 4
    mmOrd := [b.num 0x28 8, b.num 0x30 8, b.num 0x38 8].filter (fun o => o ≠ 2 ^ 64 - 1)
    lullFails := b.num 0x15 1, deviations := b.num 0x16 2, remapped := b.num 0x24 1 % 2 = 1, entered := b.num 0x18 8
    dirty := false, wrote := 0, jseq := b.num 4 4, rtc := b.num 0x40 8 }

/-! ### Writing -/

def ledgerBase : Nat := 0x2500000
def segAt (k : Nat) : Nat := ledgerBase + k * 0x100000
/-- A segment is erased. -/
def segFree (s : State) (k : Nat) : Bool := !s.boot.flash.any (fun c => segAt k ≤ c.1 && c.1 < segAt k + 0x100000)
def freeSegs (s : State) : Nat := ((List.range 64).filter s.segFree).length

/-- Writing one entry, built from its JSEQ, where the journal stands; a full segment is followed by the next free one, whose header is written
first. -/
def ledgerPut (f : Nat → Bytes) (s : State) : State :=
  let s :=
    if s.integ.head % 0x100000 = 0 || 10922 * 96 ≤ s.integ.head % 0x100000 then
      let cur := s.integ.head / 0x100000
      let k := ((List.range 64).map (fun d => (cur + d) % 64)).find? s.segFree |>.getD cur
      let s := s.flashWrite (segAt k) (markEntry 0 (s.integ.jseq + 1) s.rst.rtcSec)
      { s with integ := { s.integ with head := k * 0x100000 + 96, jseq := s.integ.jseq + 1 } }
    else s
  let s := s.flashWrite (ledgerBase + s.integ.head) (f (s.integ.jseq + 1))
  { s with integ := { s.integ with head := s.integ.head + 96, jseq := s.integ.jseq + 1 } }

/-- Writing a unit's record (R468). -/
def writeUnit (k : UnitKey) (s : State) : State :=
  let u := s.unit k
  let s := s.ledgerPut (fun j => s.unitEntry k u j s.rst.rtcSec)
  s.updUnit k (fun u => { u with dirty := false, wrote := s.lt, jseq := s.integ.jseq, rtc := s.rst.rtcSec })

/-- The journal runs short of free segments, and a snapshot is due (R469). -/
def judgeCompaction (s : State) : State :=
  { s with integ := { s.integ with compacting := decide (s.freeSegs < 8) } }

/-- The snapshot of every live unit between a begin and an end entry; then the segments older than the begin entry are erased (R469). -/
def ledgerSnapshot (s : State) : State :=
  let s := s.ledgerPut (fun j => markEntry 2 j s.rst.rtcSec)
  let first := s.flashNum (segAt ((s.integ.head - 96) / 0x100000) + 4) 4
  let s := (s.integ.units.map (fun c => c.1)).foldl (fun t k => t.writeUnit k) s
  let s := s.ledgerPut (fun j => markEntry 3 j s.rst.rtcSec)
  (List.range 64).foldl (fun t k => if !t.segFree k && t.flashNum (segAt k + 4) 4 < first then t.flashErase (segAt k) 0x100000 else t) s

/-! ### Replay at start-up (R468, R469) -/

/-- The entries of a segment from an address on, up to the first whose CRC fails. -/
def segEntries (s : State) : (a n : Nat) → List Bytes
  | _, 0 => []
  | a, n + 1 =>
    let b := s.flashRead a 96
    if entryOk b then b :: segEntries s (a + 96) n else []

/-- One entry of the replay. -/
def replayEntry (s : State) (b : Bytes) : State :=
  if b.num 2 1 ≠ 1 then s
  else
    let k := entryKey b
    let s := s.updUnit k (fun _ => { entryUnit b with wrote := s.lt })
    if k.kind = 2 then s.updIslot (Fin.ofNat 8 k.index) (fun x => { x with ladder := b.num 0x14 1 }) else s

/-- Reading the ledger: the newest snapshot with a valid end, then the later entries in JSEQ order. -/
def ledgerLoad (s : State) : State :=
  let segs := (List.range 64).filterMap (fun k => if s.segFree k then none else some (k, s.segEntries (segAt k) 10922))
  let es := sortBy (fun a b => decide (a.num 4 4 ≤ b.num 4 4)) (segs.flatMap (fun c => c.2))
  let stop := (es.filter (fun b => b.num 2 1 = 3)).getLast?.map (fun b => b.num 4 4)
  let from_ := match stop with
    | some e => ((es.filter (fun b => b.num 2 1 = 2 && decide (b.num 4 4 < e))).getLast?.map (fun b => b.num 4 4)).getD 0
    | none => 0
  let last := match es.getLast? with | some b => b.num 4 4 | none => 0
  let head := match segs.find? (fun c => c.2.any (fun b => b.num 4 4 = last)) with
    | some (k, l) =>
      if s.flashRead (segAt k + 96 * l.length) 96 = List.replicate 96 0xFF then k * 0x100000 + 96 * l.length else k * 0x100000
    | none => 0
  let s := { s with integ := { s.integ with
    units := [], jseq := last, head := head
    slots := Vec.mapIdx s.integ.slots (fun _ x => { x with ladder := 0 }) } }
  ((es.filter (fun b => from_ < b.num 4 4)).foldl replayEntry s).judgeCompaction

end State

end Sys2Proof.Machine
end

