-- ==== Sys2Proof/Machine/Integrity.lean ====
section
/-!
DEFINITION. The silent-error policy: classification of evidence, the margin ladder and fencing, missing samples, Lull tests, votes, the
ledger's writing, and packs over the fabric (R450 to R484).
-/

namespace Sys2Proof.Machine

namespace State

/-! ### Margin (R240, R471, R503) -/

/-- The ladder of a slot, which its slot unit holds (R471). -/
def setLadder (i : Fin 8) (k : Nat) (s : State) : State :=
  (s.updIslot i (fun x => { x with ladder := k })).updUnit (slotUnit i) (fun u => { u with dirty := true })

/-- VOUT_COMMAND for a base and a ladder step in LINEAR16, rounded to the nearest code with ties up (R503). -/
def voutCode (mode : Byte) (base k : Nat) : Nat :=
  let e := 2 ^ (16 + toSigned 5 (mode.toNat % 32)).toNat
  base + (2 * k * 65536 + 100 * e) / (200 * e)

/-- The set point of step `k` would lie less than 20 mV below the rail's high threshold (R240). -/
def overHigh (s : State) (n : Fin 64) (mode : Byte) (base k : Nat) : Bool :=
  let e := 2 ^ (16 + toSigned 5 (mode.toNat % 32)).toNat
  decide (s.fld 0x20 n.1 0xB * s.fld 0x20 n.1 9 * 2048 < 5 * (1000 * base * e + (10 * k + 20) * 65536))

/-- The margin of a slot is exhausted: no core rail, the ladder at MAX_STEPS, a mode that is not LINEAR16, or a step that R240 refuses
(R471, R503). -/
def marginExhausted (s : State) (i : Fin 8) : Bool :=
  let k := (s.islot i).ladder
  match s.coreRail i with
  | none => true
  | some n => s.fld 0x52 0 2 ≤ k ||
      (match (s.slot i).base with
       | some (mode, base) => mode / 32 ≠ 0 || s.overHigh n (byte mode) base (k + 1)
       | none => false)

/-- Writing the ladder's set point to the core rail; one that has no base yet, or that PMBus does not take, is counted (R503, R512). -/
def writeMargin (i : Fin 8) (ack : Bool) (s : State) : State :=
  match s.coreRail i with
  | none => s
  | some n =>
    match (s.slot i).base with
    | none => s.noticeSlot (0x07B0 + i.1) i
    | some (mode, base) =>
      if mode / 32 ≠ 0 then s
      else
        let k := (s.islot i).ladder
        let c := s.fld 0x20 n.1 6
        let s := if bit c 14 then s.send (.pmbus (bits c 0 2) (bits c 2 7) (bits c 9 5) 0x00 [byte (bits c 9 5)]) else s
        let s := s.send (.pmbus (bits c 0 2) (bits c 2 7) (bits c 9 5) 0x21 (natLE 2 (voutCode (byte mode) base k)))
        if ack then s.updRail n (fun r => { r with margin := k }) else s.noticeSlot (0x07B0 + i.1) i

/-! ### The integrity cause (R473) -/

/-- A fenced core of a RUNNING member slot lacks the remapped flag. -/
def fencedHere (s : State) (g : Nat) : Bool :=
  (s.members g).any (fun i => s.running i && s.integ.units.any (fun c =>
    c.1.kind = 0 && c.1.serial = (s.slot i).lastSerial && c.2.st = .fenced && !c.2.remapped))

/-- Bringing the requests of the integrity cause up to date (R473, R27). -/
def integRefresh (s : State) : State :=
  s.groupsHere.foldl (fun t g =>
    let r := if t.fencedHere g then t.fld 0x52 0 4 else 0
    if (t.grp g).integ = r then t
    else
      let t := t.updGrp g (fun x => { x with integ := r })
      if t.localGroup g then t else t.issueCadence g false) s

/-! ### Classification (R450 to R452, R467, R471, R472) -/

/-- Fencing a unit (R472). -/
def fenceUnit (i : Fin 8) (k : UnitKey) (s : State) : State :=
  let s := s.updUnit k (fun u => { u with st := .fenced, remapped := false, dirty := true })
  if k.kind = 2 then
    let ab := s.absorbs 3 (some i)
    let s := s.raise 0x06C4 3 (some i)
    if ab then s else s.quarantine i 2 none
  else
    let s := s.raise (if k.kind = 0 then 0x06C2 else 0x06C3) 2 (some i)
    let s := s.updIslot i (fun x => { x with fences := x.fences ++ [(decide (k.kind = 1), k.index)] })
    s.integRefresh

/-- What the history of a charged unit calls for: a margin step at the next boundary, or fencing (R471, R472). A slot whose rails are off
makes no step. -/
def actUnit (i : Fin 8) (k : UnitKey) (s : State) : State :=
  let perm : Bool := (s.unit k).st = .permanent
  if k.kind = 1 then (if perm then s.fenceUnit i k else s)
  else if s.marginExhausted i then (if perm then s.fenceUnit i k else s)
  else if s.powered i then s.updIslot i (fun x => { x with stepDue := some (s.boundaryAfter 1, k) })
  else s

/-- The items that were absorbed, once no action runs: oldest first, up to one whose action runs (R615). -/
def actItems (i : Fin 8) : List UnitKey → State → State
  | [], s => s.updIslot i (fun x => { x with items := [] })
  | k :: ks, s =>
    let s := s.actUnit i k
    if 2 ≤ s.runningLevel (some i) then s.updIslot i (fun x => { x with items := ks }) else actItems i ks s
def nextItem (i : Fin 8) (s : State) : State :=
  if (s.islot i).items = [] || 2 ≤ s.runningLevel (some i) then s else s.actItems i (s.islot i).items

/-- A sample of a unit (R450, R467): a TRANSIENT unit without a mismatch for 10^6 samples is CLEAN again. -/
def chargeSample (k : UnitKey) (s : State) : State :=
  if (s.unit? k).isNone then s
  else s.updUnit k (fun u =>
    let n := u.samples + 1
    if u.st = .transient && max u.entered (u.mmOrd.headD 0) + 1000000 ≤ n then { u with samples := n, st := .clean, dirty := true }
    else { u with samples := n })

/-- The history of a unit after a mismatch or a Lull failure, before its state moves. -/
def charged (e : Evidence) (u : UnitSt) : UnitSt :=
  let n := u.samples + 1
  if e.kind = .mismatch then { u with samples := n, mismatches := u.mismatches + 1, mmOrd := (n :: u.mmOrd).take 3, dirty := true }
  else { u with samples := n, lullFails := u.lullFails + 1, dirty := true }

/-- 3 mismatches within the last 10^6 samples (R468). -/
def thrice (u : UnitSt) : Bool := match u.mmOrd with | [_, _, o] => decide (u.samples < o + 1000000) | _ => false

/-- Charging a mismatch or a Lull failure. -/
def chargeBad (e : Evidence) (s : State) : State :=
  let i := e.slot
  let s := s.updUnit e.key (charged e)
  let s := if (s.unit e.key).st = .clean then
      (s.updUnit e.key (fun u => { u with st := .transient, entered := u.samples })).noticeSlot 0x06C0 i else s
  let s := if (s.unit e.key).st = .transient && (e.retest || (e.kind = .mismatch && thrice (s.unit e.key))) then
      (s.updUnit e.key (fun u => { u with st := .permanent })).noticeSlot 0x06C1 i else s
  let s := if e.key.kind = 1 then s else s.updIslot i (fun x => { x with quiet := s.lt })
  let ab := s.absorbs 2 (some i)
  let s := s.raise ((if e.kind = .mismatch then 0x0698 else 0x06A0) + i.1) 2 (some i)
  if ab then s.updIslot i (fun x => { x with items := x.items ++ [e.key] }) else s.actUnit i e.key

/-- Classifying one item (R452). -/
def classify (e : Evidence) (s : State) : State := if e.kind = .sample then s.chargeSample e.key else s.chargeBad e

/-- A power deviation of a slot: counted, kept for 3,600 s, and charged in groups of DEV_LIMIT (R36, R451). -/
def deviation (i : Fin 8) (s : State) : State :=
  let s := (s.count (0x0690 + i.1)).updUnit (slotUnit i) (fun u => { u with deviations := u.deviations + 1, dirty := true })
  let lim := s.fld 0x52 0 5
  let devs := (s.islot i).devs.filter (fun t => s.lt < t + 3600000000) ++ [s.lt]
  let full : Bool := lim ≠ 0 && lim ≤ devs.length
  let s := s.updIslot i (fun x => { x with devCount := x.devCount + 1, devs := if full then devs.drop lim else devs })
  if full then s.pushEvidence { slot := i, key := slotUnit i, kind := .mismatch, retest := false } else s

/-! ### Missing samples (R456, R458) -/

/-- A record of the tile has been sealed: it stands in an area of the slot, or its result passed step 1 of R409. -/
def sampleSealed (s : State) (i : Fin 8) (layer tile step : Nat) : Bool :=
  let same := fun (r : CheckRes) => decide (r.layer = layer ∧ r.tile = tile ∧ r.step = step)
  (List.finRange 64).any (fun a => a.1 / 8 = i.1 &&
    ((s.chk.areas.get a).st = .sealed || (s.chk.areas.get a).st = .checking) && same (s.plainResult a 0)) ||
  (s.chk.log ++ s.chk.owed).any (fun r => r.slot = i.1 && r.formed && same r)

/-- More than 25 % of the last 4,096 selected tiles are missing (R458). -/
def fallsShort (l : List Expected) : Bool :=
  decide ((l.take 4096).length < 4 * ((l.take 4096).filter (fun e => e.missing)).length)

/-- A missing sample, and the shortfall that begins with it. -/
def missSample (i : Fin 8) (e : Expected) (s : State) : State :=
  let s := s.count (0x0680 + i.1)
  let x := s.islot i
  let was := x.short && fallsShort x.recent
  let l := x.recent.map (fun y => if y = e then { y with missing := true } else y)
  let now := fallsShort l
  let s := s.updIslot i (fun x => { x with missing := x.missing + 1, recent := l, short := now })
  if now && !was then s.noticeSlot (0x0688 + i.1) i else s

/-! ### Lull tests (R459 to R463) -/

/-- Schedule time of a slot now, in ticks at step 0 (R507). -/
def schedNow (s : State) (i : Fin 8) : Nat :=
  64 * s.sigma i s.dev.frame + ceilDiv ((s.ct - 1024 * s.dev.frame) * (16 - (s.grp (s.groupOf i)).step)) 16

/-- When a Lull of the map begins next, at least 2 frames from now at the group's step, and its absolute step (R460, R508). -/
def lullNext (s : State) (i : Fin 8) (e : Nat × Nat × Nat × Nat) : Option (Nat × Nat) :=
  let need := s.schedNow i + 128 * (16 - (s.grp (s.groupOf i)).step)
  let u := 64 * s.nbCycleUnits i
  let c := if u = 0 then 0 else ceilDiv (need - e.2.2.1) u
  let b := c * u + e.2.2.1
  if need ≤ b then some (b, s.nbOriginStep i + c * s.nbCycleSteps i + e.2.1) else none

/-- The first Lull of a core that a test of this duration fits: begin, end, absolute step (R459, R460). -/
def lullFor (s : State) (i : Fin 8) (core dur : Nat) : Option (Nat × Nat × Nat) :=
  (((List.range (s.nbLulls i)).map (s.lullEntry i)).filterMap (fun e =>
    if e.1 = core && dur + 8 ≤ e.2.2.2 then (s.lullNext i e).map (fun b => (b.1, b.1 + e.2.2.2, b.2)) else none)).foldl
    (fun m c => match m with | some x => if c.1 < x.1 then some c else some x | none => some c) none

/-- Cores in the order of a round robin from `k`. -/
def robin (k n : Nat) : List Nat := (List.range n).map (fun d => (k + d) % n)

/-- The test of the highest rank that fits a Lull: core, test's index, TEST_ID, and the Lull; `retest` for rank 1 (R460). Ranks 3 and 4 draw on the
same cores, in the same order (log 88). -/
def lullChoice (s : State) (i : Fin 8) (e : PackEntry) : Option (Bool × Nat × Nat × Nat × (Nat × Nat × Nat)) :=
  let l := (s.islot i).lull
  let n := s.packTests e
  let state := fun (c : Nat) => (s.unit { kind := 0, serial := (s.slot i).lastSerial, index := c }).st
  let mapped := ((List.range (s.nbLulls i)).map (fun k => (s.lullEntry i k).1)).eraseDups
  let free := (robin l.rrCore 4096).filter (fun c => mapped.contains c && state c ≠ .fenced)
  let try_ := fun (c : Nat) (k : Nat) => (s.lullFor i c (s.packTest e k).2).map (fun b => (c, k, (s.packTest e k).1, b))
  let retests := l.owed.findSome? (fun o =>
    match (List.range n).find? (fun k => (s.packTest e k).1 = o.2) with | some k => try_ o.1 k | none => none)
  match retests with
  | some r => some (true, r)
  | none =>
    let cores := free.filter (fun c => state c = .transient || state c = .permanent) ++ free
    (cores.findSome? (fun c => (robin l.rrTest n).findSome? (fun k => try_ c k))).map (fun r => (false, r))

/-- U2 and U5 may order a test for the slot now (R459, R460, R500, R505). -/
def mayLull (s : State) (i : Fin 8) : Bool :=
  let l := (s.islot i).lull
  s.isFull && s.coreRuns 4 && s.coreRuns 7 && s.running i && s.fld 0x50 (s.groupOf i) 8 = 1 && (s.slot i).nbValid && (s.slot i).packDone &&
    (l.st = .idle || l.st = .retestOwed) &&
    (l.recent.filter (fun t => s.lt < t + 1000000)).length < s.fld 0x50 (s.groupOf i) 9

/-- Ordering the next Lull test of a slot. -/
def orderLull (i : Fin 8) (s : State) : State :=
  match s.selectedPack (s.groupOf i) with
  | none => s
  | some e =>
    if (s.slot i).pack.map (fun p => p.1) ≠ some e.id then s
    else match s.lullChoice i e with
    | none => s
    | some (again, core, k, id, b, fin_, step) =>
      s.updIslot i (fun x =>
        let l := x.lull
        let rank4 := !again && (s.unit { kind := 0, serial := (s.slot i).lastSerial, index := core }).st = .clean
        { x with lull := { l with
          st := .ordered, sent := false, core := core, test := id, order := (l.order + 1) % 65536, step := step, begins := b, ends := fin_,
          isRetest := again, rrCore := if rank4 then (core + 1) % 4096 else l.rrCore,
          rrTest := if again then l.rrTest else k + 1, orders := l.orders + 1,
          recent := l.recent.filter (fun t => s.lt < t + 1000000) ++ [s.lt] } })

/-- A record with LULL and the order's number has been sealed in an area of the slot (R461, R462). -/
def lullSealed (s : State) (i : Fin 8) : Bool :=
  (List.finRange 64).any (fun a => a.1 / 8 = i.1 &&
    ((s.chk.areas.get a).st = .sealed || (s.chk.areas.get a).st = .checking) &&
    Mem.num 0 s.chk.bar4 (areaBase a.1 + 0x103) 1 / 2 % 2 = 1 && (s.plainResult a 0).seqEcho = (s.islot i).lull.order) ||
  s.chk.owed.any (fun r => r.slot = i.1 && bit r.flags 3 && r.seqEcho = (s.islot i).lull.order)

/-- No record can come any more: 2 frames have passed since the Lull's end, or the Lull's schedule is gone with the notebook or with the slot's
power (R462; log 89). -/
def lullOver (s : State) (i : Fin 8) : Bool :=
  let l := (s.islot i).lull
  !s.lullSealed i &&
    ((l.st = .awaiting && l.endFrame + 2 ≤ s.dev.frame) ||
     ((l.st = .running || l.st = .awaiting) && (!(s.slot i).nbValid || !s.powered i)))

/-- The progress of an ordered test along the schedule, at a frame boundary (R462, R508). -/
def lullFrame (i : Fin 8) (s : State) : State :=
  let l := (s.islot i).lull
  let now := 64 * s.sigma i s.dev.frame
  let l := if l.st = .ordered && l.sent && l.begins ≤ now then { l with st := .running } else l
  let l := if l.st = .running && l.ends ≤ now then { l with st := .awaiting, endFrame := s.dev.frame } else l
  s.updIslot i (fun x => { x with lull := l })

/-! ### Votes (R475 to R478) -/

/-- Issuing EXPEL for slots of this node: the apex decides, another node sends the request up (R356, R477). -/
def issueExpel (g : Nat) (slots : Nat) (s : State) : State :=
  let node := BitVec.ofNat 32 s.nodeAddr
  if s.apexHere g then s.expelDecide g (BitVec.ofNat 8 slots) node
  else s.sendOps s.upPort (expelCells g 0 false 0 (BitVec.ofNat 8 slots) node)

/-- A vote's result, acted on (R477, R484). -/
def actVote (o : LaneOp) (ws : List (BitVec 64)) (s : State) : State :=
  let g := o.group.1
  let w := (ws.headD 0).toNat
  let out := bits w 56 8
  let agree := bits w 32 16
  let diss := bits w 16 16
  let miss := bits w 0 16
  let b := s.fld 0x51 g 2
  let basin : Bool := decide (b < 16)
  let won := out = 1 || out = 2
  let bad := (List.finRange 8).filter (fun i =>
    o.contribs.any (fun c => c.1 = .slot i && diss.testBit c.2.1 && c.2.2 ≠ ws.drop 1))
  let dx := won && (List.range 16).any (fun r => diss.testBit r && !(basin && r = b))
  let bd := won && basin && diss.testBit b
  let expel : Bool := dx && bad ≠ [] && s.fld 0x51 g 4 = 1
  let s := if out = 0 then s.count 0x06D0 else s
  let s := if bd then s.notice 0x06D2 else s
  let s := if dx then s.notice 0x06D1 else s
  let s := if out = 3 then s.notice 0x06D3 else s
  let s := if out = 4 then (if basin && miss.testBit b then s.count 0x06D4 else s.notice 0x06D3) else s
  let s := if dx then
      bad.foldl (fun t i => t.pushEvidence { slot := i, key := slotUnit i, kind := .mismatch, retest := false }) s else s
  let s := if expel then s.issueExpel g (maskOf 8 (fun i => bad.any (fun j => j.1 = i))) else s
  let r : VoteRec :=
    { seq := s.integ.nextVote, tick := s.ct, group := g, opSeq := o.opId.toNat % 16, outcome := out
      flags := b2n (basin && (agree ||| diss).testBit b) + 2 * b2n expel + 4 * b2n bd
      layer := o.layer.getD 0xFFFF, agree := agree, dissent := diss, missing := miss, digest := (wordBytes (ws.drop 1)).take 16 }
  let votes := s.integ.votes ++ [r]
  let s := { s with integ := { s.integ with votes := votes.drop (votes.length - 4096), nextVote := s.integ.nextVote + 1 } }
  match o.layer with
  | some l => if out = 4 then s else { s with integ := { s.integ with lastVote := Assoc.set s.integ.lastVote (g, l) s.lt } }
  | none => s

/-- U2 takes the result of a vote that its node takes part in (R475, R477). -/
def takeVote (o : LaneOp) (ws : List (BitVec 64)) (s : State) : State :=
  let s := if s.fld 0x51 o.group.1 1 = 1 then s.actVote o ws else s
  let s := s.updLane o (fun x => { x with acted := true })
  { s with gop := { s.gop with
    lanes := s.gop.lanes.filter (fun (x : LaneOp) => !(x.group = o.group && x.opId = o.opId && x.delivered)) } }

/-! ### Packs over the fabric (R308, R465, R569) -/

/-- Child links that are UP (R308). -/
def trickleLinks (s : State) : List (Fin 18) := (List.finRange 18).filter (fun p => p.1 < 16 && (s.port p).st = .up)

/-- TRICKLE as 100 bits (R308); data byte 0 is the top byte (DESIGN CHOICE, log 87). -/
def trickleBits (c : TrickleCell) : BitVec 100 := (c.stream ++ c.chunk ++ c.data ++ c.flags : BitVec 100)

/-- A TRICKLE cell on every child link (R303, R308). -/
def sendTrickle (c : TrickleCell) (s : State) : State := s.trickleLinks.foldl (fun t p => t.sendCell p 3 (trickleBits c)) s

/-- The eight bytes of a chunk. -/
def chunkBytes (c : TrickleCell) : Bytes := (natLE 8 c.data.toNat).reverse

/-- Chunk `n` of a file, the last one filled with zero bytes (R465). -/
def fileChunk (file : Bytes) (n : Nat) : TrickleCell :=
  { stream := 1, chunk := BitVec.ofNat 24 n
    data := BitVec.ofNat 64 (leNat (Bytes.fit ((file.drop (8 * n)).take 8) 8).reverse)
    flags := if file.length ≤ 8 * n + 8 then 1 else 0 }

/-- Sending a file once. -/
def sendFile (file : Bytes) (s : State) : State :=
  (List.range (ceilDiv file.length 8)).foldl (fun t n => t.sendTrickle (fileChunk file n)) s

def addChunk (n : Nat) (b : Bytes) : List (Nat × Bytes) → List (Nat × Bytes)
  | [] => [(n, b)]
  | c :: l => if n < c.1 then (n, b) :: c :: l else if n = c.1 then c :: l else c :: addChunk n b l

def rxEmpty (t : Nat) : PackRx := { chunks := [], last := none, tick := t, waiting := false }

/-- Every chunk up to the last one is held. -/
def rxWhole (x : PackRx) : Bool := match x.last with | some n => x.chunks.length = n + 1 | none => false

/-- The file of a complete reception: as long as its header says. -/
def rxFile (x : PackRx) : Bytes :=
  let b := x.chunks.flatMap (fun c => c.2)
  b.take (1024 + Bytes.num b 0x30 4)

/-- Installing the file that was received, unless the store already holds it or has no room (R465, R569). -/
def installRx (s : State) : State :=
  match s.integ.rx with
  | none => s
  | some x =>
    let file := rxFile x
    let s := { s with integ := { s.integ with rx := none } }
    if s.packHeld (Bytes.num file 1024 4) (Bytes.num file 8 4) then s
    else match s.packPlace file.length with
      | none => s
      | some b =>
        ((s.flashErase (packBlockAt b) (packBlocks file.length * 65536)).flashWrite (packBlockAt b) file).listPack b file

/-- A host session for component 4 is open (R569). -/
def packSession (s : State) : Bool := match s.upd.session with | some u => u.component = 4 | none => false

/-- A file that is whole is checked; a good one is installed, at once or when the session has ended (R465, R569). -/
def judgeRx (x : PackRx) (s : State) : State :=
  let file := rxFile x
  let h := ImgHeader.parse (file.take 1024)
  if h.formOk 4 && bodyOk h (file.drop 1024) && (s.packWhy h (file.drop 1024)).isNone then
    let s := { s with integ := { s.integ with rx := some { x with waiting := true } } }
    if s.packSession then s else s.installRx
  else { s with integ := { s.integ with rx := none } }

/-- A chunk of stream 0x01 (R465). -/
def takeChunk (c : TrickleCell) (s : State) : State :=
  let n := c.chunk.toNat
  let b := chunkBytes c
  let x := s.integ.rx.getD (rxEmpty s.lt)
  let held := (x.chunks.find? (fun y => y.1 = n)).map (fun y => y.2)
  let newFile : Bool := decide (n < 128) && (match held with | some d => decide (d ≠ b) | none => false)
  let s := if newFile then s.count 0x06D7 else s
  let x := if newFile then rxEmpty s.lt else x
  if 524288 ≤ n || (!newFile && held.isSome) then s
  else
    let x := { x with chunks := addChunk n b x.chunks, last := if c.flags.getLsbD 0 then some n else x.last, tick := s.lt }
    if rxWhole x then s.judgeRx x else { s with integ := { s.integ with rx := some x } }

/-! ### Replies (R482 to R484) -/

def suspect (u : UnitSt) : Bool := u.st = .transient || u.st = .permanent

/-- The record of a slot (R482). -/
def integRecord (s : State) (i : Fin 8) : Bytes :=
  let x := s.islot i
  let us := s.unitsOf i
  let n := fun (p : UnitSt → Bool) => (us.filter (fun c => c.1.kind = 0 && p c.2)).length
  let m := fun (p : UnitSt → Bool) => maskOf 8 (fun h => us.any (fun c => c.1.kind = 1 && c.1.index = h && p c.2))
  let fenced := fun (u : UnitSt) => decide (u.st = .fenced)
  [byte x.ladder, byte (UnitState.num (s.unit (slotUnit i)).st)] ++ natLE 2 (n suspect) ++ natLE 2 (n fenced)
    ++ [byte (m suspect), byte (m fenced)] ++ natLE 8 x.selected ++ natLE 8 x.missing ++ natLE 4 (x.lull.passes + x.lull.fails)
    ++ natLE 4 x.devCount

def integReply (s : State) : Bytes :=
  let any := fun (f : Nat) => (List.range 256).any (fun g => s.fld 0x50 g f = 1)
  let step := (s.gop.groups.map (fun c => c.2.integ)).foldl max 0
  [byte (b2n (any 1) + 2 * b2n (any 8) + 4 * b2n s.integ.compacting), byte step, 0, 0] ++ natLE 4 s.integ.jseq
    ++ natLE 4 (s.integ.units.filter (fun c => c.2.st = .fenced)).length ++ zeros 20 ++ (List.finRange 8).flatMap s.integRecord

def LullState.num : LullState → Nat
  | .idle => 0 | .ordered => 1 | .running => 2 | .awaiting => 3 | .retestOwed => 4
/-- A LULL_STATUS record (R483). -/
def lullRecord (s : State) (i : Fin 8) : Bytes :=
  let l := (s.islot i).lull
  [byte (LullState.num l.st), 0] ++ natLE 2 l.core ++ natLE 2 l.test ++ zeros 2 ++ natLE 4 l.orders ++ natLE 4 l.passes
    ++ natLE 4 l.fails ++ natLE 4 l.void ++ natLE 8 l.lastTick

/-- A VOTE_LOG entry (R484). -/
def voteBytes (r : VoteRec) : Bytes :=
  natLE 8 r.seq ++ natLE 8 r.tick ++ [byte r.group, byte r.opSeq, byte r.outcome, byte r.flags] ++ natLE 2 r.layer ++ natLE 2 r.agree
    ++ natLE 2 r.dissent ++ natLE 2 r.missing ++ zeros 4 ++ r.digest.fit 16

/-- UNIT_READ (R481): the slot's units of a kind, from the FIRST of them. -/
def unitReply (ps : Bytes) (s : State) : Bytes :=
  let us := (s.unitsOf (Fin.ofNat 8 (ps.num 0 1))).filter (fun c => c.1.kind = ps.num 1 1)
  let out := (us.drop (ps.num 4 2)).take (ps.num 6 2)
  natLE 2 us.length ++ natLE 2 out.length ++ zeros 12 ++ out.flatMap (fun c => s.unitEntry c.1 c.2 c.2.jseq c.2.rtc)

/-- The unit that UNIT_RELEASE names. -/
def releaseKey (ps : Bytes) (s : State) : UnitKey :=
  let i := Fin.ofNat 8 (ps.num 0 1)
  if ps.num 1 1 = 2 then slotUnit i else { kind := ps.num 1 1, serial := (s.slot i).lastSerial, index := ps.num 2 2 }

/-- Clearing a unit to CLEAN, with its ledger entry (R467, R481, R492). -/
def clearUnit (k : UnitKey) (s : State) : State :=
  if (s.unit? k).isNone then s
  else ((s.updUnit k (fun u => { u with st := .clean, remapped := false })).writeUnit k).integRefresh
/-- Marking a fenced core remapped, with its ledger entry (R481). -/
def remapUnit (k : UnitKey) (s : State) : State := ((s.updUnit k (fun u => { u with remapped := true })).writeUnit k).integRefresh

/-- The file of an installed pack. -/
def packFile (s : State) (e : PackEntry) : Bytes := s.flashRead (packAt e) e.len

/-- PACK_STATUS (R481); RX_HELD and RX_TOTAL count chunks (DESIGN CHOICE, log 87). -/
def packReply (s : State) : Bytes :=
  let rx : Bytes := match s.integ.rx with
    | none => zeros 16
    | some x =>
      let id := match x.chunks.find? (fun c => c.1 = 128) with | some c => Bytes.num c.2 0 4 | none => 0
      ([if x.waiting then 2 else 1, 0, 0, 0] : Bytes) ++ natLE 4 id ++ natLE 4 x.chunks.length
        ++ natLE 4 (match x.last with | some n => n + 1 | none => 0)
  rx ++ Bytes.fit (s.packs.flatMap (fun e =>
    natLE 4 e.id ++ natLE 4 e.version ++ natLE 2 (s.packTests e) ++ zeros 2 ++ natLE 4 e.len)) 512

end State

/-! ### Opcodes (R481) -/

def integStatusOp : OpSpec := .query 0x0510 false [6] 0 OpSpec.free4 (fun _ s => s.integReply)
def unitReadOp : OpSpec :=
  { OpSpec.query 0x0511 false [6] 8
      (fun _ ps _ => firstFail [(.badParam, decide (7 < ps.num 0 1 ∨ 2 < ps.num 1 1 ∨ ps.num 6 2 = 0 ∨ 39 < ps.num 6 2))])
      (fun ps s => s.unitReply ps) with
    bound := fun _ _ _ => 2000 }
/-- ACTION 1 names a FENCED core (R481); for any other unit it is refused (DEDUCED, log 90). -/
def unitReleaseOp : OpSpec where
  opcode := 0x0512
  keeper := false
  feats := [6]
  plen := some 8
  check := fun _ ps s => firstFail
    [(.badParam, decide (7 < ps.num 0 1 ∨ 2 < ps.num 1 1 ∨ 1 < ps.num 4 1 ∨ (ps.num 1 1 = 0 ∧ 4095 < ps.num 2 2) ∨
        (ps.num 1 1 = 1 ∧ 7 < ps.num 2 2))),
     (.refusedState, ps.num 4 1 = 1 && (ps.num 1 1 ≠ 0 || (s.unit (s.releaseKey ps)).st ≠ .fenced))]
  bound := fun _ _ _ => 150000
  run := fun p ps b s =>
    let k := s.releaseKey ps
    let s := if ps.num 4 1 = 1 then s.remapUnit k else s.clearUnit k
    s.answer p b .ok ([byte (UnitState.num (s.unit k).st), byte (s.islot (Fin.ofNat 8 (ps.num 0 1))).ladder] ++ zeros 6)
def lullStatusOp : OpSpec := .query 0x0513 false [6] 0 OpSpec.free4 (fun _ s => (List.finRange 8).flatMap s.lullRecord)
/-- VOTE_LOG (R484). -/
def State.voteLogReply (ps : Bytes) (s : State) : Bytes :=
  let es := (s.integ.votes.filter (fun r => ps.num 0 8 ≤ r.seq)).take (ps.num 8 2)
  natLE 8 (s.integ.nextVote - s.integ.votes.length) ++ natLE 8 s.integ.nextVote ++ natLE 2 es.length ++ zeros 6
    ++ es.flatMap State.voteBytes
def voteLogOp : OpSpec :=
  { OpSpec.query 0x0514 false [6] 16 (fun _ ps _ => firstFail [(.badParam, decide (ps.num 8 2 = 0 ∨ 79 < ps.num 8 2))]) State.voteLogReply with
    bound := fun _ _ _ => 2000 }
def packSendOp : OpSpec where
  opcode := 0x0515
  keeper := false
  feats := [6]
  plen := some 8
  check := fun _ ps s => firstFail
    [(.badParam, decide (ps.num 4 1 = 0 ∨ 16 < ps.num 4 1 ∨ ps.num 6 2 = 0 ∨ 780 < ps.num 6 2) || (s.packById (ps.num 0 4)).isNone),
     (.refusedState, s.trickleLinks = [])]
  bound := fun _ ps s =>
    ceilDiv (ps.num 4 1 * (match s.packById (ps.num 0 4) with | some e => e.len | none => 0)) (ps.num 6 2) + 10000
  run := fun p ps b s =>
    let s := match s.packById (ps.num 0 4) with
      | some e => (List.range (ps.num 4 1)).foldl (fun (t : State) _ => t.sendFile (s.packFile e)) s
      | none => s
    s.answer p b .ok ([byte (ps.num 4 1)] ++ zeros 7 ++ natLE 8 s.lt)
def packStatusOp : OpSpec := .query 0x0516 false [6] 0 OpSpec.free4 (fun _ s => s.packReply)

def execIntegStatus (p : Port) (tag : BitVec 32) (params : Bytes) (s : State) : Host.Outcome State Fault Refusal :=
  go (s.submit integStatusOp p tag params)
def execUnitRead (p : Port) (tag : BitVec 32) (params : Bytes) (s : State) : Host.Outcome State Fault Refusal :=
  go (s.submit unitReadOp p tag params)
def execUnitRelease (p : Port) (tag : BitVec 32) (params : Bytes) (s : State) : Host.Outcome State Fault Refusal :=
  go (s.submit unitReleaseOp p tag params)
def execLullStatus (p : Port) (tag : BitVec 32) (params : Bytes) (s : State) : Host.Outcome State Fault Refusal :=
  go (s.submit lullStatusOp p tag params)
def execVoteLog (p : Port) (tag : BitVec 32) (params : Bytes) (s : State) : Host.Outcome State Fault Refusal :=
  go (s.submit voteLogOp p tag params)
def execPackSend (p : Port) (tag : BitVec 32) (params : Bytes) (s : State) : Host.Outcome State Fault Refusal :=
  go (s.submit packSendOp p tag params)
def execPackStatus (p : Port) (tag : BitVec 32) (params : Bytes) (s : State) : Host.Outcome State Fault Refusal :=
  go (s.submit packStatusOp p tag params)

/-! ### Events -/

def execEvidenceClassify (s : State) : Host.Outcome State Fault Refusal :=
  go (if s.isFull && s.coreRuns 4 then
      match s.integ.queue with
      | e :: rest => { s with integ := { s.integ with queue := rest } }.classify e
      | [] => s
    else s)

def execMissingSample (slot : Fin 8) (layer tile step : Nat) (s : State) : Host.Outcome State Fault Refusal :=
  go (match (s.islot slot).recent.find? (fun e => e.layer = layer && e.tile = tile && e.step = step && !e.missing) with
    | some e =>
      if s.isFull && s.coreRuns 4 && e.frame + s.fld 0x50 (s.groupOf slot) 7 < s.dev.frame && !s.sampleSealed slot layer tile step then
        s.missSample slot e
      else s
    | none => s)

def execMarginStepWrite (slot : Fin 8) (ack : Bool) (s : State) : Host.Outcome State Fault Refusal :=
  go (match (s.islot slot).stepDue with
    | some (t, k) =>
      if s.isFull && s.coreRuns 7 && t ≤ s.ct then
        let s := s.updIslot slot (fun x => { x with stepDue := none })
        let s := if s.marginExhausted slot then s.actUnit slot k
          else (s.setLadder slot ((s.islot slot).ladder + 1)).writeMargin slot ack
        s.nextItem slot
      else s
    | none => s)

/-- A ladder steps down after RELAX_H hours without a charge, while no unit of the slot is TRANSIENT or PERMANENT (R474). -/
def execLadderRelax (slot : Fin 8) (s : State) : Host.Outcome State Fault Refusal :=
  let x := s.islot slot
  let h := s.fld 0x52 0 3
  go (if s.isFull && s.coreRuns 7 && h ≠ 0 && 0 < x.ladder && x.quiet + h * 3600000000 ≤ s.lt &&
      !(s.unitsOf slot).any (fun c => State.suspect c.2) then
      let s := (s.setLadder slot (x.ladder - 1)).updIslot slot (fun x => { x with quiet := s.lt })
      if s.powered slot then s.writeMargin slot true else s
    else s)

def execLullTestOrder (slot : Fin 8) (s : State) : Host.Outcome State Fault Refusal :=
  go (if s.mayLull slot then s.orderLull slot else s)

def execLullVoidTimeout (slot : Fin 8) (s : State) : Host.Outcome State Fault Refusal :=
  go (if s.isFull && s.coreRuns 4 && s.lullOver slot then s.lullEnds slot .void else s)

def execVoteResult (group : Fin 256) (seq : BitVec 4) (s : State) : Host.Outcome State Fault Refusal :=
  go (match s.laneFind group (7#4 ++ seq) with
    | some o => match o.result with
      | some (.inl ws) => if s.isFull && s.coreRuns 4 && !o.acted then s.takeVote o ws else s
      | _ => s
    | none => s)

/-- A mapped layer that no completed vote has covered for PERIOD_S, once per PERIOD_S (R478). -/
def execVoteOverdue (group : Fin 256) (layer : Nat) (s : State) : Host.Outcome State Fault Refusal :=
  let n := s.fld 0x51 group.1 5
  let last := max (Assoc.get 0 s.integ.lastVote (group.1, layer)) (Assoc.get 0 s.integ.lastVote (256, layer))
  go (if s.isFull && s.coreRuns 4 && n ≠ 0 && s.fld 0x51 group.1 1 = 1 && (s.layer layer).isSome && last + n * 1000000 ≤ s.lt then
      ({ s with integ := { s.integ with lastVote := Assoc.set s.integ.lastVote (group.1, layer) s.lt } }).notice 0x06D5
    else s)

/-- U3 writes the record of a unit that changed or of one that is not CLEAN and was last written 3,600 s ago; a snapshot comes first when fewer
than 8 segments are free (R468, R469). -/
def execLedgerWrite (key : UnitKey) (s : State) : Host.Outcome State Fault Refusal :=
  go (match s.unit? key with
    | some u =>
      if !s.isFull || !s.coreRuns 5 then s
      else if s.integ.compacting then s.ledgerSnapshot.judgeCompaction
      else if u.dirty || (u.st ≠ .clean && u.wrote + 3600000000 ≤ s.lt) then (s.writeUnit key).judgeCompaction
      else s
    | none => s)

/-- A TRICKLE cell from a parent goes to every child link; a node in Full keeps the chunks of a pack (R308, R465). -/
def execTrickleCell (port : Fin 18) (c : TrickleCell) (s : State) : Host.Outcome State Fault Refusal :=
  go (if s.isFull && 16 ≤ port.1 && (s.port port).st = .up then
      let s := s.sendTrickle c
      if c.stream = 1 then s.takeChunk c else s
    else s)

def execPackRxTimeout (s : State) : Host.Outcome State Fault Refusal :=
  go (match s.integ.rx with
    | some x =>
      if !x.waiting && x.tick + 3600000000 ≤ s.lt then ({ s with integ := { s.integ with rx := none } }).count 0x06D7 else s
    | none => s)

def execPackInstall (s : State) : Host.Outcome State Fault Refusal :=
  go (match s.integ.rx with
    | some x => if x.waiting && !s.packSession then s.installRx else s
    | none => s)

end Sys2Proof.Machine
end

