-- ==== Sys2Proof/Machine/Slots.lean ====
section
/-!
DEFINITION. Accelerator slots: presence, reset, identification, the messages of the slot I3C buses, and the slot opcodes (R485 to
R515).
-/

namespace Sys2Proof.Machine

namespace State

/-- The core that drives the slot I3C buses runs: K0 in Keeper, U5 in Full (R495). -/
def busServed (s : State) : Bool := if s.isFull then s.coreRuns 7 else s.keeperUp

/-! ### Messages (R495 to R499) -/

/-- A message in the layout of R496. -/
def slotMessage (type seq : Nat) (body : Bytes) : Bytes :=
  let b := [byte type, byte body.length] ++ natLE 2 seq ++ body
  b ++ [byte (crc8 b)]

/-- Sending a message to a slot; one that is not taken is repeated 3 times and counted (R499). -/
def slotSend (i : Fin 8) (type : Nat) (body : Bytes) (ok : Bool) (s : State) : State :=
  let n := ((s.slot i).msgSeq + 1) % 65536
  let s := s.updSlot i (fun x => { x with msgSeq := n })
  let m : Msg := .slotI3c i.1 (slotMessage type n body)
  if ok then s.send m else (s.sends (List.replicate 4 m)).noticeSlot (0x0790 + i.1) i

/-- SETDASA to a slot that has not acknowledged its dynamic address (R495). -/
def setAddress (i : Fin 8) (s : State) : State :=
  if (s.slot i).addressed then s else s.send (.setdasa i.1 (0x10 + i.1))

/-! ### Reset and identification (R486, R490, R493) -/

/-- SLT_n_RST_N may be released (R486). -/
def mayRelease (s : State) (i : Fin 8) : Bool :=
  let x := s.slot i
  x.rst && s.powered i && !s.railMarked i && x.pulseEnd.isNone && !(x.st = .quarantined && x.cause = 1) &&
    (match x.releaseAt with | some t => decide (t ≤ s.lt) | none => x.releasedAt.isSome)

/-- Releasing SLT_n_RST_N; a slot that is not identified yet is asked 100 ms later (R486, R493, R495). -/
def releaseReset (i : Fin 8) (s : State) : State :=
  if !s.mayRelease i then s
  else
    (s.updSlot i (fun x => { x with
      rst := false, releaseAt := none, releasedAt := some s.lt
      identNext := if x.identified then none else some (s.lt + 100000) })).setAddress i

/-- A reset pulse of a powered slot; one that runs is lengthened, never cut (R486). -/
def pulseReset (us : Nat) (i : Fin 8) (s : State) : State :=
  if !s.powered i then s
  else s.updSlot i (fun x => { x with
    rst := true, identNext := none
    pulseEnd := some (match x.pulseEnd with | some t => max t (s.lt + us) | none => s.lt + us) })

def statesReply (s : State) : Bytes := s.slotStates

/-- SLOT_RESET completes when the pulses of its slots are over (R513, R515). -/
def resetSettle (s : State) : State :=
  (s.acceptedOn 0x0703).foldl (fun t p =>
    let m := (t.params p).num 0 1
    if (List.finRange 8).all (fun j => !m.testBit j.1 || (t.slot j).pulseEnd.isNone) then t.finish p .ok t.slotStates else t) s

/-- A DX has answered IDENT (R466, R493). -/
def identify (i : Fin 8) (r : IdentReply) (s : State) : State :=
  let n := r.serial.toNat
  let old := (s.slot i).lastSerial
  let s := s.updSlot i (fun x => { x with
    identified := true, serial := n, lastSerial := n, fwVer := r.fwVer.toNat, identNext := none, addressed := true })
  if old ≠ 0 && old ≠ n && (s.islot i).ladder ≠ 0 then s.setLadder i 0 else s

/-- A card is gone: its outputs fall back at once, its commands end, and the slot down-sequence runs (R488, R490, R512). -/
def removeCard (i : Fin 8) (s : State) : State :=
  let was := s.powered i
  let s := s.updSlot i (fun x => { x with present := false, request := false })
  let s := if was then s.raise (0x0780 + i.1) 1 (some i) else s
  let s := (s.slotPowers 1 i).foldl (fun t (p, _) => t.finish p .failed t.slotPowerReply) s
  let s := (s.acceptedOn 0x0704).foldl (fun t p =>
    if ((t.params p).num 0 1).testBit i.1 then t.finish p .failed (t.slotStates ++ natLE 8 0) else t) s
  let s := (s.acceptedOn 0x0703).foldl (fun t p =>
    if ((t.params p).num 0 1).testBit i.1 then t.finish p .failed t.slotStates else t) s
  let s := { s with cool := { s.cool with chans := Vec.tab 28 (fun c =>
    let x := s.cool.chans.get c
    if s.fld 0x31 c.1 5 = i.1 && !x.latched then { x with tripped := false, tripCnt := 0, holdSince := none, waiting := none } else x) } }
  (s.unpowerSlot i).slotDown i

/-! ### Plans (R455, R511) -/

/-- A value of a group's plan as the pending commit has it, else as it is in effect. -/
def planVal (s : State) (g f : Nat) : Nat :=
  let k : Key := ⟨0x50, g, f⟩
  match s.cfg.commit, s.stagedList.find? (fun c => c.1 = k) with
  | some _, some c => c.2
  | _, _ => s.cfgVal k

/-- The plan in the layout of page 7. -/
def planBytes (s : State) (g gen instant : Nat) : Bytes :=
  natLE 4 gen ++ zeros 4 ++ natLE 8 instant ++ [byte (s.planVal g 1), byte (s.planVal g 2), byte (s.planVal g 4), 0] ++ zeros 4
    ++ natLE 8 (s.planVal g 3) ++ natLE 2048 (s.planVal g 5) ++ natLE 2048 (s.planVal g 6)

/-- Writing the new plan to page 7, the current one becoming the previous; then the PLAN message to an identified slot (R497, R511). -/
def sendPlan (i : Fin 8) (instant : Nat) (ok : Bool) (s : State) : State :=
  let g := s.groupOf i
  let gen := ((s.slot i).planGen + 1) % 2 ^ 32
  let old := s.nbRead i 7 0 4128
  let s := { s with chk := { s.chk with
    bar4 := Mem.write 0 (Mem.write 0 s.chk.bar4 (nbAddr i 7 0x2000) old) (nbAddr i 7 0) (s.planBytes g gen instant) } }
  let s := s.updSlot i (fun x => { x with planGen := gen, planDue := none })
  if (s.slot i).identified then s.slotSend i 2 ([byte g, 0, 0, 0] ++ natLE 4 gen ++ natLE 8 instant) ok else s

/-! ### Packs to a DX (R500) -/

/-- The next PACK_CHUNK of a slot. -/
def sendChunk (i : Fin 8) (ok : Bool) (s : State) : State :=
  match s.selectedPack (s.groupOf i) with
  | none => s
  | some e =>
    let len := e.len - 1024
    let s :=
      if (s.slot i).pack.map (fun p => p.1) = some e.id then s
      else if s.packServes e (s.slot i).fwVer then s.updSlot i (fun x => { x with pack := some (e.id, 0), packDone := decide (len = 0) })
      else (s.updSlot i (fun x => { x with pack := some (e.id, len), packDone := false })).noticeSlot (0x07B8 + i.1) i
    let off := match (s.slot i).pack with | some p => p.2 | none => 0
    if len ≤ off then s
    else
      let b := s.flashRead (packAt e + 1024 + off) (min 247 (len - off))
      let s := s.slotSend i 5 (natLE 4 e.id ++ natLE 4 off ++ b) ok
      if ok then s.updSlot i (fun x => { x with pack := some (e.id, off + b.length), packDone := decide (len ≤ off + b.length) }) else s

/-! ### Quarantine and release by command (R490 to R492, R515) -/

/-- A quarantine that is its own error: a command, or a FENCE message that failed (R491, R499, R610 to R613). -/
def quarantineNow (c : Nat) (i : Fin 8) (s : State) : State :=
  let ab := s.absorbs 3 (some i)
  let fresh : Bool := (s.slot i).st = .powering || (s.slot i).st = .held || (s.slot i).st = .running
  let s := if fresh && !ab && 2 ≤ s.runningLevel (some i) then s.supersede i (0x07A0 + i.1) else s
  let s := s.quarantine i c none
  if fresh && !ab then s.logEntry 9 0x00B (0x07A0 + i.1) (s.ctrVal (0x07A0 + i.1) % 2 ^ 32) else s

/-- A slot of SLOT_RELEASE keeps it from being accepted (R492). -/
def releaseBlocked (s : State) (clear : Bool) (i : Fin 8) : Bool :=
  let x := s.slot i
  x.st = .quarantined &&
    ((x.cause = 1 && x.badRails.any (fun n => (s.rail (Fin.ofNat 64 n)).mark ≠ .none)) ||
     (x.cause = 2 && !clear && (s.unit (slotUnit i)).st = .fenced))

def releaseSlot (clear : Bool) (i : Fin 8) (s : State) : State :=
  match (s.slot i).st with
  | .quarantined =>
    let s := if clear then s.clearUnit (slotUnit i) else s
    let s := s.updSlot i (fun x => { x with badRails := [] })
    if s.powered i then
      (s.setSlot i .held 0).updSlot i (fun x => { x with releaseAt := if x.rst then some (s.lt + 10000) else none })
    else s.setSlot i .off 0
  | .failed => s.setSlot i .off 0
  | _ => s

/-! ### Slot opcodes (R513 to R515) -/

def slotWatts (x : Option Nat) : Bytes := natLE 2 (match x with | some mw => min (mw / 1000) 0xFFFF | none => 0xFFFF)

/-- A SLOT_STATUS record (R514); powers are rounded down (DESIGN CHOICE, log 91). -/
def slotRecord (s : State) (i : Fin 8) : Bytes :=
  let x := s.slot i
  let flags := b2n x.rst + 2 * b2n x.request + 4 * b2n (s.gop.throt.mask.getLsbD i.1) + 8 * b2n x.alert + 16 * b2n x.identified
    + 32 * b2n x.expelled + 64 * b2n (s.laneDriven i) + 128 * b2n x.nbValid
  [byte (SlotState.num x.st), byte x.cause, byte flags, byte (s.groupOf i), byte (s.islot i).ladder, byte x.boot.toNat, byte x.alertCode, 0]
    ++ natLE 8 x.serial ++ slotWatts x.forecast ++ slotWatts x.measured ++ [byte x.streak, 0, 0, 0] ++ natLE 8 x.stateTick

/-- The slots that SLOTS names. -/
def named (ps : Bytes) : List (Fin 8) := (List.finRange 8).filter (fun i => (ps.num 0 1).testBit i.1)

/-- A named slot is held by a slot command accepted on another window (R97 check 6; DEDUCED, log 92). -/
def slotsBusy (s : State) (p : Port) (ps : Bytes) : Bool :=
  (List.finRange 8).any (fun q => q ≠ p && (s.win q).state = .accepted &&
    [0x0702, 0x0703, 0x0704].contains (s.win q).opcode.toNat && (named (s.params q)).any (named ps).contains)

/-- Ticks that SLOT_POWER is bounded by: 1 ms and 102 % of the stages that hold rails of its slots (R513). -/
def slotPowerBound (s : State) (ps : Bytes) : Nat :=
  let ks := (List.range 16).filter (fun k => (named ps).any (fun i => (s.ownStages i).contains k))
  let us := fun (k : Nat) =>
    if ps.num 1 1 = 1 then s.fld 0x21 k 6 + 1000 * s.fld 0x21 k 7 else s.fld 0x21 k 8 + 1000 * s.fld 0x21 k 9
  1000 + ceilDiv (102 * (ks.map us).sum) 100

/-- SLOT_POWER on completes during acceptance: the Cascade is not ON (R515). -/
def powerAtOnce (s : State) (ps : Bytes) : Bool := ps.num 1 1 = 1 && s.casc.st ≠ .on

def slotPowerOn (p : Port) (ps : Bytes) (b : Nat) (s : State) : State :=
  let s := (named ps).foldl (fun t i => t.updSlot i (fun x => { x with
    request := true, boot := BitVec.ofNat 2 (ps.num 2 2 / 4 ^ i.1) })) s
  if s.casc.st ≠ .on then s.answerNow p .ok s.slotPowerReply
  else
    let s := s.accept p b
    let s := (named ps).foldl (fun t i => t.slotUp i) s
    if (s.win p).state = .accepted && (named ps).all s.arrived then s.finish p .ok s.slotPowerReply else s

def slotPowerOff (p : Port) (ps : Bytes) (b : Nat) (s : State) : State :=
  let s := s.accept p b
  let s := (named ps).foldl (fun t i => t.updSlot i (fun x => { x with request := false })) s
  let s := (named ps).foldl (fun t i =>
    let t := match (t.slot i).st with | .powering | .held | .running => t.setSlot i .off 0 | _ => t
    t.slotDown i) s
  s.slotOffSettle

/-- A slot may enter RUNNING (R515, R325, R326). -/
def mayRun (s : State) (i : Fin 8) : Bool :=
  let x := s.slot i
  x.st = .held && x.identified && !x.expelled && !x.rst &&
    (s.isRoot || s.cad.st = .locked || s.cad.st = .holdover) &&
    !(s.cad.groupsHeld && s.cad.st = .holdover && !s.localGroup (s.groupOf i))

/-- The boundary that SLOT_RUN names (R515). -/
def runInstant (s : State) (ps : Bytes) : Nat := if ps.num 8 8 = 0 then s.boundaryAfter 64 else ps.num 8 8

end State

def slotStatusOp : OpSpec :=
  .query 0x0701 true [8] 0 OpSpec.free4 (fun _ s => (List.finRange 8).flatMap s.slotRecord)
def slotPowerOp : OpSpec where
  opcode := 0x0702
  keeper := true
  feats := [8]
  plen := some 8
  check := fun p ps s => firstFail
    [(.badParam, decide (ps.num 0 1 = 0 ∨ 1 < ps.num 1 1)),
     (.refusedState, ps.num 1 1 = 1 && (State.named ps).any (fun i =>
        (s.slot i).st = .absent || (s.slot i).st = .quarantined || (s.slot i).st = .failed || s.slotLatched i)),
     (.refusedBusy, s.slotsBusy p ps)]
  bound := fun _ ps s => if s.powerAtOnce ps then 0 else s.slotPowerBound ps
  run := fun p ps b s => if ps.num 1 1 = 1 then s.slotPowerOn p ps b else s.slotPowerOff p ps b
def slotResetOp : OpSpec where
  opcode := 0x0703
  keeper := true
  feats := [8]
  plen := some 8
  check := fun p ps s => firstFail
    [(.badParam, decide (ps.num 0 1 = 0 ∨ ps.num 4 4 < 10 ∨ 1000000 < ps.num 4 4)), (.refusedBusy, s.slotsBusy p ps)]
  bound := fun _ ps _ => 1000 + ps.num 4 4
  run := fun p ps b s =>
    let s := s.accept p b
    let s := (State.named ps).foldl (fun t i => (t.holdSlot i).pulseReset (ps.num 4 4) i) s
    s.resetSettle
def slotRunOp : OpSpec where
  opcode := 0x0704
  keeper := false
  feats := [8]
  plen := some 16
  check := fun p ps s => firstFail
    [(.badParam, ps.num 0 1 = 0 || (ps.num 8 8 ≠ 0 && (ps.num 8 8 % 1024 ≠ 0 || s.ct + 2 ^ 26 < ps.num 8 8))),
     (.refusedState, !(State.named ps).all s.mayRun), (.refusedBusy, s.slotsBusy p ps),
     (.refusedBound, ps.num 8 8 ≠ 0 && ps.num 8 8 < s.ct + 64)]
  bound := fun _ ps s => s.untilInstant (s.runInstant ps) + 50
  run := fun p ps b s =>
    let t := s.runInstant ps
    (State.named ps).foldl (fun u i => u.updSlot i (fun x => { x with runAt := some t })) (s.accept p b)
def slotHoldOp : OpSpec where
  opcode := 0x0705
  keeper := false
  feats := [8]
  plen := some 8
  check := fun _ ps _ => firstFail [(.badParam, ps.num 0 1 = 0)]
  bound := fun _ _ _ => 2100
  run := fun p _ b s => s.accept p b
def slotQuarantineOp : OpSpec where
  opcode := 0x0706
  keeper := true
  feats := [8]
  plen := some 8
  check := fun _ ps _ => firstFail [(.badParam, ps.num 0 1 = 0)]
  bound := fun _ _ _ => 2100
  run := fun p ps b s =>
    let s := (State.named ps).foldl (fun t i => t.quarantineNow 3 i) s
    s.answer p b .ok s.slotStates
def slotReleaseOp : OpSpec where
  opcode := 0x0707
  keeper := true
  feats := [8]
  plen := some 8
  check := fun _ ps s =>
    let clear : Bool := decide (ps.num 1 1 % 2 = 1)
    firstFail [(.badParam, ps.num 0 1 = 0), (.refusedState, (clear && !s.isFull) || (State.named ps).any (s.releaseBlocked clear))]
  bound := fun _ _ _ => 1000
  run := fun p ps b s =>
    let s := (State.named ps).foldl (fun t i => t.releaseSlot (decide (ps.num 1 1 % 2 = 1)) i) s
    s.answer p b .ok s.slotStates

def execSlotStatus (p : Port) (tag : BitVec 32) (params : Bytes) (s : State) : Host.Outcome State Fault Refusal :=
  go (s.submit slotStatusOp p tag params)
def execSlotPower (p : Port) (tag : BitVec 32) (params : Bytes) (s : State) : Host.Outcome State Fault Refusal :=
  go (s.submit slotPowerOp p tag params)
def execSlotReset (p : Port) (tag : BitVec 32) (params : Bytes) (s : State) : Host.Outcome State Fault Refusal :=
  go (s.submit slotResetOp p tag params)
def execSlotRun (p : Port) (tag : BitVec 32) (params : Bytes) (s : State) : Host.Outcome State Fault Refusal :=
  go (s.submit slotRunOp p tag params)
def execSlotHold (p : Port) (tag : BitVec 32) (params : Bytes) (s : State) : Host.Outcome State Fault Refusal :=
  go (s.submit slotHoldOp p tag params)
def execSlotQuarantine (p : Port) (tag : BitVec 32) (params : Bytes) (s : State) : Host.Outcome State Fault Refusal :=
  go (s.submit slotQuarantineOp p tag params)
def execSlotRelease (p : Port) (tag : BitVec 32) (params : Bytes) (s : State) : Host.Outcome State Fault Refusal :=
  go (s.submit slotReleaseOp p tag params)

/-! ### Events -/

def execSlotPresent (slot : Fin 8) (s : State) : Host.Outcome State Fault Refusal :=
  let s' := s.updSlot slot (fun x => { x with present := true })
  go (if (s.slot slot).present then s else if (s.slot slot).st = .absent then s'.setSlot slot .off 0 else s')

def execSlotAbsent (slot : Fin 8) (s : State) : Host.Outcome State Fault Refusal :=
  go (if (s.slot slot).present then s.removeCard slot else s)

def execSlotResetRelease (slot : Fin 8) (s : State) : Host.Outcome State Fault Refusal := go (s.releaseReset slot)

def execResetPulseEnd (slot : Fin 8) (s : State) : Host.Outcome State Fault Refusal :=
  go (match (s.slot slot).pulseEnd with
    | some t => if t ≤ s.lt then ((s.updSlot slot (fun x => { x with pulseEnd := none })).releaseReset slot).resetSettle else s
    | none => s.resetSettle)

def execSlotIdentPoll (slot : Fin 8) (reply : Option IdentReply) (s : State) : Host.Outcome State Fault Refusal :=
  go (match (s.slot slot).identNext with
    | some t =>
      if s.busServed && s.powered slot && !(s.slot slot).rst && t ≤ s.lt then
        let s := (s.setAddress slot).slotSend slot 1 [] reply.isSome
        match reply with
        | some r => s.identify slot r
        | none => s.updSlot slot (fun x => { x with identNext := some (s.lt + 100000) })
      else s
    | none => s)

def execSlotBootTimeout (slot : Fin 8) (s : State) : Host.Outcome State Fault Refusal :=
  let x := s.slot slot
  let late : Bool := match x.releasedAt with | some t => decide (t + 5000000 ≤ s.lt) | none => false
  go (if x.st = .held && !x.identified && !x.rst && late then
      ((s.noticeSlot (0x0798 + slot.1) slot).setSlot slot .failed 5).slotDown slot
    else s)

/-- The alert is read with STATUS; until a reply comes the pin stays low (R493). -/
def execSlotAlert (slot : Fin 8) (reply : Option StatusReply) (s : State) : Host.Outcome State Fault Refusal :=
  go (if s.powered slot && s.busServed then
      let s := s.slotSend slot 6 [] reply.isSome
      match reply with
      | some r => (s.updSlot slot (fun x => { x with alert := false, alertCode := r.alert.toNat, fwVer := r.fwVer.toNat })).count
          (0x0788 + slot.1)
      | none => s.updSlot slot (fun x => { x with alert := true })
    else s)

def execPlan (slot : Fin 8) (ack : Bool) (s : State) : Host.Outcome State Fault Refusal :=
  go (match (s.slot slot).planDue with
    | some t => if s.isFull && s.coreRuns 7 then s.sendPlan slot t ack else s
    | none => s)

/-- A fence order that waits is sent; one that fails quarantines the slot (R472, R499). -/
def execFence (slot : Fin 8) (kind : Bool) (index : BitVec 16) (ack : Bool) (s : State) : Host.Outcome State Fault Refusal :=
  let o := (kind, index.toNat)
  go (if s.isFull && s.coreRuns 7 && (s.islot slot).fences.contains o then
      let s := s.slotSend slot 4 ([byte (b2n kind), 0] ++ natLE 2 index.toNat) ack
      if ack then (s.updIslot slot (fun x => { x with fences := x.fences.erase o })).nextItem slot
      else (s.quarantineNow 2 slot).updIslot slot (fun x => { x with fences := [] })
    else s)

/-- The order of a Lull test is sent; one that fails, or that comes when the Lull has begun, makes the test void (R461, R499). -/
def execLullOrder (slot : Fin 8) (ack : Bool) (s : State) : Host.Outcome State Fault Refusal :=
  let l := (s.islot slot).lull
  go (if s.isFull && s.coreRuns 7 && l.st = .ordered && !l.sent then
      if l.begins ≤ s.schedNow slot then s.lullEnds slot .void
      else
        let id := match (s.slot slot).pack with | some p => p.1 | none => 0
        let s := s.slotSend slot 3 (natLE 2 l.order ++ natLE 2 l.core ++ natLE 2 l.test ++ zeros 2 ++ natLE 4 id ++ zeros 4 ++ natLE 8 l.step) ack
        if ack then s.updIslot slot (fun x => { x with lull := { x.lull with sent := true } }) else s.lullEnds slot .void
    else s)

def execPackChunk (slot : Fin 8) (ack : Bool) (s : State) : Host.Outcome State Fault Refusal :=
  go (if s.isFull && s.coreRuns 7 && (s.slot slot).identified then s.sendChunk slot ack else s)

/-- VOUT_MODE and VOUT_COMMAND of the core rail are read when the slot has entered HELD from POWERING (R503). -/
def execSlotPowerOnBaseRead (slot : Fin 8) (reply : Option (Byte × BitVec 16)) (s : State) : Host.Outcome State Fault Refusal :=
  go (if (s.slot slot).st = .held && (s.slot slot).base.isNone && (s.coreRail slot).isSome && s.busServed then
      s.updSlot slot (fun x => { x with base := reply.map (fun r => (r.1.toNat, r.2.toNat)) })
    else s)

end Sys2Proof.Machine
end

