-- ==== Sys2Proof/Machine/Apply.lean ====
section
/-!
DEFINITION. Values that take effect: what each changed object does to the blocks it configures, commits, and direct writes (R14 to R16,
R32, R33, R150 to R157, R318).
-/

namespace Sys2Proof.Machine

namespace State

/-- Keys whose value a list changes. -/
def changedKeys (s : State) (l : List (Key × Nat)) : List Key := (l.filter (fun c => c.2 ≠ s.cfgVal c.1)).map (fun c => c.1)

/-- A field of an object's instance is among the changed ones. -/
def hits (ks : List Key) (obj inst : Nat) (flds : List Nat) : Bool :=
  ks.any (fun k => k.obj = obj && k.inst = inst && flds.contains k.fld)
/-- An object is among the changed ones. -/
def touches (ks : List Key) (obj : Nat) : Bool := ks.any (fun k => k.obj = obj)

/-! ### Before the values change -/

/-- The slots that leave a group: their lane operations end, and what a move makes void is void (R337, R356, R361). -/
def leaveGroups (ks : List Key) (s : State) : State :=
  ((List.finRange 8).filter (fun i => hits ks 0x41 i.1 [1])).foldl (fun t i => if t.expected i then t.memberLost i else t) s

/-! ### After the values have changed -/

/-- CONNECTED (R172, R174). -/
def applyFeeds (ks : List Key) (s : State) : State :=
  ((List.finRange 2).filter (fun f => hits ks 0x11 f.1 [1])).foldl (fun t f =>
    t.updFeed f (fun x => if t.connected f then { x with st := .off } else { x with st := .disconnected, wasOn := false })) s

/-- Fan zones and the acoustic profile at once, and channels that become unavailable (R252, R265). -/
def applyCooling (ks : List Key) (s : State) : State :=
  let s := ((List.finRange 28).filter (fun c => hits ks 0x31 c.1 [1] && !s.chanAvail c)).foldl (fun t c => t.chanGone c) s
  if (touches ks 0x30 || touches ks 0x33) && s.cool.applied && s.dev.armed then s.driveAll false else s

/-- One port after a change of object 0x40 (R312, R318): newly named it begins at DARK, no longer named it goes to UNUSED, a named uplink goes back
to IDENTIFYING when `again` is set. -/
def applyPort (old : State) (again : Bool) (s : State) (p : Fin 18) : State :=
  let a := old.portRole p
  let b := s.portRole p
  if a = 0 && b ≠ 0 then s.updPort p (portFresh .dark)
  else if a ≠ 0 && b = 0 then ((s.updPort p (portFresh .unused)).setRx p []).childGone p
  else if a ≠ b then (s.updPort p (fun x => { x with adopted := false })).childGone p
  else if again && 16 ≤ p.1 && b ≠ 0 && (s.port p).st ≠ .dark && (s.port p).st ≠ .training then s.updPort p (portFresh .identifying)
  else s

/-- A committed change of object 0x40 (R288, R318, R321, R338): of ports, and of the node's place, which makes it JOINING, or LOCKED as a root
that keeps its domain time. -/
def applyNode (ks : List Key) (s old : State) : State :=
  if !s.isFull || !touches ks 0x40 then s
  else
    let place := hits ks 0x40 0 [1, 2, 3, 4]
    let s := (List.finRange 18).foldl (applyPort old place) s
    let groups := if place then s.gop.groups.map (fun c => (c.1, { c.2 with reach := none })) else s.gop.groups
    let s := { s with gop := { s.gop with domain := none, groups := groups } }
    if !place then s
    else if s.isRoot then
      if old.isRoot then s
      else
        let s := { s with cad := { s.cad with
          st := .locked, rootHeld := true, stepOwed := false, active := 0, groupsHeld := false, slewEnd := none, adoptTx := false
          adopt := .idle, step := none, inRow := 0, lastOffset := 0, ratePpb := 0 } }
        let s : State := s.uplinkCommandsFail
        if s.dev.clkMode.toNat = 2 then s.count 0x0573 else s
    else
      let s := (s.acceptedOn 0x0404).foldl (fun t p => t.finish p .failed []) s
      { s with cad := { s.cad with
        st := .joining, rootHeld := false, stepOwed := true, active := 0, groupsHeld := false, slewEnd := none, adoptTx := false
        adopt := .idle, step := none, inRow := 0 } }

/-- Slots that move: no longer expelled, their groups without reach; a request that stands for every group with a member slot stands for a group
that has its first one (R32, R195, R259, R337; DEDUCED, log 93). -/
def applyMembers (ks : List Key) (s old : State) : State :=
  if !touches ks 0x41 then s
  else
    let moved := (List.finRange 8).filter (fun i => hits ks 0x41 i.1 [1])
    let s := ((List.finRange 8).filter (fun i => touches (ks.filter (fun k => k.inst = i.1)) 0x41)).foldl (fun t i =>
      t.updSlot i (fun x => { x with expelled := false })) s
    let gs := (moved.flatMap (fun i => [old.groupOf i, s.groupOf i])).eraseDups
    let s := gs.foldl (fun t g => t.updGrp g (fun x => { x with
      reach := none, expelled := if t.members g = [] then 0 else maskOf 8 (fun i => x.expelled.testBit i && !moved.any (fun j => j.1 = i)) })) s
    let loss := maxOf (old.groupsHere.map (fun g => (old.grp g).loss))
    let gust := maxOf (old.groupsHere.map (fun g => (old.grp g).gust))
    (s.groupsHere.filter (fun g => old.members g = [])).foldl (fun t g => t.updGrp g (fun x => { x with loss := loss, gust := gust })) s

/-- Sampling plans enter the history with the instant (R414, R455). -/
def applyPlans (ks : List Key) (instant : Nat) (s : State) : State :=
  ((List.range 256).filter (fun g => hits ks 0x50 g [1, 2, 3, 4, 5, 6])).foldl (fun t g =>
    { t with integ := { t.integ with plans := (g, instant, t.cfgPlan g) :: t.integ.plans } }) s

/-- A layer-map commit (R413, R437, R446, R478). -/
def applyLayers (l : List (Key × Nat)) (ks : List Key) (s : State) : State :=
  if !l.any (fun c => c.1.obj = 0x60) then s
  else
    let ls := (ks.filter (fun k => k.obj = 0x60 && 0x1000 ≤ k.fld)).map (fun k => k.fld - 0x1000)
    let s := (ls.foldl (fun t n => t.layerChanged n) s).endJobs
    { s with
      chk := { s.chk with areas := Vec.mapIdx s.chk.areas (fun _ a => if a.st = .sealed then { a with mapChanged := true } else a) }
      integ := { s.integ with lastVote := ls.foldl (fun v n => Assoc.set v (256, n) s.lt) s.integ.lastVote } }

/-- Values take effect together (R32, R151). -/
def applyValues (l : List (Key × Nat)) (instant : Nat) (s : State) : State :=
  let ks := s.changedKeys l
  let old := s.leaveGroups ks
  let s := { old with cfg := { old.cfg with eff := mergeEff l old.cfg.eff } }
  let s := ((s.applyFeeds ks).applyCooling ks).applyNode ks old
  ((s.applyMembers ks old).applyPlans ks instant).applyLayers l ks

/-! ### Commits and direct writes (R15, R16, R102, R152, R157, R159) -/

/-- A pending commit takes effect: its Draft closes, its command ends OK, and direct writes of this boundary to the same fields are lost
(R16, R139, R152). -/
def commitNow (s : State) : State :=
  match s.cfg.commit with
  | none => s
  | some m =>
    let l := s.stagedList
    let s := s.applyValues l m.instant
    let late := fun (w : LiveWrite) => decide (w.acc + 64 ≤ s.lt) && l.any (fun c => c.1 = w.key)
    let s := { s with cfg := { s.cfg with commit := none, draft := none, live := s.cfg.live.filter (fun w => !late w) } }
    s.finish m.port .ok (commitReply m.instant 0)

/-- The zones whose takeover the FAN_SETs that are due end (R270, R283). -/
def endTakeover (ports : List Port) (s : State) : State :=
  ports.foldl (fun t p =>
    let zs := fanZones (t.params p)
    { t with cool := { t.cool with zones := Vec.mapIdx t.cool.zones (fun z x => if zs.contains z then { x with takeover := false } else x) } }) s

/-- The direct writes that are due at a boundary, in the order of their acceptance, and the end of their commands (R15, R157, R283). -/
def liveNow (b : Nat) (s : State) : State :=
  let due := s.cfg.live.filter (fun w => w.acc + 64 ≤ s.lt)
  let ready := fun (op : Nat) => (s.acceptedOn op).filter (fun p => (s.win p).acc + 64 ≤ s.lt)
  let sets := ready 0x0108
  let fans := ready 0x0302
  if due = [] && sets = [] && fans = [] then s
  else
    let s := { s with cfg := { s.cfg with live := s.cfg.live.filter (fun w => s.lt < w.acc + 64) } }
    let s := s.applyValues (due.foldl (fun l w => setKey w.key w.value l) []) b
    let s := s.endTakeover fans
    let s := if fans = [] then s else s.driveAll false
    let s := sets.foldl (fun t p => t.finish p .ok (natLE 8 b)) s
    fans.foldl (fun t p => t.finish p .ok (natLE 8 b ++ t.fanApplied)) s

end State

end Sys2Proof.Machine
end

