-- ==== Sys2Proof/Machine/Frame.lean ====
section
/-!
DEFINITION. The frame boundary and the epoch: what falls due, in the order of R32 and R355, with the throttle's release (R25 to R36, R299, R324 to R327,
R350 to R361, R490, R501, R502, R507, R512, R515).
-/

namespace Sys2Proof.Machine

namespace State

/-! ### The frame that ends (R36, R456, R501, R502, R507) -/

/-- A stretch of frames at one step, joined to the last one where it goes on (R507). -/
def addRun (r : Nat × Nat × Nat) (l : List (Nat × Nat × Nat)) : List (Nat × Nat × Nat) :=
  match l.getLast? with
  | some q => if q.2.1 = r.1 && q.2.2 = r.2.2 then l.dropLast ++ [(q.1, r.2.1, r.2.2)] else l ++ [r]
  | none => [r]

/-- The frames up to `f` that the RUNNING slots have run (R507). -/
def extendRuns (f : Nat) (s : State) : State :=
  if f ≤ s.dev.frame then s
  else (List.finRange 8).foldl (fun t i =>
    if t.running i then t.updSlot i (fun x => { x with runs := addRun (t.dev.frame, f, (t.grp (t.groupOf i)).step) x.runs }) else t) s

/-- Rails whose READ_POUT gives a slot's draw (R502). -/
def shareRails (s : State) (i : Fin 8) : List (Fin 64) := (s.ownRails i).filter (fun n => s.drivesPmbus n && s.fld 0x20 n.1 0x10 ≠ 0)

/-- Rails of the RUNNING slots on one PMBus master, in rising order (R501). -/
def masterRails (s : State) (m : Nat) : List (Fin 64) :=
  (List.finRange 64).filter (fun n => bits (s.fld 0x20 n.1 6) 0 2 = m && (List.finRange 8).any (fun i => s.running i && (s.shareRails i).contains n))
/-- Rails that a master reads in a frame (R501). -/
def readLimit (s : State) : Nat := if s.dev.opt.pmbusFast then 12 else 5
def readable (s : State) (n : Fin 64) : Bool := ((s.masterRails (bits (s.fld 0x20 n.1 6) 0 2)).take s.readLimit).contains n

/-- The measured power of a slot as power times share and the share, when every rail was read (R502). A slot without such a rail is not judged. -/
def drawOf (s : State) (pout : List (Nat × Nat)) (i : Fin 8) : Option (Nat × Nat) :=
  let rs := s.shareRails i
  if rs = [] || !rs.all (fun n => s.readable n && pout.any (fun c => c.1 = n.1)) then none
  else some ((rs.map (fun n => Assoc.get 0 pout n.1)).sum, (rs.map (fun n => s.fld 0x20 n.1 0x10)).sum)

/-- Judging one slot's draw over frame `f` (R36, R502). -/
def judgeDraw (pout : List (Nat × Nat)) (f : Nat) (s : State) (i : Fin 8) : State :=
  let fc := if s.running i then s.forecastMw i f (s.grp (s.groupOf i)).step else none
  match fc, (if s.gop.throt.mask.getLsbD i.1 then none else s.drawOf pout i) with
  | some w, some (p, sh) =>
    let far := decide (15 * w * sh < 100 * ((256 * p : Nat) - (w * sh : Nat) : Int).natAbs)
    let n := if far then (s.slot i).streak + 1 else 0
    let s := s.updSlot i (fun x => { x with forecast := fc, measured := some (256 * p / sh), streak := if n = 8 then 0 else n })
    if n = 8 then s.deviation i else s
  | _, _ => s.updSlot i (fun x => { x with forecast := fc, measured := none, streak := 0 })

/-- What the end of a frame shows of the RUNNING slots; a master with rails beyond its number counts one shortfall (R501). -/
def frameEnds (pout : List (Nat × Nat)) (f : Nat) (s : State) : State :=
  let s := (List.range 4).foldl (fun t m => if t.readLimit < (t.masterRails m).length then t.count 0x0036 else t) s
  let s := (List.finRange 8).foldl (State.judgeDraw pout f) s
  (List.finRange 8).foldl (fun t i => t.expectTiles i f) s

/-! ### Epoch operations that are due (R350, R352 to R355, R359) -/

/-- Operations of an epoch that is reached, whose decision satisfies `p`. -/
def dueOps (s : State) (b : Nat) (fn : EpochFn) (p : Option (Bool × Nat) → Bool) : List EpochOp :=
  s.gop.epochs.filter (fun o => o.epoch ≤ b && o.fn = fn && p o.decided)

def decidedGo (d : Option (Bool × Nat)) : Bool := match d with | some (true, _) => true | _ => false
def decidedHold (d : Option (Bool × Nat)) : Bool := match d with | some (false, _) => true | _ => false

/-- SNAPSHOT_AT (R354). -/
def takeSnapshot (o : EpochOp) (s : State) : State :=
  let x : Snapshot :=
    { id := o.arg, group := o.group.1, step := (s.grp o.group.1).step, epoch := o.epoch
      slots := (List.finRange 8).map (fun i => SlotState.num (s.slot i).st), counters := s.ctr.vals }
  let l := s.gop.snaps ++ [x]
  (({ s with gop := { s.gop with snaps := l.drop (l.length - 4) } }).dropOp o).endOp o .ok 0

/-- COMMIT_AT (R151, R153). -/
def commitOp (o : EpochOp) (s : State) : State :=
  let s := if (s.commitFor o).isSome then s.commitNow else s
  s.dropOp o

/-- CADENCE_AT of a group that spans trays, or the host's request of one that does not (R353, R357). -/
def cadenceOp (o : EpochOp) (s : State) : State :=
  let g := o.group.1
  let step := match o.decided with | some (_, n) => n | none => 0
  let s := if s.localGroup g then
      let s := if o.ports = [] then s else s.updGrp g (fun x => { x with host := if o.arg = 0xFF then none else some o.arg })
      s.updGrp g (fun x => { x with step := s.request g })
    else s.updGrp g (fun x => { x with step := step })
  (s.dropOp o).endOp o .ok 0

/-- RESET_AT (R354, R486, R512). -/
def resetOp (o : EpochOp) (s : State) : State :=
  let s := (s.members o.group.1).foldl (fun t i => match (t.slot i).st with
    | .running => (t.holdSlot i).pulseReset 1000 i
    | .held | .quarantined => t.pulseReset 1000 i
    | _ => t) s
  (s.dropOp o).endOp o .ok 0

/-- An operation that was cancelled or lost before its epoch holds its group now (R352, R359). -/
def holdOp (o : EpochOp) (s : State) : State := (s.dropOp o).holdGroup o.group.1

/-- Groups held at this boundary by operations without a decision to go (R512). -/
def heldNow (s : State) (b : Nat) : List Nat :=
  (s.gop.epochs.filter (fun o => o.epoch ≤ b && o.fn ≠ .commit && !decidedGo o.decided)).map (fun o => o.group.1)

/-- No decision has come by the epoch (R352). -/
def undecidedNow (b : Nat) (s : State) : State :=
  (s.gop.epochs.filter (fun o => o.epoch ≤ b && o.decided.isNone)).foldl (fun t o => t.noDecision true o) s

/-- Orders 1 of R355 and R32. -/
def firstOrders (b : Nat) (s : State) : State :=
  let s := (s.dueOps b .snapshot decidedGo).foldl (fun t o => t.takeSnapshot o) s
  (s.dueOps b .commit decidedGo).foldl (fun t o => t.commitOp o) s

/-- Order 3 of R32 for what an epoch brings, and RESET_AT. -/
def lastOrders (b : Nat) (s : State) : State :=
  let held := s.gop.epochs.filter (fun o => o.epoch ≤ b && decidedHold o.decided)
  let s := held.foldl (fun t o => t.holdOp o) s
  let s := (s.dueOps b .cadence decidedGo).foldl (fun t o => t.cadenceOp o) s
  (s.dueOps b .reset decidedGo).foldl (fun t o => t.resetOp o) s

/-- Step changes that have taken effect are no longer awaited; the throttle is released with the last one, and after 2,048 ticks at the
most (R30, R358). -/
def throttleEnds (frame : Bool) (b : Nat) (s : State) : State :=
  let x := s.gop.throt
  let left := x.awaits.filter (fun a => match a.2 with | none => !frame | some e => decide (b < e))
  if (x.awaits ≠ [] && left = []) || (x.mask ≠ 0 && x.since + 2048 ≤ s.lt) then s.releaseThrottle
  else { s with gop := { s.gop with throt := { x with awaits := left } } }

/-- Everything that an epoch brings, in the order of R355. -/
def epochNow (b : Nat) (s : State) : State :=
  (((s.undecidedNow b).firstOrders b).lastOrders b).throttleEnds false b

/-! ### Steps, limits and slots at a frame boundary -/

/-- A pending commit of MODE 0 or 1 whose instant has come (R149, R152). -/
def commitDue (b : Nat) (s : State) : State :=
  match s.cfg.commit with
  | some m => if m.mode ≠ 2 && m.instant ≤ b then s.commitNow else s
  | none => s

/-- Tray-local groups take the highest request (R26, R27). -/
def localSteps (s : State) : State :=
  s.groupsHere.foldl (fun t g => if t.localGroup g then t.updGrp g (fun x => { x with step := t.request g }) else t) s

/-- The requests of the tray's own causes have taken effect in every group (R201, R273). -/
def causesApplied (s : State) : State :=
  let s := s.coolApplied
  if s.gop.epochs.any (fun e => e.fn = .cadence && s.groupsHere.contains e.group.1) then s
  else { s with weir := { s.weir with budgetApplied := s.weir.budgetStep } }

/-- The limits of the feeds in ON for the new frame, which K0 has computed (R176, R181). -/
def frameLimits (k : Nat) (s : State) : State :=
  if !s.coreRuns 0 then s
  else s.feedsOn.foldl (fun t f => t.updFeed f (fun x => { x with limit := t.limitMa f k, fast := 100 * t.fld 0x11 f.1 6 })) s

/-- SLOT_HOLD takes effect at the first boundary 64 ticks after its acceptance (R513, R515). -/
def holdsDue (b : Nat) (s : State) : State :=
  ((s.acceptedOn 0x0705).filter (fun p => (s.win p).acc + 64 ≤ s.lt)).foldl (fun t p =>
    let t := (named (t.params p)).foldl (fun u i => u.holdSlot i) t
    t.finish p .ok (t.slotStates ++ natLE 8 b)) s

/-- One slot of a SLOT_RUN enters RUNNING, or stays HELD (R490, R512, R515); its margin is written again (R471, R512). -/
def runSlot (held : List Nat) (s : State) (i : Fin 8) : State :=
  if s.mayRun i && !held.contains (s.groupOf i) then
    let s := (s.setSlot i .running 0).updGrp (s.groupOf i) (fun x => { x with held := false })
    if (s.islot i).ladder ≠ 0 then s.writeMargin i true else s
  else s.updSlot i (fun x => { x with runAt := none })

/-- The SLOT_RUNs that are due (R515). -/
def runsDue (held : List Nat) (b : Nat) (s : State) : State :=
  (s.acceptedOn 0x0704).foldl (fun t p =>
    let is := named (t.params p)
    let waits := is.any (fun i => match (t.slot i).runAt with | some e => decide (b < e) | none => false)
    if waits then t
    else
      let t := (is.filter (fun i => (t.slot i).runAt.isSome)).foldl (runSlot held) t
      t.finish p (if is.all t.running then .ok else .failed) (t.slotStates ++ natLE 8 b)) s

/-- Counts by the frame: of the check engine and the Basin without work, of trace records (R66, R67, R550). -/
def frameCounts (s : State) : State :=
  { s with
    chk := { s.chk with idle := if s.waitingAreas = [] then s.chk.idle + 1 else 0 }
    basin := { s.basin with idle := if s.basin.traffic then 0 else s.basin.idle + 1, traffic := false }
    ctr := { s.ctr with trace := 0 } }

/-- What the cadence node does in Full at a boundary: decisions of EXPEL, holds, ports, and the slots' commands (R320, R325, R326, R356). -/
def fullBoundary (held : List Nat) (b : Nat) (s : State) : State :=
  let s := (s.gop.expels.filter (fun d => d.epoch ≤ b)).foldl (fun t d => t.expelNow d) s
  let s := (s.cadenceHolds).portsBoundary b
  let s := if s.coreRuns 7 then (s.holdsDue b).runsDue held b else s
  (List.finRange 8).foldl (fun t i => t.nextItem i) s.integRefresh

/-- FRAME words for the new frame, unless a step of domain time stops the lanes at this boundary (R299, R324). -/
def frameSent (b : Nat) (s : State) : State := if s.cad.step.isSome && !s.anyRunning then s else s.frameWords b

/-- The frame boundary at tick `b` of the mirror's time (R32). -/
def frameStarts (pout : List (Nat × Nat)) (b : Nat) (s : State) : State :=
  let s := (s.extendRuns (b / 1024)).frameEnds pout (b / 1024 - 1)
  let s := { s with dev := { s.dev with frame := b / 1024 } }
  let s := (List.finRange 8).foldl (fun t i => t.lullFrame i) s
  let held := s.heldNow b
  let s := (((s.undecidedNow b).firstOrders b).commitDue b).liveNow b
  let s := ((s.lastOrders b).localSteps).throttleEnds true b
  let s := if s.isFull then s.fullBoundary held b else s
  let s := ((s.causesApplied).frameLimits (b / 1024)).frameCounts
  if s.isFull then s.frameSent b else s

/-- A step that an emergency raised has not taken effect in every group (R360). -/
def stepsOwed (s : State) : Bool := s.groupsHere.any (fun g => decide ((s.grp g).step < s.request g))

end State

/-! ### The rows -/

def execFrameBoundary (pout : List (Nat × Nat)) (s : State) : Host.Outcome State Fault Refusal :=
  go (if s.dev.st = .keeper || s.dev.st = .full then
      match s.boundaryNow with
      | some b => s.frameStarts pout b
      | none => s
    else s)

/-- The epoch is reached, or its frame boundary is now (R355). -/
def execEpochEffect (epoch : Nat) (s : State) : Host.Outcome State Fault Refusal :=
  go (if s.isFull && (epoch ≤ s.ct || s.boundaryNow = some epoch) && s.gop.epochs.any (fun o => o.epoch = epoch) then s.epochNow epoch else s)

/-- 4,096 ticks after a release, an emergency that was held back asserts the throttle unless its steps have taken effect (R360). -/
def execThrottleHoldbackEnd (s : State) : Host.Outcome State Fault Refusal :=
  let x := s.gop.throt
  let over_ : Bool := match x.lastRelease with | some t => decide (t + 4096 ≤ s.lt) | none => false
  go (if x.back && over_ then
      if s.stepsOwed then s.assertThrottle else { s with gop := { s.gop with throt := { x with back := false } } }
    else s)

end Sys2Proof.Machine
end

