-- ==== Sys2Proof/Machine/Update.lean ====
section
/-!
DEFINITION. The upper image's load and halt, the update session with Staging and the test packs, live handover, per-core restart, and commands that end
at their bound (R103, R443, R539 to R546, R555 to R585).
-/

namespace Sys2Proof.Machine

namespace State

/-! ### Commands whose core is lost (R102, R103, R446, R578, R580) -/

/-- What an accepted command has left with the blocks is let go when it ends ABANDONED: a commit, waiting slots, operations it would have
completed, seal work, an update session. -/
def dropWork (p : Port) (s : State) : State :=
  let op := (s.win p).opcode.toNat
  let s := if op = 0x0704 then
      (named (s.params p)).foldl (fun t i => t.updSlot i (fun x => { x with runAt := none })) s
    else if op = 0x0801 || op = 0x0802 || op = 0x0803 then { s with upd := { s.upd with session := none, liveDue := false } }
    else s
  { s with
    gop := { s.gop with epochs := s.gop.epochs.map (fun o => { o with ports := o.ports.filter (fun q => q ≠ p) }) }
    basin := { s.basin with jobs := s.basin.jobs.map (fun j => if j.port = p then { j with lost := true } else j) } }

/-- An accepted command ends ABANDONED because of its core. -/
def abandonWork (s : State) (p : Port) : State :=
  if (s.win p).state ≠ .accepted then s
  else if (match s.cfg.commit with | some m => decide (m.port = p) | none => false) then s.failCommit .abandoned 0
  else (s.dropWork p).abandon p

/-- The accepted commands whose work an upper core does (R90, R541): U0 serves windows 0 to 5, U1 the cadence, U2 checks and the Basin, U4 updates, U5 the
slots. -/
def commandsOf (s : State) (k : Fin 8) : List Port :=
  (List.finRange 8).filter (fun p =>
    let op := (s.win p).opcode.toNat
    let c := op / 256
    (s.win p).state = .accepted && op ≠ 0x0804 &&
    match k.1 with
    | 2 => decide (p.1 < 6)
    | 3 => c = 4
    | 4 => c = 5 || c = 6
    | 6 => c = 8
    | 7 => c = 7 && s.isFull
    | _ => false)

/-! ### Entering Full (R50, R57, R167, R288, R321, R443, R505, R543, R544) -/

/-- The image in the staging region (R443). -/
def stagedUpper (s : State) (n : Nat) : Bytes := Mem.read 0 s.basin.mem reservedBase n

/-- Header, key, hash and signature of an upper image (R523). -/
def upperAuth (s : State) (h : ImgHeader) (body : Bytes) : List (Why × Bool) :=
  [(.key, !s.keyOk h), (.hash, sha256 body ≠ h.bodySha), (.signature, !sigOk h), (.sections, !sectionsOk h body)]

/-- Every section of the six cores passes its CRC where it would stand. -/
def upperCrcOk (body : Bytes) : Bool :=
  [2, 3, 4, 5, 6, 7].all (fun k =>
    let ss := (sectionsOf body).filter (fun x => x.core = k)
    sramOk ss (placeSections ss body []))

/-- The six cores take an image: sections, maps, release, measurement 2 (R543 step 6, R553, R576 step 3). -/
def takeUpper (img : Bytes) (s : State) : State :=
  let h := ImgHeader.parse (img.take 1024)
  let s := [(2 : Fin 8), 3, 4, 5, 6, 7].foldl (placeCore (img.drop 1024)) s
  let s := { s with boot := { s.boot with
    upper := some h.version, upperCompat := h.compat, upperHo := h.hoOwn, meas := s.boot.meas.set 1 (sha256 img) } }
  let s := [(2 : Fin 8), 3, 4, 5, 6, 7].foldl (fun t k =>
    (t.updCore k (fun c => { c with mapLocked := true, stopped := false })).releaseCore k) s
  s.logEntry 0 0x005 0x7E 0

/-- The check engine takes a microcode image (R544, R553, R565). -/
def takeUcode (h : ImgHeader) (body img : Bytes) (s : State) : State :=
  { s with
    chk := { s.chk with ucode := some (h.version, Config.ucodeClasses body) }
    boot := { s.boot with ucodeCompat := h.compat, meas := s.boot.meas.set 2 (sha256 img) } }

/-- The microcode of the booted bank is loaded (R544). -/
def loadUcode (s : State) : State :=
  match s.bankUcode, s.boot.bank with
  | some (h, body), some n =>
    if s.ucodeOk h body then
      s.takeUcode h body (match s.setEntry (bankBase n) 3 with | some d => s.setImage (bankBase n) d | none => [])
    else s.notice 0x0807
  | _, _ => s.notice 0x0807

/-- The settings that the store gives for Full take effect (R167). -/
def takeLater (s : State) : State :=
  let l := s.cfg.later
  let ks := s.changedKeys l
  let old := s
  let s := { s with cfg := { s.cfg with eff := mergeEff l s.cfg.eff, later := [] } }
  s.applyMembers ks old

/-- The cadence node as Full begins (R288, R316, R318, R321): a root is LOCKED, a node with an uplink JOINING; every port in use begins at DARK. -/
def startCadence (s : State) : State :=
  let root := s.isRoot
  let s := { s with cad := { resetCad with
    st := if root then .locked else .joining, stepOwed := !root
    ports := Vec.tab 18 (fun p => { resetPort with st := if s.portRole p = 0 then .unused else .dark }) } }
  if root && s.dev.clkMode.toNat = 2 then s.count 0x0573 else s

/-- The BT-8 enters Full with an upper image that has passed every check. -/
def enterFull (img : Bytes) (s : State) : State :=
  let s := ((s.takeUpper img).loadUcode).logEntry 0 0x009 0 (ImgHeader.parse (img.take 1024)).version
  let s := { s with dev := { s.dev with
    st := .full
    plls := (s.dev.plls.set 1 .starting).set 2 .starting } }
  let s := (s.takeLater).startCadence
  let s := (List.finRange 8).foldl (fun t i => t.nbClear i) s
  let s := { s with
    basin := { s.basin with stagingClosed := false }
    chk := { s.chk with areas := Vec.tab 64 (fun _ => resetArea) } }
  let s := (s.ledgerLoad).mapChanged
  (s.judgeDormancy).integRefresh

/-- Why an upper load fails, at the first step of R543 that does (R545). -/
def upperWhy (s : State) (len : Nat) (copyError stage0Lost : Bool) : Option Why :=
  let img := s.stagedUpper len
  let h := ImgHeader.parse (img.take 1024)
  let body := img.drop 1024
  let uc := s.bankUcode.map (fun u => (u.1.version, u.1.compat))
  firstWhy ([(.stage0, stage0Lost || !s.stage0Pg), (.header, !h.formOk 2 || h.length + 1024 ≠ len),
    (.compat, !h.compatWith 1 s.runningKeeper || !h.compatWith 3 uc)] ++ s.upperAuth h body ++ [(.copyCrc, copyError || !upperCrcOk body)])

def upperLoadReply (why : Nat) (version tick : Nat) : Bytes := [byte why, 0, 0, 0] ++ natLE 4 version ++ natLE 8 tick

/-- The end of an upper load. -/
def upperLoaded (p : Port) (copyError stage0Lost : Bool) (s : State) : State :=
  let len := (s.params p).num 0 4
  let img := s.stagedUpper len
  let v := (ImgHeader.parse (img.take 1024)).version
  match s.upperWhy len copyError stage0Lost with
  | some w =>
    let s := { s with basin := { s.basin with stagingClosed := false } }
    (s.logEntry 0 0x009 w.num v).finish p .failed (upperLoadReply w.num v 0)
  | none =>
    let s := s.enterFull img
    s.finish p .ok (upperLoadReply 0 v s.lt)

/-! ### Reasons (R545, R585, R617) -/

/-- An update refusal or failure: counted, and shown by FW_STATUS. -/
def noteWhy (w : Why) (s : State) : State := ({ s with upd := { s.upd with lastReason := w.num } }).notice (0x0850 + w.num)

/-! ### The update session (R557 to R569) -/

/-- Flash offset at which the session's image stands (R562). -/
def sessionBase (u : UpdSession) : Nat := if u.component = 4 then packBlockAt u.place else stagingBase + 0x1000
/-- The image received so far. -/
def sessionImage (s : State) (u : UpdSession) : Bytes := s.flashRead (sessionBase u) u.next
def sessionHeader (s : State) (u : UpdSession) : ImgHeader := ImgHeader.parse (s.flashRead (sessionBase u) 1024)

/-- A flag of FW_BEGIN is used outside its conditions (R559). -/
def flagsBad (s : State) (comp fl : Nat) : Bool :=
  (bit fl 1 && (comp ≠ 3 || !s.isFull)) || (bit fl 2 && comp ≠ 1) || (bit fl 3 && comp ≠ 4)

/-- PACKS of the reply (R582). -/
def beginReply (s : State) (id : Nat) : Bytes := natLE 4 id ++ [byte s.packs.length, 0, 0, 0]

def fwBeginRun (p : Port) (ps : Bytes) (b : Nat) (s : State) : State :=
  let comp := ps.num 0 1
  let fl := ps.num 1 1
  let total := ps.num 4 4
  if bit fl 3 then
    let s := s.removePack (ps.num 8 4)
    s.answer p b .ok (s.beginReply 0)
  else
    let place := if comp = 4 then s.packPlace total else some 0
    match place with
    | none => (s.noteWhy .noSpace).answer p b .failed (s.beginReply 0)
    | some n =>
      let s := if comp = 4 then s else s.flashErase stagingBase 0x10000
      let u : UpdSession :=
        { owner := p, id := s.upd.nextId, component := comp, flags := fl, total := total, next := 0, place := n, checking := false, full := s.isFull }
      let s := { s with upd := { s.upd with session := some u, nextId := s.upd.nextId + 1 } }
      s.answer p b .ok (s.beginReply u.id)

/-- The session that a command names (R557, R584): BAD_PARAM for another UPDATE_ID, REFUSED_BUSY for another owner. -/
def sessionChecks (s : State) (p : Port) (ps : Bytes) : List (Code × Bool) :=
  [(.badParam, match s.upd.session with | some u => ps.num 0 4 ≠ u.id % 2 ^ 32 | none => true),
   (.refusedBusy, match s.upd.session with | some u => u.owner ≠ p | none => false)]

/-- A block is in its place (R560, R561): the next one, within TOTAL, the first one with the whole header; or one that is held already. -/
def blockOk (s : State) (ps : Bytes) : Bool :=
  match s.upd.session with
  | none => false
  | some u =>
    let off := ps.num 4 4
    let len := ps.num 8 2
    if off = u.next then off + len ≤ u.total && (off ≠ 0 || 1024 ≤ len)
    else off + len ≤ u.next && s.flashRead (sessionBase u + off) len = ps.drop 16

/-- The header check of the first block (R561, R570, R571). -/
def headerWhy (s : State) (u : UpdSession) (h : ImgHeader) : Option Why :=
  let uc := if bit u.flags 2 then none else s.bankUcode.map (fun c => (c.1.version, c.1.compat))
  firstWhy [
    (.header, !h.formOk u.component || h.length + 1024 ≠ u.total), (.key, !s.keyOk h),
    (.compat, match u.component with
      | 1 => !h.compatWith 3 uc
      | 3 => !h.compatWith 1 s.runningKeeper || !h.compatWith 2 s.runningUpper
      | _ => false)]

/-- Erasing the 64 KiB blocks whose first byte a write brings (R562). -/
def eraseFor (a n : Nat) (s : State) : State :=
  (List.range (n / 65536 + 2)).foldl (fun t k =>
    let e := (a / 65536 + k) * 65536
    if a ≤ e && e < a + n then t.flashErase e 65536 else t) s

def blockReply (next why : Nat) : Bytes := natLE 4 next ++ [byte why, 0, 0, 0]

/-- A failure ends the session (R557). -/
def endSession (w : Option Why) (s : State) : State :=
  let s := { s with upd := { s.upd with session := none, liveDue := false } }
  match w with
  | some x => s.noteWhy x
  | none => s

def fwBlockRun (p : Port) (ps : Bytes) (b : Nat) (s : State) : State :=
  match s.upd.session with
  | none => s
  | some u =>
    let off := ps.num 4 4
    let data := ps.drop 16
    if off ≠ u.next then s.answer p b .ok (blockReply u.next 0)
    else
      match (if off = 0 then s.headerWhy u (ImgHeader.parse (data.take 1024)) else none) with
      | some w => (s.endSession (some w)).answer p b .failed (blockReply u.next w.num)
      | none =>
        let a := sessionBase u + off
        let s := (s.eraseFor a data.length).flashWrite a data
        let s := { s with upd := { s.upd with session := some { u with next := u.next + data.length } } }
        s.answer p b .ok (blockReply (u.next + data.length) 0)

/-- The companion of the image (R564 step 5): the booted bank's microcode for a keeper, its keeper for a microcode. -/
def companion (s : State) (u : UpdSession) : Option (DirEntry × Bytes) :=
  match s.boot.bank with
  | none => none
  | some n =>
    if u.component = 4 || bit u.flags 2 then none
    else (s.setEntry (bankBase n) (if u.component = 1 then 3 else 1)).map (fun d => (d, s.setImage (bankBase n) d))

def endReply (s : State) (u : UpdSession) (why : Nat) : Bytes :=
  let h := s.sessionHeader u
  [byte why, 0, 0, 0] ++ natLE 4 h.version ++ h.bodySha.fit 32

/-- Why FW_END fails in steps 1 to 5 (R564, R569). -/
def endWhy (s : State) (u : UpdSession) (flashOk : Bool) : Option Why :=
  let h := s.sessionHeader u
  let body := (s.sessionImage u).drop 1024
  firstWhy [
    (.length, u.next ≠ u.total), (.hash, sha256 body ≠ h.bodySha), (.flash, crc32c body ≠ h.bodyCrc),
    (.signature, !(s.keyOk h && sigOk h)), (.sections, u.component ≠ 4 && !sectionsOk h body),
    (.flash, !flashOk || (match s.companion u with | some c => !imageCrcOk c.2 | none => false))]

/-- The directory of the staged set: the new image, then its companion at the next multiple of 4,096 (R563, R564). -/
def stagedDir (s : State) (u : UpdSession) : List (DirEntry × Bytes) :=
  let img := s.sessionImage u
  let own : DirEntry := { comp := u.component, off := 0x1000, len := u.total, sha := (s.sessionHeader u).bodySha }
  (own, img) :: (match s.companion u with
    | some (d, b) => [({ d with off := ceilDiv (0x1000 + u.total) 4096 * 4096 }, b)]
    | none => [])

/-- Copying the companion, and the record with VERIFY_SHA and VERIFIED (R564 steps 5 and 7). -/
def stageSet (u : UpdSession) (s : State) : State :=
  let ds := s.stagedDir u
  let sha := (s.sessionHeader u).bodySha
  let s := (ds.drop 1).foldl (fun t c => (t.eraseFor (stagingBase + c.1.off) c.2.length).flashWrite (stagingBase + c.1.off) c.2) s
  let head := ascii "SKSG" ++ natLE 2 1 ++ natLE 2 ds.length ++ natLE 2 u.component ++ zeros 6
    ++ Bytes.fit (ds.flatMap (fun c => c.1.bytes)) 96
  let s := s.flashWrite stagingBase (head ++ natLE 4 (crc32c head))
  (s.flashWrite (stagingBase + 0x120) (sha.fit 32)).flashWrite (stagingBase + 0x100) (zeros 4)

/-- FW_END completes: the staged set is verified, or the pack is listed (R564, R569). -/
def endOk (p : Port) (u : UpdSession) (s : State) : State :=
  let reply := s.endReply u 0
  let s := if u.component = 4 then s.listPack u.place (s.sessionImage u) else s.stageSet u
  let s := (s.endSession none).finish p .ok reply
  if u.component = 4 && (match s.integ.rx with | some x => x.waiting | none => false) then s.installRx else s

def endFail (p : Port) (u : UpdSession) (w : Why) (s : State) : State :=
  let reply := s.endReply u w.num
  (s.endSession (some w)).finish p .failed reply

/-- Ticks of FW_END (R582). -/
def endBound (s : State) : Nat :=
  match s.upd.session with
  | none => 60000
  | some u =>
    let c := match s.companion u with | some d => d.2.length | none => 0
    60000 + ceilDiv (u.total + c) 400 + (ceilDiv c 65536 + 1) * (1000 * s.boot.tBe + 256 * s.boot.tPp) + (if bit u.flags 1 then 15000 else 0)

/-! ### Live handover (R570 to R579) -/

/-- Why FW_HANDOVER is refused by what the image and the state hold (R571, R573). -/
def handoverWhy (s : State) (len : Nat) : Option Why :=
  let h := ImgHeader.parse (s.stagedUpper 1024)
  let uc := s.chk.ucode.map (fun u => (u.1, s.boot.ucodeCompat))
  firstWhy [
    (.header, len < 1024 || 8388608 < len || !h.formOk 2),
    (.hoVersion, s.boot.upperHo < h.hoMin || h.hoMax < s.boot.upperHo),
    (.compat, !h.compatWith 1 s.runningKeeper || !h.compatWith 3 uc)]

/-- An accepted command whose work an upper core does and whose bound falls in the pause from 64 ticks before `f` to 960 after it (R574). -/
def pauseHits (s : State) (f : Nat) : Bool :=
  (List.finRange 8).any (fun p =>
    let w := s.win p
    w.state = .accepted && (p.1 < 6 || fullOpcode w.opcode.toNat) && f - 64 ≤ w.bound && w.bound ≤ f + 960)

/-- HO_FRAME on the local tick counter: the first of 64 frame boundaries that the pause may fall on (R574). -/
def handoverFrame (s : State) (len : Nat) : Option Nat :=
  let first := s.boundaryAfter (30000 + ceilDiv len 40)
  ((List.range 65).map (fun k => s.lt + (first + 1024 * k - s.ct))).find? (fun f => !s.pauseHits f)

def handoverReply (h : Handover) (why toVer : Nat) : Bytes :=
  [byte why, 0, 0, 0] ++ natLE 4 h.fromVer ++ natLE 4 toVer ++ zeros 4 ++ natLE 8 h.frame

/-- Refusals with a reason of FW_HANDOVER (R573). -/
def handoverRefused (ps : Bytes) (s : State) : State :=
  if ps.length ≠ 8 || !s.isFull then s
  else match s.handoverWhy (ps.num 0 4) with
    | some w => s.noteWhy w
    | none => if s.upd.handover.isNone && (s.handoverFrame (ps.num 0 4)).isNone then s.noteWhy .noFrame else s

/-- Why the staged image may not take over (R575). -/
def takeoverWhy (s : State) (h : Handover) : Option Why :=
  let img := s.stagedUpper h.length
  let hd := ImgHeader.parse (img.take 1024)
  firstWhy ((.header, !hd.formOk 2 || hd.length + 1024 ≠ h.length) :: s.upperAuth hd (img.drop 1024))

/-- A handover ends without effect; the staging region reopens (R575, R579). -/
def handoverFails (h : Handover) (w : Why) (s : State) : State :=
  let v := (ImgHeader.parse (s.stagedUpper 1024)).version
  let s := { s with upd := { s.upd with handover := none }, basin := { s.basin with stagingClosed := false } }
  (s.noteWhy w).finish h.port .failed (handoverReply h w.num v)

/-- The commands that a core's section carries: window, tag and bound (R577). -/
def carried (s : State) (k : Fin 8) : Bytes :=
  (s.commandsOf k).flatMap (fun p => [byte p.1] ++ natLE 4 (s.win p).tag.toNat ++ natLE 8 (s.win p).bound)

/-- The handover block that U4 writes (R577). -/
def handoverBlock (s : State) (h : Handover) (toVer : Nat) (complete : BitVec 6) : Bytes :=
  let ks := [(2 : Fin 8), 3, 4, 5, 6, 7]
  let secs := ks.map (fun k => (Config.handoverSection k.1 (s.carried k)).take 40960)
  let offs := (List.range 6).map (fun i => 0x80 + ((secs.take i).map List.length).sum)
  let dir := ((ks.zip secs).zip offs).flatMap (fun c =>
    [byte c.1.1.1, byte (b2n (complete.getLsbD (c.1.1.1 - 2))), 0, 0] ++ natLE 4 c.2 ++ natLE 4 c.1.2.length ++ natLE 4 (crc32c c.1.2))
  let head := ascii "SKHO" ++ natLE 2 s.boot.upperHo ++ natLE 2 6 ++ natLE 4 h.fromVer ++ natLE 4 toVer ++ natLE 8 h.frame ++ zeros 4
  head ++ natLE 4 (crc32c (head ++ dir)) ++ dir ++ secs.flatten

/-- A core without a good section rebuilds its state; its accepted commands end ABANDONED, and that is counted (R578). -/
def rebuildCore (s : State) (k : Fin 8) : State := ((s.commandsOf k).foldl State.abandonWork s).notice 0x0861

/-- The pause of a live handover from its first step to its last (R576, R578, R579). -/
def handoverRuns (h : Handover) (badCopies : Nat) (complete : BitVec 6) (s : State) : State :=
  match s.takeoverWhy h with
  | some w => s.handoverFails h w
  | none =>
    let img := s.stagedUpper h.length
    let v := (ImgHeader.parse (img.take 1024)).version
    let s := { s with upd := { s.upd with block := Mem.cells 0 0 (s.handoverBlock h v complete) } }
    if 2 ≤ badCopies || !upperCrcOk (img.drop 1024) then (s.handoverFails h .copyCrc).leaveFull
    else
      let s := s.takeUpper img
      let s := ([(2 : Fin 8), 3, 4, 5, 6, 7].filter (fun k => !complete.getLsbD (k.1 - 2))).foldl State.rebuildCore s
      let s := { s with upd := { s.upd with handover := none }, basin := { s.basin with stagingClosed := false } }
      let s := ((s.mapChanged).judgeDormancy).count 0x0860
      (s.endJobs).finish h.port .ok (handoverReply h 0 v)

/-! ### Per-core restart (R580) -/

/-- A core reset by command: the text check, the restart, and the end of the core's commands. -/
def restartCore (p : Port) (k : Fin 8) (b : Nat) (s : State) : State :=
  let s := s.accept p b
  let s := (((s.addCause (coreBit k false)).logEntry 9 0x006 k.1 (coreBit k false)).coreRecord k (coreBit k false) 0 0)
  let ps := (s.commandsOf k).filter (fun q => q ≠ p)
  let good := s.textOk k
  let s := if good then (s.updCore k (fun c => { c with stopped := false })).releaseCore k
    else ((s.coreRestart k).updCore k (fun c => { c with run := false, stopped := true })).notice (0x0820 + k.1)
  let s := ps.foldl State.abandonWork s
  let s := if k = 6 then { s with upd := { s.upd with session := none, liveDue := false } } else s
  s.finish p (if good then .ok else .failed) (natLE 8 (if good then s.lt else 0) ++ [byte ps.length] ++ zeros 7)

/-! ### FW_STATUS (R583) -/

def fwStatusReply (s : State) : Bytes :=
  let u := s.upd.session
  let h := s.upd.handover
  let sess := match h, u with
    | some _, _ => if s.handoverPause then 4 else 3
    | none, some x => if x.checking then 2 else 1
    | none, none => 0
  let owner := match h, u with | some x, _ => byte x.port.1 | none, some x => byte x.owner.1 | none, none => 0xFF
  let staged := s.stagingVerified
  let sver := match s.setEntry stagingBase s.stagedComponent with
    | some d => if staged then (ImgHeader.parse ((s.setImage stagingBase d).take 1024)).version else 0
    | none => 0
  [byte sess, byte (match h, u with | some _, _ => 2 | none, some x => x.component | none, none => 0), owner, byte s.upd.lastReason]
    ++ natLE 4 (match u with | some x => x.id | none => 0) ++ natLE 4 (match u with | some x => x.total | none => 0)
    ++ natLE 4 (match u with | some x => x.next | none => 0)
    ++ [byte (if staged then s.stagedComponent else 0),
        byte (b2n s.upd.live + 2 * b2n (match s.integ.rx with | some x => x.waiting | none => false) + 4 * b2n (s.upd.dormant ≠ []))]
    ++ natLE 2 s.boot.tBe ++ natLE 2 s.boot.tPp ++ zeros 2 ++ natLE 4 sver ++ natLE 2 s.boot.upperHo ++ zeros 2
    ++ natLE 8 (match h with | some x => x.frame | none => 0) ++ (if staged then Bytes.fit (s.stagedSha.take 16) 16 else zeros 16) ++ zeros 8

/-- A core that serves or works on an accepted command is in reset (R103). -/
def coreLost (s : State) (p : Port) : Bool :=
  (p.1 < 6 && s.isFull && !s.coreRuns 2) || (List.finRange 8).any (fun k => 2 ≤ k.1 && s.isFull && !s.coreRuns k && (s.commandsOf k).contains p)

/-- The bound of an accepted command is reached (R103, R203, R515). -/
def boundReached (p : Port) (s : State) : State :=
  let op := (s.win p).opcode.toNat
  if s.coreLost p then s.abandonWork p
  else if op = 0x0702 && (s.params p).num 1 1 = 1 then s.finish p .failed s.slotPowerReply
  else if op = 0x0201 then s.finish p .failed (s.weirOnReply none)
  else s

end State

/-! ### Opcodes (R555, R582) -/

def upperLoadOp : OpSpec where
  opcode := 0x0B02
  keeper := true
  keeperOnly := true
  feats := [14]
  plen := some 8
  check := fun _ ps s => firstFail
    [(.badParam, decide (ps.num 0 4 < 1024 ∨ 8388608 < ps.num 0 4)),
     (.refusedState, s.dev.st ≠ .keeper || !s.stage0Pg || !s.basin.hbmUsable || s.dev.clkDegraded),
     (.refusedBusy, s.anyAccepted [0x0B02])]
  bound := fun _ ps _ => 30000 + ceilDiv (ps.num 0 4) 40
  run := fun p _ b s => ({ s with basin := { s.basin with stagingClosed := true } }).accept p b
def upperHaltOp : OpSpec where
  opcode := 0x0B03
  keeper := true
  feats := [14]
  plen := some 0
  check := fun _ _ s => firstFail [(.refusedState, !s.isFull), (.refusedBusy, s.upd.handover.isSome)]
  bound := fun _ _ _ => 10000
  run := fun p _ b s => (s.answer p b .ok (natLE 8 s.lt)).leaveFull
def fwBeginOp : OpSpec where
  opcode := 0x0801
  keeper := true
  feats := [9]
  plen := some 16
  check := fun _ ps s =>
    let comp := ps.num 0 1
    let fl := ps.num 1 1
    firstFail
      [(.badParam, !([1, 3, 4].contains comp) || s.flagsBad comp fl ||
          (!bit fl 3 && decide (ps.num 4 4 < 1024 ∨ imageLimit comp < ps.num 4 4))),
       (.refusedState, comp ≠ 4 && !bit fl 0 && s.stagingVerified), (.refusedBusy, s.upd.session.isSome)]
  bound := fun _ _ s => 1000 + 1000 * s.boot.tBe + 256 * s.boot.tPp
  run := State.fwBeginRun
def fwBlockOp : OpSpec where
  opcode := 0x0802
  keeper := true
  feats := [9]
  plen := none
  check := fun p ps s => firstFail
    ((.badParam, decide (ps.num 8 2 = 0 ∨ 3824 < ps.num 8 2 ∨ ps.length ≠ 16 + ps.num 8 2)) ::
      (s.sessionChecks p ps).take 1 ++ [(.badParam, (match s.upd.session with | some u => u.owner = p | none => true) && !s.blockOk ps)]
      ++ (s.sessionChecks p ps).drop 1)
  bound := fun _ ps s => 1000 + 1000 * s.boot.tBe + (ceilDiv (ps.num 8 2) 256 + 1) * s.boot.tPp
  run := State.fwBlockRun
def fwEndOp : OpSpec where
  opcode := 0x0803
  keeper := true
  feats := [9]
  plen := some 8
  check := fun p ps s => firstFail (s.sessionChecks p ps)
  bound := fun _ _ s => s.endBound
  run := fun p _ b s =>
    let u : Option UpdSession := s.upd.session.map (fun u => { u with checking := true })
    ({ s with upd := { s.upd with session := u } }).accept p b
def fwHandoverOp : OpSpec where
  opcode := 0x0804
  keeper := true
  feats := [10]
  plen := some 8
  check := fun _ ps s =>
    let why := s.handoverWhy (ps.num 0 4)
    firstFail
      [(.badParam, why = some .header), (.refusedState, !s.isFull || s.basin.awake ≠ .awake || why.isSome),
       (.refusedBusy, s.upd.handover.isSome || s.upd.liveDue), (.refusedBound, (s.handoverFrame (ps.num 0 4)).isNone)]
  bound := fun _ ps s => (s.handoverFrame (ps.num 0 4)).getD s.lt + 1074 - s.lt
  run := fun p ps b s =>
    let h : Handover :=
      { port := p, length := ps.num 0 4, frame := (s.handoverFrame (ps.num 0 4)).getD s.lt, fromVer := s.boot.upper.getD 0 }
    ({ s with upd := { s.upd with handover := some h }, basin := { s.basin with stagingClosed := true } }).accept p b
  refused := fun _ ps s => s.handoverRefused ps
def fwRestartCoreOp : OpSpec where
  opcode := 0x0805
  keeper := true
  feats := [11]
  plen := some 8
  check := fun p ps s => firstFail
    [(.badParam, decide (ps.num 0 1 < 2 ∨ 7 < ps.num 0 1)), (.refusedState, !s.isFull || (p.1 < 6 && ps.num 0 1 = 2)),
     (.refusedBusy, s.upd.handover.isSome)]
  bound := fun _ _ _ => 50000
  run := fun p ps b s => s.restartCore p (Fin.ofNat 8 (ps.num 0 1)) b
def fwStatusOp : OpSpec := .query 0x0806 true [9] 0 OpSpec.free4 (fun _ s => s.fwStatusReply)

def execUpperLoad (p : Port) (tag : BitVec 32) (params : Bytes) (s : State) : Host.Outcome State Fault Refusal :=
  go (s.submit upperLoadOp p tag params)
def execUpperHalt (p : Port) (tag : BitVec 32) (params : Bytes) (s : State) : Host.Outcome State Fault Refusal :=
  go (s.submit upperHaltOp p tag params)
def execFwBegin (p : Port) (tag : BitVec 32) (params : Bytes) (s : State) : Host.Outcome State Fault Refusal :=
  go (s.submit fwBeginOp p tag params)
def execFwBlock (p : Port) (tag : BitVec 32) (params : Bytes) (s : State) : Host.Outcome State Fault Refusal :=
  go (s.submit fwBlockOp p tag params)
def execFwEnd (p : Port) (tag : BitVec 32) (params : Bytes) (s : State) : Host.Outcome State Fault Refusal :=
  go (s.submit fwEndOp p tag params)
def execFwHandover (p : Port) (tag : BitVec 32) (params : Bytes) (s : State) : Host.Outcome State Fault Refusal :=
  go (s.submit fwHandoverOp p tag params)
def execFwRestartCore (p : Port) (tag : BitVec 32) (params : Bytes) (s : State) : Host.Outcome State Fault Refusal :=
  go (s.submit fwRestartCoreOp p tag params)
def execFwStatus (p : Port) (tag : BitVec 32) (params : Bytes) (s : State) : Host.Outcome State Fault Refusal :=
  go (s.submit fwStatusOp p tag params)

/-! ### Events -/

def execUpperLoadComplete (copyError stage0Lost : Bool) (s : State) : Host.Outcome State Fault Refusal :=
  go (match s.acceptedOn 0x0B02 with
    | p :: _ => s.upperLoaded p copyError stage0Lost
    | [] => s)

/-- Steps 1 to 5 end; a LIVE microcode then waits for the running checks (R564, R565). -/
def execFwEndComplete (flashOk : Bool) (s : State) : Host.Outcome State Fault Refusal :=
  go (match s.acceptedOn 0x0803, s.upd.session with
    | p :: _, some u =>
      if s.upd.liveDue || (s.isFull && !s.coreRuns 6) then s
      else match s.endWhy u flashOk with
        | some w => s.endFail p u w
        | none => if bit u.flags 1 then { s with upd := { s.upd with liveDue := true } } else s.endOk p u
    | _, _ => s)

def execLiveUcodeLoad (s : State) : Host.Outcome State Fault Refusal :=
  go (match s.acceptedOn 0x0803, s.upd.session with
    | p :: _, some u =>
      if !s.upd.liveDue || (Vec.find s.chk.areas (fun a => a.st = .checking)) ≠ [] then s
      else
        let img := s.sessionImage u
        let h := ImgHeader.parse (img.take 1024)
        let s := { s with upd := { s.upd with liveDue := false } }
        if s.ucodeOk h (img.drop 1024) then
          let s := s.takeUcode h (img.drop 1024) img
          ({ s with upd := { s.upd with live := true } }).endOk p u
        else s.endFail p u .copyCrc
    | _, _ => s)

def execHandoverVerifyDone (s : State) : Host.Outcome State Fault Refusal :=
  go (match s.upd.handover with
    | some h => if s.handoverPause then s else match s.takeoverWhy h with
      | some w => s.handoverFails h w
      | none => s
    | none => s)

def execHandoverPause (badCopies : Nat) (sections : BitVec 6) (s : State) : Host.Outcome State Fault Refusal :=
  go (match s.upd.handover with
    | some h => if s.handoverPause && s.keeperUp then s.handoverRuns h badCopies sections else s
    | none => s)

def execBoundExpiry (p : Port) (s : State) : Host.Outcome State Fault Refusal :=
  go (if (s.win p).state = .accepted && (s.win p).bound ≤ s.lt && s.keeperServed then s.boundReached p else s)

/-! ### Phase-locked loops (R64 to R68) -/

/-- What waits for the check engine's or the Basin's PLL ends when it fails twice (R65, R413, R417). -/
def State.pllFails (pll : Pll) (s : State) : State :=
  let s := s.setPll pll .failed
  match pll with
  | .keeper | .upper => s.clockFailure
  | .cadence => s
  | .check =>
    let s := { s with chk := { s.chk with eng := .stopped } }
    s.engineFails
  | .basin =>
    let s := ({ s with basin := { s.basin with awake := .selfRefresh, jobs := [] } }).engineFails
    let ls := (s.basin.seals.filter (fun c => match c.2 with | .sealing _ => true | _ => false)).map (fun c => c.1)
    let s := ls.foldl (fun t l => t.sealFails l) s
    ([0x0602, 0x0603, 0x0605, 0x0607].flatMap s.acceptedOn).foldl (fun t p => t.finish p .failed []) s

def execPllLocked (pll : Pll) (s : State) : Host.Outcome State Fault Refusal :=
  go (match s.pll pll with
    | .starting | .restarted =>
      let s := s.setPll pll .locked
      match pll with
      | .check => if s.chk.eng = .starting then { s with chk := { s.chk with eng := .running } } else s
      | _ => s
    | _ => s)

def execPllLockTimeout (pll : Pll) (s : State) : Host.Outcome State Fault Refusal :=
  go (match s.pll pll with
    | .starting => (s.setPll pll .restarted).count 0x080A
    | .restarted => (s.count 0x080A).pllFails pll
    | _ => s)

end Sys2Proof.Machine
end

