-- ==== Sys2Proof/Machine/Window.lean ====
section
/-!
DEFINITION. The 81 opcodes by number, and the two ways in which a bare opcode arrives: a GO on a window and a command packet on the sideband (R90 to
R97, R124, R125, R555).
-/

namespace Sys2Proof.Machine

/-- The opcodes the BT-8 has. -/
def opTable : List OpSpec :=
  [helloOp, leaseRenewOp, identifyOp, leaseReleaseOp, counterReadOp, logReadOp, sensorReadOp]
  ++ [draftOpenOp, draftSetOp, draftGetOp, draftCheckOp, draftCommitOp, draftAbortOp, settingsSaveOp, liveSetOp, liveGetOp]
  ++ [weirOnOp, weirOffOp, weirClearOp, weirStatusOp, cascadeStatusOp, railFlagClearOp]
  ++ [coolStatusOp, fanSetOp, thermStatusOp, tripClearOp, leakClearOp]
  ++ [cadStatusOp, linkStatusOp, cadRejoinOp, cadSwitchOp, groupStatusOp, cadRequestOp, resetAtOp, snapshotAtOp, snapshotReadOp, expelOp]
  ++ [checkStatusOp, checkResultsOp, checkControlOp, integStatusOp, unitReadOp, unitReleaseOp, lullStatusOp, voteLogOp, packSendOp, packStatusOp]
  ++ [basinStatusOp, basinHoldOp, basinSealOp, basinUnsealOp, basinVerifyOp, modelDigestOp, basinPushOp, poisonListOp]
  ++ [slotStatusOp, slotPowerOp, slotResetOp, slotRunOp, slotHoldOp, slotQuarantineOp, slotReleaseOp]
  ++ [fwBeginOp, fwBlockOp, fwEndOp, fwHandoverOp, fwRestartCoreOp, fwStatusOp]
  ++ [resetStatusOp, resetRequestOp, calmEnterOp, rtcReadOp, rtcWriteOp, bkpReadOp, bkpWriteOp]
  ++ [bootStatusOp, upperLoadOp, upperHaltOp, keyStatusOp, keyProgramOp, keyRevokeOp]

/-- The opcode with a number, when it exists (R97 check 1). -/
def opOf (n : Nat) : Option OpSpec := opTable.find? (fun o => o.opcode = n)

namespace State

/-- A write of WIN_OPCODE: the opcode is stored, and with GO set the command is submitted; window 7 is read-only, and a busy window drops the
write (R91 to R93). -/
def writeOpcode (w : Fin 8) (v : BitVec 32) (s : State) : State :=
  if w = 7 then s
  else if s.winBusy w then s.count 0x0000
  else
    let s := s.updWin w (fun x => { x with opcode := v.setWidth 16, orphan := false })
    if v.msb then s.goWith (opOf (v.setWidth 16).toNat) w else s

end State

/-- GO (R93, R97). -/
def execGo (w : Fin 8) (opcode : BitVec 16) (s : State) : Host.Outcome State Fault Refusal :=
  go (if s.pcieUp then s.writeOpcode w (0x8000#16 ++ opcode) else s)

/-- SIDEBAND_COMMAND (R124, R125): a PLEN that the packet's length does not bear out is judged as a bad parameter (R97 check 4; DEDUCED, log 103). -/
def execSidebandCommand (opcode : BitVec 16) (tag : BitVec 32) (plen : Nat) (params : Bytes) (s : State) :
    Host.Outcome State Fault Refusal :=
  let o := (opOf opcode.toNat).map (fun (o : OpSpec) =>
    if plen = params.length then o else { o with check := fun _ _ _ => some .badParam, plen := none, refused := fun _ _ t => t })
  go (s.submitSideband opcode.toNat o tag params)

end Sys2Proof.Machine
end

