-- ==== Sys2Proof/Machine/Registers.lean ====
section
/-!
DEFINITION. The registers of BAR 0 and of the configuration space: what each reads as, what a write to it does, and accesses to offsets that hold
nothing (R11, R12, R71 to R93, R108, R537, R599).
-/

namespace Sys2Proof.Machine

namespace State

/-! ### What the registers read as -/

/-- STATE of HW_STATUS (R46): the ROM serves recovery in the state of R57 before Keeper, which a host first reads as Keeper (R85; DEDUCED, log 102). -/
def stateCode (s : State) : Nat :=
  match s.dev.st with
  | .off => 0
  | .calm => if s.dev.phase = .recovery then 2 else 1
  | .keeper => 2
  | .full => 3

/-- At least one hardware trip is latched: a thermal channel, a feed, or the leak (R85, R183, R257, R279; DEDUCED, log 102). -/
def tripLatched (s : State) : Bool :=
  s.cool.leak || (List.finRange 28).any (fun c => (s.cool.chans.get c).latched) || (List.finRange 2).any (fun f => (s.weir.feeds.get f).latched)

/-- CAD_STATE (R85). -/
def cadCode (s : State) : Nat :=
  match s.cad.st with
  | .alone => 0 | .joining => 1 | .locked => 2 | .holdover => 3

/-- IDENT (R84). -/
def identReg (s : State) : Nat := 0x0B08 + 65536 * s.dev.opt.siRev.toNat + 2 ^ 24

/-- HW_STATUS (R85). -/
def hwStatus (s : State) : Nat :=
  s.stateCode + 4 * b2n ((s.weir.feeds.get 0).st = .on) + 8 * b2n ((s.weir.feeds.get 1).st = .on) + 16 * b2n s.stage0Pg
    + 32 * b2n s.bus.featuresChanged + 64 * b2n s.cfg.draft.isSome
    + 128 * (match s.cfg.draft with | some d => d.owner.1 | none => 0) + 2 ^ 10 * b2n s.sess.host.isSome + 2 ^ 11 * s.cadCode
    + 2 ^ 13 * b2n (s.basin.awake = .awake) + 2 ^ 14 * b2n (s.chk.eng = .running)
    + 2 ^ 15 * (match s.boot.bank with | some n => n % 2 | none => 0) + 2 ^ 16 * b2n s.boot.recovery
    + 2 ^ 17 * b2n s.tripLatched + 2 ^ 18 * b2n s.fansFull + 2 ^ 19 * b2n (s.gop.throt.mask ≠ 0)

/-- LEASE (R86). -/
def leaseReg (s : State) : Nat := s.period % 65536 + 65536 * b2n s.sess.host.isSome + 2 ^ 17 * b2n s.sess.absent

/-- The host session's identifier, 0 without one (R86). -/
def sessionId (s : State) : Nat := match s.sess.host with | some x => x.id | none => 0

/-- A register of the device block (R83 to R89, R537). -/
def devReg (s : State) (off : Nat) : Nat :=
  (match off with
  | 0x000 => s.identReg
  | 0x010 => s.hwStatus
  | 0x014 => s.resetCause
  | 0x020 => s.leaseReg
  | 0x024 => s.sess.expiry
  | 0x028 => s.sessionId
  | 0x02C => s.sessionId / 2 ^ 32
  | 0x030 => s.ct
  | 0x034 => s.bus.ctHi.toNat
  | 0x038 => s.bus.ctSub.toNat
  | 0x044 => if s.recovering 2 then s.boot.rcvOffset else 0
  | 0x048 => if s.recovering 2 then s.boot.rcvLen else 0
  | 0x04C => if s.recovering 2 then State.RcvState.num s.boot.rcv else 0
  | 0x050 => s.lt
  | 0x054 => s.bus.ltHi.toNat
  | _ => if 0x100 ≤ off && off < 0x120 then (s.ctr.summary.extractLsb' (8 * (off - 0x100)) 32).toNat else 0) % 2 ^ 32

/-- A register of a window (R91). -/
def winReg (s : State) (p : Port) (off : Nat) : Nat :=
  let w := s.win p
  (match off with
  | 0x000 => w.opcode.toNat + 2 ^ 31 * b2n (s.winBusy p)
  | 0x004 => w.tag.toNat
  | 0x008 => w.plen.toNat
  | 0x00C => w.state.num + 256 * w.code.num
  | 0x010 => w.rlen
  | 0x014 => w.acc
  | 0x018 => w.bound
  | 0x01C => w.done
  | 0x020 => w.vec.toNat + 2 ^ 31 * b2n w.vecEn
  | _ => if 0x100 ≤ off && off < 0x1000 then Mem.num 0 w.data (off - 0x100) 4 else 0) % 2 ^ 32

/-! ### Messages held by a mask (R76; PCIe Base Specification, log 9) -/

/-- Vectors that are pending and no longer masked are sent. -/
def msixFlush (s : State) : State :=
  (List.range 32).foldl (fun (t : State) v =>
    if t.bus.pba.getLsbD v then ({ t with bus := { t.bus with pba := setBit t.bus.pba v false } }).msix v else t) s

/-! ### Writes -/

/-- Clearing summary bits that a write names, but for those that an increment reaches in the same clock (R89). -/
def clearSummary (k : Fin 8) (v same : BitVec 32) (s : State) : State :=
  { s with ctr := { s.ctr with summary := s.ctr.summary &&& ~~~((v &&& ~~~same).setWidth 256 <<< (32 * k.1)) } }

/-- A write to the device block: what is W1C or RW acts, what is RO is ignored, and a reserved offset counts as unmapped (R11, R79, R83, R537). -/
def writeDev (off : Nat) (v : BitVec 32) (s : State) : State :=
  match off with
  | 0x010 => if v.getLsbD 5 then { s with bus := { s.bus with featuresChanged := false } } else s
  | 0x014 =>
    { s with rst := { s.rst with
      cause := s.rst.cause &&& ~~~(v.setWidth 16), optRestart := s.rst.optRestart && !v.getLsbD 22 } }
  | 0x040 => s
  | 0x044 => if s.recovering 2 then { s with boot := { s.boot with rcvOffset := v.toNat } } else s
  | 0x048 => if s.recovering 2 then { s with boot := { s.boot with rcvLen := v.toNat % 65536 } } else s
  | _ =>
    if 0x100 ≤ off && off < 0x120 then s.clearSummary (Fin.ofNat 8 ((off - 0x100) / 4)) v 0
    else if [0x000, 0x020, 0x024, 0x028, 0x02C, 0x030, 0x034, 0x038, 0x04C, 0x050, 0x054].contains off then s
    else s.count 0x0001

/-- A write to a window (R11, R91 to R93, R108). -/
def writeWin (w : Fin 8) (off : Nat) (v : BitVec 32) (s : State) : State :=
  if 0x020 < off && off < 0x100 then s.count 0x0001
  else if w = 7 || [0x00C, 0x010, 0x014, 0x018, 0x01C].contains off then s
  else if s.winBusy w then s.count 0x0000
  else
    match off with
    | 0x000 => s.writeOpcode w v
    | 0x004 => s.updWin w (fun x => { x with tag := v })
    | 0x008 => s.updWin w (fun x => { x with plen := v.setWidth 12 })
    | 0x020 =>
      let vec : Bool := s.hasFeat w 15
      s.updWin w (fun x => { x with vec := if vec then v.setWidth 5 else x.vec, vecEn := v.msb })
    | _ => s.updWin w (fun x => { x with data := Mem.write 0 x.data (off - 0x100) (natLE 4 v.toNat) })

/-- A write to the MSI-X table: of a vector control word the mask bit alone is stored (PCIe Base Specification). -/
def writeMsix (off : Nat) (v : BitVec 32) (s : State) : State :=
  let x := if off % 16 = 12 then v.toNat % 2 else v.toNat
  ({ s with bus := { s.bus with msixTable := Mem.write 0 s.bus.msixTable off (natLE 4 x) } }).msixFlush

/-- A configuration write (R73, R74, R82): the command register's memory-space and bus-master enables, and MSI-X control. -/
def writeConfig (off : Nat) (v : BitVec 32) (s : State) : State :=
  let s := { s with bus := { s.bus with link := true } }
  if off = 4 then { s with bus := { s.bus with mse := v.getLsbD 1, bme := v.getLsbD 2 } }
  else if off = Config.msixCap then ({ s with bus := { s.bus with msixEn := v.getLsbD 31, msixMask := v.getLsbD 30 } }).msixFlush
  else s

/-- The endpoint answers configuration accesses, through K1 or, in PCIe recovery, the ROM (R74, R537). -/
def configUp (s : State) : Bool := (s.keeperServed || s.recovering 2) && !s.bus.perst

/-- A write of 32 bits to a register (R11). -/
def writeReg (sp : Space) (off : Nat) (v : BitVec 32) (s : State) : State :=
  let off := off / 4 * 4
  if !s.configUp then s
  else match sp with
    | .config => s.writeConfig off v
    | .dev => if !s.bus.mse then s else if off < 0x1000 then s.writeDev off v else s.count 0x0001
    | .win w =>
      if !s.bus.mse then s
      else if 0x1000 ≤ off then s.count 0x0001
      else if s.recovering 2 then
        { s with boot := { s.boot with rcvBuf := Mem.write 0 s.boot.rcvBuf (0x1000 * w.1 + off) (natLE 4 v.toNat) } }
      else s.writeWin w off v
    | .msix => if !s.bus.mse then s else if off < 0x200 then s.writeMsix off v else s.count 0x0001

/-- An access to BAR 0 reaches the function. -/
def bar0Up (s : State) : Bool := s.configUp && s.bus.mse

/-- Bytes that a read returned. -/
def readData (bs : Bytes) (s : State) : State := { s with bus := { s.bus with rd := bs, rdPoison := false } }

/-- A read of CT_LO latches CT_HI and CT_SUB (R87). -/
def readCt (wide : Bool) (s : State) : State :=
  let t := s.ct
  let s := { s with bus := { s.bus with ctHi := BitVec.ofNat 32 (t / 2 ^ 32), ctSub := BitVec.ofNat 10 s.ctSub } }
  s.readData (natLE (if wide then 8 else 4) t)

/-- A read of LT_LO latches LT_HI (R88). -/
def readLt (wide : Bool) (s : State) : State :=
  let t := s.lt
  let s := { s with bus := { s.bus with ltHi := BitVec.ofNat 32 (t / 2 ^ 32) } }
  s.readData (natLE (if wide then 8 else 4) t)

/-- An offset of BAR 0 that holds nothing (R76, R83, R91). -/
def bar0Unmapped (off : Nat) : Bool :=
  if off < 0x1000 then
    !([0x000, 0x010, 0x014, 0x020, 0x024, 0x028, 0x02C, 0x030, 0x034, 0x038, 0x040, 0x044, 0x048, 0x04C, 0x050, 0x054].contains (off / 4 * 4)) &&
      !(0x100 ≤ off && off < 0x120)
  else if off < 0x9000 then 0x24 ≤ off % 0x1000 && off % 0x1000 < 0x100
  else !(0xE000 ≤ off && off < 0xE200) && !(0xF000 ≤ off && off < 0xF008)

/-- An access to an offset that holds nothing: a read returns 0, a write is dropped and counted (R79); on BAR 2 and BAR 4 without their service,
R80 stands before it. BAR 4 has no such offset. -/
def unmapped (bar : Bar) (off : Nat) (write : Bool) (s : State) : State :=
  match bar with
  | .bar0 =>
    if !s.bar0Up || !bar0Unmapped off || (s.recovering 2 && 0x1000 ≤ off && off < 0x9000) then s
    else if write then s.count 0x0001 else s.readData (zeros 4)
  | .bar2 =>
    if !s.barUp then s
    else if !s.stage0Pg || s.recovering 2 then (if write then s.count 0x0002 else s.readData (List.replicate 4 0xFF))
    else if s.placeOf (off / 64 * 64) ≠ .unmapped then s
    else if write then s.count 0x0001 else s.readData (zeros 4)
  | .bar4 =>
    if !s.barUp || s.isFull then s
    else if write then s.count 0x0002 else s.readData (List.replicate 4 0xFF)

end State

/-- REGISTER_WRITE (R11). -/
def execRegisterWrite (sp : Space) (off : Nat) (v : BitVec 32) (s : State) : Host.Outcome State Fault Refusal := go (s.writeReg sp off v)
/-- CHG_SUMMARY_CLEAR (R89). -/
def execChgSummaryClear (k : Fin 8) (v same : BitVec 32) (s : State) : Host.Outcome State Fault Refusal :=
  go (if s.bar0Up then s.clearSummary k v same else s)
/-- CT_LO_READ (R87). -/
def execCtLoRead (wide : Bool) (s : State) : Host.Outcome State Fault Refusal := go (if s.bar0Up then s.readCt wide else s)
/-- LT_LO_READ (R88). -/
def execLtLoRead (wide : Bool) (s : State) : Host.Outcome State Fault Refusal := go (if s.bar0Up then s.readLt wide else s)
/-- BAR_UNMAPPED_ACCESS (R79, R80). -/
def execBarUnmappedAccess (bar : Bar) (off : Nat) (write : Bool) (s : State) : Host.Outcome State Fault Refusal := go (s.unmapped bar off write)

end Sys2Proof.Machine
end

