-- ==== Sys2Proof/Machine/Dispatch.lean ====
section
/-!
DEFINITION. The meaning of every command: one arm a constructor.
-/

namespace Sys2Proof.Machine

/-- The effect of a command on everything but the queue. -/
def exec (i : Instr) (s : State) : Host.Outcome State Fault Refusal :=
  match i with
  | .hello p tag params => Sys2Proof.Machine.execHello p tag params s
  | .leaseRenew p tag params => Sys2Proof.Machine.execLeaseRenew p tag params s
  | .identify p tag params => Sys2Proof.Machine.execIdentify p tag params s
  | .leaseRelease p tag params => Sys2Proof.Machine.execLeaseRelease p tag params s
  | .counterRead p tag params => Sys2Proof.Machine.execCounterRead p tag params s
  | .logRead p tag params => Sys2Proof.Machine.execLogRead p tag params s
  | .sensorRead p tag params => Sys2Proof.Machine.execSensorRead p tag params s
  | .draftOpen p tag params => Sys2Proof.Machine.execDraftOpen p tag params s
  | .draftSet p tag params => Sys2Proof.Machine.execDraftSet p tag params s
  | .draftGet p tag params => Sys2Proof.Machine.execDraftGet p tag params s
  | .draftCheck p tag params => Sys2Proof.Machine.execDraftCheck p tag params s
  | .draftCommit p tag params => Sys2Proof.Machine.execDraftCommit p tag params s
  | .draftAbort p tag params => Sys2Proof.Machine.execDraftAbort p tag params s
  | .settingsSave p tag params => Sys2Proof.Machine.execSettingsSave p tag params s
  | .liveSet p tag params => Sys2Proof.Machine.execLiveSet p tag params s
  | .liveGet p tag params => Sys2Proof.Machine.execLiveGet p tag params s
  | .weirOn p tag params => Sys2Proof.Machine.execWeirOn p tag params s
  | .weirOff p tag params => Sys2Proof.Machine.execWeirOff p tag params s
  | .weirClear p tag params => Sys2Proof.Machine.execWeirClear p tag params s
  | .weirStatus p tag params => Sys2Proof.Machine.execWeirStatus p tag params s
  | .cascadeStatus p tag params => Sys2Proof.Machine.execCascadeStatus p tag params s
  | .railFlagClear p tag params => Sys2Proof.Machine.execRailFlagClear p tag params s
  | .coolStatus p tag params => Sys2Proof.Machine.execCoolStatus p tag params s
  | .fanSet p tag params => Sys2Proof.Machine.execFanSet p tag params s
  | .thermStatus p tag params => Sys2Proof.Machine.execThermStatus p tag params s
  | .tripClear p tag params => Sys2Proof.Machine.execTripClear p tag params s
  | .leakClear p tag params => Sys2Proof.Machine.execLeakClear p tag params s
  | .cadStatus p tag params => Sys2Proof.Machine.execCadStatus p tag params s
  | .linkStatus p tag params => Sys2Proof.Machine.execLinkStatus p tag params s
  | .cadRejoin p tag params => Sys2Proof.Machine.execCadRejoin p tag params s
  | .cadSwitch p tag params => Sys2Proof.Machine.execCadSwitch p tag params s
  | .groupStatus p tag params => Sys2Proof.Machine.execGroupStatus p tag params s
  | .cadRequest p tag params => Sys2Proof.Machine.execCadRequest p tag params s
  | .resetAt p tag params => Sys2Proof.Machine.execResetAt p tag params s
  | .snapshotAt p tag params => Sys2Proof.Machine.execSnapshotAt p tag params s
  | .snapshotRead p tag params => Sys2Proof.Machine.execSnapshotRead p tag params s
  | .expel p tag params => Sys2Proof.Machine.execExpel p tag params s
  | .checkStatus p tag params => Sys2Proof.Machine.execCheckStatus p tag params s
  | .checkResults p tag params => Sys2Proof.Machine.execCheckResults p tag params s
  | .checkControl p tag params => Sys2Proof.Machine.execCheckControl p tag params s
  | .integStatus p tag params => Sys2Proof.Machine.execIntegStatus p tag params s
  | .unitRead p tag params => Sys2Proof.Machine.execUnitRead p tag params s
  | .unitRelease p tag params => Sys2Proof.Machine.execUnitRelease p tag params s
  | .lullStatus p tag params => Sys2Proof.Machine.execLullStatus p tag params s
  | .voteLog p tag params => Sys2Proof.Machine.execVoteLog p tag params s
  | .packSend p tag params => Sys2Proof.Machine.execPackSend p tag params s
  | .packStatus p tag params => Sys2Proof.Machine.execPackStatus p tag params s
  | .basinStatus p tag params => Sys2Proof.Machine.execBasinStatus p tag params s
  | .basinHold p tag params => Sys2Proof.Machine.execBasinHold p tag params s
  | .basinSeal p tag params => Sys2Proof.Machine.execBasinSeal p tag params s
  | .basinUnseal p tag params => Sys2Proof.Machine.execBasinUnseal p tag params s
  | .basinVerify p tag params => Sys2Proof.Machine.execBasinVerify p tag params s
  | .modelDigest p tag params => Sys2Proof.Machine.execModelDigest p tag params s
  | .basinPush p tag params => Sys2Proof.Machine.execBasinPush p tag params s
  | .poisonList p tag params => Sys2Proof.Machine.execPoisonList p tag params s
  | .slotStatus p tag params => Sys2Proof.Machine.execSlotStatus p tag params s
  | .slotPower p tag params => Sys2Proof.Machine.execSlotPower p tag params s
  | .slotReset p tag params => Sys2Proof.Machine.execSlotReset p tag params s
  | .slotRun p tag params => Sys2Proof.Machine.execSlotRun p tag params s
  | .slotHold p tag params => Sys2Proof.Machine.execSlotHold p tag params s
  | .slotQuarantine p tag params => Sys2Proof.Machine.execSlotQuarantine p tag params s
  | .slotRelease p tag params => Sys2Proof.Machine.execSlotRelease p tag params s
  | .bootStatus p tag params => Sys2Proof.Machine.execBootStatus p tag params s
  | .upperLoad p tag params => Sys2Proof.Machine.execUpperLoad p tag params s
  | .upperHalt p tag params => Sys2Proof.Machine.execUpperHalt p tag params s
  | .keyStatus p tag params => Sys2Proof.Machine.execKeyStatus p tag params s
  | .keyProgram p tag params => Sys2Proof.Machine.execKeyProgram p tag params s
  | .keyRevoke p tag params => Sys2Proof.Machine.execKeyRevoke p tag params s
  | .fwBegin p tag params => Sys2Proof.Machine.execFwBegin p tag params s
  | .fwBlock p tag params => Sys2Proof.Machine.execFwBlock p tag params s
  | .fwEnd p tag params => Sys2Proof.Machine.execFwEnd p tag params s
  | .fwHandover p tag params => Sys2Proof.Machine.execFwHandover p tag params s
  | .fwRestartCore p tag params => Sys2Proof.Machine.execFwRestartCore p tag params s
  | .fwStatus p tag params => Sys2Proof.Machine.execFwStatus p tag params s
  | .resetStatus p tag params => Sys2Proof.Machine.execResetStatus p tag params s
  | .resetRequest p tag params => Sys2Proof.Machine.execResetRequest p tag params s
  | .calmEnter p tag params => Sys2Proof.Machine.execCalmEnter p tag params s
  | .rtcRead p tag params => Sys2Proof.Machine.execRtcRead p tag params s
  | .rtcWrite p tag params => Sys2Proof.Machine.execRtcWrite p tag params s
  | .bkpRead p tag params => Sys2Proof.Machine.execBkpRead p tag params s
  | .bkpWrite p tag params => Sys2Proof.Machine.execBkpWrite p tag params s
  | .go w opcode => Sys2Proof.Machine.execGo w opcode s
  | .registerWrite sp off v => Sys2Proof.Machine.execRegisterWrite sp off v s
  | .chgSummaryClear k v same => Sys2Proof.Machine.execChgSummaryClear k v same s
  | .ctLoRead wide => Sys2Proof.Machine.execCtLoRead wide s
  | .ltLoRead wide => Sys2Proof.Machine.execLtLoRead wide s
  | .rcvCopy => Sys2Proof.Machine.execRcvCopy s
  | .rcvCheckAndBoot => Sys2Proof.Machine.execRcvCheckAndBoot s
  | .rcvI3cCopy len off data crc => Sys2Proof.Machine.execRcvI3cCopy len off data crc s
  | .rcvI3cCheckAndBoot len off data crc => Sys2Proof.Machine.execRcvI3cCheckAndBoot len off data crc s
  | .rcvI3cStateRead => Sys2Proof.Machine.execRcvI3cStateRead s
  | .relK1 => Sys2Proof.Machine.execRelK1 s
  | .relU m => Sys2Proof.Machine.execRelU m s
  | .haltU m => Sys2Proof.Machine.execHaltU m s
  | .watchdogService k vs => Sys2Proof.Machine.execWatchdogService k vs s
  | .watchdogTimeoutSet k ms => Sys2Proof.Machine.execWatchdogTimeoutSet k ms s
  | .sidebandCommand opcode tag plen params => Sys2Proof.Machine.execSidebandCommand opcode tag plen params s
  | .sidebandStatusQuery => Sys2Proof.Machine.execSidebandStatusQuery s
  | .sidebandCompletionNotice => Sys2Proof.Machine.execSidebandCompletionNotice s
  | .mctpControl cmd data => Sys2Proof.Machine.execMctpControl cmd data s
  | .mctpOtherMessage type data => Sys2Proof.Machine.execMctpOtherMessage type data s
  | .i3cEntdaa addr => Sys2Proof.Machine.execI3cEntdaa addr s
  | .i3cSetdasa static addr => Sys2Proof.Machine.execI3cSetdasa static addr s
  | .getTid => Sys2Proof.Machine.execGetTid s
  | .getPldmVersion type => Sys2Proof.Machine.execGetPldmVersion type s
  | .getPldmTypes => Sys2Proof.Machine.execGetPldmTypes s
  | .getPldmCommands type => Sys2Proof.Machine.execGetPldmCommands type s
  | .getPdrRepositoryInfo => Sys2Proof.Machine.execGetPdrRepositoryInfo s
  | .getPdr handle => Sys2Proof.Machine.execGetPdr handle s
  | .getSensorReading id => Sys2Proof.Machine.execGetSensorReading id s
  | .getVersion => Sys2Proof.Machine.execGetVersion s
  | .getCapabilities req => Sys2Proof.Machine.execGetCapabilities req s
  | .negotiateAlgorithms req => Sys2Proof.Machine.execNegotiateAlgorithms req s
  | .getDigests => Sys2Proof.Machine.execGetDigests s
  | .getCertificate slot off len => Sys2Proof.Machine.execGetCertificate slot off len s
  | .challenge slot hashType nonce => Sys2Proof.Machine.execChallenge slot hashType nonce s
  | .getMeasurements attr op nonce => Sys2Proof.Machine.execGetMeasurements attr op nonce s
  | .keyExchange req => Sys2Proof.Machine.execKeyExchange req s
  | .pskExchange req => Sys2Proof.Machine.execPskExchange req s
  | .perstAssert => Sys2Proof.Machine.execPerstAssert s
  | .perstRelease => Sys2Proof.Machine.execPerstRelease s
  | .functionLevelReset => Sys2Proof.Machine.execFunctionLevelReset s
  | .pcieLinkLoss => Sys2Proof.Machine.execPcieLinkLoss s
  | .bar2Write off data errs => Sys2Proof.Machine.execBar2Write off data errs s
  | .bar2Read off len errs => Sys2Proof.Machine.execBar2Read off len errs s
  | .barUnmappedAccess bar off write => Sys2Proof.Machine.execBarUnmappedAccess bar off write s
  | .bar4RecordWrite area off data => Sys2Proof.Machine.execBar4RecordWrite area off data s
  | .bar4SealWrite area data => Sys2Proof.Machine.execBar4SealWrite area data s
  | .notebookWrite slot page off data => Sys2Proof.Machine.execNotebookWrite slot page off data s
  | .notebookOpen slot => Sys2Proof.Machine.execNotebookOpen slot s
  | .notebookGenWrite slot gen => Sys2Proof.Machine.execNotebookGenWrite slot gen s
  | .powerOnReset vbatOk => Sys2Proof.Machine.execPowerOnReset vbatOk s
  | .brownOut deep vbatOk => Sys2Proof.Machine.execBrownOut deep vbatOk s
  | .pinReset widthNs => Sys2Proof.Machine.execPinReset widthNs s
  | .optionLoadingDone good opt bootSrc clkMode => Sys2Proof.Machine.execOptionLoadingDone good opt bootSrc clkMode s
  | .optionFaultRetry => Sys2Proof.Machine.execOptionFaultRetry s
  | .referenceCheck ok => Sys2Proof.Machine.execReferenceCheck ok s
  | .tmcRstNRelease heldLow => Sys2Proof.Machine.execTmcRstNRelease heldLow s
  | .protectionsArmed => Sys2Proof.Machine.execProtectionsArmed s
  | .romEntry => Sys2Proof.Machine.execRomEntry s
  | .romFailRetry => Sys2Proof.Machine.execRomFailRetry s
  | .keeperImageStart tBeMs tPpUs => Sys2Proof.Machine.execKeeperImageStart tBeMs tPpUs s
  | .bankConfirm => Sys2Proof.Machine.execBankConfirm s
  | .clockFailure => Sys2Proof.Machine.execClockFailure s
  | .clockRecovered => Sys2Proof.Machine.execClockRecovered s
  | .pllLocked pll => Sys2Proof.Machine.execPllLocked pll s
  | .pllLockTimeout pll => Sys2Proof.Machine.execPllLockTimeout pll s
  | .keeperWatchdogFire k textOk => Sys2Proof.Machine.execKeeperWatchdogFire k textOk s
  | .escalationWindowClose => Sys2Proof.Machine.execEscalationWindowClose s
  | .upperWatchdogFire u textOk => Sys2Proof.Machine.execUpperWatchdogFire u textOk s
  | .keeperLockup k => Sys2Proof.Machine.execKeeperLockup k s
  | .upperLockup u textOk => Sys2Proof.Machine.execUpperLockup u textOk s
  | .protectionFault k addr pc textOk => Sys2Proof.Machine.execProtectionFault k addr pc textOk s
  | .softwareResetRequest requester target textOk => Sys2Proof.Machine.execSoftwareResetRequest requester target textOk s
  | .debugResetRequest target textOk => Sys2Proof.Machine.execDebugResetRequest target textOk s
  | .resetRequestDue => Sys2Proof.Machine.execResetRequestDue s
  | .rtcAlarm => Sys2Proof.Machine.execRtcAlarm s
  | .calmReached => Sys2Proof.Machine.execCalmReached s
  | .keeperResume => Sys2Proof.Machine.execKeeperResume s
  | .leaseExpiry => Sys2Proof.Machine.execLeaseExpiry s
  | .fanHoldEnd => Sys2Proof.Machine.execFanHoldEnd s
  | .sidebandDraftIdle => Sys2Proof.Machine.execSidebandDraftIdle s
  | .feedInWindow f vinMv => Sys2Proof.Machine.execFeedInWindow f vinMv s
  | .feedOutOfWindow f vinMv powerMw => Sys2Proof.Machine.execFeedOutOfWindow f vinMv powerMw s
  | .feedPowerGood f voutMv iMa => Sys2Proof.Machine.execFeedPowerGood f voutMv iMa s
  | .rampTimeout f => Sys2Proof.Machine.execRampTimeout f s
  | .currentLimitReached f iMa => Sys2Proof.Machine.execCurrentLimitReached f iMa s
  | .faultTimerClear f => Sys2Proof.Machine.execFaultTimerClear f s
  | .faultTimerExpiry f => Sys2Proof.Machine.execFaultTimerExpiry f s
  | .soaTrip f => Sys2Proof.Machine.execSoaTrip f s
  | .fastTrip f => Sys2Proof.Machine.execFastTrip f s
  | .feedLoss f powerMw => Sys2Proof.Machine.execFeedLoss f powerMw s
  | .cooldownEnd f => Sys2Proof.Machine.execCooldownEnd f s
  | .retryCountReset f => Sys2Proof.Machine.execRetryCountReset f s
  | .holdupExpiry => Sys2Proof.Machine.execHoldupExpiry s
  | .minOffEnd f => Sys2Proof.Machine.execMinOffEnd f s
  | .powerWindowClose pMw a b => Sys2Proof.Machine.execPowerWindowClose pMw a b s
  | .shareImbalance => Sys2Proof.Machine.execShareImbalance s
  | .upSequenceStart => Sys2Proof.Machine.execUpSequenceStart s
  | .casInLow => Sys2Proof.Machine.execCasInLow s
  | .stageUpDelayExpiry q nack => Sys2Proof.Machine.execStageUpDelayExpiry q nack s
  | .railPowerGood n mv => Sys2Proof.Machine.execRailPowerGood n mv s
  | .pgTimeout q nack => Sys2Proof.Machine.execPgTimeout q nack s
  | .railLeavesWindow n high mv nack => Sys2Proof.Machine.execRailLeavesWindow n high mv nack s
  | .stageDownDelayExpiry q nack => Sys2Proof.Machine.execStageDownDelayExpiry q nack s
  | .railDischarged n mv => Sys2Proof.Machine.execRailDischarged n mv s
  | .dscTimeout q => Sys2Proof.Machine.execDscTimeout q s
  | .downSequenceTimeout nack => Sys2Proof.Machine.execDownSequenceTimeout nack s
  | .busLost => Sys2Proof.Machine.execBusLost s
  | .seqTransaction reply => Sys2Proof.Machine.execSeqTransaction reply s
  | .seqUpFrame => Sys2Proof.Machine.execSeqUpFrame s
  | .seqDownFrame => Sys2Proof.Machine.execSeqDownFrame s
  | .seqBusFrame held => Sys2Proof.Machine.execSeqBusFrame held s
  | .seqPoll word crc => Sys2Proof.Machine.execSeqPoll word crc s
  | .seqSilent => Sys2Proof.Machine.execSeqSilent s
  | .slotUpSequence slot => Sys2Proof.Machine.execSlotUpSequence slot s
  | .ioutLimitWrite n ack => Sys2Proof.Machine.execIoutLimitWrite n ack s
  | .tempConversion cs => Sys2Proof.Machine.execTempConversion cs s
  | .tripHoldEnd c => Sys2Proof.Machine.execTripHoldEnd c s
  | .gustQuiet => Sys2Proof.Machine.execGustQuiet s
  | .fanEngineEval rpm => Sys2Proof.Machine.execFanEngineEval rpm s
  | .spinUpStep o tachOk => Sys2Proof.Machine.execSpinUpStep o tachOk s
  | .tachNoEdge o => Sys2Proof.Machine.execTachNoEdge o s
  | .outputSlow o => Sys2Proof.Machine.execOutputSlow o s
  | .outputRestored o => Sys2Proof.Machine.execOutputRestored o s
  | .ceilingOverTimer => Sys2Proof.Machine.execCeilingOverTimer s
  | .ceilingReturn => Sys2Proof.Machine.execCeilingReturn s
  | .ceilingUnderTimer => Sys2Proof.Machine.execCeilingUnderTimer s
  | .flowMeasure n pulses => Sys2Proof.Machine.execFlowMeasure n pulses s
  | .flowLow n => Sys2Proof.Machine.execFlowLow n s
  | .flowRecover n => Sys2Proof.Machine.execFlowRecover n s
  | .leakMeasure kohm => Sys2Proof.Machine.execLeakMeasure kohm s
  | .leakWet r => Sys2Proof.Machine.execLeakWet r s
  | .ropeDry r => Sys2Proof.Machine.execRopeDry r s
  | .leakPumpStop => Sys2Proof.Machine.execLeakPumpStop s
  | .frameBoundary pout => Sys2Proof.Machine.execFrameBoundary pout s
  | .throttleHoldbackEnd => Sys2Proof.Machine.execThrottleHoldbackEnd s
  | .armWord slot op epochFrame status => Sys2Proof.Machine.execArmWord slot op epochFrame status s
  | .barrier slot seq => Sys2Proof.Machine.execBarrier slot seq s
  | .broadcast slot seq words => Sys2Proof.Machine.execBroadcast slot seq words s
  | .reduce slot fn seq value => Sys2Proof.Machine.execReduce slot fn seq value s
  | .vote slot seq digest => Sys2Proof.Machine.execVote slot seq digest s
  | .laneOpTimeout group opId => Sys2Proof.Machine.execLaneOpTimeout group opId s
  | .laneOpResult group opId => Sys2Proof.Machine.execLaneOpResult group opId s
  | .blockLock port rxPower => Sys2Proof.Machine.execBlockLock port rxPower s
  | .cellAlignment port => Sys2Proof.Machine.execCellAlignment port s
  | .linkLoss port => Sys2Proof.Machine.execLinkLoss port s
  | .linkIdent port c => Sys2Proof.Machine.execLinkIdent port c s
  | .echoCell port t1 t4 turn => Sys2Proof.Machine.execEchoCell port t1 t4 turn s
  | .stampCell port c arrival => Sys2Proof.Machine.execStampCell port c arrival s
  | .timeSlot port echo => Sys2Proof.Machine.execTimeSlot port echo s
  | .opCell port first second => Sys2Proof.Machine.execOpCell port first second s
  | .trickleCell port c => Sys2Proof.Machine.execTrickleCell port c s
  | .packRxTimeout => Sys2Proof.Machine.execPackRxTimeout s
  | .packInstall => Sys2Proof.Machine.execPackInstall s
  | .holdoverEntry => Sys2Proof.Machine.execHoldoverEntry s
  | .holdoverHold => Sys2Proof.Machine.execHoldoverHold s
  | .relock => Sys2Proof.Machine.execRelock s
  | .timeStep => Sys2Proof.Machine.execTimeStep s
  | .joinLock => Sys2Proof.Machine.execJoinLock s
  | .uplinkSwitch => Sys2Proof.Machine.execUplinkSwitch s
  | .adopt port => Sys2Proof.Machine.execAdopt port s
  | .reachReport => Sys2Proof.Machine.execReachReport s
  | .reachRecord port c => Sys2Proof.Machine.execReachRecord port c s
  | .epochProposal group fn epoch arg commitId => Sys2Proof.Machine.execEpochProposal group fn epoch arg commitId s
  | .armReduceStart group fn epoch => Sys2Proof.Machine.execArmReduceStart group fn epoch s
  | .decide group fn epoch go step => Sys2Proof.Machine.execDecide group fn epoch go step s
  | .epochEffect epoch => Sys2Proof.Machine.execEpochEffect epoch s
  | .epochNoDecision group fn epoch => Sys2Proof.Machine.execEpochNoDecision group fn epoch s
  | .expelDecision group node slots => Sys2Proof.Machine.execExpelDecision group node slots s
  | .expelEffect group slots epoch => Sys2Proof.Machine.execExpelEffect group slots epoch s
  | .checkEngineStart => Sys2Proof.Machine.execCheckEngineStart s
  | .checkEngineStop => Sys2Proof.Machine.execCheckEngineStop s
  | .checkStart area errs => Sys2Proof.Machine.execCheckStart area errs s
  | .checkDone area => Sys2Proof.Machine.execCheckDone area s
  | .evidenceClassify => Sys2Proof.Machine.execEvidenceClassify s
  | .missingSample slot layer tile step => Sys2Proof.Machine.execMissingSample slot layer tile step s
  | .marginStepWrite slot ack => Sys2Proof.Machine.execMarginStepWrite slot ack s
  | .ladderRelax slot => Sys2Proof.Machine.execLadderRelax slot s
  | .lullTestOrder slot => Sys2Proof.Machine.execLullTestOrder slot s
  | .lullVoidTimeout slot => Sys2Proof.Machine.execLullVoidTimeout slot s
  | .voteResult group seq => Sys2Proof.Machine.execVoteResult group seq s
  | .voteOverdue group layer => Sys2Proof.Machine.execVoteOverdue group layer s
  | .ledgerWrite key => Sys2Proof.Machine.execLedgerWrite key s
  | .basinSelfRefresh => Sys2Proof.Machine.execBasinSelfRefresh s
  | .basinUsable => Sys2Proof.Machine.execBasinUsable s
  | .tierUsable tier dimm0 dimm1 => Sys2Proof.Machine.execTierUsable tier dimm0 dimm1 s
  | .scrubRead err => Sys2Proof.Machine.execScrubRead err s
  | .scrubCatchUp => Sys2Proof.Machine.execScrubCatchUp s
  | .digestDone layer errs => Sys2Proof.Machine.execDigestDone layer errs s
  | .slotPresent slot => Sys2Proof.Machine.execSlotPresent slot s
  | .slotAbsent slot => Sys2Proof.Machine.execSlotAbsent slot s
  | .slotResetRelease slot => Sys2Proof.Machine.execSlotResetRelease slot s
  | .slotIdentPoll slot reply => Sys2Proof.Machine.execSlotIdentPoll slot reply s
  | .slotBootTimeout slot => Sys2Proof.Machine.execSlotBootTimeout slot s
  | .slotAlert slot reply => Sys2Proof.Machine.execSlotAlert slot reply s
  | .plan slot ack => Sys2Proof.Machine.execPlan slot ack s
  | .fence slot kind index ack => Sys2Proof.Machine.execFence slot kind index ack s
  | .lullOrder slot ack => Sys2Proof.Machine.execLullOrder slot ack s
  | .packChunk slot ack => Sys2Proof.Machine.execPackChunk slot ack s
  | .slotPowerOnBaseRead slot reply => Sys2Proof.Machine.execSlotPowerOnBaseRead slot reply s
  | .handoverPause badCopies sections => Sys2Proof.Machine.execHandoverPause badCopies sections s
  | .liveUcodeLoad => Sys2Proof.Machine.execLiveUcodeLoad s
  | .sidebandWakeTransfer => Sys2Proof.Machine.execSidebandWakeTransfer s
  | .feedInputReturn f vinMv => Sys2Proof.Machine.execFeedInputReturn f vinMv s
  | .railRoseInShutdown n => Sys2Proof.Machine.execRailRoseInShutdown n s
  | .codeLaneWordDiscard slot => Sys2Proof.Machine.execCodeLaneWordDiscard slot s
  | .cellDiscarded port badCrc => Sys2Proof.Machine.execCellDiscarded port badCrc s
  | .resetPulseEnd slot => Sys2Proof.Machine.execResetPulseEnd slot s
  | .upperLoadComplete copyError stage0Lost => Sys2Proof.Machine.execUpperLoadComplete copyError stage0Lost s
  | .settingsSaveComplete readBackOk => Sys2Proof.Machine.execSettingsSaveComplete readBackOk s
  | .fwEndComplete flashOk => Sys2Proof.Machine.execFwEndComplete flashOk s
  | .pushComplete linkDown errs => Sys2Proof.Machine.execPushComplete linkDown errs s
  | .handoverVerifyDone => Sys2Proof.Machine.execHandoverVerifyDone s
  | .boundExpiry p => Sys2Proof.Machine.execBoundExpiry p s

end Sys2Proof.Machine
end

