-- ==== Sys2Proof/Machine/Idle.lean ====
section
/-!
DEFINITION. What one tick does while no command waits: the clocks, the countdowns of the Weir, the integrators, the rates of the check engine, and
what waited for nothing but time (DESIGN CHOICE, log 2).
-/

namespace Sys2Proof.Machine

namespace State

/-- The real-time clock, which counts on VBAT in every state (R60, R600). -/
def rtcTick (s : State) : State :=
  let u := s.rst.rtcUs + 1
  { s with rst := { s.rst with
    rtcUs := if 1000000 ≤ u then 0 else u
    rtcSec := if 1000000 ≤ u then s.rst.rtcSec + 1 else s.rst.rtcSec } }

/-- The safe-operating-area integrator over 1 µs, in picojoules: decay, then the energy of this microsecond (R186). -/
def soaStep (s : State) (f : Feed) (x : FeedSt) : Nat :=
  let tau := s.fld 0x11 f.1 9
  let e := x.soa - ceilDiv x.soa (1000 * max tau 1)
  if x.st = .ramp || x.st = .on then e + (x.vin - x.vout) * x.i.toNat else e

/-- The countdowns of a feed: the cooldown runs on VBAT, the minimum off time in the always-on domain (R186, R189, R198). -/
def feedTick (powered : Bool) (s : State) : State :=
  { s with weir := { s.weir with feeds := Vec.mapIdx s.weir.feeds (fun f x => { x with
    cooldown := x.cooldown - 1
    minOff := if powered then x.minOff - 1 else x.minOff
    soa := if powered then s.soaStep f x else x.soa }) } }

/-- The check engine's figures of the last whole second (R419). -/
def rateTick (s : State) : State :=
  if s.lt % 1000000 = 0 then
    { s with chk := { s.chk with
      opsLast := s.chk.opsNow, goldenLast := s.chk.goldenNow, recordLast := s.chk.recordNow
      opsNow := 0, goldenNow := 0, recordNow := 0 } }
  else s

/-- An emergency throttle ends at the latest 2,048 ticks after it began (R358). -/
def throttleCap (s : State) : State :=
  if s.gop.throt.mask ≠ 0 && s.gop.throt.since + 2048 ≤ s.lt then s.releaseThrottle else s

/-- One tick. -/
def tick (s : State) : State :=
  match s.dev.phase with
  | .unpowered => (s.rtcTick).feedTick false
  | .inCalm | .resuming => (s.rtcTick).feedTick true
  | _ =>
    let s := { s with dev := { s.dev with lt := s.dev.lt + 1 } }
    let s := (((s.rtcTick).feedTick true).rateTick).throttleCap
    (s.tryRamp 0).tryRamp 1

end State

end Sys2Proof.Machine
end

