-- ==== Sys2Proof/Safety.lean ====
section
/-!
DEFINITION. The terms claims use: the invariant of the block's stored data, when a submitted command is admitted, and what a window shows after a
command has ended or waits.
-/

namespace Sys2Proof.Machine

/-- The parts of the state. -/
inductive Part
  | dev | bus | wins | sess | cfg | weir | casc | cool | cad | gop | chk | basin | integ | slots | boot | upd | rst | ctr | out | free
  deriving DecidableEq, Repr

/-- Every part of the state. -/
abbrev Part.all : List Part :=
  [.dev, .bus, .wins, .sess, .cfg, .weir, .casc, .cool, .cad, .gop, .chk, .basin, .integ, .slots, .boot, .upd, .rst, .ctr, .out, .free]

/-- `t` is as `s` outside the parts of `l`; the queue is as it was. -/
structure SameBut (l : List Part) (s t : State) : Prop where
  dev : Part.dev ∉ l → t.dev = s.dev
  bus : Part.bus ∉ l → t.bus = s.bus
  wins : Part.wins ∉ l → t.wins = s.wins
  sess : Part.sess ∉ l → t.sess = s.sess
  cfg : Part.cfg ∉ l → t.cfg = s.cfg
  weir : Part.weir ∉ l → t.weir = s.weir
  casc : Part.casc ∉ l → t.casc = s.casc
  cool : Part.cool ∉ l → t.cool = s.cool
  cad : Part.cad ∉ l → t.cad = s.cad
  gop : Part.gop ∉ l → t.gop = s.gop
  chk : Part.chk ∉ l → t.chk = s.chk
  basin : Part.basin ∉ l → t.basin = s.basin
  integ : Part.integ ∉ l → t.integ = s.integ
  slots : Part.slots ∉ l → t.slots = s.slots
  boot : Part.boot ∉ l → t.boot = s.boot
  upd : Part.upd ∉ l → t.upd = s.upd
  rst : Part.rst ∉ l → t.rst = s.rst
  ctr : Part.ctr ∉ l → t.ctr = s.ctr
  out : Part.out ∉ l → t.out = s.out
  free : Part.free ∉ l → t.free = s.free
  pending : t.pending = s.pending

namespace State

/-- Every byte memory of the block is in canonical form. -/
def memoriesOk (s : State) : Prop :=
  Mem.wf 0 s.basin.mem = true ∧ Mem.wf 0 s.chk.bar4 = true ∧ Mem.wf 0xFF s.boot.flash = true ∧ Mem.wf 0 s.boot.rcvBuf = true ∧
    Mem.wf 0 s.boot.bootBuf = true ∧ Mem.wf 0 s.bus.msixTable = true ∧ Mem.wf 0 s.upd.block = true ∧
    ∀ p : Port, Mem.wf 0 (s.win p).data = true

/-- No counter exceeds its top, and the log ring holds at most 16,384 entries (R547, R606). -/
def countersOk (s : State) : Prop :=
  (∀ e ∈ s.ctr.vals, e.2 ≤ 2 ^ 64 - 1) ∧ s.ctr.log.length ≤ 16384

/-- The invariant that every step keeps. -/
def Inv (s : State) : Prop := s.memoriesOk ∧ s.countersOk

/-- A state whose window holds a submitted command, PENDING. -/
def loaded (o : OpSpec) (p : Port) (tag : BitVec 32) (ps : Bytes) (s : State) : State := (s.fill o.opcode tag ps p).pend p

/-- A command can arrive on a port: the sideband has its address, or the function answers memory accesses; on windows 0 to 5, U0 serves them; and
the window or slot is free (R57, R82, R90, R92, R103, R120, R125). -/
def portOpen (s : State) (p : Port) : Bool :=
  (if p = 7 then s.keeperServed && s.sess.i3cAddr.isSome else s.pcieUp && (6 ≤ p.1 || s.hostServed)) && !s.winBusy p

/-- A submission passes every check of R97. -/
def admits (s : State) (o : OpSpec) (p : Port) (tag : BitVec 32) (ps : Bytes) : Bool :=
  s.portOpen p && decide (ps.length ≤ 3840) && (o.verdict p ps (s.loaded o p tag ps)).isNone

/-- Ticks of the bound that a submission would be given (R95). -/
def boundOf (s : State) (o : OpSpec) (p : Port) (tag : BitVec 32) (ps : Bytes) : Nat := o.bound p ps (s.loaded o p tag ps)

/-- A window shows a command that ended in the step that took it: DONE with its code, its reply and times (R91, R95, R99). -/
def Ended (t : State) (o : OpSpec) (p : Port) (tag : BitVec 32) (c : Code) (reply : Bytes) (at_ bound : Nat) : Prop :=
  (t.win p).state = .done ∧ (t.win p).code = c ∧ (t.win p).opcode = BitVec.ofNat 16 o.opcode ∧ (t.win p).tag = tag ∧
    (t.win p).rlen = reply.length ∧ (t.win p).data = Mem.cells 0 0 reply ∧
    (t.win p).acc = at_ ∧ (t.win p).bound = at_ + bound ∧ (t.win p).done = at_

/-- A window shows an accepted command that completes later (R94, R95). -/
def Waits (t : State) (o : OpSpec) (p : Port) (tag : BitVec 32) (at_ bound : Nat) : Prop :=
  (t.win p).state = .accepted ∧ (t.win p).code = .accepted ∧ (t.win p).opcode = BitVec.ofNat 16 o.opcode ∧ (t.win p).tag = tag ∧
    (t.win p).rlen = 0 ∧ (t.win p).acc = at_ ∧ (t.win p).bound = at_ + bound

/-- All that a query leaves as it was: everything but the windows, the messages sent, the pending-bit array, the counter of free values, and the
time of a sideband Draft's last command. -/
def settled (s : State) : State :=
  { s with
    wins := State.reset.wins, out := [], free := 0
    bus := { s.bus with pba := 0 }
    cfg := { s.cfg with draft := s.cfg.draft.map (fun d => { d with lastTick := 0 }) } }

/-- A submission ended in the step that took it: its window shows so, the other windows are as before, and beside that the state is `e`, but for
what `settled` leaves out. -/
def AnsweredAs (s t e : State) (o : OpSpec) (p : Port) (tag : BitVec 32) (c : Code) (reply : Bytes) (bound : Nat) : Prop :=
  t.Ended o p tag c reply s.lt bound ∧ (∀ q, q ≠ p → t.win q = s.win q) ∧ t.settled = e.settled

/-- A submission waits, accepted, with its parameters in its window: the other windows are as before, and beside that the state is `e`, but for what
`settled` leaves out. -/
def WaitsAs (s t e : State) (o : OpSpec) (p : Port) (tag : BitVec 32) (ps : Bytes) (bound : Nat) : Prop :=
  t.Waits o p tag s.lt bound ∧ t.params p = ps ∧ (∀ q, q ≠ p → t.win q = s.win q) ∧ t.settled = e.settled

end State

/-- A command completes: its outcome is a next state that is as before outside the parts of `l`, and of which `P` holds. -/
def Completes (i : Instr) (s : State) (l : List Part) (P : State → Prop) : Prop := ∃ t, exec i s = .next t ∧ SameBut l s t ∧ P t

/-- A counter took one increment, at its top none (R606). -/
def Counted (c : Nat) (s t : State) : Prop := t.ctrVal c = min (s.ctrVal c + 1) (2 ^ 64 - 1)

/-- An accepted command ended: its window is DONE with its code, its reply and the tick, and keeps the rest (R95, R99). -/
def Finished (s t : State) (p : Port) (c : Code) (reply : Bytes) : Prop :=
  t.win p = { s.win p with state := .done, code := c, rlen := reply.length, done := s.lt, data := Mem.cells 0 0 reply, notice := decide (p = 7) }

/-- The Cascade is all off and no feed is ON or in RAMP: a system reset needs no stretch (R592). -/
def State.powerIdle (s : State) : Bool :=
  decide (s.casc.st = .allOff) && !(List.finRange 2).any (fun f => (s.feed f).st = .on || (s.feed f).st = .ramp)

/-- A system reset acts: the option block is loaded, and no reset's stretch runs (R592, R597). -/
def State.resettable (s : State) : Bool := s.optionsIn && s.rst.stretch.isNone

namespace State

/-- A ramping feed as R177 starts it. -/
def ramping (s : State) (f : Feed) (x : FeedSt) : FeedSt :=
  { x with
    st := .ramp, soa := 0, limit := 100 * s.fld 0x11 f.1 5
    fast := min (100 * s.fld 0x11 f.1 5 + 100 * s.fld 0x11 f.1 5 / 2) (100 * (400000 / s.fld 0x11 f.1 2))
    inLimit := false, faultStart := none, rampStart := s.lt, rampMs := s.fld 0x10 0 6, wasOn := true, minOff := 0 }

/-- A rail turned on (R215, R224). -/
def onRail (s : State) (nack : BitVec 64) (n : Fin 64) (r : RailSt) : RailSt :=
  { r with
    phase := if r.pg then .good else .rising
    ena := s.drivesEna n && s.hasEna n
    pmbus := s.drivesPmbus n && !nack.getLsbD n.1
    dsc := false, discharged := false, early := false, rose := false, evTick := s.lt }

/-- A rail turned off (R215, R226, R232). -/
def offRail (s : State) (nack : BitVec 64) (n : Fin 64) (r : RailSt) : RailSt :=
  { r with
    phase := if r.discharged then .off else .falling
    ena := false
    pmbus := r.pmbus && nack.getLsbD n.1
    dsc := s.hasDsc n && !r.discharged
    pg := false, evTick := s.lt }

/-- A rail is as before but for its Spillway output. -/
def SameRail (a b : RailSt) : Prop := b = { a with dsc := b.dsc }

end State

namespace State

/-- A state in which a hold of the Basin was taken: the Basin starts (R67, R447). -/
def holding (o : Owner) (s : State) : State :=
  ({ s with basin := { s.basin with holds := s.basin.holds.filter (fun x => x ≠ o) ++ [o] } } : State).startBasin

/-- A slot as its change of state leaves it (R485, R486, R490, R493, R505). -/
def slotAfter (lt : Nat) (st : SlotState) (c : Nat) (x : SlotSt) : SlotSt :=
  let y := { x with st := st, cause := c, stateTick := lt }
  match st with
  | .absent | .off | .failed =>
    { y with
      rst := true, releaseAt := none, pulseEnd := none, releasedAt := none, identNext := none, identified := false
      serial := 0, fwVer := 0, alert := false, addressed := false, base := none, pack := none, packDone := false
      runAt := none, planDue := none, streak := 0, forecast := none, measured := none }
  | .powering => { y with nbValid := false, planGen := 0, announced := [], rst := true, releaseAt := none }
  | .held => if x.st = .powering then { y with releaseAt := some (lt + 10000) } else y
  | .running | .quarantined => { y with runAt := none }

/-- A slot that its reset pulses, lengthened if one runs (R486). -/
def slotPulsed (lt us : Nat) (x : SlotSt) : SlotSt :=
  { x with rst := true, identNext := none, pulseEnd := some (match x.pulseEnd with | some t => max t (lt + us) | none => lt + us) }

/-- State and cause that SLOT_RELEASE leaves a slot it names with (R492). -/
def slotReleased (s : State) (i : Fin 8) : SlotState × Nat :=
  match (s.slot i).st with
  | .quarantined => (if (s.slot i).present && (decide ((s.slot i).cause ≠ 1) && s.slotRailsOn i) then .held else .off, 0)
  | .failed => (.off, 0)
  | st => (st, (s.slot i).cause)

/-- A slot that may be quarantined is (R490, R491). -/
def slotQuarantined (lt c : Nat) (x : SlotSt) : SlotSt :=
  if x.st = .powering ∨ x.st = .held ∨ x.st = .running then slotAfter lt .quarantined c x else x

end State

/-- A system reset with cause bit `b` was taken: cause and LAST, TMC_RST_N driven low, every core held; with the power path idle the blocks of R587
are cleared and option loading begins; with rails on the tray down-sequence runs first, stretching the reset (R587, R591, R592, R599). -/
structure ResetTaken (b : Nat) (s t : State) : Prop where
  cause : t.rst.cause = setBit s.rst.cause b true
  last : t.rst.last = b
  closed : t.rst.window = none ∧ t.rst.reqTick = none
  pin : t.dev.rstLow = true
  cores : ∀ k, t.coreRuns k = false
  cleared : s.powerIdle = true →
    t.dev.phase = .optionLoading ∧ t.dev.st = .calm ∧ t.sess.host = none ∧ t.sess.sideband = none ∧ t.rst.stretch = none ∧ t.chk.areas = State.resetChk.areas
  kept : s.powerIdle = true → s.dev.st ≠ .full → t.boot.flash = s.boot.flash ∧ t.boot.keys = s.boot.keys ∧ Counted (0x0830 + b) s t
  stretched : s.casc.st ≠ .allOff → t.casc.st = .down ∧ t.rst.stretch = some s.lt ∧ t.dev.phase = s.dev.phase

/-- A row of the table that asks: how it is submitted, the opcode, its reply and its bound in ticks. -/
structure QueryRow where
  row : Port → BitVec 32 → Bytes → Instr
  op : OpSpec
  reply : Bytes → State → Bytes
  bound : Nat

/-- The queries of the keeper subset (R106), with what each returns. -/
def keeperQueries : List QueryRow :=
  [ { row := .identify, op := identifyOp, reply := fun _ s => s.identifyReply, bound := 1000 },
    { row := .counterRead, op := counterReadOp, reply := State.counterReply, bound := 1000 },
    { row := .logRead, op := logReadOp, reply := State.logReply, bound := 2000 },
    { row := .sensorRead, op := sensorReadOp, reply := State.sensorReply, bound := 1000 },
    { row := .draftGet, op := draftGetOp, reply := fun ps s => s.draftGetReply ps, bound := 1000 },
    { row := .liveGet, op := liveGetOp
      reply := fun ps s => zeros 8 ++ entryBytes (State.keyParam ps, s.cfgVal (State.keyParam ps)), bound := 1000 },
    { row := .weirStatus, op := weirStatusOp, reply := fun _ s => s.weirStatusReply, bound := 1000 },
    { row := .cascadeStatus, op := cascadeStatusOp, reply := fun _ s => s.cascadeReply, bound := 1000 },
    { row := .coolStatus, op := coolStatusOp, reply := fun _ s => s.coolReply, bound := 1000 },
    { row := .thermStatus, op := thermStatusOp, reply := fun _ s => s.thermReply, bound := 1000 },
    { row := .slotStatus, op := slotStatusOp, reply := fun _ s => (List.finRange 8).flatMap s.slotRecord, bound := 1000 },
    { row := .fwStatus, op := fwStatusOp, reply := fun _ s => s.fwStatusReply, bound := 1000 },
    { row := .resetStatus, op := resetStatusOp, reply := fun _ s => s.resetStatusReply, bound := 1000 },
    { row := .rtcRead, op := rtcReadOp, reply := fun _ s => s.rtcReply, bound := 1000 },
    { row := .bkpRead, op := bkpReadOp, reply := fun _ s => (List.finRange 16).flatMap (fun i => natLE 4 (s.bkpValue i)), bound := 1000 },
    { row := .bootStatus, op := bootStatusOp, reply := fun _ s => s.bootStatusReply, bound := 1000 },
    { row := .keyStatus, op := keyStatusOp, reply := fun _ s => s.keyStatusReply, bound := 1000 } ]

/-- The queries that Full alone serves, with what each returns. -/
def fullQueries : List QueryRow :=
  [ { row := .cadStatus, op := cadStatusOp, reply := fun _ s => s.cadStatusReply, bound := 1000 },
    { row := .linkStatus, op := linkStatusOp, reply := fun _ s => (List.finRange 18).flatMap s.linkRecord, bound := 1000 },
    { row := .groupStatus, op := groupStatusOp, reply := fun ps s => s.groupStatusReply ps, bound := 1000 },
    { row := .snapshotRead, op := snapshotReadOp, reply := fun ps s => s.snapshotReply ps, bound := 1000 },
    { row := .checkStatus, op := checkStatusOp, reply := fun _ s => s.checkStatusReply, bound := 1000 },
    { row := .checkResults, op := checkResultsOp, reply := State.checkResultsReply, bound := 2000 },
    { row := .integStatus, op := integStatusOp, reply := fun _ s => s.integReply, bound := 1000 },
    { row := .unitRead, op := unitReadOp, reply := fun ps s => s.unitReply ps, bound := 2000 },
    { row := .lullStatus, op := lullStatusOp, reply := fun _ s => (List.finRange 8).flatMap s.lullRecord, bound := 1000 },
    { row := .voteLog, op := voteLogOp, reply := State.voteLogReply, bound := 2000 },
    { row := .packStatus, op := packStatusOp, reply := fun _ s => s.packReply, bound := 1000 },
    { row := .basinStatus, op := basinStatusOp, reply := fun _ s => s.basinStatusReply, bound := 1000 },
    { row := .modelDigest, op := modelDigestOp, reply := fun _ s => s.modelDigestReply, bound := 0 },
    { row := .poisonList, op := poisonListOp, reply := fun ps s => s.poisonListReply ps, bound := 1000 } ]

/-- An opcode with its row of the table. -/
abbrev OpcodeRow : Type := OpSpec × (Port → BitVec 32 → Bytes → Instr)

def opcodeRows0 : List OpcodeRow :=
  [(helloOp, .hello), (leaseRenewOp, .leaseRenew), (identifyOp, .identify), (leaseReleaseOp, .leaseRelease), (counterReadOp, .counterRead),
    (logReadOp, .logRead), (sensorReadOp, .sensorRead), (draftOpenOp, .draftOpen), (draftSetOp, .draftSet)]
def opcodeRows1 : List OpcodeRow :=
  [(draftGetOp, .draftGet), (draftCheckOp, .draftCheck), (draftCommitOp, .draftCommit), (draftAbortOp, .draftAbort), (settingsSaveOp, .settingsSave),
    (liveSetOp, .liveSet), (liveGetOp, .liveGet), (weirOnOp, .weirOn), (weirOffOp, .weirOff)]
def opcodeRows2 : List OpcodeRow :=
  [(weirClearOp, .weirClear), (weirStatusOp, .weirStatus), (cascadeStatusOp, .cascadeStatus), (railFlagClearOp, .railFlagClear), (coolStatusOp, .coolStatus),
    (fanSetOp, .fanSet), (thermStatusOp, .thermStatus), (tripClearOp, .tripClear), (leakClearOp, .leakClear)]
def opcodeRows3 : List OpcodeRow :=
  [(cadStatusOp, .cadStatus), (linkStatusOp, .linkStatus), (cadRejoinOp, .cadRejoin), (cadSwitchOp, .cadSwitch), (groupStatusOp, .groupStatus),
    (cadRequestOp, .cadRequest), (resetAtOp, .resetAt), (snapshotAtOp, .snapshotAt), (snapshotReadOp, .snapshotRead)]
def opcodeRows4 : List OpcodeRow :=
  [(expelOp, .expel), (checkStatusOp, .checkStatus), (checkResultsOp, .checkResults), (checkControlOp, .checkControl), (integStatusOp, .integStatus),
    (unitReadOp, .unitRead), (unitReleaseOp, .unitRelease), (lullStatusOp, .lullStatus), (voteLogOp, .voteLog)]
def opcodeRows5 : List OpcodeRow :=
  [(packSendOp, .packSend), (packStatusOp, .packStatus), (basinStatusOp, .basinStatus), (basinHoldOp, .basinHold), (basinSealOp, .basinSeal),
    (basinUnsealOp, .basinUnseal), (basinVerifyOp, .basinVerify), (modelDigestOp, .modelDigest), (basinPushOp, .basinPush)]
def opcodeRows6 : List OpcodeRow :=
  [(poisonListOp, .poisonList), (slotStatusOp, .slotStatus), (slotPowerOp, .slotPower), (slotResetOp, .slotReset), (slotRunOp, .slotRun),
    (slotHoldOp, .slotHold), (slotQuarantineOp, .slotQuarantine), (slotReleaseOp, .slotRelease), (fwBeginOp, .fwBegin)]
def opcodeRows7 : List OpcodeRow :=
  [(fwBlockOp, .fwBlock), (fwEndOp, .fwEnd), (fwHandoverOp, .fwHandover), (fwRestartCoreOp, .fwRestartCore), (fwStatusOp, .fwStatus),
    (resetStatusOp, .resetStatus), (resetRequestOp, .resetRequest), (calmEnterOp, .calmEnter), (rtcReadOp, .rtcRead)]
def opcodeRows8 : List OpcodeRow :=
  [(rtcWriteOp, .rtcWrite), (bkpReadOp, .bkpRead), (bkpWriteOp, .bkpWrite), (bootStatusOp, .bootStatus), (upperLoadOp, .upperLoad),
    (upperHaltOp, .upperHalt), (keyStatusOp, .keyStatus), (keyProgramOp, .keyProgram), (keyRevokeOp, .keyRevoke)]

/-- Every opcode row of the table with its opcode. -/
def opcodeRows : List OpcodeRow :=
  opcodeRows0 ++ opcodeRows1 ++ opcodeRows2 ++ opcodeRows3 ++ opcodeRows4 ++ opcodeRows5 ++ opcodeRows6 ++ opcodeRows7 ++ opcodeRows8

end Sys2Proof.Machine
end

