-- ==== Sys2Proof/Certificates/Slice0/Obligations.lean ====
section
/-!
DEFINITION. The statements about the block: queries and opcode commands, events of each chapter, the invariant, reset.
-/

open Sys2Proof Sys2Proof.Machine

/-- A step runs the command at the front of the queue (95_what_each_step_holds.md). -/
def Obligations.StepRunsFrontCommand : Prop :=
  ∀ (c : Instr) (rest : List Instr) (s : State), step { s with pending := c :: rest } = exec c { s with pending := rest }

/-- A step with an empty queue lets one tick pass (03_command_windows.md, 17_reset_and_retention.md). -/
def Obligations.EmptyQueueLetsTickPass : Prop :=
  ∀ s : State, s.pending = [] → ∃ t, step s = .next t ∧ SameBut [.dev, .weir, .gop, .chk, .rst] s t ∧
    t.dev = { s.dev with lt := s.dev.lt + (if s.dev.phase = .unpowered ∨ s.dev.phase = .inCalm ∨ s.dev.phase = .resuming then 0 else 1) } ∧
    { t.rst with bkp := s.rst.bkp } = { s.rst with
      rtcUs := if 999999 ≤ s.rst.rtcUs then 0 else s.rst.rtcUs + 1
      rtcSec := if 999999 ≤ s.rst.rtcUs then s.rst.rtcSec + 1 else s.rst.rtcSec }

/-- Every command answers a next state and leaves the queue alone (95_what_each_step_holds.md). -/
def Obligations.EveryCommandAnswersNextState : Prop :=
  ∀ (i : Instr) (s : State), ∃ t, exec i s = .next t ∧ t.pending = s.pending

/-- The state after reset meets the invariant (15_boot_and_firmware.md, 18_counters.md). -/
def Obligations.ResetKeepsInvariant : Prop :=
  State.reset.Inv

/-- Every step keeps the invariant (15_boot_and_firmware.md, 18_counters.md, 12_basin_memory.md, 11_check_engine.md). -/
def Obligations.StepKeepsInvariant : Prop :=
  ∀ s t : State, s.Inv → step s = .next t → t.Inv

/-- What the registers read after reset (03_command_windows.md, 18_counters.md, 15_boot_and_firmware.md, 12_basin_memory.md). -/
def Obligations.ResetRegisterValues : Prop :=
  (∀ p : Port, State.reset.winReg p 0x00C = 0 ∧ State.reset.winReg p 0x000 = 0 ∧ State.reset.winReg p 0x004 = 0 ∧
      State.reset.winReg p 0x008 = 0 ∧ State.reset.winReg p 0x010 = 0 ∧ State.reset.winReg p 0x014 = 0 ∧ State.reset.winReg p 0x018 = 0 ∧
      State.reset.winReg p 0x01C = 0 ∧ State.reset.winReg p 0x020 = p.1) ∧
    State.reset.devReg 0x020 = 2048 ∧ State.reset.devReg 0x028 = 0 ∧ State.reset.devReg 0x02C = 0 ∧ State.reset.devReg 0x050 = 0 ∧
    State.reset.rst.cause = 1 ∧ (∀ c, c ≠ 0x0830 → State.reset.ctrVal c = 0) ∧ State.reset.ctrVal 0x0830 = 1 ∧
    State.reset.feedsOn = [] ∧ (∀ n, State.reset.railOn n = false) ∧ (∀ i, (State.reset.slot i).st = .absent) ∧ State.reset.pending = []

/-- A submission is refused with the code of the first check that fails (03_command_windows.md, 03_command_windows.md). -/
def Obligations.SubmissionRefusedByFirstFailingCheck : Prop :=
  ∀ r ∈ opcodeRows, ∀ (s : State) (p : Port) (tag : BitVec 32) (ps : Bytes) (c : Code),
    s.portOpen p = true → ps.length ≤ 3840 → r.1.verdict p ps (s.loaded r.1 p tag ps) = some c →
    ∃ t, exec (r.2 p tag ps) s = .next t ∧ (t.win p).state = .refused ∧ (t.win p).code = c ∧ (t.win p).rlen = 0 ∧ (t.win p).acc = s.lt ∧
      (t.win p).opcode = BitVec.ofNat 16 r.1.opcode ∧ (t.win p).tag = tag ∧ t.params p = ps ∧ (∀ q, q ≠ p → t.win q = s.win q) ∧
      (r.1.opcode ≠ 0x0804 → t.settled = s.settled)

/-- A window that is PENDING or ACCEPTED takes no submission and no write (03_command_windows.md). -/
def Obligations.BusyWindowTakesNothing : Prop :=
  (∀ r ∈ opcodeRows, ∀ (s : State) (p : Port) (tag : BitVec 32) (ps : Bytes), p ≠ 7 → s.pcieUp = true → s.winBusy p = true →
    Completes (r.2 p tag ps) s [.ctr] (fun t => t.ctrVal 0 = min (s.ctrVal 0 + (if ps = [] then 3 else 4)) (2 ^ 64 - 1) ∧
      ∀ c, c ≠ 0 → t.ctrVal c = s.ctrVal c)) ∧
  (∀ (s : State) (w : Fin 8) (off : Nat) (v : BitVec 32), w ≠ 7 → s.keeperServed = true → s.bus.perst = false → s.bus.mse = true →
    s.winBusy w = true → off % 4 = 0 → (off ∈ [0x000, 0x004, 0x008, 0x020] ∨ (0x100 ≤ off ∧ off < 0x1000)) →
    Completes (.registerWrite (.win w) off v) s [.ctr] (fun t => Counted 0 s t ∧ ∀ c, c ≠ 0 → t.ctrVal c = s.ctrVal c)) ∧
  (∀ (s : State) (w : Fin 8) (op : BitVec 16), w ≠ 7 → s.pcieUp = true → s.winBusy w = true →
    Completes (.go w op) s [.ctr] (fun t => Counted 0 s t ∧ ∀ c, c ≠ 0 → t.ctrVal c = s.ctrVal c))

/-- Windows 0 to 5 answer REFUSED_STATE while U0 does not serve them (03_command_windows.md). -/
def Obligations.UnservedWindowsRefuse : Prop :=
  ∀ r ∈ opcodeRows, ∀ (s : State) (p : Port) (tag : BitVec 32) (ps : Bytes), p.1 < 6 → s.pcieUp = true → s.winBusy p = false →
    s.hostServed = false → ∃ t, exec (r.2 p tag ps) s = .next t ∧ (t.win p).state = .refused ∧ (t.win p).code = .refusedState ∧
      (t.win p).rlen = 0 ∧ (t.win p).acc = s.lt ∧ (t.win p).opcode = BitVec.ofNat 16 r.1.opcode ∧ (t.win p).tag = tag ∧
      (∀ q, q ≠ p → t.win q = s.win q) ∧ t.settled = s.settled

/-- GO submits what stands in the window, and a sideband packet what it carries (03_command_windows.md, 95_what_each_step_holds.md). -/
def Obligations.GoSubmitsWhatTheWindowHolds : Prop :=
  (∀ r ∈ opcodeRows, ∀ (s : State) (w : Fin 8) (tag : BitVec 32) (ps : Bytes), w ≠ 7 → s.pcieUp = true → s.winBusy w = false →
    exec (.go w (BitVec.ofNat 16 r.1.opcode)) (s.fill r.1.opcode tag ps w) = exec (r.2 w tag ps) s) ∧
  (∀ (s : State) (w : Fin 8) (op : BitVec 16), w ≠ 7 → s.pcieUp = true → s.winBusy w = false → (w = 6 ∨ s.hostServed = true) →
    (∀ r ∈ opcodeRows, r.1.opcode ≠ op.toNat) →
    ∃ t, exec (.go w op) s = .next t ∧ (t.win w).state = .refused ∧ (t.win w).code = .badOpcode ∧ (t.win w).rlen = 0 ∧
      (t.win w).acc = s.lt ∧ (∀ q, q ≠ w → t.win q = s.win q) ∧ t.settled = s.settled) ∧
  (∀ r ∈ opcodeRows, ∀ (s : State) (tag : BitVec 32) (ps : Bytes),
    exec (.sidebandCommand (BitVec.ofNat 16 r.1.opcode) tag ps.length ps) s = exec (r.2 7 tag ps) s)

/-- Numbers, parameter lengths, features and keeper subset of the opcodes (03_command_windows.md, 04_drafts_and_settings.md). -/
def Obligations.OpcodeTable : Prop :=
  opcodeRows.map (fun r => (r.1.opcode, r.1.plen, r.1.feats, r.1.keeper)) =
    [(0x0001, some 56, [0], true), (0x0002, some 0, [0], true), (0x0003, some 0, [0], true), (0x0004, some 0, [0], true)]
    ++ [(0x0901, some 4, [12], true), (0x0902, some 16, [12], true), (0x0903, some 4, [12], true), (0x0101, some 0, [1], true)]
    ++ [(0x0102, none, [1], true), (0x0103, some 8, [1], true), (0x0104, some 0, [1], true), (0x0105, none, [1], true)]
    ++ [(0x0106, some 4, [1], true), (0x0107, some 0, [1], true), (0x0108, none, [1], true), (0x0109, some 8, [1], true)]
    ++ [(0x0201, some 4, [3], true), (0x0202, some 4, [3], true), (0x0203, some 4, [3], true), (0x0204, some 0, [3], true)]
    ++ [(0x0210, some 0, [3], true), (0x0211, some 8, [3], true), (0x0301, some 0, [4], true), (0x0302, some 8, [4], true)]
    ++ [(0x0303, some 0, [4], true), (0x0304, some 4, [4], true), (0x0305, some 0, [4], true), (0x0401, some 0, [5], false)]
    ++ [(0x0402, some 0, [5], false), (0x0403, some 0, [5], false), (0x0404, some 4, [5], false), (0x0410, some 8, [5], false)]
    ++ [(0x0411, some 8, [5], false), (0x0412, some 16, [5], false), (0x0413, some 16, [5], false), (0x0414, some 8, [5], false)]
    ++ [(0x0415, some 8, [5], false), (0x0501, some 0, [6], false), (0x0502, some 16, [6], false), (0x0503, some 8, [6], false)]
    ++ [(0x0510, some 0, [6], false), (0x0511, some 8, [6], false), (0x0512, some 8, [6], false), (0x0513, some 0, [6], false)]
    ++ [(0x0514, some 16, [6], false), (0x0515, some 8, [6], false), (0x0516, some 0, [6], false), (0x0601, some 0, [7], false)]
    ++ [(0x0602, some 8, [7], false), (0x0603, none, [7], false), (0x0604, some 8, [7], false), (0x0605, some 8, [7], false)]
    ++ [(0x0606, some 0, [7], false), (0x0607, some 32, [7], false), (0x0608, some 8, [7], false), (0x0701, some 0, [8], true)]
    ++ [(0x0702, some 8, [8], true), (0x0703, some 8, [8], true), (0x0704, some 16, [8], false), (0x0705, some 8, [8], false)]
    ++ [(0x0706, some 8, [8], true), (0x0707, some 8, [8], true), (0x0801, some 16, [9], true), (0x0802, none, [9], true)]
    ++ [(0x0803, some 8, [9], true), (0x0804, some 8, [10], true), (0x0805, some 8, [11], true), (0x0806, some 0, [9], true)]
    ++ [(0x0A01, some 0, [13], true), (0x0A02, some 8, [13], true), (0x0A03, some 0, [13], true), (0x0A04, some 0, [13], true)]
    ++ [(0x0A05, some 24, [13], true), (0x0A06, some 0, [13], true), (0x0A07, some 8, [13], true), (0x0B01, some 0, [14], true)]
    ++ [(0x0B02, some 8, [14], true), (0x0B03, some 0, [14], true), (0x0B04, some 0, [14], true), (0x0B05, some 36, [14], true)]
    ++ [(0x0B06, some 4, [14], true)]

/-- The queries of the keeper subset return what they ask for (03_command_windows.md, 04_drafts_and_settings.md, 05_weir_power_path.md,
06_cascade_sequencing.md, 07_cooling_and_thermal.md, 14_accelerator_slots.md, 15_boot_and_firmware.md, 16_update_and_handover.md,
17_reset_and_retention.md). -/
def Obligations.KeeperQueriesAnswer : Prop :=
  ∀ q ∈ keeperQueries, ∀ (s : State) (p : Port) (tag : BitVec 32) (ps : Bytes), s.admits q.op p tag ps = true →
    ∃ t, exec (q.row p tag ps) s = .next t ∧ s.AnsweredAs t s q.op p tag .ok (q.reply ps s) q.bound

/-- The queries that Full alone serves return what they ask for (08_cadence_time_and_links.md, 09_global_operations.md, 11_check_engine.md,
12_basin_memory.md, 13_integrity_policy.md). -/
def Obligations.FullQueriesAnswer : Prop :=
  ∀ q ∈ fullQueries, ∀ (s : State) (p : Port) (tag : BitVec 32) (ps : Bytes), s.admits q.op p tag ps = true →
    ∃ t, exec (q.row p tag ps) s = .next t ∧ s.AnsweredAs t s q.op p tag .ok (q.reply ps s) q.bound

/-- Reading the cadence mirror latches its upper word and its fraction (R87). -/
def Obligations.CadenceMirrorReadLatches : Prop :=
  (∀ (s : State) (wide : Bool), s.bar0Up = true →
    Completes (.ctLoRead wide) s [.bus] (fun t =>
      t.devReg 0x034 = s.ct / 2 ^ 32 % 2 ^ 32 ∧ t.devReg 0x038 = s.ctSub % 1024 ∧ t.bus.rd = natLE (if wide then 8 else 4) s.ct ∧
      { t.bus with ctHi := s.bus.ctHi, ctSub := s.bus.ctSub, rd := s.bus.rd, rdPoison := s.bus.rdPoison } = s.bus)) ∧
  (∀ s : State, s.devReg 0x030 = s.ct % 2 ^ 32) ∧
  (∀ s : State, s.cad.st = .alone → s.ct = s.dev.lt ∧ s.ctSub = 0) ∧
  (∀ s : State, s.cad.st ≠ .alone → s.ct = (65536 * (s.dev.lt : Int) + s.cad.offset).toNat / 65536 ∧
    s.ctSub = (65536 * (s.dev.lt : Int) + s.cad.offset).toNat % 65536 / 64)

/-- Reading the local tick counter latches its upper word (03_command_windows.md). -/
def Obligations.LocalTickReadLatches : Prop :=
  ∀ (s : State) (wide : Bool), s.bar0Up = true →
    Completes (.ltLoRead wide) s [.bus] (fun t =>
      t.devReg 0x054 = s.dev.lt / 2 ^ 32 % 2 ^ 32 ∧ s.devReg 0x050 = s.dev.lt % 2 ^ 32 ∧ t.bus.rd = natLE (if wide then 8 else 4) s.dev.lt ∧
      { t.bus with ltHi := s.bus.ltHi, rd := s.bus.rd, rdPoison := s.bus.rdPoison } = s.bus)

/-- A counter's increment sets its group's summary bit, which a write of 1 clears (R608). -/
def Obligations.ChangeSummaryBits : Prop :=
  (∀ (s : State) (c : Nat), c ≤ 0x0864 → (s.count c).ctr.summary.getLsbD (c / 16) = true ∧
    (∀ j, j ≠ c / 16 → (s.count c).ctr.summary.getLsbD j = s.ctr.summary.getLsbD j) ∧
    ∀ g, 0x87 ≤ g → g ≠ c / 16) ∧
  (∀ g, 0x87 ≤ g → State.reset.ctr.summary.getLsbD g = false) ∧
  (∀ (s : State) (k : Fin 8) (v same : BitVec 32), s.bar0Up = true →
    Completes (.chgSummaryClear k v same) s [.ctr] (fun t =>
      { t.ctr with summary := s.ctr.summary } = s.ctr ∧
      ∀ j : Nat, t.ctr.summary.getLsbD j =
        (s.ctr.summary.getLsbD j && !(decide (32 * k.1 ≤ j) && v.getLsbD (j - 32 * k.1) && !same.getLsbD (j - 32 * k.1)))))

/-- What a register write changes (03_command_windows.md, 15_boot_and_firmware.md, 17_reset_and_retention.md). -/
def Obligations.RegisterWritesAct : Prop :=
  (∀ (s : State) (w : Fin 8) (v : BitVec 32), w ≠ 7 → s.pcieUp = true → s.winBusy w = false →
    exec (.registerWrite (.win w) 0x004 v) s = .next (s.updWin w (fun x => { x with tag := v })) ∧
    exec (.registerWrite (.win w) 0x008 v) s = .next (s.updWin w (fun x => { x with plen := v.setWidth 12 })) ∧
    (v.msb = false → exec (.registerWrite (.win w) 0x000 v) s = .next (s.updWin w (fun x => { x with opcode := v.setWidth 16, orphan := false }))) ∧
    exec (.registerWrite (.win w) 0x020 v) s =
      .next (s.updWin w (fun x => { x with vec := if s.hasFeat w 15 then v.setWidth 5 else x.vec, vecEn := v.msb })) ∧
    ∀ k, k < 960 → exec (.registerWrite (.win w) (0x100 + 4 * k) v) s =
      .next (s.updWin w (fun x => { x with data := Mem.write 0 x.data (4 * k) (natLE 4 v.toNat) }))) ∧
  (∀ (s : State) (v : BitVec 32), s.pcieUp = true →
    exec (.registerWrite .dev 0x014 v) s = .next { s with rst := { s.rst with
      cause := s.rst.cause &&& ~~~(v.setWidth 16), optRestart := s.rst.optRestart && !v.getLsbD 22 } } ∧
    (v.getLsbD 5 = true → exec (.registerWrite .dev 0x010 v) s = .next { s with bus := { s.bus with featuresChanged := false } }) ∧
    (∀ off ∈ [0x000, 0x020, 0x024, 0x028, 0x02C, 0x030, 0x034, 0x038, 0x050, 0x054], exec (.registerWrite .dev off v) s = .next s) ∧
    (∀ w : Fin 8, ∀ off ∈ [0x00C, 0x010, 0x014, 0x018, 0x01C], exec (.registerWrite (.win w) off v) s = .next s) ∧
    (∀ off, 0x120 ≤ off → off < 0x1000 → exec (.registerWrite .dev off v) s = .next (s.count 0x0001)))

/-- Accesses to offsets that hold nothing (03_command_windows.md). -/
def Obligations.UnmappedAccesses : Prop :=
  (∀ (s : State) (off : Nat), s.bar0Up = true → State.bar0Unmapped off = true → s.recovering 2 = false →
    Completes (.barUnmappedAccess .bar0 off true) s [.ctr] (fun t => Counted 1 s t ∧ ∀ c, c ≠ 1 → t.ctrVal c = s.ctrVal c) ∧
    Completes (.barUnmappedAccess .bar0 off false) s [.bus] (fun t =>
      t.bus.rd = zeros 4 ∧ { t.bus with rd := s.bus.rd, rdPoison := s.bus.rdPoison } = s.bus)) ∧
  (∀ (s : State) (bar : Bar) (off : Nat), s.barUp = true → (bar = .bar2 ∧ s.stage0Pg = false ∨ bar = .bar4 ∧ s.isFull = false) →
    Completes (.barUnmappedAccess bar off true) s [.ctr] (fun t => Counted 2 s t ∧ ∀ c, c ≠ 2 → t.ctrVal c = s.ctrVal c) ∧
    Completes (.barUnmappedAccess bar off false) s [.bus] (fun t =>
      t.bus.rd = List.replicate 4 0xFF ∧ { t.bus with rd := s.bus.rd, rdPoison := s.bus.rdPoison } = s.bus))

/-- HELLO opens or renews a session (03_command_windows.md). -/
def Obligations.HelloOpensSession : Prop :=
  ∀ (s : State) (p : Port) (tag : BitVec 32) (ps : Bytes), s.admits helloOp p tag ps = true →
    ∃ t, exec (.hello p tag ps) s = .next t ∧ t.Ended helloOp p tag .ok (t.helloReply p (ps.num 0x10 32)) s.lt 1000 ∧
      (s.renews p ps = true →
        t.sessionOf p = (s.sessionOf p).map (fun x => { x with map := ps.num 0x10 32 &&& s.devMap })) ∧
      (s.renews p ps = false → t.sessionOf p = some { id := s.freshId, map := ps.num 0x10 32 &&& s.devMap } ∧ s.freshId ≠ 0 ∧
        (p ≠ 7 → t.sess.absent = false ∧ t.sess.fanHold = none)) ∧
      (p ≠ 7 → t.sess.sideband = s.sess.sideband) ∧ (p = 7 → t.sess.host = s.sess.host)

/-- LEASE_RENEW and LEASE_RELEASE (03_command_windows.md). -/
def Obligations.LeaseCommands : Prop :=
  (∀ (s : State) (p : Port) (tag : BitVec 32) (ps : Bytes), s.admits leaseRenewOp p tag ps = true →
    ∃ t, exec (.leaseRenew p tag ps) s = .next t ∧
      s.AnsweredAs t { s with sess := { s.sess with expiry := s.lt + 1000 * s.period } } leaseRenewOp p tag .ok
        (natLE 4 (s.lt + 1000 * s.period)) 0) ∧
  (∀ (s : State) (p : Port) (tag : BitVec 32) (ps : Bytes), s.admits leaseReleaseOp p tag ps = true → s.sess.host.isSome = true →
    ∃ t, exec (.leaseRelease p tag ps) s = .next t ∧ t.Ended leaseReleaseOp p tag .ok [] s.lt 1000 ∧
      t.sess = { s.sess with host := none, fanHold := some (s.lt + 10000000) } ∧
      t.basin = { s.basin with holds := s.basin.holds.filter (fun x => x ≠ .host) } ∧
      t.chk = { s.chk with paused := s.chk.paused.filter (fun x => x ≠ .host) } ∧
      (∀ d, t.cfg.draft = some d → d.owner = 7 ∨ s.cfg.commit.isSome = true))

/-- DRAFT_OPEN, DRAFT_SET, DRAFT_CHECK and DRAFT_ABORT (04_drafts_and_settings.md). -/
def Obligations.DraftCommandsAnswer : Prop :=
  (∀ (s : State) (p : Port) (tag : BitVec 32) (ps : Bytes), s.admits draftOpenOp p tag ps = true →
    ∃ t, exec (.draftOpen p tag ps) s = .next t ∧ s.AnsweredAs t
      { s with cfg := { s.cfg with
        draft := some
          { id := s.cfg.nextDraft, owner := p, session := (match s.sessionOf p with | some x => x.id | none => 0), staged := []
            checked := false, lastTick := s.lt }
        nextDraft := s.cfg.nextDraft + 1 } } draftOpenOp p tag .ok (natLE 4 s.cfg.nextDraft) 0) ∧
  (∀ (s : State) (p : Port) (tag : BitVec 32) (ps : Bytes) (l : List (Key × Nat)) (d : Draft), s.admits draftSetOp p tag ps = true →
    State.entriesOf ps = some l → s.cfg.draft = some d →
    ∃ t, exec (.draftSet p tag ps) s = .next t ∧ s.AnsweredAs t
      { s with cfg := { s.cfg with draft := some { d with staged := State.stageAll l d.staged, checked := false } } } draftSetOp p tag .ok
      (natLE 2 l.length ++ natLE 2 (State.stageAll l d.staged).length ++ natLE 4 (State.stagedBytes (State.stageAll l d.staged))) 0) ∧
  (∀ (s : State) (p : Port) (tag : BitVec 32) (ps : Bytes), s.admits draftCheckOp p tag ps = true →
    ∃ t, exec (.draftCheck p tag ps) s = .next t ∧
      (s.draftFails = [] → s.AnsweredAs t
        { s with cfg := { s.cfg with draft := s.cfg.draft.map (fun d => { d with checked := true }) } } draftCheckOp p tag .ok (failureReply 4 []) 5000) ∧
      (s.draftFails ≠ [] → s.AnsweredAs t s draftCheckOp p tag .inconsistent (failureReply 4 s.draftFails) 5000)) ∧
  (∀ (s : State) (p : Port) (tag : BitVec 32) (ps : Bytes), s.admits draftAbortOp p tag ps = true →
    ∃ t, exec (.draftAbort p tag ps) s = .next t ∧
      s.AnsweredAs t { s with cfg := { s.cfg with draft := none } } draftAbortOp p tag .ok [] 1000)

/-- DRAFT_COMMIT, SETTINGS_SAVE, LIVE_SET and FAN_SET wait for their instant (04_drafts_and_settings.md). -/
def Obligations.CommitAndSaveWait : Prop :=
  (∀ (s : State) (p : Port) (tag : BitVec 32) (ps : Bytes), s.admits draftCommitOp p tag ps = true → s.commitFails = [] →
    State.commitMode ps ≠ 2 →
    ∃ t, exec (.draftCommit p tag ps) s = .next t ∧ s.WaitsAs t
      { s with
        cfg := { s.cfg with
          draft := s.cfg.draft.map (fun d => { d with checked := true })
          commit := some { port := p, mode := State.commitMode ps, scope := State.commitScope ps, commitId := ps.num 4 4, instant := s.commitInstant ps } }
        slots := t.slots } draftCommitOp p tag ps (s.boundOf draftCommitOp p tag ps) ∧
      (∀ i, { t.slot i with planDue := (s.slot i).planDue } = s.slot i) ∧ (s.plansOf s.stagedList = [] → t.slots = s.slots)) ∧
  (∀ (s : State) (p : Port) (tag : BitVec 32) (ps : Bytes), s.admits draftCommitOp p tag ps = true → s.commitFails ≠ [] →
    ∃ t, exec (.draftCommit p tag ps) s = .next t ∧ s.AnsweredAs t s draftCommitOp p tag .inconsistent
      (natLE 8 (s.commitInstant ps) ++ zeros 4 ++ failureReply 0 s.commitFails) (s.boundOf draftCommitOp p tag ps)) ∧
  (∀ (s : State) (p : Port) (tag : BitVec 32) (ps : Bytes), s.admits settingsSaveOp p tag ps = true → s.saveSeq ≠ 0xFFFFFFFF →
    ∃ t, exec (.settingsSave p tag ps) s = .next t ∧ s.WaitsAs t { s with
        cfg := { s.cfg with save := some (s.saveTarget, s.saveSeq, s.bankBytes s.saveSeq) }
        boot := { s.boot with flash := s.boot.flash.erase (State.bankAt s.saveTarget) 0x80000 } } settingsSaveOp p tag ps 5000000) ∧
  (∀ (s : State) (p : Port) (tag : BitVec 32) (ps : Bytes) (l : List (Key × Nat)), s.admits liveSetOp p tag ps = true →
    State.entriesOf ps = some l → ∃ t, exec (.liveSet p tag ps) s = .next t ∧ s.WaitsAs t
      { s with cfg := { s.cfg with live := s.cfg.live ++ l.map (fun c => { key := c.1, value := c.2, acc := s.lt, port := p }) } }
      liveSetOp p tag ps 2100) ∧
  (∀ (s : State) (p : Port) (tag : BitVec 32) (ps : Bytes), s.admits fanSetOp p tag ps = true →
    ∃ t, exec (.fanSet p tag ps) s = .next t ∧ s.WaitsAs t
      { s with cfg := { s.cfg with live := s.cfg.live ++ (State.fanWrites ps).map (fun c => { key := c.1, value := c.2, acc := s.lt, port := p }) } }
      fanSetOp p tag ps 2100)

/-- The recovery sources fill the boot buffer and try its image (15_boot_and_firmware.md). -/
def Obligations.RecoveryTakesImages : Prop :=
  (∀ s : State, s.recovering 2 = true → s.bus.mse = true → s.bus.perst = false → 0 < s.boot.rcvLen → s.boot.rcvLen ≤ 32768 →
    s.boot.rcvOffset + s.boot.rcvLen ≤ 1048576 →
    Completes .rcvCopy s [.boot] (fun t => t.boot = { s.boot with
      bootBuf := Mem.write 0 s.boot.bootBuf s.boot.rcvOffset (Mem.read 0 s.boot.rcvBuf 0 s.boot.rcvLen)
      bootLen := max s.boot.bootLen (s.boot.rcvOffset + s.boot.rcvLen), rcv := .copied })) ∧
  (∀ (s : State) (len off : Nat) (data : Bytes) (crc : Byte), s.recovering 1 = true → State.rcvWriteOk 1 len off data crc = true →
    off + len ≤ 1048576 →
    Completes (.rcvI3cCopy len off data crc) s [.boot] (fun t => t.boot = { s.boot with
      bootBuf := Mem.write 0 s.boot.bootBuf off data, bootLen := max s.boot.bootLen (off + len), rcv := .copied })) ∧
  (∀ (s : State) (i : Instr), (i = .rcvCheckAndBoot ∧ s.recovering 2 = true ∧ s.bus.mse = true ∧ s.bus.perst = false) ∨
      (∃ len off data crc, i = .rcvI3cCheckAndBoot len off data crc ∧ s.recovering 1 = true ∧ State.rcvWriteOk 2 len off data crc = true) →
    Completes i s [.dev, .boot, .rst] (fun t =>
      let h := ImgHeader.parse (Mem.read 0 s.boot.bootBuf 0 1024)
      (h.formOk 1 = false → t = { s with boot := { s.boot with rcv := .refusedHeader } }) ∧
      (h.formOk 1 = true →
        (s.keeperBad' (Mem.read 0 s.boot.bootBuf 0 (1024 + h.length)) ≠ none → t = { s with boot := { s.boot with rcv := .refusedCheck } }) ∧
        (s.keeperBad' (Mem.read 0 s.boot.bootBuf 0 (1024 + h.length)) = none →
          t.dev = { s.dev with phase := .imageReady } ∧ t.boot.bank = none ∧ t.boot.recovery = true ∧ t.boot.romLock = true ∧
            t.boot.k0MapLock = true ∧ t.boot.bootBuf = [] ∧ t.boot.rcvBuf = [] ∧ t.boot.rcv = .waiting)))) ∧
  (∀ s : State, s.recovering 1 = true →
    Completes .rcvI3cStateRead s [.out] (fun t => t.out = s.out ++ [.i3cData [byte (State.RcvState.num s.boot.rcv), 0, 0, 0]]))

/-- Release and halt bits of the cores, and their watchdogs' service and timeout (15_boot_and_firmware.md). -/
def Obligations.CoresReleaseAndHalt : Prop :=
  (∀ s : State, s.keeperUp = true → s.coreRuns 1 = false → s.releasable 1 = true →
    Completes .relK1 s [.chk, .integ, .boot, .ctr] (fun t =>
      t.core 1 = { s.core 1 with run := true, wdMs := 256, wdSet := false, wdArmed := false, wdTick := s.lt } ∧ ∀ k, k ≠ 1 → t.core k = s.core k)) ∧
  (∀ s : State, s.keeperUp = true → s.coreRuns 1 = false → s.releasable 1 = false →
    Completes .relK1 s [.integ, .ctr] (fun t => Counted 0x0806 s t)) ∧
  (∀ (s : State) (m : BitVec 6), s.keeperUp = true → m ≠ 0 →
    Completes (.relU m) s [.chk, .integ, .boot, .ctr] (fun t =>
      (∀ k, t.core k = if 2 ≤ k.1 ∧ m.getLsbD (k.1 - 2) = true ∧ s.coreRuns k = false ∧ s.releasable k = true
        then { s.core k with run := true, wdMs := 256, wdSet := false, wdArmed := false, wdTick := s.lt } else s.core k))) ∧
  (∀ (s : State) (m : BitVec 6), s.keeperUp = true → (∃ k : Fin 8, 2 ≤ k.1 ∧ m.getLsbD (k.1 - 2) = false ∧ s.coreRuns k = true) →
    Completes (.haltU m) s [.boot] (fun t =>
      { t.boot with cores := s.boot.cores } = s.boot ∧
        ∀ k, t.core k = if 2 ≤ k.1 ∧ m.getLsbD (k.1 - 2) = true then { s.core k with run := false } else s.core k)) ∧
  (∀ (s : State) (k : Fin 8), s.coreRuns k = true →
    Completes (.watchdogService k [0xA5, 0x5A]) s [.boot] (fun t => t.core k = { s.core k with wdArmed := false, wdTick := s.lt } ∧
      ∀ j, j ≠ k → t.core j = s.core j) ∧
    ∀ v : Byte, v ≠ 0x5A → Completes (.watchdogService k [v]) s [.boot] (fun t => t.core k = { s.core k with wdArmed := decide (v = 0xA5) } ∧
      ∀ j, j ≠ k → t.core j = s.core j)) ∧
  (∀ (s : State) (k : Fin 8) (ms : Nat), s.coreRuns k = true → (s.core k).wdSet = false → 1 ≤ ms → ms ≤ 1000 →
    Completes (.watchdogTimeoutSet k ms) s [.boot] (fun t => t.core k = { s.core k with wdMs := ms, wdSet := true } ∧
      ∀ j, j ≠ k → t.core j = s.core j)) ∧
  (∀ (s : State) (k : Fin 8) (ms : Nat), s.coreRuns k = true → (s.core k).wdSet = true →
    Completes (.watchdogTimeoutSet k ms) s [.ctr] (fun t => Counted 0x0828 s t))

/-- The sideband target's addresses, MCTP control and its command slot's messages (03_command_windows.md). -/
def Obligations.SidebandEndpoint : Prop :=
  (∀ (s : State) (a : BitVec 7), s.keeperServed = true → s.sess.i3cAddr = none →
    Completes (.i3cEntdaa a) s [.sess] (fun t => t.sess = { s.sess with i3cAddr := some a }) ∧
    Completes (.i3cSetdasa s.dev.opt.static a) s [.sess] (fun t => t.sess = { s.sess with i3cAddr := some a })) ∧
  (∀ s : State, s.sidebandUp = true →
    (∀ (op eid : Byte), op = 0 ∨ op = 1 → eid ≠ 0 → eid ≠ 0xFF →
      Completes (.mctpControl 1 [op, eid]) s [.sess, .out] (fun t =>
        t.sess = { s.sess with eid } ∧ t.out = s.out ++ [.mctp 0 [0, 1, 0, 0, eid, 0]])) ∧
    Completes (.mctpControl 2 []) s [.out] (fun t => t.out = s.out ++ [.mctp 0 [0, 2, 0, s.sess.eid, 0, 0]]) ∧
    Completes (.mctpControl 5 []) s [.out] (fun t => t.out = s.out ++ [.mctp 0 [0, 5, 0, 3, 0x01, 0x05, 0x7F]]) ∧
    (∀ (cmd : Byte) (d : Bytes), cmd.toNat ∉ [1, 2, 4, 5] →
      Completes (.mctpControl cmd d) s [.out] (fun t => t.out = s.out ++ [.mctp 0 [0, cmd, 5]])) ∧
    Completes .sidebandStatusQuery s [.out] (fun t =>
      t.out = s.out ++ [.mctp 0x7F (Mem.read 0xFF s.boot.flash 0x7500014 4 ++ State.sbBody 0x81 (s.win 7))])) ∧
  (∀ s : State, s.sidebandUp = true → (s.win 7).notice = true →
    Completes .sidebandCompletionNotice s [.wins, .out] (fun t =>
      t.out = s.out ++ [.mctp 0x7F (Mem.read 0xFF s.boot.flash 0x7500014 4 ++ State.sbBody 0x82 (s.win 7))] ∧
        t.win 7 = { s.win 7 with notice := false } ∧ ∀ q, q ≠ 7 → t.win q = s.win q)) ∧
  (∀ (s : State) (k : Byte) (d : Bytes), Completes (.mctpOtherMessage k d) s [] (fun t => t = s))

/-- PLDM discovery and the numeric sensors (03_command_windows.md). -/
def Obligations.PldmAnswers : Prop :=
  ∀ s : State, s.sidebandUp = true →
    Completes .getTid s [.out] (fun t => t.out = s.out ++ [.mctp 1 [0, 0, 2, 0, 0]]) ∧
    (∀ k : Byte, k = 0 ∨ k = 2 → Completes (.getPldmVersion k) s [.out] (fun t =>
      t.out = s.out ++ [.mctp 1 ([0, 0, 3, 0] ++ zeros 4 ++ [5] ++ Bytes.fit (Config.pldmVersion k) 4 ++ natLE 4 (crc32 (Bytes.fit (Config.pldmVersion k) 4)))])) ∧
    (∀ k : Byte, k ≠ 0 → k ≠ 2 → Completes (.getPldmVersion k) s [.out] (fun t => t.out = s.out ++ [.mctp 1 [0, 0, 3, 0x83]]) ∧
      Completes (.getPldmCommands k) s [.out] (fun t => t.out = s.out ++ [.mctp 1 [0, 0, 5, 0x83]])) ∧
    Completes .getPldmTypes s [.out] (fun t => t.out = s.out ++ [.mctp 1 ([0, 0, 4, 0, 5] ++ zeros 7)]) ∧
    Completes (.getPldmCommands 0) s [.out] (fun t => t.out = s.out ++ [.mctp 1 ([0, 0, 5, 0, 0x3C] ++ zeros 31)]) ∧
    Completes (.getPldmCommands 2) s [.out] (fun t => t.out = s.out ++ [.mctp 1 ([0, 0, 5, 0, 0, 0, 2] ++ zeros 7 ++ [3] ++ zeros 21)]) ∧
    Completes .getPdrRepositoryInfo s [.out] (fun t => t.out = s.out ++ [.mctp 1 ([0, 2, 0x50, 0, 0] ++ Bytes.fit Config.pdrTimes 26 ++ natLE 4 58
      ++ natLE 4 6090 ++ natLE 4 105 ++ [Config.pdrTimeout])]) ∧
    (∀ h : BitVec 32, 1 ≤ h.toNat → h.toNat ≤ 58 → Completes (.getPdr h) s [.out] (fun t => t.out = s.out ++ [.mctp 1 ([0, 2, 0x51, 0]
      ++ natLE 4 (if h.toNat = 58 then 0 else h.toNat + 1) ++ zeros 4 ++ [5] ++ natLE 2 (s.pdr h.toNat).length ++ s.pdr h.toNat)])) ∧
    (∀ h : BitVec 32, 58 < h.toNat → Completes (.getPdr h) s [.out] (fun t => t.out = s.out ++ [.mctp 1 [0, 2, 0x51, 0x82]])) ∧
    (∀ i : BitVec 16, 1 ≤ i.toNat → i.toNat ≤ 58 → Completes (.getSensorReading i) s [.out] (fun t => t.out = s.out ++ [.mctp 1 ([0, 2, 0x11, 0, 5,
      State.operational (s.sensor i.toNat).2, 0] ++ Bytes.fit (Config.pldmStates i.toNat) 3 ++ intLE 4 (State.clampInt 32 (s.sensor i.toNat).1))])) ∧
    (∀ i : BitVec 16, i.toNat = 0 ∨ 58 < i.toNat → Completes (.getSensorReading i) s [.out] (fun t => t.out = s.out ++ [.mctp 1 [0, 2, 0x11, 0x80]]))

/-- SPDM version, capabilities, algorithms, certificates, challenge and measurements (03_command_windows.md). -/
def Obligations.SpdmAnswers : Prop :=
  (∀ s : State, s.sidebandUp = true →
    Completes .getVersion s [.sess, .out] (fun t => t.out = s.out ++ [.mctp 5 [0x10, 0x04, 0, 0, 0, 1, 0x00, 0x12]] ∧
      t.sess.spdmVersion = true ∧ t.sess.spdmAlgs = false) ∧
    (∀ req, Completes (.keyExchange req) s [.out] (fun t => t.out = s.out ++ [.mctp 5 [0x12, 0x7F, 7, 0xE4]]) ∧
      Completes (.pskExchange req) s [.out] (fun t => t.out = s.out ++ [.mctp 5 [0x12, 0x7F, 7, 0xE6]]))) ∧
  (∀ (s : State) (req : Bytes), s.sidebandUp = true → s.sess.spdmVersion = true →
    Completes (.getCapabilities req) s [.sess, .out] (fun t => t.out = s.out ++
      [.mctp 5 ([0x12, 0x61, 0, 0, 0, Config.spdmExponent, 0, 0, 0x16, 0, 0, 0] ++ natLE 4 4096 ++ natLE 4 4096)] ∧ t.sess.spdmVersion = true) ∧
    Completes (.negotiateAlgorithms req) s [.sess, .out] (fun t => (∃ tail, t.out = s.out ++ [.mctp 5 ([0x12, 0x63, 0, 0] ++ tail)]) ∧
      t.sess.spdmAlgs = true)) ∧
  (∀ (s : State) (i : Instr), s.sidebandUp = true → s.sess.spdmVersion = false →
    (∃ req, i = .getCapabilities req) ∨ (∃ req, i = .negotiateAlgorithms req) →
    Completes i s [.out] (fun t => t.out = s.out ++ [.mctp 5 [0x12, 0x7F, 4, 0]])) ∧
  (∀ (s : State) (i : Instr), s.sidebandUp = true → s.sess.spdmAlgs = false →
    (i = .getDigests ∨ (∃ a b c, i = .getCertificate a b c) ∨ (∃ a b c, i = .challenge a b c) ∨ ∃ a b c, i = .getMeasurements a b c) →
    Completes i s [.out] (fun t => t.out = s.out ++ [.mctp 5 [0x12, 0x7F, 4, 0]])) ∧
  (∀ s : State, s.sidebandUp = true → s.sess.spdmAlgs = true →
    Completes .getDigests s [.sess, .out] (fun t => t.out = s.out ++ [.mctp 5 ([0x12, 0x01, 0, 1] ++ sha256 s.certChain)]) ∧
    (∀ (off len : BitVec 16), off.toNat < s.certChain.length →
      Completes (.getCertificate 0 off len) s [.sess, .out] (fun t => ∃ portion rest, t.out = s.out ++
        [.mctp 5 ([0x12, 0x02, 0, 0] ++ natLE 2 portion.length ++ natLE 2 rest ++ portion)] ∧
        portion = s.certChain.part off.toNat (min len.toNat 4088) ∧ rest = s.certChain.length - off.toNat - portion.length)) ∧
    (∀ nonce, Completes (.challenge 0 0 nonce) s [.sess, .out, .free] (fun t =>
      let head := [0x12, 0x03, 0, 1] ++ sha256 s.certChain ++ Bytes.fit (Config.spdmNonce s.free) 32 ++ zeros 2
      t.out = s.out ++ [.mctp 5 (head ++ Bytes.fit (Config.signature (s.free + 1) (State.spdmDigest "responder-challenge_auth signing"
        (s.sess.spdmA ++ s.sess.spdmB ++ [0x12, 0x83, 0, 0] ++ Bytes.fit nonce 32 ++ head))) 384)])) ∧
    (∀ nonce, Completes (.getMeasurements 1 0 nonce) s [.sess, .out, .free] (fun t =>
      let head := [0x12, 0x60, 6, 0, 0, 0, 0, 0] ++ Bytes.fit (Config.spdmNonce s.free) 32 ++ zeros 2
      t.out = s.out ++ [.mctp 5 (head ++ Bytes.fit (Config.signature (s.free + 1) (State.spdmDigest "responder-measurements signing"
        (s.sess.spdmA ++ (s.sess.spdmL ++ [0x12, 0xE0, 1, 0] ++ (Bytes.fit nonce 32 ++ [0]) ++ head)))) 384)])) ∧
    (∀ (i : Fin 6) nonce, Completes (.getMeasurements 0 (byte (i.1 + 1)) nonce) s [.sess, .out, .free] (fun t =>
      t.out = s.out ++ [.mctp 5 ([0x12, 0x60, 0, 0, 1] ++ natLE 3 (s.measBlock i).length ++ s.measBlock i
        ++ Bytes.fit (Config.spdmNonce s.free) 32 ++ zeros 2)])))

/-- The lease expiry, the fan hold's end, and the PCIe resets end the host session (03_command_windows.md). -/
def Obligations.SessionEndEvents : Prop :=
  (∀ s : State, s.sess.host.isSome = true → s.sess.expiry ≤ s.lt →
    Completes .leaseExpiry s [.bus, .wins, .sess, .cfg, .cool, .chk, .basin, .integ, .upd, .ctr, .out] (fun t =>
      t.sess = { s.sess with host := none, absent := true, fanHold := some (s.lt + 10000000) } ∧
      t.basin = { s.basin with holds := s.basin.holds.filter (fun x => x ≠ .host) } ∧
      t.chk = { s.chk with paused := s.chk.paused.filter (fun x => x ≠ .host) } ∧
      (∀ d, t.cfg.draft = some d → d.owner = 7 ∨ s.cfg.commit.isSome = true) ∧ Counted 0x0004 s t ∧
      ∀ q, q = 7 ∨ State.endsWithSession (s.win q) = false → t.win q = s.win q)) ∧
  (∀ s : State, s.keeperServed = true → s.bus.perst = false →
    Completes .functionLevelReset s [.bus, .wins, .sess, .cfg, .cool, .chk, .basin, .integ, .upd, .ctr, .out] (fun t =>
      t.bus.mse = false ∧ t.bus.bme = false ∧ t.bus.msixEn = false ∧ t.win 7 = s.win 7 ∧
      (∀ q : Port, q ≠ 7 → (s.win q).state ≠ .accepted → t.win q = State.resetWin q) ∧
      t.sess = (if s.sess.host.isSome then { s.sess with host := none, absent := true, fanHold := some (s.lt + 10000000) } else s.sess) ∧
      (s.sess.host.isSome = true → Counted 0x0005 s t))) ∧
  (∀ s : State, s.bus.perst = false →
    Completes .perstAssert s [.bus, .wins, .sess, .cfg, .cool, .chk, .basin, .integ, .upd, .ctr, .out, .free] (fun t =>
      t.bus.perst = true ∧ t.bus.link = false ∧ t.bus.mse = false ∧ t.bus.bme = false ∧ t.bus.msixEn = false ∧
      t.sess = (if s.sess.host.isSome then { s.sess with host := none, absent := true, fanHold := some (s.lt + 10000000) } else s.sess))) ∧
  (∀ s : State, s.bus.link = true →
    Completes .pcieLinkLoss s [.bus, .wins, .sess, .cfg, .cool, .chk, .basin, .integ, .upd, .ctr, .out, .free] (fun t =>
      t.bus.link = false ∧ t.bus.perst = s.bus.perst ∧ t.bus.mse = false ∧ t.bus.bme = false ∧ t.bus.msixEn = false ∧
      t.sess = (if s.sess.host.isSome then { s.sess with host := none, absent := true, fanHold := some (s.lt + 10000000) } else s.sess))) ∧
  (∀ (s : State) (k : Nat), s.sess.fanHold = some k → k ≤ s.lt →
    Completes .fanHoldEnd s [.sess, .cool] (fun t => t.sess = { s.sess with fanHold := none } ∧
      ∀ z : Fin 4, t.cool.zones.get z = { s.cool.zones.get z with
        takeover := (s.cool.zones.get z).takeover || (s.fld 0x70 0 2).testBit z.1 })) ∧
  (∀ (s : State) (d : Draft), s.cfg.draft = some d → d.owner = 7 → s.commitPending = false → d.lastTick + 60000000 ≤ s.lt →
    Completes .sidebandDraftIdle s [.cfg, .ctr] (fun t => t.cfg = { s.cfg with draft := none } ∧ Counted 0x0864 s t))

/-- SETTINGS_SAVE_COMPLETE ends the command that waits (04_drafts_and_settings.md). -/
def Obligations.SettingsSaveCompletes : Prop :=
  ∀ (s : State) (n seq : Nat) (bs : Bytes) (p : Port), s.cfg.save = some (n, seq, bs) → s.acceptedOn 0x0107 = [p] → (s.win p).orphan = false →
    Completes (.settingsSaveComplete true) s [.bus, .wins, .cfg, .boot, .out] (fun t =>
      t.cfg = { s.cfg with save := none } ∧ t.boot = { s.boot with flash := Mem.write 0xFF s.boot.flash (State.bankAt n) bs } ∧
      Finished s t p .ok ([byte n, 0, 0, 0] ++ natLE 4 seq)) ∧
    Completes (.settingsSaveComplete false) s [.bus, .wins, .cfg, .integ, .ctr, .out] (fun t =>
      t.cfg = { s.cfg with save := none } ∧ Counted 0x0010 s t ∧ Finished s t p .failed [])

/-- BAR 2 reads and writes of the Basin (12_basin_memory.md, 03_command_windows.md). -/
def Obligations.BasinAccesses : Prop :=
  (∀ (s : State) (off len : Nat), s.barUp = true → s.stage0Pg = true → s.recovering 2 = false → s.basin.awake = .awake → 0 < len →
    (∀ l ∈ State.linesOf off len, (s.placeOf l).served = true ∧ l ∉ s.basin.poison) →
    Completes (.bar2Read off len []) s [.dev, .bus, .basin] (fun t =>
      t.bus = { s.bus with rd := Mem.read 0 s.basin.mem off len, rdPoison := false } ∧ t.basin.mem = s.basin.mem ∧ t.basin.poison = s.basin.poison)) ∧
  (∀ (s : State) (off : Nat) (data : Bytes), s.barUp = true → s.stage0Pg = true → s.recovering 2 = false → s.basin.awake = .awake →
    data ≠ [] → off % 64 + data.length ≤ 64 → s.placeOf (off / 64 * 64) = .store → s.hitsSeal off data.length = false →
    (data.length = 64 → Completes (.bar2Write off data []) s [.dev, .basin] (fun t => t.basin.mem = Mem.write 0 s.basin.mem off data ∧
      t.basin.poison = s.basin.poison.filter (fun l => l ≠ off / 64 * 64))) ∧
    (data.length ≠ 64 → off / 64 * 64 ∉ s.basin.poison → Completes (.bar2Write off data []) s [.dev, .basin] (fun t =>
      t.basin.mem = Mem.write 0 s.basin.mem off data ∧ t.basin.poison = s.basin.poison)) ∧
    (data.length ≠ 64 → off / 64 * 64 ∈ s.basin.poison → Completes (.bar2Write off data []) s [.dev, .basin, .ctr] (fun t =>
      t.basin.mem = s.basin.mem ∧ t.basin.poison = s.basin.poison ∧ Counted 0x0706 s t))) ∧
  (∀ (s : State) (off : Nat) (data : Bytes), s.barUp = true → s.stage0Pg = true → s.recovering 2 = false → s.basin.awake = .awake →
    data ≠ [] → s.hitsSeal off data.length = true →
    Completes (.bar2Write off data []) s [.dev, .basin, .ctr] (fun t => t.basin.mem = s.basin.mem ∧ Counted 0x070D s t)) ∧
  (∀ (s : State) (off len : Nat) (data : Bytes) (errs : List LineErr), s.barUp = true → s.stage0Pg = false → data ≠ [] →
    Completes (.bar2Write off data errs) s [.ctr] (fun t => Counted 0x0002 s t) ∧
    Completes (.bar2Read off len errs) s [.bus] (fun t => t.bus = { s.bus with rd := List.replicate len 0xFF, rdPoison := false }))

/-- BAR 4 writes to record areas and slot notebooks (11_check_engine.md, 14_accelerator_slots.md). -/
def Obligations.NotebookAndAreaWrites : Prop :=
  (∀ (s : State) (a : Fin 64) (off : Nat) (data : Bytes), s.barUp = true → s.isFull = true → data ≠ [] → 0x100 ≤ off → off + data.length ≤ 0x3E0000 →
    ((s.chk.areas.get a).st = .free ∨ (s.chk.areas.get a).st = .done →
      Completes (.bar4RecordWrite a off data) s [.chk] (fun t =>
        t.chk = { s.chk with bar4 := Mem.write 0 s.chk.bar4 (State.areaBase a.1 + off) data })) ∧
    ((s.chk.areas.get a).st = .sealed ∨ (s.chk.areas.get a).st = .checking →
      Completes (.bar4RecordWrite a off data) s [.ctr] (fun t => Counted (0x0640 + a.1 / 8) s t))) ∧
  (∀ (s : State) (a : Fin 64) (data : Bytes), s.barUp = true → s.isFull = true → data.length = 8 → leNat (data.take 2) = 0x5EA1 →
    (s.chk.areas.get a).st = .free ∨ (s.chk.areas.get a).st = .done →
    Completes (.bar4SealWrite a data) s [.chk] (fun t =>
      t.chk.areas.get a = { st := .sealed, sealTick := s.ct, mapChanged := false, res := none } ∧
      ∀ b, b ≠ a → t.chk.areas.get b = s.chk.areas.get b)) ∧
  (∀ (s : State) (i : Fin 8), s.barUp = true → s.isFull = true →
    Completes (.notebookOpen i) s [.chk, .slots, .integ, .ctr] (fun t =>
      t.chk = { s.chk with bar4 := Mem.write 0 s.chk.bar4 (State.nbAddr i 0 8) (zeros 4) } ∧
      t.slot i = { s.slot i with nbValid := false, streak := 0 } ∧ ∀ j, j ≠ i → t.slot j = s.slot j)) ∧
  (∀ (s : State) (i : Fin 8) (gen : BitVec 32), s.barUp = true → s.isFull = true → s.nbGen i = 0 → gen ≠ 0 →
    Completes (.notebookGenWrite i gen) s [.chk, .slots, .ctr] (fun t =>
      t.chk = { s.chk with bar4 := Mem.write 0 s.chk.bar4 (State.nbAddr i 0 8) (natLE 4 gen.toNat) } ∧
      t.slot i = { s.slot i with nbValid := t.nbCheck i } ∧ (t.nbCheck i = true → t.ctr = s.ctr) ∧
      (t.nbCheck i = false → Counted (0x07A8 + i.1) s t))) ∧
  (∀ (s : State) (i page : Fin 8) (off : Nat) (data : Bytes), s.barUp = true → s.isFull = true → data ≠ [] → off + data.length ≤ 131072 →
    page.1 < 6 → page.1 ≠ 0 →
    (s.nbGen i = 0 → Completes (.notebookWrite i page off data) s [.chk] (fun t =>
      t.chk = { s.chk with bar4 := Mem.write 0 s.chk.bar4 (State.nbAddr i page.1 off) data })) ∧
    (s.nbGen i ≠ 0 → Completes (.notebookWrite i page off data) s [.ctr] (fun t => Counted (0x07A8 + i.1) s t)))

/-- Power-on reset, brown-out, the option block, the reference, TMC_RST_N and the protections (17_reset_and_retention.md,
02_states_and_clocks.md). -/
def Obligations.PowerUpAndOptions : Prop :=
  (∀ (s : State) (vbat : Bool), Completes (.powerOnReset vbat) s Part.all (fun t =>
    t.dev = State.reset.dev ∧ t.sess = State.reset.sess ∧ t.cfg = State.reset.cfg ∧ t.slots = State.reset.slots ∧ t.basin = State.reset.basin ∧
    t.chk = State.reset.chk ∧ t.boot = { State.reset.boot with flash := s.boot.flash, keys := s.boot.keys } ∧ t.rst.cause = 1 ∧ t.rst.last = 0 ∧
    t.ctrVal 0x0830 = 1)) ∧
  (∀ (s : State) (vbat : Bool), s.dev.phase ≠ .unpowered →
    Completes (.brownOut false vbat) s Part.all (fun t => t.dev = State.reset.dev ∧ t.cfg = State.reset.cfg ∧
      t.boot = { State.reset.boot with flash := s.boot.flash, keys := s.boot.keys } ∧ t.rst.cause = 2 ∧ t.rst.last = 1 ∧ t.ctrVal 0x0831 = 1) ∧
    Completes (.brownOut true vbat) s Part.all (fun t => t.dev.st = .off ∧ t.dev.phase = .unpowered ∧ t.boot.flash = s.boot.flash ∧
      t.boot.keys = s.boot.keys ∧ t.rst.cause = 0)) ∧
  (∀ (s : State) (o : OptionBlock) (src clk : BitVec 2), s.dev.phase = .optionLoading →
    Completes (.optionLoadingDone true o src clk) s [.dev, .ctr] (fun t =>
      t.dev = { s.dev with st := .calm, phase := .optionLoaded, opt := o, bootSrc := src, clkMode := clk } ∧ (clk = 3 → Counted 0x0809 s t)) ∧
    Completes (.optionLoadingDone false o src clk) s [.dev, .cool] (fun t => t.dev = { s.dev with phase := .optionFault } ∧
      ∀ n, t.cool.outs.get n = { s.cool.outs.get n with duty := 100000 })) ∧
  (∀ s : State, s.dev.phase = .optionFault → Completes .optionFaultRetry s [.dev] (fun t => t.dev = { s.dev with phase := .optionLoading })) ∧
  (∀ (s : State) (ok : Bool), s.dev.phase = .optionLoaded → s.pll .keeper = .stopped →
    Completes (.referenceCheck ok) s [.dev] (fun t => t.dev.phase = .refChecked ∧ t.dev.clkDegraded = !ok ∧ t.pll .keeper = .starting)) ∧
  (∀ s : State, s.dev.rstLow = true → s.optionsIn = true → s.rst.stretch = none → s.rst.rstSince + 1000 ≤ s.lt →
    Completes (.tmcRstNRelease false) s [.dev] (fun t => t.dev = { s.dev with rstLow := false })) ∧
  (∀ s : State, s.optionsIn = true → s.dev.armed = false →
    Completes .protectionsArmed s [.dev, .cool] (fun t => t.dev = { s.dev with armed := true } ∧
      ∀ o, (t.output o).drive = .spinUp ∧ (t.output o).duty = 100000))

/-- What makes a system reset, and what it leaves (17_reset_and_retention.md). -/
def Obligations.SystemResetCauses : Prop :=
  ∀ s : State, s.resettable = true →
    (∀ w, 10000 ≤ w → s.dev.rstLow = false → Completes (.pinReset w) s Part.all (ResetTaken 2 s)) ∧
    (∀ w, w < 5000 → Completes (.pinReset w) s [] (fun _ => True)) ∧
    (s.dev.rstLow = true → s.rst.rstSince + 1000 ≤ s.lt →
      Completes (.tmcRstNRelease true) s Part.all (ResetTaken 2 { s with dev := { s.dev with rstLow := false } })) ∧
    (∀ (k : Fin 2) (ok : Bool), s.wdDue (k.castLE (by decide)) = true → s.rst.window.isSome = true →
      Completes (.keeperWatchdogFire k ok) s Part.all (ResetTaken 3 (s.wdFire (k.castLE (by decide))))) ∧
    (∀ ok, s.coreRuns 0 = true → Completes (.softwareResetRequest 0 .system ok) s Part.all (ResetTaken 4 s)) ∧
    (∀ r, s.rst.reqTick = some r → r ≤ s.lt → s.keeperUp = true → Completes .resetRequestDue s Part.all (ResetTaken 4 s)) ∧
    (s.dev.phase = .romFail → Completes .romFailRetry s Part.all (ResetTaken 4 s)) ∧
    (∀ ok, Completes (.debugResetRequest .system ok) s Part.all (ResetTaken 5 s)) ∧
    (s.dev.clkDegraded = false → Completes .clockFailure s Part.all (ResetTaken 6 s)) ∧
    (∀ k : Fin 2, s.coreRuns (k.castLE (by decide)) = true → Completes (.keeperLockup k) s Part.all (ResetTaken 7 s))

/-- Watchdog fires, lockups, protection faults and core resets (17_reset_and_retention.md, 15_boot_and_firmware.md). -/
def Obligations.CoreResets : Prop :=
  (∀ (s : State) (k : Fin 2), s.wdDue (k.castLE (by decide)) = true → s.rst.window = none → s.rst.stretch = none →
    Completes (.keeperWatchdogFire k true) s [.cool, .integ, .boot, .rst, .ctr] (fun t =>
      t.rst.window = some (s.lt + 10000000) ∧ t.rst.cause = setBit s.rst.cause 8 true ∧ Counted (0x0818 + k.1) s t ∧
      ∀ j, t.core j = if j = k.castLE (by decide) then State.wdFresh s.lt ((s.wdFire (k.castLE (by decide))).core j) else s.core j)) ∧
  (∀ (s : State) (u : Fin 6) (k : Fin 8), k.1 = u.1 + 2 → s.wdDue k = true → s.rst.stretch = none →
    (((s.wdFire k).core k).wdRecent.length < 3 →
      Completes (.upperWatchdogFire u true) s [.cool, .integ, .boot, .rst, .ctr] (fun t =>
        t.rst.cause = setBit s.rst.cause (8 + k.1) true ∧ Counted (0x0818 + k.1) s t ∧
        ∀ j, t.core j = if j = k then State.wdFresh s.lt ((s.wdFire k).core j) else s.core j)) ∧
    (3 ≤ ((s.wdFire k).core k).wdRecent.length →
      Completes (.upperWatchdogFire u true) s [.cool, .integ, .boot, .rst, .ctr] (fun t =>
        t.rst.cause = setBit s.rst.cause (8 + k.1) true ∧ Counted (0x0820 + k.1) s t ∧
        (t.core k).run = false ∧ (t.core k).stopped = true ∧ ∀ j, j ≠ k → t.core j = s.core j))) ∧
  (∀ (s : State) (i : Instr) (k : Fin 8) (pc addr : Nat), s.rst.stretch = none → (s.core k).run = true →
    (i = .upperLockup (Fin.ofNat 6 (k.1 - 2)) true ∧ 2 ≤ k.1 ∧ pc = 0 ∧ addr = 0) ∨
    (∃ q, i = .softwareResetRequest q (.core k) true ∧ s.coreRuns q = true ∧ State.mayRequest q (.core k) = true ∧ pc = 0 ∧ addr = 0) ∨
    (i = .debugResetRequest (.core k) true ∧ pc = 0 ∧ addr = 0) ∨
    (∃ a b : BitVec 32, i = .protectionFault k a b true ∧ pc = b.toNat ∧ addr = a.toNat) →
    Completes i s [.cool, .integ, .boot, .rst, .ctr] (fun t =>
      t.rst = { s.rst with
        cause := setBit s.rst.cause (State.coreBit k false) true
        records := (s.rst.records ++ [(k.1, State.coreBit k false, s.lt, pc, addr, (s.core k).wdMs)]).drop
          ((s.rst.records ++ [(k.1, State.coreBit k false, s.lt, pc, addr, (s.core k).wdMs)]).length - 16) } ∧
      (∀ j, t.core j = if j = k then State.wdFresh s.lt (s.core k) else s.core j) ∧
      ((∃ a b, i = .protectionFault k a b true) → Counted (0x0810 + k.1) s t))) ∧
  (∀ (s : State) (w : Nat), s.rst.window = some w → w ≤ s.nowTick + 200000 →
    Completes .escalationWindowClose s [.rst] (fun t => t.rst = { s.rst with window := none }))

/-- The ROM, the keeper image, and CONFIRM (15_boot_and_firmware.md, 02_states_and_clocks.md). -/
def Obligations.RomAndKeeperStart : Prop :=
  (∀ s : State, s.dev.phase = .refChecked → s.pll .keeper = .locked →
    (s.dev.bootSrc = 1 ∨ s.dev.bootSrc = 2 → Completes .romEntry s [.dev, .boot, .rst, .ctr] (fun t => t.dev = { s.dev with phase := .recovery } ∧
      t.boot.rcv = .waiting ∧ t.boot.bank = none ∧ t.coreRuns 0 = true ∧ t.rst.resetCount = s.rst.resetCount + 1)) ∧
    (s.dev.bootSrc = 0 ∨ s.dev.bootSrc = 3 → s.stagingVerified = false →
      (∀ n rest, s.candidates = n :: rest → s.confirmed n = true → s.keeperBad' (s.keeperImage n) = none →
        Completes .romEntry s [.dev, .boot, .rst, .ctr] (fun t => t.dev = { s.dev with phase := .imageReady } ∧ t.boot.bank = some n ∧
          t.boot.keeperVer = (ImgHeader.parse ((s.keeperImage n).take 1024)).version ∧ t.coreRuns 0 = true ∧
          t.rst.resetCount = s.rst.resetCount + 1)) ∧
      (s.candidates = [] → Completes .romEntry s [.dev, .cool, .boot, .rst, .ctr] (fun t => t.dev = { s.dev with phase := .romFail } ∧
        t.cool.fullHold = true ∧ t.boot.failRec.isSome = true ∧ t.coreRuns 0 = true)))) ∧
  (∀ (s : State) (be pp : Nat), s.dev.phase = .imageReady →
    Completes (.keeperImageStart be pp) s [.dev, .cfg, .weir, .cool, .chk, .integ, .boot, .upd, .rst, .ctr] (fun t =>
      t.dev = { s.dev with st := .keeper, phase := .running } ∧ t.cfg.loaded = true ∧ t.cool.applied = true ∧ t.cool.fullHold = false ∧
      t.boot.tBe = be ∧ t.boot.tPp = pp ∧ t.boot.confirmFrom = s.lt ∧
      ((s.core 1).sectionsOk = true → (s.core 1).stopped = false → t.coreRuns 1 = true))) ∧
  (∀ (s : State) (n : Nat), s.boot.bank = some n → s.mayConfirm = true →
    Completes .bankConfirm s [.boot, .ctr] (fun t =>
      t.boot = { s.boot with flash := Mem.write 0xFF s.boot.flash (bankBase n + 0x104) (zeros 4), trial := 0 } ∧ t.confirmed n = true))

/-- PLLs, the reference, Calm and its wake events (02_states_and_clocks.md, 17_reset_and_retention.md). -/
def Obligations.ClocksAndCalm : Prop :=
  (∀ (s : State) (p : Pll), s.pll p = .starting ∨ s.pll p = .restarted →
    Completes (.pllLocked p) s [.dev, .chk] (fun t => t.pll p = .locked ∧ ∀ q, q ≠ p → t.pll q = s.pll q)) ∧
  (∀ (s : State) (p : Pll), s.pll p = .starting →
    Completes (.pllLockTimeout p) s [.dev, .ctr] (fun t => t.pll p = .restarted ∧ (∀ q, q ≠ p → t.pll q = s.pll q) ∧ Counted 0x080A s t)) ∧
  (∀ (s : State) (p : Pll), s.pll p = .restarted →
    (p = .cadence ∨ p = .check ∨ p = .basin → Completes (.pllLockTimeout p) s Part.all (fun t => t.pll p = .failed)) ∧
    (p = .keeper ∨ p = .upper → s.resettable = true → s.dev.clkDegraded = false →
      Completes (.pllLockTimeout p) s Part.all (fun t => ResetTaken 6 ((s.count 0x080A).setPll p .failed) t))) ∧
  (∀ s : State, Completes .clockRecovered s [.dev] (fun t => t.dev = { s.dev with clkDegraded := false })) ∧
  (∀ s : State, s.dev.phase = .calmEntering →
    Completes .calmReached s [.dev, .rst] (fun t => t.dev.st = .calm ∧ t.dev.phase = (if s.dev.wake then .resuming else .inCalm) ∧
      t.rst = { s.rst with calmLt := s.lt, calmRtc := 1000000 * s.rst.rtcSec + s.rst.rtcUs })) ∧
  (∀ (s : State), s.dev.phase = .inCalm →
    (s.rst.alarm ≠ 0 → s.rst.rtcSec = s.rst.alarm → Completes .rtcAlarm s [.dev] (fun t => t.dev = { s.dev with phase := .resuming, wake := true })) ∧
    (s.bus.perst = true → Completes .perstRelease s [.dev, .bus] (fun t =>
      t.dev = { s.dev with phase := .resuming, wake := true } ∧ t.bus = { s.bus with perst := false, link := true })) ∧
    (s.sess.i3cAddr.isSome = true → Completes .sidebandWakeTransfer s [.dev, .out] (fun t =>
      t.dev = { s.dev with phase := .resuming, wake := true } ∧ t.out = s.out ++ [.i3cNack]))) ∧
  (∀ s : State, s.dev.phase = .resuming →
    Completes .keeperResume s [.dev, .boot] (fun t => t.dev.st = .keeper ∧ t.dev.phase = .running ∧ t.dev.wake = false ∧
      t.lt = s.rst.calmLt + (1000000 * s.rst.rtcSec + s.rst.rtcUs - s.rst.calmRtc) ∧ t.pll .keeper = .locked ∧
      ∀ k, t.core k = { s.core k with wdTick := (s.core k).wdTick + (t.lt - s.lt) }))

/-- Inputs in window, ramps and power-good (05_weir_power_path.md). -/
def Obligations.FeedsRise : Prop :=
  (∀ (s : State) (f : Feed) (v : Nat), s.connected f = true → (s.feed f).wasOn = false → s.restoreOn f = false →
    Completes (.feedInWindow f v) s [.dev, .weir, .rst] (fun t => (∀ g, g ≠ f → t.feed g = s.feed g) ∧ t.feed f = { s.feed f with
      inWin := true, settled := true, vin := v, inSince := if (s.feed f).inWin then (s.feed f).inSince else s.lt - 100000
      st := if (s.feed f).st = .outOfWindow then .off else (s.feed f).st })) ∧
  (∀ (s : State) (f : Feed) (v : Nat), s.connected f = true → (s.feed f).wasOn = true → (s.feed f).st = .off ∨ (s.feed f).st = .outOfWindow →
    s.mayRamp f = true →
    Completes (.feedInWindow f v) s [.dev, .weir, .rst] (fun t => t.feed f = s.ramping f { s.feed f with
      inWin := true, settled := true, vin := v, inSince := if (s.feed f).inWin then (s.feed f).inSince else s.lt - 100000, st := .off })) ∧
  (∀ (s : State) (f : Feed) (v : Nat), s.connected f = true → (s.feed f).inWin = false → s.weir.holdup.isSome = true → s.keeperUp = true →
    (s.feed f).st = .off ∨ (s.feed f).st = .outOfWindow →
    Completes (.feedInputReturn f v) s [.dev, .weir, .rst] (fun t => t.weir.holdup = none ∧
      t.feed f = s.ramping f { s.feed f with inWin := true, settled := false, inSince := s.lt, vin := v })) ∧
  (∀ (s : State) (f : Feed) (v : Nat) (i : Int), (s.feed f).st = .ramp →
    Completes (.feedPowerGood f v i) s [.bus, .wins, .weir, .cad, .gop, .integ, .ctr, .out] (fun t => t.weir.onTick = s.lt ∧
      (t.feed f).st = .on ∧ (t.feed f).vout = v ∧ (t.feed f).i = i ∧ (t.feed f).onSince = s.lt ∧ (t.feed f).lost = false ∧
      (t.feed f).fast = 100 * s.fld 0x11 f.1 6 ∧ ∀ g, g ≠ f → t.feed g = s.feed g)) ∧
  (∀ (s : State) (f : Feed), (s.feed f).st = .cooldown → s.keeperUp = true →
    ((s.feed f).inWin = true → (s.feed f).settled = false → Completes (.cooldownEnd f) s [.weir, .rst] (fun t =>
      t.feed f = { s.feed f with cooldown := 0, st := .off, wasOn := true, lastTrip := none })) ∧
    ((s.feed f).inWin = true → (s.feed f).settled = true → s.connected f = true → s.weir.shutdown = none → s.weir.heldLeak = false →
      s.weir.heldTrip = false → s.cool.leak = false → Completes (.cooldownEnd f) s [.weir, .rst] (fun t =>
        t.feed f = s.ramping f { s.feed f with cooldown := 0, st := .off, wasOn := true, lastTrip := none }))) ∧
  (∀ (s : State) (f : Feed), (s.feed f).st = .minOff → s.keeperUp = true → (s.feed f).inWin = true → s.weir.heldLeak = false → s.weir.heldTrip = false →
    s.restoreOn f = true →
    ((s.feed f).settled = false → Completes (.minOffEnd f) s [.weir, .rst] (fun t => t.feed f = { s.feed f with st := .off, minOff := 0, wasOn := true })) ∧
    ((s.feed f).settled = true → s.mayRamp f = true → Completes (.minOffEnd f) s [.weir, .rst] (fun t =>
      t.feed f = s.ramping f { s.feed f with st := .off, minOff := 0, wasOn := true }))) ∧
  (∀ (s : State) (f : Feed), (s.feed f).st = .on →
    Completes (.retryCountReset f) s [.weir] (fun t => t.feed f = { s.feed f with retries := 0 } ∧ ∀ g, g ≠ f → t.feed g = s.feed g))

/-- Current limit, trips, losses, hold-up and the power budget (05_weir_power_path.md). -/
def Obligations.FeedsTrip : Prop :=
  (∀ (s : State) (f : Feed) (i : Int), (s.feed f).st = .ramp ∨ (s.feed f).st = .on →
    Completes (.currentLimitReached f i) s [.weir] (fun t => (∀ g, g ≠ f → t.feed g = s.feed g) ∧
      t.feed f = { s.feed f with inLimit := true, i := i, faultStart := some ((s.feed f).faultStart.getD s.lt) })) ∧
  (∀ (s : State) (f : Feed), Completes (.faultTimerClear f) s [.weir] (fun t => (∀ g, g ≠ f → t.feed g = s.feed g) ∧
      t.feed f = { s.feed f with inLimit := false, faultStart := none })) ∧
  (∀ (s : State) (i : Instr) (f : Feed) (c : TripCause),
    (i = .rampTimeout f ∧ c = .rampTimeout ∧ (s.feed f).st = .ramp) ∨
    (((i = .faultTimerExpiry f ∧ c = .faultTimer ∧ (s.feed f).faultStart.isSome = true) ∨ (i = .soaTrip f ∧ c = .soa) ∨ (i = .fastTrip f ∧ c = .fast)) ∧
      ((s.feed f).st = .ramp ∨ (s.feed f).st = .on)) →
    Completes i s [.dev, .bus, .wins, .sess, .cfg, .weir, .cad, .gop, .chk, .basin, .integ, .slots, .boot, .upd, .ctr, .out, .free] (fun t =>
      t.feed f = (if (s.feed f).retries < s.fld 0x11 f.1 0xB then
          { State.gateLow .cooldown (s.feed f) with
            trip := c, lastTrip := some s.lt, retries := (s.feed f).retries + 1, latched := false, cooldown := 1000000 * s.fld 0x11 f.1 0xA }
        else { State.gateLow .latched (s.feed f) with trip := c, lastTrip := some s.lt, latched := true, cooldown := 0 }) ∧
      (∀ g, g ≠ f → t.feed g = s.feed g) ∧ (s.dev.st ≠ .full → Counted (State.tripCounter f c) s t))) ∧
  (∀ (s : State) (f : Feed) (p : Nat), (s.feed f).st = .on →
    Completes (.feedLoss f p) s [.dev, .bus, .wins, .sess, .cfg, .weir, .cad, .gop, .chk, .basin, .integ, .slots, .boot, .upd, .ctr, .out, .free] (fun t =>
      t.feed f = { State.gateLow .off (s.feed f) with lost := true, settled := false } ∧
      ∀ g, g ≠ f → t.feed g = if (s.feed g).st = .on then { s.feed g with limit := s.ceilingMa g } else s.feed g)) ∧
  (∀ (s : State) (f : Feed) (v p : Nat), s.connected f = true → (s.feed f).inWin = true →
    (s.feed f).st = .on ∨ (s.feed f).st = .ramp ∨ (s.feed f).st = .off →
    Completes (.feedOutOfWindow f v p) s [.dev, .bus, .wins, .sess, .cfg, .weir, .cad, .gop, .chk, .basin, .integ, .slots, .boot, .upd, .ctr, .out, .free] (fun t =>
      (t.feed f).st = .outOfWindow ∧ (t.feed f).inWin = false ∧ (t.feed f).vin = v)) ∧
  (∀ s : State, s.weir.holdup.isSome = true → s.casc.st = .up ∨ s.casc.st = .on →
    Completes .holdupExpiry s Part.all (fun t => t.casc.st = .down ∧ t.weir.holdup = none ∧ t.weir.shutdown.isSome = true)) ∧
  (∀ (s : State) (p : Nat) (a b : FeedMeas), s.lt % 10000 = 0 → s.lt ≠ 0 → s.dev.phase ≠ .inCalm → s.weir.budgetStep = s.weir.budgetApplied →
    Completes (.powerWindowClose p a b) s [.weir, .cad, .gop, .integ, .ctr, .out] (fun t => t.weir.pMw = p ∧ t.weir.winTick = s.lt - 10000 ∧
      (t.feed 0).vin = a.vin ∧ (t.feed 1).vin = b.vin ∧
      (1000 * s.fld 0x10 0 1 < p → s.weir.overRun = 2 → s.weir.budgetStep < 15 → t.weir.budgetStep = s.weir.budgetStep + 1) ∧
      (p ≤ 1000 * s.fld 0x10 0 1 → s.weir.budgetStep = 0 → t.weir.budgetStep = 0 ∧ t.weir.overRun = 0) ∧
      (0 < s.weir.budgetStep → s.weir.budgetStep ≤ 15 → 100 * p * (17 - s.weir.budgetStep) ≤ 95 * (1000 * s.fld 0x10 0 1) * (16 - s.weir.budgetStep) → p ≤ 1000 * s.fld 0x10 0 1 →
        s.weir.underRun = 99 → t.weir.budgetStep = s.weir.budgetStep - 1))) ∧
  (∀ s : State, s.fld 0x10 0 0xB = 1 → s.feedsOn.length = 2 → Completes .shareImbalance s [.ctr] (Counted 0x0030 s))

/-- The reset request, Calm, the clock, backup registers and owner keys (17_reset_and_retention.md, 02_states_and_clocks.md,
15_boot_and_firmware.md). -/
def Obligations.SystemCommands : Prop :=
  (∀ (s : State) (p : Port) (tag : BitVec 32) (ps : Bytes), s.admits resetRequestOp p tag ps = true →
    ∃ t, exec (.resetRequest p tag ps) s = .next t ∧
      s.AnsweredAs t { s with rst := { s.rst with reqTick := some (s.lt + 1000 * ps.num 2 2) } } resetRequestOp p tag .ok
        (natLE 8 (s.lt + 1000 * ps.num 2 2)) 0) ∧
  (∀ (s : State) (p : Port) (tag : BitVec 32) (ps : Bytes), s.admits calmEnterOp p tag ps = true →
    ∃ t, exec (.calmEnter p tag ps) s = .next t ∧
      s.AnsweredAs t { s with dev := { s.dev with phase := .calmEntering, wake := false } } calmEnterOp p tag .ok (natLE 8 s.lt) 0) ∧
  (∀ (s : State) (p : Port) (tag : BitVec 32) (ps : Bytes), s.admits rtcWriteOp p tag ps = true →
    ∃ t, exec (.rtcWrite p tag ps) s = .next t ∧
      s.AnsweredAs t (s.rtcWrite ps) rtcWriteOp p tag .ok (s.rtcWrite ps).rtcReply 1000) ∧
  (∀ (s : State) (p : Port) (tag : BitVec 32) (ps : Bytes), s.admits bkpWriteOp p tag ps = true →
    ∃ t, exec (.bkpWrite p tag ps) s = .next t ∧
      s.AnsweredAs t
        { s with rst := { s.rst with bkp := Vec.upd s.rst.bkp (Fin.ofNat 16 (ps.num 0 1)) (fun _ => BitVec.ofNat 32 (ps.num 4 4)) } }
        bkpWriteOp p tag .ok (natLE 4 (ps.num 4 4)) 0) ∧
  (∀ (s : State) (p : Port) (tag : BitVec 32) (ps : Bytes), s.admits keyProgramOp p tag ps = true →
    ∃ t, exec (.keyProgram p tag ps) s = .next t ∧
      s.AnsweredAs t
        { s with boot := { s.boot with
          keys := Vec.upd s.boot.keys (Fin.ofNat 4 (ps.num 0 1)) (fun _ => { st := .active, hash := ps.part 4 32 }) } }
        keyProgramOp p tag .ok [1, 0, 0, 0] 50000) ∧
  (∀ (s : State) (p : Port) (tag : BitVec 32) (ps : Bytes), s.admits keyRevokeOp p tag ps = true →
    ∃ t, exec (.keyRevoke p tag ps) s = .next t ∧
      s.AnsweredAs t
        { s with boot := { s.boot with
          keys := Vec.upd s.boot.keys (Fin.ofNat 4 (ps.num 0 1)) (fun _ => { s.boot.keys.get (Fin.ofNat 4 (ps.num 0 1)) with st := .revoked }) } }
        keyRevokeOp p tag .ok [2, 0, 0, 0] 50000)

/-- The update session, the live handover and the upper image by command (16_update_and_handover.md, 15_boot_and_firmware.md). -/
def Obligations.UpdateCommands : Prop :=
  (∀ (s : State) (p : Port) (tag : BitVec 32) (ps : Bytes), s.admits fwBeginOp p tag ps = true → bit (ps.num 1 1) 3 = true →
    ∃ t, exec (.fwBegin p tag ps) s = .next t ∧ s.AnsweredAs t ((s.loaded fwBeginOp p tag ps).removePack (ps.num 8 4)) fwBeginOp p tag .ok
      (((s.loaded fwBeginOp p tag ps).removePack (ps.num 8 4)).beginReply 0) (s.boundOf fwBeginOp p tag ps)) ∧
  (∀ (s : State) (p : Port) (tag : BitVec 32) (ps : Bytes), s.admits fwBeginOp p tag ps = true → bit (ps.num 1 1) 3 = false →
    ps.num 0 1 ≠ 4 →
    ∃ t, exec (.fwBegin p tag ps) s = .next t ∧ s.AnsweredAs t
      { s with
        boot := { s.boot with flash := s.boot.flash.erase stagingBase 0x10000 }
        upd := { s.upd with
          nextId := s.upd.nextId + 1
          session := some
            { owner := p, id := s.upd.nextId, component := ps.num 0 1, flags := ps.num 1 1, total := ps.num 4 4, next := 0, place := 0
              checking := false, full := s.isFull } } }
      fwBeginOp p tag .ok (({ s with boot := { s.boot with flash := s.boot.flash.erase stagingBase 0x10000 } } : State).beginReply s.upd.nextId)
      (s.boundOf fwBeginOp p tag ps)) ∧
  (∀ (s : State) (p : Port) (tag : BitVec 32) (ps : Bytes) (u : UpdSession), s.admits fwBlockOp p tag ps = true → s.upd.session = some u →
    ∃ t, exec (.fwBlock p tag ps) s = .next t ∧
      (ps.num 4 4 ≠ u.next → s.AnsweredAs t s fwBlockOp p tag .ok (State.blockReply u.next 0) (s.boundOf fwBlockOp p tag ps)) ∧
      (ps.num 4 4 = u.next → u.next ≠ 0 → s.AnsweredAs t
        { s with
          boot := (((s.loaded fwBlockOp p tag ps).eraseFor (State.sessionBase u + u.next) (ps.drop 16).length).flashWrite
            (State.sessionBase u + u.next) (ps.drop 16)).boot
          upd := { s.upd with session := some { u with next := u.next + (ps.drop 16).length } } }
        fwBlockOp p tag .ok (State.blockReply (u.next + (ps.drop 16).length) 0) (s.boundOf fwBlockOp p tag ps)) ∧
      (∀ w, ps.num 4 4 = 0 → u.next = 0 → s.headerWhy u (ImgHeader.parse ((ps.drop 16).take 1024)) = some w →
        s.AnsweredAs t ((s.loaded fwBlockOp p tag ps).endSession (some w)) fwBlockOp p tag .failed (State.blockReply 0 w.num) (s.boundOf fwBlockOp p tag ps))) ∧
  (∀ (s : State) (p : Port) (tag : BitVec 32) (ps : Bytes), s.admits fwEndOp p tag ps = true →
    ∃ t, exec (.fwEnd p tag ps) s = .next t ∧ s.WaitsAs t
      { s with upd := { s.upd with session := s.upd.session.map (fun u => { u with checking := true }) } } fwEndOp p tag ps
      (s.boundOf fwEndOp p tag ps)) ∧
  (∀ (s : State) (p : Port) (tag : BitVec 32) (ps : Bytes) (f : Nat), s.admits fwHandoverOp p tag ps = true →
    (s.loaded fwHandoverOp p tag ps).handoverFrame (ps.num 0 4) = some f →
    ∃ t, exec (.fwHandover p tag ps) s = .next t ∧ s.WaitsAs t
      { s with
        upd := { s.upd with handover := some { port := p, length := ps.num 0 4, frame := f, fromVer := s.boot.upper.getD 0 } }
        basin := { s.basin with stagingClosed := true } } fwHandoverOp p tag ps (s.boundOf fwHandoverOp p tag ps)) ∧
  (∀ (s : State) (p : Port) (tag : BitVec 32) (ps : Bytes), s.admits fwRestartCoreOp p tag ps = true → (∀ q, (s.win q).state ≠ .accepted) →
    ∃ t, exec (.fwRestartCore p tag ps) s = .next t ∧ t.coreRuns (Fin.ofNat 8 (ps.num 0 1)) = s.textOk (Fin.ofNat 8 (ps.num 0 1)) ∧
      (t.core (Fin.ofNat 8 (ps.num 0 1))).stopped = !s.textOk (Fin.ofNat 8 (ps.num 0 1)) ∧ (t.win p).state = .done ∧
      (t.win p).code = (if s.textOk (Fin.ofNat 8 (ps.num 0 1)) then .ok else .failed) ∧
      (ps.num 0 1 = 6 → t.upd.session = none)) ∧
  (∀ (s : State) (p : Port) (tag : BitVec 32) (ps : Bytes), s.admits upperLoadOp p tag ps = true →
    ∃ t, exec (.upperLoad p tag ps) s = .next t ∧ s.WaitsAs t { s with basin := { s.basin with stagingClosed := true } } upperLoadOp p tag ps
      (30000 + ceilDiv (ps.num 0 4) 40)) ∧
  (∀ (s : State) (p : Port) (tag : BitVec 32) (ps : Bytes), s.admits upperHaltOp p tag ps = true → s.dev.st = .full →
    ∃ t, exec (.upperHalt p tag ps) s = .next t ∧ t.dev.st = .keeper ∧ t.cad = State.resetCad ∧ t.boot.upper = none ∧
      (∀ k : Fin 8, 2 ≤ k.1 → t.coreRuns k = false) ∧ ∀ k : Fin 8, k.1 < 2 → t.core k = s.core k)

/-- Power, reset, run, hold, quarantine and release of slots by command (14_accelerator_slots.md). -/
def Obligations.SlotCommands : Prop :=
  (∀ (s : State) (p : Port) (tag : BitVec 32) (ps : Bytes), s.admits slotPowerOp p tag ps = true → ps.num 1 1 = 1 → s.casc.st ≠ .on →
    ∃ t, exec (.slotPower p tag ps) s = .next t ∧ (t.win p).state = .done ∧ (t.win p).code = .ok ∧
      ∀ i, t.slot i = if (ps.num 0 1).testBit i.1 then { s.slot i with request := true, boot := BitVec.ofNat 2 (ps.num 2 2 / 4 ^ i.1) } else s.slot i) ∧
  (∀ (s : State) (p : Port) (tag : BitVec 32) (ps : Bytes), s.admits slotPowerOp p tag ps = true → ps.num 1 1 ≠ 1 →
    ∃ t, exec (.slotPower p tag ps) s = .next t ∧ ∀ i,
      ((ps.num 0 1).testBit i.1 = true → (t.slot i).request = false ∧ (t.slot i).st ≠ .powering ∧ (t.slot i).st ≠ .held ∧ (t.slot i).st ≠ .running) ∧
      ((ps.num 0 1).testBit i.1 = false → t.slot i = s.slot i)) ∧
  (∀ (s : State) (p : Port) (tag : BitVec 32) (ps : Bytes), s.admits slotResetOp p tag ps = true →
    ∃ t, exec (.slotReset p tag ps) s = .next t ∧ ∀ i,
      ((ps.num 0 1).testBit i.1 = true → s.powered i = true → (t.slot i).rst = true ∧ (t.slot i).st ≠ .running ∧
        (t.slot i).pulseEnd = (State.slotPulsed s.lt (ps.num 4 4) (s.slot i)).pulseEnd) ∧
      ((ps.num 0 1).testBit i.1 = false → t.slot i = s.slot i)) ∧
  (∀ (s : State) (p : Port) (tag : BitVec 32) (ps : Bytes), s.admits slotRunOp p tag ps = true →
    ∃ t, exec (.slotRun p tag ps) s = .next t ∧ t.Waits slotRunOp p tag s.lt (s.boundOf slotRunOp p tag ps) ∧
      ∀ i, t.slot i = if (ps.num 0 1).testBit i.1 then { s.slot i with runAt := some (s.runInstant ps) } else s.slot i) ∧
  (∀ (s : State) (p : Port) (tag : BitVec 32) (ps : Bytes), s.admits slotHoldOp p tag ps = true →
    ∃ t, exec (.slotHold p tag ps) s = .next t ∧ s.WaitsAs t s slotHoldOp p tag ps 2100) ∧
  (∀ (s : State) (p : Port) (tag : BitVec 32) (ps : Bytes), s.admits slotQuarantineOp p tag ps = true →
    ∃ t, exec (.slotQuarantine p tag ps) s = .next t ∧
      ∀ i, t.slot i = if (ps.num 0 1).testBit i.1 then State.slotQuarantined s.lt 3 (s.slot i) else s.slot i) ∧
  (∀ (s : State) (p : Port) (tag : BitVec 32) (ps : Bytes), s.admits slotReleaseOp p tag ps = true →
    ∃ t, exec (.slotRelease p tag ps) s = .next t ∧ ∀ i,
      ((ps.num 0 1).testBit i.1 = true → ((t.slot i).st, (t.slot i).cause) = s.slotReleased i) ∧
      ((ps.num 0 1).testBit i.1 = false → t.slot i = s.slot i))

/-- Holding, sealing, verifying and pushing from the Basin by command (12_basin_memory.md). -/
def Obligations.BasinCommands : Prop :=
  (∀ (s : State) (p : Port) (tag : BitVec 32) (ps : Bytes), s.admits basinHoldOp p tag ps = true → ps.num 0 1 = 0 →
    ∃ t, exec (.basinHold p tag ps) s = .next t ∧ ∃ e : State,
      e = { s with basin := { s.basin with holds := s.basin.holds.filter (fun x => x ≠ State.ownerOfPort p) } } ∧
      s.AnsweredAs t e basinHoldOp p tag .ok ([byte e.basinFlags] ++ zeros 7) 2100) ∧
  (∀ (s : State) (p : Port) (tag : BitVec 32) (ps : Bytes), s.admits basinHoldOp p tag ps = true → ps.num 0 1 ≠ 0 →
    ∃ t, exec (.basinHold p tag ps) s = .next t ∧ ∃ e : State, e = (s.loaded basinHoldOp p tag ps).holding (State.ownerOfPort p) ∧
      (e.basin.awake = .awake → s.AnsweredAs t e basinHoldOp p tag .ok ([byte e.basinFlags] ++ zeros 7) 2100) ∧
      (e.basin.awake ≠ .awake → s.WaitsAs t e basinHoldOp p tag ps 2100)) ∧
  (∀ (s : State) (p : Port) (tag : BitVec 32) (ps : Bytes), s.admits basinSealOp p tag ps = true →
    ∃ t, exec (.basinSeal p tag ps) s = .next t ∧
      ((∃ i, i < ps.num 2 2 ∧ (s.layer (ps.num 0 2 + i)).isSome = true) → t.Waits basinSealOp p tag s.lt (s.boundOf basinSealOp p tag ps) ∧
        ∃ j, t.basin.jobs = s.basin.jobs ++ [j] ∧ j.port = p ∧ j.verify = false ∧ j.first = ps.num 0 2 ∧ j.count = ps.num 2 2) ∧
      ((∀ i, i < ps.num 2 2 → (s.layer (ps.num 0 2 + i)).isSome = false) → (t.win p).state = .done ∧ (t.win p).code = .ok ∧ t.basin = s.basin)) ∧
  (∀ (s : State) (p : Port) (tag : BitVec 32) (ps : Bytes), s.admits basinVerifyOp p tag ps = true →
    ∃ t, exec (.basinVerify p tag ps) s = .next t ∧
      ((∃ i, i < ps.num 2 2 ∧ s.isSealed (ps.num 0 2 + i) = true) → t.Waits basinVerifyOp p tag s.lt (s.boundOf basinVerifyOp p tag ps) ∧
        ∃ j, t.basin.jobs = s.basin.jobs ++ [j] ∧ j.port = p ∧ j.verify = true ∧ j.first = ps.num 0 2 ∧ j.count = ps.num 2 2) ∧
      ((∀ i, i < ps.num 2 2 → s.isSealed (ps.num 0 2 + i) = false) → (t.win p).state = .done ∧ (t.win p).code = .ok ∧ t.basin = s.basin)) ∧
  (∀ (s : State) (p : Port) (tag : BitVec 32) (ps : Bytes), s.admits basinUnsealOp p tag ps = true →
    ∃ t n, exec (.basinUnseal p tag ps) s = .next t ∧ s.AnsweredAs t
      { s with basin := { s.basin with
        seals := s.basin.seals.filter (fun c => !(s.isSealed c.1 && ps.num 0 2 ≤ c.1 && c.1 < ps.num 0 2 + ps.num 2 2)) } }
      basinUnsealOp p tag .ok (natLE 2 n ++ zeros 6) 0) ∧
  (∀ (s : State) (p : Port) (tag : BitVec 32) (ps : Bytes), s.admits basinPushOp p tag ps = true →
    ∃ t, exec (.basinPush p tag ps) s = .next t ∧ s.WaitsAs t (s.loaded basinPushOp p tag ps).startBasin basinPushOp p tag ps (s.boundOf basinPushOp p tag ps))

/-- Feeds on, off and cleared, rail flags, thermal latches and the leak latch cleared by command (05_weir_power_path.md,
06_cascade_sequencing.md, 07_cooling_and_thermal.md). -/
def Obligations.PowerAndCoolingCommands : Prop :=
  (∀ (s : State) (p : Port) (tag : BitVec 32) (ps : Bytes) (f : Feed), s.admits weirOnOp p tag ps = true → State.namedFeeds ps = [f] →
    (s.feed f).st = .off → (s.feed f).inWin = true → (s.feed f).settled = true → s.mayRamp f = true →
    ∃ t, exec (.weirOn p tag ps) s = .next t ∧ t.feed f = s.ramping f { s.feed f with wasOn := true, offCmd := false } ∧
      ∀ g, g ≠ f → t.feed g = s.feed g) ∧
  (∀ (s : State) (p : Port) (tag : BitVec 32) (ps : Bytes) (g : Feed), s.admits weirOffOp p tag ps = true → g ∈ s.feedsOn → g ∉ State.namedFeeds ps →
    s.weir.shutdown = none →
    ∃ t, exec (.weirOff p tag ps) s = .next t ∧ t.weir.offTick = s.lt ∧ t.casc = s.casc ∧ ∀ f,
      (f ∈ State.namedFeeds ps → (t.feed f).wasOn = false ∧ (t.feed f).offCmd = true ∧
        ((s.feed f).st = .ramp ∨ (s.feed f).st = .cooldown ∨ (s.feed f).st = .on → (t.feed f).st = .off ∧ (t.feed f).limit = 0)) ∧
      (f ∉ State.namedFeeds ps → t.feed f = s.feed f)) ∧
  (∀ (s : State) (p : Port) (tag : BitVec 32) (ps : Bytes), s.admits weirOffOp p tag ps = true → s.feedsOn ≠ [] → (∀ g ∈ s.feedsOn, g ∈ State.namedFeeds ps) →
    s.casc.st = .up ∨ s.casc.st = .on →
    ∃ t, exec (.weirOff p tag ps) s = .next t ∧ t.casc.st = .down ∧ t.weir.shutdown.isSome = true) ∧
  (∀ (s : State) (p : Port) (tag : BitVec 32) (ps : Bytes), s.admits weirClearOp p tag ps = true →
    ∃ t, exec (.weirClear p tag ps) s = .next t ∧ (t.win p).state = .done ∧ (t.win p).code = .ok ∧ ∀ f, t.feed f =
      if f ∈ State.namedFeeds ps ∧ (s.feed f).st = .latched then { s.feed f with st := .off, latched := false, retries := 0, wasOn := false } else s.feed f) ∧
  (∀ (s : State) (p : Port) (tag : BitVec 32) (ps : Bytes), s.admits railFlagClearOp p tag ps = true →
    ∃ t, exec (.railFlagClear p tag ps) s = .next t ∧ (t.win p).state = .done ∧ (t.win p).code = .ok ∧ ∀ n, t.rail n =
      if (ps.num 0 8).testBit n.1 = true ∧ ((s.rail n).mark ≠ .none ∨ (s.rail n).stuck = true) ∧ s.railKept n = false then
        { s.rail n with mark := .none, stuck := false, evTick := s.lt } else s.rail n) ∧
  (∀ (s : State) (p : Port) (tag : BitVec 32) (ps : Bytes), s.admits tripClearOp p tag ps = true →
    ∃ t, exec (.tripClear p tag ps) s = .next t ∧ ∀ c, (t.chan c).latched =
      if (ps.num 0 4).testBit c.1 = true ∧ s.clearable c = true then false else (s.chan c).latched) ∧
  (∀ (s : State) (p : Port) (tag : BitVec 32) (ps : Bytes), s.admits leakClearOp p tag ps = true →
    ∃ t, exec (.leakClear p tag ps) s = .next t ∧ t.cool.leak = false ∧ t.cool.leakPumps = false)

/-- The clock tree, group requests, epoch operations, EXPEL, the check engine, units and packs by command (08_cadence_time_and_links.md,
09_global_operations.md, 11_check_engine.md, 13_integrity_policy.md). -/
def Obligations.CadenceCommands : Prop :=
  (∀ (s : State) (p : Port) (tag : BitVec 32) (ps : Bytes), s.admits cadRejoinOp p tag ps = true →
    ∃ t, exec (.cadRejoin p tag ps) s = .next t ∧ s.WaitsAs t s cadRejoinOp p tag ps 105000) ∧
  (∀ (s : State) (p : Port) (tag : BitVec 32) (ps : Bytes), s.admits cadSwitchOp p tag ps = true → ps.num 0 1 = s.cad.active.1 →
    ∃ t, exec (.cadSwitch p tag ps) s = .next t ∧ s.AnsweredAs t s cadSwitchOp p tag .ok (byte s.cad.active.1 :: zeros 7 ++ natLE 8 s.ct) 0) ∧
  (∀ (s : State) (p : Port) (tag : BitVec 32) (ps : Bytes), s.admits cadSwitchOp p tag ps = true → ps.num 0 1 ≠ s.cad.active.1 →
    ∃ t, exec (.cadSwitch p tag ps) s = .next t ∧ (t.win p).state = .accepted ∧ (t.win p).bound = s.lt + 2100 ∧
      t.cad.active = 1 - s.cad.active ∧ t.cad.slewEnd = some (s.lt + 2000) ∧ t.cad.adopt = .due ∧ t.gop.domain = none) ∧
  (∀ (s : State) (p : Port) (tag : BitVec 32) (ps : Bytes), s.admits cadRequestOp p tag ps = true → s.localGroup (ps.num 0 1) = true →
    ∃ t, exec (.cadRequest p tag ps) s = .next t ∧ ∃ o : EpochOp, o.fn = .cadence ∧ o.epoch = s.requestEpoch (ps.num 0 1) ∧ o.arg = ps.num 1 1 ∧
      o.ports = [p] ∧ o.decided = some (true, 0) ∧ s.WaitsAs t (s.recordOp o) cadRequestOp p tag ps (s.boundOf cadRequestOp p tag ps)) ∧
  (∀ (s : State) (p : Port) (tag : BitVec 32) (ps : Bytes), s.admits cadRequestOp p tag ps = true → s.localGroup (ps.num 0 1) = false →
    ∃ t, exec (.cadRequest p tag ps) s = .next t ∧ t.Waits cadRequestOp p tag s.lt (s.boundOf cadRequestOp p tag ps) ∧
      ∃ x ∈ t.gop.epochs, x.fn = .cadence ∧ x.group = Fin.ofNat 256 (ps.num 0 1) ∧ x.epoch = s.requestEpoch (ps.num 0 1) ∧ p ∈ x.ports) ∧
  (∀ (s : State) (p : Port) (tag : BitVec 32) (ps : Bytes), s.admits resetAtOp p tag ps = true →
    ∃ t, exec (.resetAt p tag ps) s = .next t ∧ t.Waits resetAtOp p tag s.lt (s.boundOf resetAtOp p tag ps) ∧
      ∃ x ∈ t.gop.epochs, x.fn = .reset ∧ x.group = Fin.ofNat 256 (ps.num 0 1) ∧ x.epoch = ps.num 8 8 ∧ p ∈ x.ports) ∧
  (∀ (s : State) (p : Port) (tag : BitVec 32) (ps : Bytes), s.admits snapshotAtOp p tag ps = true →
    ∃ t, exec (.snapshotAt p tag ps) s = .next t ∧ t.Waits snapshotAtOp p tag s.lt (s.boundOf snapshotAtOp p tag ps) ∧
      ∃ x ∈ t.gop.epochs, x.fn = .snapshot ∧ x.group = Fin.ofNat 256 (ps.num 0 1) ∧ x.epoch = ps.num 8 8 ∧ p ∈ x.ports) ∧
  (∀ (s : State) (p : Port) (tag : BitVec 32) (ps : Bytes), s.admits expelOp p tag ps = true →
    ∃ t, exec (.expel p tag ps) s = .next t ∧ t.Waits expelOp p tag s.lt (s.boundOf expelOp p tag ps) ∧ t.gop = s.gop ∧
      (s.apexHere (ps.num 0 1) = true → t.cad = s.cad)) ∧
  (∀ (s : State) (p : Port) (tag : BitVec 32) (ps : Bytes), s.admits checkControlOp p tag ps = true → ps.num 0 1 ≤ 1 →
    ∃ t r, exec (.checkControl p tag ps) s = .next t ∧ s.AnsweredAs t { s with chk := { s.chk with
      paused := s.chk.paused.filter (fun x => x ≠ State.ownerOfPort p) ++ (if ps.num 0 1 = 1 then [State.ownerOfPort p] else []) } }
      checkControlOp p tag .ok r 0) ∧
  (∀ (s : State) (p : Port) (tag : BitVec 32) (ps : Bytes), s.admits checkControlOp p tag ps = true → ps.num 0 1 = 2 →
    ∃ t r, exec (.checkControl p tag ps) s = .next t ∧
      s.AnsweredAs t ((s.loaded checkControlOp p tag ps).endWaiting 8) checkControlOp p tag .ok r 0 ∧ t.chk.paused = s.chk.paused) ∧
  (∀ (s : State) (p : Port) (tag : BitVec 32) (ps : Bytes), s.admits unitReleaseOp p tag ps = true →
    ∃ t e r, exec (.unitRelease p tag ps) s = .next t ∧ s.AnsweredAs t e unitReleaseOp p tag .ok r 150000 ∧
      (ps.num 4 1 = 1 → e = (s.loaded unitReleaseOp p tag ps).remapUnit (s.releaseKey ps)) ∧
      (ps.num 4 1 ≠ 1 → e = (s.loaded unitReleaseOp p tag ps).clearUnit (s.releaseKey ps)) ∧
      (ps.num 4 1 ≠ 1 → s.unit? (s.releaseKey ps) = none → t.integ = s.integ)) ∧
  (∀ (s : State) (p : Port) (tag : BitVec 32) (ps : Bytes), s.admits packSendOp p tag ps = true →
    ∃ t e, exec (.packSend p tag ps) s = .next t ∧
      s.AnsweredAs t e packSendOp p tag .ok ([byte (ps.num 4 1)] ++ zeros 7 ++ natLE 8 s.lt) (s.boundOf packSendOp p tag ps) ∧
      SameBut [.wins, .cad, .out] s e)

/-- Up-sequences, power-good, late rails, current limits (06_cascade_sequencing.md, 14_accelerator_slots.md). -/
def Obligations.CascadeRises : Prop :=
  (∀ s : State, s.mayStartUp = true → Completes .upSequenceStart s [.casc] (fun t => t.casc.st = .up ∧ t.casc.casIn = true ∧
    t.casc.stage = s.stages.headD 0 ∧ t.casc.tray = some { up := true, stage := s.stages.headD 0, phase := .delay, since := s.lt } ∧
    t.casc.rails = s.casc.rails)) ∧
  (∀ s : State, s.mayStartUp = false → Completes .upSequenceStart s [.casc] (fun t => t.casc =
    { s.casc with casIn := true, casInSince := if s.casc.casIn then s.casc.casInSince else s.lt })) ∧
  (∀ (s : State) (q : Seq) (nack : BitVec 64) (r : SeqRun), s.seqOf q = some r → r.up = true → r.phase = .delay →
    Completes (.stageUpDelayExpiry q nack) s Part.all (fun t => ∀ n, t.rail n =
      if n ∈ (if q.isNone then s.decideSlots r.stage else s).upRails q r.stage then s.onRail nack n (s.rail n) else s.rail n)) ∧
  (∀ (s : State) (n : Fin 64) (mv : Nat), s.railUsed n = true → (s.rail n).pg = false → (∀ r, s.casc.tray = some r → r.up = true) →
    Completes (.railPowerGood n mv) s Part.all (fun t => (t.rail n).pg = true ∧ (t.rail n).discharged = false ∧ (t.rail n).mv = mv ∧
      ((s.rail n).phase = .rising → (t.rail n).phase = .good) ∧ ∀ m, m ≠ n → t.rail m = s.rail m)) ∧
  (∀ (s : State) (q : Seq) (nack : BitVec 64) (r : SeqRun), s.seqOf q = some r → r.up = true → r.phase = .wait →
    Completes (.pgTimeout q nack) s Part.all (fun t => ∀ n, t.rail n =
      if n ∈ s.lateRails q r then { s.offRail nack n (s.rail n) with mark := .failRise } else s.rail n)) ∧
  (∀ (s : State) (i : Fin 8) (k : Nat) (l : List Nat), s.mayRise i = true → s.ownStages i = k :: l →
    Completes (.slotUpSequence i) s [.casc] (fun t => t.seqOf (some i) = some { up := true, stage := k, phase := .delay, since := s.lt })) ∧
  (∀ (s : State) (n : Fin 64), s.keeperUp = true → s.hasIout n = true → (s.rail n).iout = none →
    Completes (.ioutLimitWrite n true) s [.casc, .ctr, .out] (fun t => t.rail n = { s.rail n with iout := some (s.ioutLimit n (State.frameOf s.ct + 1)) } ∧
      ∀ m, m ≠ n → t.rail m = s.rail m) ∧
    Completes (.ioutLimitWrite n false) s [.casc, .ctr, .out] (fun t => Counted 0x0035 s t ∧ t.casc = s.casc)) ∧
  (∀ (s : State) (n : Fin 64), s.casc.st = .down → s.railUsed n = true → (s.rail n).discharged = true → s.railOn n = false →
    Completes (.railRoseInShutdown n) s [.casc, .ctr] (fun t => t.rail n = { s.rail n with discharged := false, rose := true, dsc := s.hasDsc n } ∧
      Counted (0x0240 + n.1) s t ∧ ∀ m, m ≠ n → t.rail m = s.rail m))

/-- Down-sequences, rails that leave their window, the loss of the bus (06_cascade_sequencing.md, 05_weir_power_path.md). -/
def Obligations.CascadeFalls : Prop :=
  (∀ s : State, s.casc.st = .up ∨ s.casc.st = .on → Completes .casInLow s Part.all (fun t => t.casc.casIn = false ∧ t.casc.st = .down ∧ t.weir.shutdown.isSome = true)) ∧
  (∀ s : State, s.casc.st = .allOff ∨ s.casc.st = .down → Completes .casInLow s [.casc] (fun t => t.casc = { s.casc with casIn := false, casInSince := s.lt })) ∧
  (∀ (s : State) (n : Fin 64) (high nack : Bool) (mv : Nat), s.railUsed n = true → (s.rail n).pg = true →
    (s.railOn n = false → Completes (.railLeavesWindow n high mv nack) s [.casc] (fun t => t.rail n = { s.rail n with pg := false, mv := mv } ∧
      ∀ m, m ≠ n → t.rail m = s.rail m)) ∧
    (s.railOn n = true → s.rising n = true → Completes (.railLeavesWindow n high mv nack) s [.casc] (fun t =>
      t.rail n = { s.rail n with pg := false, mv := mv, phase := .rising, evTick := s.lt } ∧ ∀ m, m ≠ n → t.rail m = s.rail m)) ∧
    (s.railOn n = true → s.rising n = false → s.casc.st = .down → high = false → Completes (.railLeavesWindow n high mv nack) s [.casc, .ctr] (fun t =>
      t.rail n = { s.rail n with pg := false, mv := mv, early := true } ∧ Counted (0x0200 + n.1) s t ∧ ∀ m, m ≠ n → t.rail m = s.rail m))) ∧
  (∀ (s : State) (q : Seq) (nack : BitVec 64) (r : SeqRun), s.seqOf q = some r → r.up = false → r.phase ≠ .wait → s.rst.stretch = none →
    ((q.isNone && r.stage = 0) = false ∨ s.dev.st ≠ .full) →
    Completes (.stageDownDelayExpiry q nack) s Part.all (fun t => ∀ n,
      State.SameRail (if n ∈ s.seqRails q r.stage ∧ s.railOn n = true then s.offRail nack n (s.rail n) else s.rail n) (t.rail n))) ∧
  (∀ (s : State) (n : Fin 64) (mv : Nat), (s.rail n).discharged = false → s.rst.stretch = none → Completes (.railDischarged n mv) s Part.all (fun t =>
    (t.rail n).discharged = true ∧ (t.rail n).pg = false ∧ (t.rail n).mv = mv ∧ ((s.rail n).phase = .falling → (t.rail n).phase = .off) ∧
    ∀ m, m ≠ n → State.SameRail (s.rail m) (t.rail m))) ∧
  (∀ (s : State) (q : Seq) (r : SeqRun), s.seqOf q = some r → r.up = false → r.phase = .wait → s.rst.stretch = none →
    Completes (.dscTimeout q) s Part.all (fun t => ∀ n ∈ s.seqRails q r.stage, (s.rail n).phase = .falling →
      (t.rail n).stuck = true ∧ (t.rail n).phase = .off)) ∧
  (∀ (s : State) (nack : BitVec 64), s.casc.st = .down → s.rst.stretch = none → Completes (.downSequenceTimeout nack) s Part.all (fun t =>
    t.casc.st = .allOff ∧ t.casc.tray = none ∧ t.casc.downDone = s.lt ∧ t.dev.st ≠ .full)) ∧
  (∀ s : State, s.slaveRole = false → s.feedsOn = [] → s.weir.holdup = none → s.weir.shutdown = none → s.casc.st ≠ .allOff → s.rst.stretch = none →
    Completes .busLost s Part.all (fun t => t.casc.st = .allOff ∧ t.casc.tray = none ∧ t.casc.downDone = s.lt ∧ t.dev.st ≠ .full))

/-- The SEQ bus between trays: the master's transactions, the slave's frames, polls and silence (06_cascade_sequencing.md). -/
def Obligations.SeqBus : Prop :=
  (∀ (s : State) (reply : Option (BitVec 16 × Byte)), s.slaveRole = false → s.cfg.loaded = true →
    (s.casc.txUp = true → Completes (.seqTransaction reply) s [.casc, .out] (fun t =>
      t.casc = { s.casc with txCount := s.casc.txCount + 1, txUp := false } ∧
      t.out = s.out ++ [.seq (State.seqWord 2 0 0) (State.seqCrc (State.seqWord 2 0 0))])) ∧
    (s.casc.txUp = false → s.casc.txDown = true → Completes (.seqTransaction reply) s [.casc, .out] (fun t =>
      t.casc = { s.casc with txCount := s.casc.txCount + 1, txDown := false } ∧
      t.out = s.out ++ [.seq (State.seqWord 3 0 0) (State.seqCrc (State.seqWord 3 0 0))])) ∧
    (s.casc.txUp = false → s.casc.txDown = false → s.busHeld ≠ s.casc.busSent ∨ s.casc.txCount % 16 = 15 →
      Completes (.seqTransaction reply) s [.casc, .out] (fun t =>
        t.casc = { s.casc with txCount := s.casc.txCount + 1, busSent := s.busHeld } ∧
        t.out = s.out ++ [.seq (State.seqWord 4 0 (b2n s.busHeld)) (State.seqCrc (State.seqWord 4 0 (b2n s.busHeld)))])) ∧
    (s.casc.txUp = false → s.casc.txDown = false → s.busHeld = s.casc.busSent → s.casc.txCount % 16 ≠ 15 → s.pollAddr = none →
      Completes (.seqTransaction reply) s [.casc] (fun t => t.casc = { s.casc with txCount := s.casc.txCount + 1 })) ∧
    (∀ a, s.casc.txUp = false → s.casc.txDown = false → s.busHeld = s.casc.busSent → s.casc.txCount % 16 ≠ 15 → s.pollAddr = some a →
      Completes (.seqTransaction reply) s [.casc, .integ, .ctr, .out] (fun t =>
        t.out = s.out ++ [.seq (State.seqWord 1 a 0) (State.seqCrc (State.seqWord 1 a 0))] ∧ t.casc.txCount = s.casc.txCount + 1 ∧
        t.casc.pollNext = a + 1 ∧ (reply = none → (t.slave a).seen = false ∧ (t.slave a).missed = min ((s.slave a).missed + 1) 255) ∧
        (∀ w, reply = some (w, State.seqCrc w) → (t.slave a).seen = true ∧ (t.slave a).missed = 0 ∧ (t.slave a).st = bits w.toNat 13 3)))) ∧
  (∀ s : State, s.slaveRole = true →
    Completes .seqUpFrame s [.casc] (fun t => t.casc = { s.casc with rxTick := s.lt, silent := false, upRx := s.casc.upRx || decide (s.casc.st = .allOff) }) ∧
    (s.casc.st = .allOff ∨ s.casc.st = .down → Completes .seqDownFrame s [.casc] (fun t => t.casc = { s.casc with rxTick := s.lt, silent := false })) ∧
    (s.casc.st = .up ∨ s.casc.st = .on → Completes .seqDownFrame s Part.all (fun t => t.casc.st = .down ∧ t.weir.shutdown.isSome = true)) ∧
    Completes (.seqBusFrame true) s [.casc] (fun t => t.casc = { s.casc with rxTick := s.lt, silent := false, busRx := true }) ∧
    (s.casc.st = .allOff → Completes (.seqBusFrame false) s [.casc] (fun t => t.casc = { s.casc with rxTick := s.lt, silent := false, busRx := false })) ∧
    (∀ w : BitVec 16, bits w.toNat 12 4 = 1 → bits w.toNat 9 3 = s.fld 0x21 0 2 → Completes (.seqPoll w (State.seqCrc w)) s [.casc, .out] (fun t =>
      t.casc = { s.casc with rxTick := s.lt, silent := false } ∧
      ∃ x : State, x.casc = { s.casc with rxTick := s.lt, silent := false } ∧ t.out = s.out ++ [.seq x.statusWord (State.seqCrc x.statusWord)])) ∧
    (∀ w : BitVec 16, bits w.toNat 12 4 = 0 ∨ 4 < bits w.toNat 12 4 → Completes (.seqPoll w (State.seqCrc w)) s [.casc, .ctr] (fun t =>
      t.casc = { s.casc with rxTick := s.lt, silent := false } ∧ Counted 0x0285 s t)) ∧
    (s.casc.silent = false → Completes .seqSilent s [.casc, .ctr] (fun t => t.casc = { s.casc with silent := true } ∧ Counted 0x0284 s t)) ∧
    (s.casc.silent = true → Completes .seqSilent s [] (fun _ => True)) ∧
    (∀ reply, Completes (.seqTransaction reply) s [] (fun _ => True))) ∧
  (∀ s : State, s.slaveRole = false → Completes .seqUpFrame s [] (fun _ => True) ∧ Completes .seqDownFrame s [] (fun _ => True) ∧
    (∀ b, Completes (.seqBusFrame b) s [] (fun _ => True)) ∧ (∀ w c, Completes (.seqPoll w c) s [] (fun _ => True)) ∧
    Completes .seqSilent s [] (fun _ => True))

/-- Temperatures, trips and Gusts, the fan engine, spin-ups, failed and slow outputs (07_cooling_and_thermal.md). -/
def Obligations.ThermalAndFans : Prop :=
  (∀ (s : State) (cs : List Conv), s.dev.armed = false → Completes (.tempConversion cs) s [] (fun _ => True)) ∧
  (∀ (s : State) (cs : List Conv) (c : Fin 28), s.dev.armed = true → s.rst.stretch = none → 10 ≤ c.1 → c.1 < 12 → cs[c.1]? = some .fault →
    Completes (.tempConversion cs) s Part.all (fun t => (t.chan c).bad = min 2 ((s.chan c).bad + 1) ∧ (t.chan c).good = 0)) ∧
  (∀ (s : State) (c : Fin 28), (s.chan c).tripped = true → (s.chan c).latched = false → (s.chan c).holdSince.isSome = true → (s.chan c).waiting = none →
    (s.cool.leak = true → Completes (.tripHoldEnd c) s [.cool] (fun t => t.chan c = { s.chan c with waiting := some true } ∧
      ∀ d, d ≠ c → t.chan d = s.chan d)) ∧
    (s.cool.leak = false → Completes (.tripHoldEnd c) s
      [.bus, .wins, .weir, .casc, .cool, .cad, .gop, .chk, .basin, .integ, .slots, .rst, .ctr, .out, .free] (fun t => (t.chan c).tripped = false ∧
        (t.chan c).latched = false ∧ ∀ d, d ≠ c → (t.chan d).tripped = (s.chan d).tripped ∧ (t.chan d).latched = (s.chan d).latched))) ∧
  (∀ s : State, Completes .gustQuiet s [.cool, .cad, .gop, .integ, .ctr, .out] (fun t => ∀ z,
    (∀ g, (s.zone z).gust = some g → g + 9800000 ≤ s.lt → t.zone z = { s.zone z with gust := none }) ∧
    (∀ g, (s.zone z).gust = some g → s.lt < g + 9800000 → t.zone z = s.zone z))) ∧
  (∀ (s : State) (rpm : List Nat), s.dev.armed = true → Completes (.fanEngineEval rpm) s [.cool] (fun t => t.cool.evalTick = s.lt ∧
    (∀ z, s.zoneTemp z = none → (t.zone z).demand = (1000 * s.dPoint z 0).toNat) ∧ t.cool.chans = s.cool.chans ∧ t.cool.ropes = s.cool.ropes)) ∧
  (∀ (s : State) (o : Fin 20), (s.output o).drive = .spinUp →
    (∀ b, (s.output o).pause = true → Completes (.spinUpStep o b) s [.cool] (fun t => t.output o =
      { s.output o with attempts := (s.output o).attempts + 1, attemptStart := s.lt, pause := false, late := false, duty := 100000 } ∧
      ∀ q, q ≠ o → t.output q = s.output q)) ∧
    ((s.output o).pause = false → (s.output o).late = false → Completes (.spinUpStep o false) s [.cool] (fun t =>
      t.output o = { s.output o with late := true } ∧ ∀ q, q ≠ o → t.output q = s.output q)) ∧
    ((s.output o).pause = false → (s.output o).late = true → (s.output o).attempts < 3 → Completes (.spinUpStep o false) s [.cool] (fun t =>
      t.output o = { s.output o with pause := true, late := false, duty := 0 } ∧ ∀ q, q ≠ o → t.output q = s.output q)) ∧
    ((s.output o).pause = false → (s.output o).late = true → 3 ≤ (s.output o).attempts → Completes (.spinUpStep o false) s [.dev, .cool, .integ, .ctr]
      (fun t => Counted (0x0400 + o.1) s t))) ∧
  (∀ (s : State) (o : Fin 20), (s.output o).drive = .running → (s.output o).duty ≠ 0 → Completes (.tachNoEdge o) s [.dev, .cool, .integ, .ctr]
    (fun t => Counted (0x0400 + o.1) s t)) ∧
  (∀ (s : State) (o : Fin 20), (s.output o).drive = .running → (s.output o).slow = false → Completes (.outputSlow o) s [.cool, .ctr] (fun t =>
    t.output o = { s.output o with slow := true } ∧ Counted (0x0440 + o.1) s t ∧ ∀ q, q ≠ o → t.output q = s.output q)) ∧
  (∀ (s : State) (o : Fin 20), s.outFailed o = true → Completes (.outputRestored o) s [.cool, .ctr] (fun t =>
    t.outFailed o = false ∧ Counted (0x0420 + o.1) s t))

/-- The acoustic ceiling's timers, flow meters and leak ropes (07_cooling_and_thermal.md, 05_weir_power_path.md). -/
def Obligations.CeilingFlowLeak : Prop :=
  (∀ s : State, s.cool.overStart = none → Completes .ceilingOverTimer s [] (fun _ => True)) ∧
  (∀ (s : State) (k : Nat), s.cool.overStart = some k →
    (s.cool.ceilStep < s.fld 0x33 0 5 → Completes .ceilingOverTimer s [.cool, .cad, .gop, .integ, .ctr, .out] (fun t => t.cool =
      { s.cool with ceilStep := s.cool.ceilStep + 1, overStart := none, underStart := none })) ∧
    (s.fld 0x33 0 5 ≤ s.cool.ceilStep → Completes .ceilingOverTimer s [.cool, .integ, .ctr] (fun t => t.cool =
      { s.cool with released := true, overStart := none } ∧ Counted 0x0460 s t))) ∧
  (∀ (s : State) (k : Nat), s.cool.returnStart = some k → Completes .ceilingReturn s [.cool] (fun t => t.cool = { s.cool with released := false, returnStart := none })) ∧
  (∀ (s : State) (k : Nat), s.cool.underStart = some k → 0 < s.cool.ceilStep → Completes .ceilingUnderTimer s [.cool, .cad, .gop, .integ, .ctr, .out] (fun t =>
    t.cool = { s.cool with ceilStep := s.cool.ceilStep - 1, overStart := none, underStart := none })) ∧
  (∀ (s : State) (n : Fin 4) (pulses : Nat), Completes (.flowMeasure n pulses) s [.cool] (fun t =>
    (t.cool.flows.get n).flow = (if s.fld 0x30 n.1 0xB = 0 then 0 else pulses * 60000 / s.fld 0x30 n.1 0xB) ∧
    (t.cool.flows.get n).low = ((s.cool.flows.get n).low && s.flowJudged n) ∧ ∀ m, m ≠ n → t.cool.flows.get m = s.cool.flows.get m)) ∧
  (∀ (s : State) (n : Fin 4), s.flowJudged n = true → s.flowUnder n = true → (s.cool.flows.get n).low = false →
    Completes (.flowLow n) s [.cool, .integ, .ctr] (fun t => t.cool.flows.get n = { s.cool.flows.get n with low := true } ∧ Counted (0x0470 + n.1) s t ∧
      ∀ m, m ≠ n → t.cool.flows.get m = s.cool.flows.get m)) ∧
  (∀ (s : State) (n : Fin 4), (s.cool.flows.get n).low = true → s.flowUnder n = false → Completes (.flowRecover n) s [.cool] (fun t =>
    t.cool.flows.get n = { s.cool.flows.get n with low := false } ∧ ∀ m, m ≠ n → t.cool.flows.get m = s.cool.flows.get m)) ∧
  (∀ (s : State) (kohm : List Nat), s.dev.armed = true → Completes (.leakMeasure kohm) s [.cool, .ctr] (fun t =>
    ∀ (r : Fin 8) (k : Nat), kohm[r.1]? = some k → (t.rope r).kohm = k)) ∧
  (∀ (s : State) (r : Fin 8), s.dev.armed = true → s.ropeKind r ≠ 0 → (s.rope r).wet = false → (s.rope r).kohm < 100 →
    (s.ropeKind r ≠ 2 → Completes (.leakWet r) s [.dev, .cool, .ctr] (fun t => t.rope r = { s.rope r with st := .wet, wet := true } ∧
      Counted (0x0480 + r.1) s t ∧ (∀ q, q ≠ r → t.rope q = s.rope q) ∧ t.cool.leak = s.cool.leak)) ∧
    (s.ropeKind r = 2 → s.rst.stretch = none → Completes (.leakWet r) s Part.all (fun t => t.rope r = { s.rope r with st := .wet, wet := true } ∧
      t.cool.leak = true ∧ t.weir.heldLeak = true ∧ ∀ q, q ≠ r → t.rope q = s.rope q))) ∧
  (∀ (s : State) (r : Fin 8), 1000 < (s.rope r).kohm → Completes (.ropeDry r) s [.cool] (fun t => t.rope r = { s.rope r with st := .dry, wet := false } ∧
    ∀ q, q ≠ r → t.rope q = s.rope q)) ∧
  (∀ s : State, s.cool.leak = true → s.casc.st = .allOff → s.cool.leakPumps = false → Completes .leakPumpStop s [.cool] (fun t =>
    t.cool.leakPumps = true ∧ ∀ o, State.isPump o = true → (t.output o).drive = .stopped ∧ (t.output o).duty = 0))

/-- Links from dark to UP, the cells they carry, holdover, locking, steps and the uplink switch (08_cadence_time_and_links.md,
09_global_operations.md, 13_integrity_policy.md). -/
def Obligations.LinksAndDomainTime : Prop :=
  (∀ (s : State) (p : Fin 18), s.isFull = true →
    (∀ rx, (s.port p).st = .dark → Completes (.blockLock p rx) s [.cad] (fun t => t.port p = { s.port p with st := .training, rxPower := rx } ∧
      ∀ q, q ≠ p → t.port q = s.port q)) ∧
    ((s.port p).st = .training → Completes (.cellAlignment p) s [.cad] (fun t => t.port p = { s.port p with st := .identifying, identRun := 0 } ∧
      ∀ q, q ≠ p → t.port q = s.port q)) ∧
    (State.portLit (s.port p).st = true → Completes (.linkLoss p) s [.bus, .wins, .cad, .gop, .integ, .ctr, .out] (fun t =>
      t.port p = State.portFresh .dark (s.port p) ∧ (∀ q, q ≠ p → t.port q = s.port q) ∧ (p.1 < 16 → Counted (0x0510 + p.1) s t))) ∧
    (∀ c : IdentCell, (s.port p).st = .identifying ∨ (s.port p).st = .miswired → Completes (.linkIdent p c) s [.cad, .gop] (fun t =>
      (t.port p).peerPath = (c.addr.extractLsb' 0 16).toNat ∧ (t.port p).tickHi = c.tickHi.toNat ∧
      (s.identMatches p c = true → (t.port p).identRun = (s.port p).identRun + 1 ∧ (1 ≤ (s.port p).identRun → (t.port p).st = .calibrating) ∧
        ((s.port p).identRun = 0 → (t.port p).st = (s.port p).st)) ∧
      (s.identMatches p c = false → (t.port p).identRun = 0 ∧ (t.port p).st = .miswired) ∧ ∀ q, q ≠ p → t.port q = s.port q)) ∧
    (∀ (t1 t4 : Int) (turn : Nat), p.1 < 16 → State.portTimed (s.port p).st = true → (s.port p).n < 1023 →
      Completes (.echoCell p t1 t4 turn) s [.cad] (fun t => t.port p =
        { s.port p with n := (s.port p).n + 1, sum := (s.port p).sum + ((t4 - t1 - turn).tdiv 2 + s.asym p) } ∧ ∀ q, q ≠ p → t.port q = s.port q)) ∧
    (∀ (c : StampCell) (k : Nat), 16 ≤ p.1 → State.portTimed (s.port p).st = true → Completes (.stampCell p c k) s [.cad] (fun t =>
      (t.port p).err = c.err.toNat ∧ (t.port p).missed = 0 ∧ (c.delay ≠ 0xFFFFFF → (t.port p).upDelay = some c.delay.toNat) ∧
      ∀ q, q ≠ p → t.port q = s.port q)) ∧
    (∀ e : EchoTimes, (s.port p).st ≠ .unused → Completes (.timeSlot p e) s [.cad, .out] (fun t =>
      (t.port p).slots = ((s.port p).slots + 1) % 1024 ∧ (t.port p).txSeq = (s.port p).txSeq + 1 ∧ ∃ ty b, t.out = s.out ++ [.cell p.1 ty (s.port p).txSeq b])) ∧
    (∀ (b : BitVec 100) (c : Option (BitVec 100)), (s.port p).st = .up → s.rxOf p = [] → (parseOp b).word = 0 → (parseOp b).flags.getLsbD 0 = false →
      Completes (.opCell p (some b) c) s [.gop] (fun t => t.rxOf p = [parseOp b])) ∧
    ((s.port p).st = .up → s.rxOf p = [] → Completes (.opCell p none none) s [.gop, .integ, .ctr] (fun t => t.rxOf p = [] ∧ Counted (0x0550 + p.1) s t)) ∧
    (∀ b, State.portLit (s.port p).st = true → Completes (.cellDiscarded p b) s [.cad, .ctr] (fun t => Counted (0x0530 + p.1) s t ∧
      t.port p = { s.port p with badNow := (s.port p).badNow + b2n b } ∧ ∀ q, q ≠ p → t.port q = s.port q)) ∧
    (∀ c : TrickleCell, 16 ≤ p.1 → (s.port p).st = .up → c.stream ≠ 1 → Completes (.trickleCell p c) s [.cad, .out] (fun t =>
      t.out.length = s.out.length + s.trickleLinks.length)) ∧
    (s.portRole p = 2 → (s.port p).st = .up → Completes (.adopt p) s [.cad] (fun t => t.port p = { s.port p with adoptRx := true } ∧
      ∀ q, q ≠ p → t.port q = s.port q))) ∧
  (∀ (s : State) (i : Fin 8), s.laneLive i = true → s.cad.laneBad.get i ≠ 16 → Completes (.codeLaneWordDiscard i) s [.cad, .ctr] (fun t =>
    t.cad.laneBad.get i = s.cad.laneBad.get i + 1 ∧ Counted (0x0500 + i.1) s t ∧ ∀ j, j ≠ i → t.cad.laneBad.get j = s.cad.laneBad.get j)) ∧
  (∀ s : State, s.cad.st = .locked → s.isRoot = false →
    ((s.port s.upPort).err ≠ 0 → s.uplinkFailed = false → Completes .holdoverEntry s [.cad] (fun t => t.cad =
      { s.cad with st := .holdover, holdStart := s.lt, e0 := (s.port s.upPort).err + 1, inRow := 0 })) ∧
    (s.uplinkFailed = true → s.standbyReady = false → Completes .holdoverEntry s [.cad] (fun t => t.cad =
      { s.cad with st := .holdover, holdStart := s.lt, e0 := 1, inRow := 0 }))) ∧
  (∀ s : State, s.cad.st = .holdover → 100000 < s.holdoverPs → s.cad.groupsHeld = false → Completes .holdoverHold s [.cad, .integ, .ctr] (fun t =>
    t.cad = { s.cad with groupsHeld := true } ∧ Counted 0x0572 s t)) ∧
  (∀ s : State, s.cad.st = .holdover → s.uplinkFailed = false → s.cad.step = none → 64 ≤ s.cad.inRow → Completes .relock s Part.all (fun t =>
    t.cad = { s.cad with st := .locked, groupsHeld := false })) ∧
  (∀ s : State, s.cad.st = .joining → s.uplinkFailed = false → s.cad.step = none → 64 ≤ s.cad.inRow → s.cad.stepOwed = false →
    Completes .joinLock s Part.all (fun t => t.cad = { s.cad with st := .locked, groupsHeld := false })) ∧
  (∀ (s : State) (x : TimeStep), s.isFull = true → s.cad.step = some x →
    (s.anyRunning = true → Completes .timeStep s [] (fun _ => True)) ∧
    (s.anyRunning = false → s.nearBoundary = true → Completes .timeStep s Part.all (fun t => t.cad.offset = x.offset ∧ t.cad.step = none ∧
      t.cad.lastStep = x.size ∧ t.cad.stepped = true ∧ t.cad.stepOwed = false))) ∧
  (∀ s : State, s.isFull = true → s.isRoot = false → s.uplinkFailed = true → s.standbyReady = true → Completes .uplinkSwitch s Part.all (fun t =>
    t.cad.active = 1 - s.cad.active ∧ t.cad.slewEnd = some (s.lt + 2000) ∧ t.cad.adopt = .due ∧ t.gop.domain = none))
end

