-- ==== Sys2Proof/Laws/Memory.lean ====
section
/-!
SUPPORT. Byte memories: every operation keeps the canonical form, a read after a write gives the bytes written, and a write leaves every other address
alone.
-/

namespace Sys2Proof

/-! ### What one address reads as -/

theorem Mem.get_of_lt_wfFrom {d : Byte} {m : Mem} {lo a : Nat} (h : Mem.wfFrom d lo m = true) (ha : a < lo) : Mem.get d m a = d := by
  induction m generalizing lo with
  | nil => rfl
  | cons c m ih =>
    simp only [Mem.wfFrom, Bool.and_eq_true, decide_eq_true_eq] at h
    have hne : c.1 ≠ a := by omega
    simp only [Mem.get, if_neg hne]
    exact ih h.2 (by omega)

theorem Mem.get_append (d : Byte) (m n : Mem) (a : Nat) :
    Mem.get d (m ++ n) a = if (m.any (fun c => c.1 == a)) = true then Mem.get d m a else Mem.get d n a := by
  induction m with
  | nil => simp
  | cons c m ih =>
    by_cases h : c.1 = a
    · simp [Mem.get, h]
    · simp [Mem.get, h, ih]

theorem Mem.get_cells (d : Byte) (a : Nat) (bs : Bytes) (b : Nat) :
    Mem.get d (Mem.cells d a bs) b = if a ≤ b then bs.getD (b - a) d else d := by
  induction bs generalizing a with
  | nil => simp [Mem.cells, Mem.get]
  | cons x bs ih =>
    have key : Mem.get d (Mem.cells d (a + 1) bs) b = if a + 1 ≤ b then bs.getD (b - (a + 1)) d else d := ih (a + 1)
    rcases Nat.lt_trichotomy b a with hlt | rfl | hgt
    · by_cases hx : x = d
      · simp [Mem.cells, hx, key, show ¬ a ≤ b by omega, show ¬ a + 1 ≤ b by omega]
      · simp [Mem.cells, hx, Mem.get, key, show ¬ a ≤ b by omega, show ¬ a + 1 ≤ b by omega, show a ≠ b by omega]
    · by_cases hx : x = d
      · simp [Mem.cells, hx, key]
      · simp [Mem.cells, hx, Mem.get]
    · obtain ⟨k, rfl⟩ : ∃ k, b = a + 1 + k := ⟨b - (a + 1), by omega⟩
      have h1 : a + 1 + k - a = k + 1 := by omega
      by_cases hx : x = d
      · simp [Mem.cells, hx, key, h1, show a ≤ a + 1 + k by omega]
      · simp [Mem.cells, hx, Mem.get, key, h1, show a ≤ a + 1 + k by omega, show a ≠ a + 1 + k by omega]

theorem Mem.get_filter (d : Byte) (m : Mem) (p : Nat → Bool) (a : Nat) :
    Mem.get d (m.filter (fun c => p c.1)) a = if p a = true then Mem.get d m a else d := by
  induction m with
  | nil => simp [Mem.get]
  | cons c m ih =>
    by_cases hp : p c.1 = true <;> by_cases hc : c.1 = a
    · subst hc; simp [hp, Mem.get]
    · simp [hp, Mem.get, hc, ih]
    · subst hc; simp [hp, ih]
    · simp [hp, Mem.get, hc, ih]

theorem Mem.any_filter_eq_false (m : Mem) (p : Nat → Bool) {a : Nat} (h : p a = false) :
    (m.filter (fun c => p c.1)).any (fun c => c.1 == a) = false := by
  rw [List.any_eq_false]
  intro c hc hca
  have hp := (List.mem_filter.mp hc).2
  rw [beq_iff_eq] at hca
  simp [hca, h] at hp

theorem Mem.any_cells_eq_false {d : Byte} {a : Nat} {bs : Bytes} {b : Nat} (h : b < a ∨ a + bs.length ≤ b) :
    (Mem.cells d a bs).any (fun c => c.1 == b) = false := by
  induction bs generalizing a with
  | nil => rfl
  | cons x bs ih =>
    have hl : (x :: bs).length = bs.length + 1 := rfl
    have key := ih (a := a + 1) (by omega)
    have hne : a ≠ b := by omega
    by_cases hx : x = d <;> simp [Mem.cells, hx, key, hne]

theorem Mem.get_of_any {d : Byte} {m : Mem} {a : Nat} (h : m.any (fun c => c.1 == a) = false) : Mem.get d m a = d := by
  induction m with
  | nil => rfl
  | cons c m ih =>
    simp only [List.any_cons, Bool.or_eq_false_iff, beq_eq_false_iff_ne, ne_eq] at h
    simp [Mem.get, h.1, ih h.2]

/-- One byte after a write: the byte written, or the byte that stood there. -/
theorem Mem.get_write (d : Byte) (m : Mem) (a : Nat) (bs : Bytes) (b : Nat) :
    Mem.get d (Mem.write d m a bs) b = if a ≤ b ∧ b < a + bs.length then bs.getD (b - a) d else Mem.get d m b := by
  have lo := Mem.get_filter d m (fun n => decide (n < a)) b
  have hi := Mem.get_filter d m (fun n => decide (a + bs.length ≤ n)) b
  have mid := Mem.get_cells d a bs b
  unfold Mem.write
  rw [List.append_assoc, Mem.get_append, Mem.get_append]
  rcases Nat.lt_or_ge b a with hlt | hge
  · have hc : ¬ (a ≤ b ∧ b < a + bs.length) := by omega
    have h1 := Mem.any_cells_eq_false (d := d) (bs := bs) (Or.inl hlt : b < a ∨ a + bs.length ≤ b)
    have h3 := Mem.get_of_any (d := d) (Mem.any_filter_eq_false m (fun n => decide (a + bs.length ≤ n)) (a := b) (by simp; omega))
    rw [if_neg hc, h1, if_neg Bool.false_ne_true, h3]
    rw [if_pos (by simpa using hlt)] at lo
    by_cases hany : (m.filter (fun c => decide (c.1 < a))).any (fun c => c.1 == b) = true
    · rw [if_pos hany, lo]
    · rw [if_neg hany, ← lo, Mem.get_of_any (Bool.eq_false_iff.mpr hany)]
  · have h1 := Mem.any_filter_eq_false m (fun n => decide (n < a)) (a := b) (by simp; omega)
    rw [h1, if_neg Bool.false_ne_true]
    rcases Nat.lt_or_ge b (a + bs.length) with hlt | hge'
    · rw [if_neg (by simp; omega)] at hi
      rw [if_pos hge] at mid
      rw [if_pos (⟨hge, hlt⟩ : a ≤ b ∧ b < a + bs.length), hi, mid]
      by_cases hany : (Mem.cells d a bs).any (fun c => c.1 == b) = true
      · rw [if_pos hany]
      · rw [if_neg hany, ← mid, Mem.get_of_any (Bool.eq_false_iff.mpr hany)]
    · have hc : ¬ (a ≤ b ∧ b < a + bs.length) := by omega
      have h2 := Mem.any_cells_eq_false (d := d) (bs := bs) (Or.inr hge' : b < a ∨ a + bs.length ≤ b)
      rw [if_neg hc, h2, if_neg Bool.false_ne_true, hi, if_pos (by simpa using hge')]

/-- A write leaves every address outside its bytes alone. -/
theorem Mem.get_write_ne {d : Byte} {m : Mem} {a : Nat} {bs : Bytes} {b : Nat} (h : b < a ∨ a + bs.length ≤ b) :
    Mem.get d (Mem.write d m a bs) b = Mem.get d m b := by
  rw [Mem.get_write, if_neg (by omega)]

/-- Reading the bytes just written gives them back. -/
theorem Mem.read_write (d : Byte) (m : Mem) (a : Nat) (bs : Bytes) : Mem.read d (Mem.write d m a bs) a bs.length = bs := by
  apply List.ext_getElem
  · simp [Mem.read]
  · intro i h1 h2
    have hi : i < bs.length := h2
    simp [Mem.read, Mem.get_write, hi]

/-- Reading the first bytes of fresh cells gives them back. -/
theorem Mem.read_cells (d : Byte) (a : Nat) (bs : Bytes) : Mem.read d (Mem.cells d a bs) a bs.length = bs := by
  apply List.ext_getElem
  · simp [Mem.read]
  · intro i h1 h2
    have hi : i < bs.length := h2
    simp [Mem.read, Mem.get_cells, hi]

/-! ### The canonical form -/

/-- Every address of a memory lies below a bound. -/
def Mem.below (hi : Nat) (m : Mem) : Bool := m.all (fun c => decide (c.1 < hi))

theorem Mem.wfFrom_mono {d : Byte} {m : Mem} {lo lo' : Nat} (h : Mem.wfFrom d lo m = true) (hl : lo' ≤ lo) : Mem.wfFrom d lo' m = true := by
  cases m with
  | nil => rfl
  | cons c m =>
    simp only [Mem.wfFrom, Bool.and_eq_true, decide_eq_true_eq] at h ⊢
    exact ⟨⟨by omega, h.1.2⟩, h.2⟩

theorem Mem.wfFrom_filter {d : Byte} {m : Mem} {lo : Nat} (p : Host.Cell → Bool) (h : Mem.wfFrom d lo m = true) :
    Mem.wfFrom d lo (m.filter p) = true := by
  induction m generalizing lo with
  | nil => rfl
  | cons c m ih =>
    simp only [Mem.wfFrom, Bool.and_eq_true, decide_eq_true_eq] at h
    by_cases hp : p c = true
    · simp only [List.filter_cons, hp, if_true, Mem.wfFrom, Bool.and_eq_true, decide_eq_true_eq]
      exact ⟨h.1, ih h.2⟩
    · simp only [List.filter_cons, hp]
      exact Mem.wfFrom_mono (ih h.2) (by omega)

theorem Mem.wfFrom_append {d : Byte} {m n : Mem} {lo mid : Nat} (h : Mem.wfFrom d lo m = true) (hb : Mem.below mid m = true) (hlo : lo ≤ mid)
    (hn : Mem.wfFrom d mid n = true) : Mem.wfFrom d lo (m ++ n) = true := by
  induction m generalizing lo with
  | nil => exact Mem.wfFrom_mono hn hlo
  | cons c m ih =>
    simp only [Mem.wfFrom, Bool.and_eq_true, decide_eq_true_eq] at h
    simp only [Mem.below, List.all_cons, Bool.and_eq_true, decide_eq_true_eq] at hb
    simp only [List.cons_append, Mem.wfFrom, Bool.and_eq_true, decide_eq_true_eq]
    exact ⟨h.1, ih h.2 hb.2 (by omega)⟩

theorem Mem.wfFrom_cells (d : Byte) (a : Nat) (bs : Bytes) : Mem.wfFrom d a (Mem.cells d a bs) = true := by
  induction bs generalizing a with
  | nil => rfl
  | cons x bs ih =>
    by_cases hx : x = d
    · simp only [Mem.cells, hx, if_true]
      exact Mem.wfFrom_mono (ih (a + 1)) (by omega)
    · simp [Mem.cells, hx, Mem.wfFrom, ih (a + 1)]

theorem Mem.below_cells (d : Byte) (a : Nat) (bs : Bytes) : Mem.below (a + bs.length) (Mem.cells d a bs) = true := by
  induction bs generalizing a with
  | nil => rfl
  | cons x bs ih =>
    have key := ih (a + 1)
    have hl : a + (x :: bs).length = a + 1 + bs.length := by simp; omega
    rw [hl]
    by_cases hx : x = d
    · simpa [Mem.cells, hx] using key
    · simp only [Mem.cells, if_neg hx, Mem.below, List.all_cons, Bool.and_eq_true, decide_eq_true_eq]
      exact ⟨by omega, key⟩

theorem Mem.wfFrom_above {d : Byte} {m : Mem} {lo hi : Nat} (h : Mem.wfFrom d lo m = true) :
    Mem.wfFrom d hi (m.filter (fun c => decide (hi ≤ c.1))) = true := by
  induction m generalizing lo with
  | nil => rfl
  | cons c m ih =>
    simp only [Mem.wfFrom, Bool.and_eq_true, decide_eq_true_eq] at h
    by_cases hp : hi ≤ c.1
    · have := Mem.wfFrom_filter (fun x => decide (hi ≤ x.1)) h.2
      simp only [List.filter_cons, hp, decide_true, if_true, Mem.wfFrom, Bool.and_eq_true]
      exact ⟨⟨trivial, h.1.2⟩, this⟩
    · simpa [List.filter_cons, hp] using ih h.2

/-- Fresh cells are in canonical form. -/
theorem Mem.wf_cells (d : Byte) (a : Nat) (bs : Bytes) : Mem.wf d (Mem.cells d a bs) = true := Mem.wfFrom_mono (Mem.wfFrom_cells d a bs) (Nat.zero_le _)

/-- A write keeps the canonical form. -/
theorem Mem.wf_write {d : Byte} {m : Mem} (a : Nat) (bs : Bytes) (h : Mem.wf d m = true) : Mem.wf d (Mem.write d m a bs) = true := by
  unfold Mem.wf Mem.write
  rw [List.append_assoc]
  refine Mem.wfFrom_append (Mem.wfFrom_filter _ h) (mid := a) ?_ (Nat.zero_le _) ?_
  · simp [Mem.below]
  · exact Mem.wfFrom_append (Mem.wfFrom_cells d a bs) (Mem.below_cells d a bs) (by omega) (Mem.wfFrom_above h)

/-- Erasing keeps the canonical form. -/
theorem Mem.wf_erase {d : Byte} {m : Mem} (a k : Nat) (h : Mem.wf d m = true) : Mem.wf d (Mem.erase m a k) = true := Mem.wfFrom_filter _ h

/-- An erased byte reads as the default; every other byte stays. -/
theorem Mem.get_erase (d : Byte) (m : Mem) (a k b : Nat) :
    Mem.get d (Mem.erase m a k) b = if b < a ∨ a + k ≤ b then Mem.get d m b else d := by
  have := Mem.get_filter d m (fun n => decide (n < a) || decide (a + k ≤ n)) b
  simpa [Mem.erase] using this

end Sys2Proof
end

