-- ==== Sys2Proof/Laws/Vec.lean ====
section
/-!
SUPPORT. Fixed arrays and association lists: what an update leaves at every index.
-/

namespace Sys2Proof

variable {α : Type} {n : Nat}

@[simp] theorem Vec.get_upd_self (v : Vector α n) (i : Fin n) (f : α → α) : (Vec.upd v i f).get i = f (v.get i) := by
  show (v.set i.1 (f (v.get i)) i.2)[i.1] = f (v.get i)
  simp

theorem Vec.get_upd_ne (v : Vector α n) {i j : Fin n} (f : α → α) (h : j ≠ i) : (Vec.upd v i f).get j = v.get j := by
  have : i.1 ≠ j.1 := fun e => h (Fin.ext e.symm)
  show (v.set i.1 (f (v.get i)) i.2)[j.1] = v[j.1]
  simp [this]

theorem Vec.get_upd (v : Vector α n) (i j : Fin n) (f : α → α) : (Vec.upd v i f).get j = if j = i then f (v.get j) else v.get j := by
  by_cases h : j = i
  · subst h; simp
  · simp [Vec.get_upd_ne v f h, h]

theorem Vec.upd_upd (v : Vector α n) (i : Fin n) (f g : α → α) : Vec.upd (Vec.upd v i f) i g = Vec.upd v i (fun x => g (f x)) := by
  show (Vec.upd v i f).set i.1 (g ((Vec.upd v i f).get i)) i.2 = v.set i.1 (g (f (v.get i))) i.2
  rw [Vec.get_upd_self]
  simp [Vec.upd]

@[simp] theorem Vec.get_tab (f : Fin n → α) (i : Fin n) : (Vec.tab n f).get i = f i := by
  show (Vec.tab n f)[i.1] = f i
  simp [Vec.tab]

@[simp] theorem Vec.get_mapIdx (v : Vector α n) (f : Fin n → α → α) (i : Fin n) : (Vec.mapIdx v f).get i = f i (v.get i) := by
  simp [Vec.mapIdx]

theorem length_lastN_le (n : Nat) (l : List α) : (lastN n l).length ≤ n := by simp [lastN]

variable {κ : Type} [DecidableEq κ]

theorem Assoc.get_append_of_not_mem (d : α) (m m' : List (κ × α)) (k : κ) (h : ∀ c ∈ m, c.1 ≠ k) :
    Assoc.get d (m ++ m') k = Assoc.get d m' k := by
  induction m with
  | nil => rfl
  | cons c m ih =>
    have hc := h c (List.mem_cons_self ..)
    simp only [List.cons_append, Assoc.get, if_neg hc]
    exact ih (fun x hx => h x (List.mem_cons_of_mem _ hx))

@[simp] theorem Assoc.get_set_self (d : α) (m : List (κ × α)) (k : κ) (v : α) : Assoc.get d (Assoc.set m k v) k = v := by
  rw [Assoc.set, Assoc.get_append_of_not_mem]
  · simp [Assoc.get]
  · intro c hc; simpa using (List.mem_filter.mp hc).2

theorem Assoc.get_set_ne (d : α) (m : List (κ × α)) {k k' : κ} (v : α) (h : k' ≠ k) : Assoc.get d (Assoc.set m k v) k' = Assoc.get d m k' := by
  unfold Assoc.set
  induction m with
  | nil => simp [Assoc.get, h.symm]
  | cons c m ih =>
    by_cases hk : c.1 = k
    · have : c.1 ≠ k' := fun e => h (e ▸ hk)
      simp only [List.filter_cons, hk, ne_eq, not_true_eq_false, decide_false, Bool.false_eq_true, if_false]
      simp only [Assoc.get, if_neg this]
      simpa [hk] using ih
    · simp only [List.filter_cons, ne_eq, hk, not_false_eq_true, decide_true, if_true, List.cons_append, Assoc.get]
      rw [ih]

end Sys2Proof
end

