-- ==== Sys2Proof/Laws/Ops.lean ====
section
/-!
SUPPORT. The shared operations: what counters, log entries, windows and submissions do, each said once.
-/

namespace Sys2Proof.Machine

namespace State

/-! ### Windows -/

@[simp] theorem updWin_win_self (s : State) (p : Port) (f : Window → Window) : (s.updWin p f).win p = f (s.win p) := Vec.get_upd_self ..

theorem updWin_win_ne (s : State) {p q : Port} (f : Window → Window) (h : q ≠ p) : (s.updWin p f).win q = s.win q := Vec.get_upd_ne _ _ h

/-- Windows, messages and the pending-bit array are all that a message of a window touches. -/
theorem msix_eq (v : Nat) (s : State) :
    s.msix v = { s with bus := { s.bus with pba := (s.msix v).bus.pba }, out := (s.msix v).out } := by
  unfold msix; split
  · split <;> rfl
  · rfl

@[simp] theorem msix_win (v : Nat) (s : State) (p : Port) : (s.msix v).win p = s.win p := by rw [msix_eq]; rfl

theorem winMessage_eq (p : Port) (s : State) :
    s.winMessage p = { s with bus := { s.bus with pba := (s.winMessage p).bus.pba }, out := (s.winMessage p).out } := by
  unfold winMessage; split
  · exact msix_eq _ _
  · rfl

@[simp] theorem winMessage_win (p q : Port) (s : State) : (s.winMessage p).win q = s.win q := by rw [winMessage_eq]; rfl

@[simp] theorem accept_win_self (s : State) (p : Port) (b : Nat) :
    (s.accept p b).win p = { s.win p with state := .accepted, code := .accepted, rlen := 0, acc := s.lt, bound := s.lt + b } := by
  simp [accept]

theorem accept_win_ne (s : State) {p q : Port} (b : Nat) (h : q ≠ p) : (s.accept p b).win q = s.win q := updWin_win_ne _ _ h

theorem accept_eq (p : Port) (b : Nat) (s : State) : s.accept p b = { s with wins := (s.accept p b).wins } := rfl

@[simp] theorem finish_win_self (s : State) (p : Port) (c : Code) (r : Bytes) : (s.finish p c r).win p = endWin c r s.lt p (s.win p) := by
  unfold finish; simp only; split <;> simp

theorem finish_win_ne (s : State) {p q : Port} (c : Code) (r : Bytes) (h : q ≠ p) : (s.finish p c r).win q = s.win q := by
  unfold finish; simp only; split <;> simp [updWin_win_ne _ _ h]

/-- A command's end touches the windows, the messages sent and the pending-bit array alone. -/
theorem finish_eq (p : Port) (c : Code) (r : Bytes) (s : State) :
    s.finish p c r =
      { s with wins := (s.finish p c r).wins, bus := { s.bus with pba := (s.finish p c r).bus.pba }, out := (s.finish p c r).out } := by
  unfold finish; simp only; split
  · rfl
  · rw [winMessage_eq]; rfl

theorem refuse_eq (p : Port) (c : Code) (s : State) :
    s.refuse p c =
      { s with wins := (s.refuse p c).wins, bus := { s.bus with pba := (s.refuse p c).bus.pba }, out := (s.refuse p c).out } := by
  unfold refuse; rw [winMessage_eq]; rfl

@[simp] theorem refuse_win_self (s : State) (p : Port) (c : Code) :
    (s.refuse p c).win p = { s.win p with state := .refused, code := c, rlen := 0, acc := s.lt } := by
  simp [refuse]

theorem refuse_win_ne (s : State) {p q : Port} (c : Code) (h : q ≠ p) : (s.refuse p c).win q = s.win q := by
  simp [refuse, updWin_win_ne _ _ h]

theorem answer_eq (p : Port) (b : Nat) (c : Code) (r : Bytes) (s : State) :
    s.answer p b c r =
      { s with wins := (s.answer p b c r).wins, bus := { s.bus with pba := (s.answer p b c r).bus.pba }, out := (s.answer p b c r).out } := by
  unfold answer; rw [finish_eq]; rfl

@[simp] theorem answer_win_self (s : State) (p : Port) (b : Nat) (c : Code) (r : Bytes) (h : (s.win p).orphan = false) :
    (s.answer p b c r).win p = { s.win p with
      state := .done, code := c, rlen := r.length, acc := s.lt, bound := s.lt + b, done := s.lt, data := Mem.cells 0 0 r,
      notice := decide (p = 7) } := by
  simp [answer, endWin, h]; rfl

theorem answer_win_ne (s : State) {p q : Port} (b : Nat) (c : Code) (r : Bytes) (h : q ≠ p) : (s.answer p b c r).win q = s.win q := by
  simp [answer, finish_win_ne _ _ _ h, accept_win_ne _ _ h]

/-! ### Counters and the log (R547, R606, R610 to R613) -/

@[simp] theorem count_ctrVal_self (s : State) (c : Nat) : (s.count c).ctrVal c = min (s.ctrVal c + 1) (2 ^ 64 - 1) := Assoc.get_set_self ..

theorem count_ctrVal_ne (s : State) {c c' : Nat} (h : c' ≠ c) : (s.count c).ctrVal c' = s.ctrVal c' := Assoc.get_set_ne _ _ _ h

theorem count_eq (c : Nat) (s : State) : s.count c = { s with ctr := (s.count c).ctr } := rfl

theorem logEntry_eq (a b c d : Nat) (s : State) : s.logEntry a b c d = { s with ctr := (s.logEntry a b c d).ctr } := rfl

theorem supersede_eq (i : Fin 8) (c : Nat) (s : State) :
    s.supersede i c = { s with ctr := (s.supersede i c).ctr, integ := (s.supersede i c).integ } := rfl

theorem countN_eq (c n : Nat) (s : State) : s.countN c n = { s with ctr := (s.countN c n).ctr } := by
  have key : ∀ (l : List Nat) (t : State),
      l.foldl (fun (s : State) _ => s.count c) t = { t with ctr := (l.foldl (fun (s : State) _ => s.count c) t).ctr } := by
    intro l
    induction l with
    | nil => intro t; rfl
    | cons x l ih => intro t; simp only [List.foldl_cons]; rw [ih]; rfl
  exact key _ _

/-- An error touches the counters, the log and, of a slot's running action, what the policy keeps for the slot. -/
theorem raise_eq (c lv : Nat) (sc : Scope) (s : State) :
    s.raise c lv sc = { s with ctr := (s.raise c lv sc).ctr, integ := (s.raise c lv sc).integ } := by
  have key : ∀ (l : List (Fin 8)) (t : State),
      l.foldl (fun t i => if 2 ≤ t.runningLevel (some i) then t.supersede i c else t) t =
        { t with
          ctr := (l.foldl (fun (t : State) i => if 2 ≤ t.runningLevel (some i) then t.supersede i c else t) t).ctr
          integ := (l.foldl (fun (t : State) i => if 2 ≤ t.runningLevel (some i) then t.supersede i c else t) t).integ } := by
    intro l
    induction l with
    | nil => intro t; rfl
    | cons x l ih =>
      intro t
      simp only [List.foldl_cons]
      rw [ih]
      split <;> rfl
  unfold raise
  simp only
  split
  · rfl
  · split
    · split <;> rfl
    · split
      · rw [key]; rfl
      · rfl

theorem notice_eq (c : Nat) (s : State) : s.notice c = { s with ctr := (s.notice c).ctr, integ := (s.notice c).integ } := raise_eq ..

theorem noticeSlot_eq (c : Nat) (i : Fin 8) (s : State) :
    s.noticeSlot c i = { s with ctr := (s.noticeSlot c i).ctr, integ := (s.noticeSlot c i).integ } := raise_eq ..

/-! ### Submissions (R93 to R97) -/

theorem fill_eq (op : Nat) (tag : BitVec 32) (ps : Bytes) (p : Port) (s : State) : s.fill op tag ps p = { s with wins := (s.fill op tag ps p).wins } := rfl

theorem pend_eq (p : Port) (s : State) : s.pend p = { s with wins := (s.pend p).wins } := rfl

theorem loaded_eq (o : OpSpec) (p : Port) (tag : BitVec 32) (ps : Bytes) (s : State) :
    s.loaded o p tag ps = { s with wins := (s.loaded o p tag ps).wins } := rfl

@[simp] theorem loaded_win_self (s : State) (o : OpSpec) (p : Port) (tag : BitVec 32) (ps : Bytes) :
    (s.loaded o p tag ps).win p = { s.win p with
      opcode := BitVec.ofNat 16 o.opcode, tag := tag, plen := BitVec.ofNat 12 ps.length, orphan := false, notice := false
      data := Mem.write 0 (if p = 7 then [] else (s.win p).data) 0 (ps.take 3840), state := .pending } := by
  simp [loaded, pend, fill]

theorem loaded_win_ne (s : State) (o : OpSpec) {p q : Port} (tag : BitVec 32) (ps : Bytes) (h : q ≠ p) :
    (s.loaded o p tag ps).win q = s.win q := by
  simp [loaded, pend, fill, updWin_win_ne _ _ h]

/-- The parameters that a window holds after a submission are those submitted. -/
theorem params_loaded (s : State) (o : OpSpec) (p : Port) (tag : BitVec 32) (ps : Bytes) (h : ps.length ≤ 3840) :
    (s.loaded o p tag ps).params p = ps := by
  have hl : ps.length % 4096 = ps.length := Nat.mod_eq_of_lt (by omega)
  simp only [params, loaded_win_self, BitVec.toNat_ofNat, List.take_of_length_le h]
  rw [show (2 : Nat) ^ 12 = 4096 from rfl, hl]
  exact Mem.read_write ..

/-- What a port's submission comes to once the command is taken: its meaning, and on the sideband the response. -/
def ended (o : OpSpec) (p : Port) (t : State) : State := if p = 7 then t.sbRespond o.opcode else t

theorem portOpen_goWith (s : State) (o : OpSpec) (p : Port) (tag : BitVec 32) (ps : Bytes) (hp : s.portOpen p = true) :
    s.submit o p tag ps = ended o p (((s.fill o.opcode tag ps p)).goWith (some o) p) := by
  unfold portOpen at hp
  simp only [Bool.and_eq_true, Bool.not_eq_true'] at hp
  obtain ⟨hp, hb⟩ := hp
  by_cases h7 : p = 7
  · subst h7
    simp only [if_true, Bool.and_eq_true] at hp
    have h2 : s.sess.i3cAddr.isNone = false := by
      cases h : s.sess.i3cAddr <;> simp [h] at hp ⊢
    simp [submit, ended, submitSideband, hp.1, h2, hb]
  · simp only [if_neg h7, Bool.and_eq_true] at hp
    simp [submit, ended, submitHost, h7, hp.1, hb]

theorem keeperServed_loaded (s : State) (o : OpSpec) (p : Port) (tag : BitVec 32) (ps : Bytes) :
    (s.loaded o p tag ps).keeperServed = s.keeperServed := rfl

theorem hostServed_loaded (s : State) (o : OpSpec) (p : Port) (tag : BitVec 32) (ps : Bytes) :
    (s.loaded o p tag ps).hostServed = s.hostServed := rfl

/-- On an open port a submission is judged by the checks of R97. -/
theorem submit_open (s : State) (o : OpSpec) (p : Port) (tag : BitVec 32) (ps : Bytes) (hp : s.portOpen p = true) (hl : ps.length ≤ 3840) :
    s.submit o p tag ps = ended o p (o.decide p ps (s.loaded o p tag ps)) := by
  rw [portOpen_goWith s o p tag ps hp]
  unfold portOpen at hp
  simp only [Bool.and_eq_true, Bool.not_eq_true'] at hp
  obtain ⟨hp, hb⟩ := hp
  have hk : s.keeperServed = true := by
    by_cases h7 : p = 7
    · simp only [h7, if_true, Bool.and_eq_true] at hp; exact hp.1
    · simp only [if_neg h7, Bool.and_eq_true, pcieUp] at hp; exact hp.1.1.1
  have hh : (decide (p.1 < 6) && !s.hostServed) = false := by
    by_cases h7 : p = 7
    · subst h7; rfl
    · simp only [if_neg h7, Bool.and_eq_true, Bool.or_eq_true, decide_eq_true_eq] at hp
      rcases hp.2 with h | h
      · simp [show ¬ p.1 < 6 by omega]
      · simp [h]
  have e : (s.fill o.opcode tag ps p).pend p = s.loaded o p tag ps := rfl
  have hd : s.goWith (some o) p = s.goWith (some o) p := rfl
  unfold goWith
  simp only [e, params_loaded s o p tag ps hl, keeperServed_loaded, hostServed_loaded, hk]
  have : (decide (p.1 < 6) && true && !s.hostServed) = false := by simpa using hh
  simp only [this, Bool.not_true, Bool.false_eq_true, if_false]

/-- An admitted submission runs its opcode's meaning on the window it filled. -/
theorem submit_admitted {s : State} {o : OpSpec} {p : Port} {tag : BitVec 32} {ps : Bytes} (h : s.admits o p tag ps = true) :
    s.submit o p tag ps = ended o p (o.run p ps (s.boundOf o p tag ps) (s.loaded o p tag ps)) := by
  unfold admits at h
  simp only [Bool.and_eq_true, decide_eq_true_eq] at h
  rw [submit_open s o p tag ps h.1.1 h.1.2]
  have hv : o.verdict p ps (s.loaded o p tag ps) = none := Option.isNone_iff_eq_none.mp h.2
  simp [OpSpec.decide, hv, boundOf]

/-- A submission whose first failing check has a code is refused with it. -/
theorem submit_refused {s : State} {o : OpSpec} {p : Port} {tag : BitVec 32} {ps : Bytes} {c : Code} (hp : s.portOpen p = true)
    (hl : ps.length ≤ 3840) (hv : o.verdict p ps (s.loaded o p tag ps) = some c) :
    s.submit o p tag ps = ended o p
      ((if o.served p (s.loaded o p tag ps) && o.negotiated p (s.loaded o p tag ps) then o.refused p ps (s.loaded o p tag ps)
        else s.loaded o p tag ps).refuse p c) := by
  rw [submit_open s o p tag ps hp hl]
  simp [OpSpec.decide, hv]

/-! ### What an admitted submission comes to -/

theorem settled_congr {s t : State} (h : { s with wins := t.wins, out := t.out, free := t.free, bus := { s.bus with pba := t.bus.pba } } = t) :
    s.settled = t.settled := by rw [← h]; rfl

@[simp] theorem settled_updWin (p : Port) (f : Window → Window) (s : State) : (s.updWin p f).settled = s.settled := rfl

@[simp] theorem settled_winMessage (p : Port) (s : State) : (s.winMessage p).settled = s.settled := by rw [winMessage_eq]; rfl

@[simp] theorem settled_accept (p : Port) (b : Nat) (s : State) : (s.accept p b).settled = s.settled := rfl

@[simp] theorem settled_finish (p : Port) (c : Code) (r : Bytes) (s : State) : (s.finish p c r).settled = s.settled := by rw [finish_eq]; rfl

@[simp] theorem settled_answer (p : Port) (b : Nat) (c : Code) (r : Bytes) (s : State) : (s.answer p b c r).settled = s.settled := by
  rw [answer_eq]; rfl

@[simp] theorem settled_loaded (o : OpSpec) (p : Port) (tag : BitVec 32) (ps : Bytes) (s : State) : (s.loaded o p tag ps).settled = s.settled := rfl

theorem settled_draftTouch (op : Nat) (s : State) : (s.draftTouch op).settled = s.settled := by
  unfold draftTouch
  split
  · cases h : s.cfg.draft with
    | none => simp [settled, h]
    | some d => by_cases hd : d.owner = 7 <;> simp [settled, h, hd]
  · rfl

theorem draftTouch_wins (op : Nat) (s : State) : (s.draftTouch op).wins = s.wins := by unfold draftTouch; split <;> rfl

@[simp] theorem settled_ended (o : OpSpec) (p : Port) (t : State) : (ended o p t).settled = t.settled := by
  unfold ended; split
  · exact settled_draftTouch _ _
  · rfl

theorem ended_win_ne (o : OpSpec) {p q : Port} (t : State) (h : q ≠ p) : (ended o p t).win q = t.win q := by
  unfold ended; split
  · rename_i h7
    subst h7
    unfold sbRespond
    rw [updWin_win_ne _ _ h]
    show ((t.draftTouch _).wins).get q = _
    rw [draftTouch_wins]; rfl
  · rfl

/-- On the sideband the response clears the notice that is owed; else the window stands. -/
theorem ended_win_self (o : OpSpec) (p : Port) (t : State) :
    (ended o p t).win p = { t.win p with notice := !decide (p = 7) && (t.win p).notice } := by
  unfold ended; split
  · rename_i h7
    subst h7
    unfold sbRespond
    rw [updWin_win_self]
    show ({ ((t.draftTouch _).wins).get 7 with notice := false } : Window) = _
    rw [draftTouch_wins]; simp [win]
  · rename_i h7; simp [h7]

/-- An admitted submission whose meaning answers: its window shows so, and the other windows are as the meaning leaves them. -/
theorem submit_ended {s E : State} {o : OpSpec} {p : Port} {tag : BitVec 32} {ps : Bytes} {b : Nat} {c : Code} {r : Bytes}
    (h : s.admits o p tag ps = true)
    (hr : o.run p ps (s.boundOf o p tag ps) (s.loaded o p tag ps) = E.answer p b c r)
    (hw : E.win p = (s.loaded o p tag ps).win p) (hl : E.lt = s.lt) :
    (s.submit o p tag ps).Ended o p tag c r s.lt b ∧ (s.submit o p tag ps).settled = E.settled := by
  have ho : (E.win p).orphan = false := by rw [hw]; simp
  rw [submit_admitted h, hr]
  exact ⟨by simp [Ended, ended_win_self, answer_win_self _ _ _ _ _ ho, hl, hw], by simp⟩

/-- An admitted submission whose meaning leaves the windows as an answer does. -/
theorem submit_ends {s E X e : State} {o : OpSpec} {p : Port} {tag : BitVec 32} {ps : Bytes} {b : Nat} {c : Code} {r : Bytes}
    (h : s.admits o p tag ps = true)
    (hr : o.run p ps (s.boundOf o p tag ps) (s.loaded o p tag ps) = X)
    (hX : X.wins = (E.answer p b c r).wins)
    (hw : E.wins = (s.loaded o p tag ps).wins) (hl : E.lt = s.lt) (he : X.settled = e.settled) :
    AnsweredAs s (s.submit o p tag ps) e o p tag c r b := by
  have hp : E.win p = (s.loaded o p tag ps).win p := by simp [win, hw]
  have ho : (E.win p).orphan = false := by rw [hp]; simp
  have hx : ∀ q, X.win q = (E.answer p b c r).win q := fun q => by simp [win, hX]
  rw [submit_admitted h, hr]
  refine ⟨?_, ?_, ?_⟩
  · simp [Ended, ended_win_self, hx, answer_win_self _ _ _ _ _ ho, hl, hp]
  · intro q hq
    rw [ended_win_ne _ _ hq, hx, answer_win_ne _ _ _ _ hq]
    show E.wins.get q = _
    rw [hw]; exact loaded_win_ne _ _ _ _ hq
  · simp [he]

/-- An admitted submission whose meaning answers. -/
theorem submit_answered {s E e : State} {o : OpSpec} {p : Port} {tag : BitVec 32} {ps : Bytes} {b : Nat} {c : Code} {r : Bytes}
    (h : s.admits o p tag ps = true)
    (hr : o.run p ps (s.boundOf o p tag ps) (s.loaded o p tag ps) = E.answer p b c r)
    (hw : E.wins = (s.loaded o p tag ps).wins) (hl : E.lt = s.lt) (he : E.settled = e.settled) :
    AnsweredAs s (s.submit o p tag ps) e o p tag c r b :=
  submit_ends h hr rfl hw hl (by simpa using he)

/-- An admitted submission whose meaning accepts and leaves the window so. -/
theorem submit_waits {s E e : State} {o : OpSpec} {p : Port} {tag : BitVec 32} {ps : Bytes} {b : Nat}
    (h : s.admits o p tag ps = true)
    (hr : o.run p ps (s.boundOf o p tag ps) (s.loaded o p tag ps) = E)
    (hw : E.wins = ((s.loaded o p tag ps).accept p b).wins) (he : E.settled = e.settled) :
    WaitsAs s (s.submit o p tag ps) e o p tag ps b := by
  have hps : ps.length ≤ 3840 := by
    unfold admits at h; simp only [Bool.and_eq_true, decide_eq_true_eq] at h; exact h.1.2
  have hp : E.win p = ((s.loaded o p tag ps).accept p b).win p := by simp [win, hw]
  rw [submit_admitted h, hr]
  have hlt : (s.loaded o p tag ps).lt = s.lt := rfl
  refine ⟨?_, ?_, ?_, ?_⟩
  · simp [Waits, ended_win_self, hp, hlt]
  · have := params_loaded s o p tag ps hps
    simpa [params, ended_win_self, hp] using this
  · intro q hq
    rw [ended_win_ne _ _ hq]
    show E.wins.get q = _
    rw [hw]
    show ((s.loaded o p tag ps).accept p b).win q = _
    rw [accept_win_ne _ _ hq]; exact loaded_win_ne _ _ _ _ hq
  · simp [he]

end State

end Sys2Proof.Machine
end

