-- ==== Sys2Proof/Laws/Keeps.lean ====
section
/-!
SUPPORT. What an operation may touch: a relation between the state before and after it, and how it composes. Every later frame and the invariant
go through it.
-/

namespace Sys2Proof.Machine

/-- `t` comes from `s` by an operation that touches the parts of `l` alone, leaves the queue, and keeps the invariant. -/
structure Keeps (l : List Part) (s t : State) : Prop extends SameBut l s t where
  inv : s.Inv → t.Inv

theorem Part.mem_all (x : Part) : x ∈ Part.all := by cases x <;> decide

namespace Keeps

variable {l m : List Part} {s t u : State}

theorem refl (l : List Part) (s : State) : Keeps l s s where
  toSameBut := by constructor <;> intros <;> rfl
  inv := fun i => i

/-- One more operation after others. -/
theorem step (h : Keeps l s t) (g : Keeps m t u) (hm : ∀ x ∈ m, x ∈ l) : Keeps l s u := by
  refine ⟨?_, fun i => g.inv (h.inv i)⟩
  constructor
  case pending => exact g.pending.trans h.pending
  all_goals intro n
  · exact (g.dev (fun x => n (hm _ x))).trans (h.dev n)
  · exact (g.bus (fun x => n (hm _ x))).trans (h.bus n)
  · exact (g.wins (fun x => n (hm _ x))).trans (h.wins n)
  · exact (g.sess (fun x => n (hm _ x))).trans (h.sess n)
  · exact (g.cfg (fun x => n (hm _ x))).trans (h.cfg n)
  · exact (g.weir (fun x => n (hm _ x))).trans (h.weir n)
  · exact (g.casc (fun x => n (hm _ x))).trans (h.casc n)
  · exact (g.cool (fun x => n (hm _ x))).trans (h.cool n)
  · exact (g.cad (fun x => n (hm _ x))).trans (h.cad n)
  · exact (g.gop (fun x => n (hm _ x))).trans (h.gop n)
  · exact (g.chk (fun x => n (hm _ x))).trans (h.chk n)
  · exact (g.basin (fun x => n (hm _ x))).trans (h.basin n)
  · exact (g.integ (fun x => n (hm _ x))).trans (h.integ n)
  · exact (g.slots (fun x => n (hm _ x))).trans (h.slots n)
  · exact (g.boot (fun x => n (hm _ x))).trans (h.boot n)
  · exact (g.upd (fun x => n (hm _ x))).trans (h.upd n)
  · exact (g.rst (fun x => n (hm _ x))).trans (h.rst n)
  · exact (g.ctr (fun x => n (hm _ x))).trans (h.ctr n)
  · exact (g.out (fun x => n (hm _ x))).trans (h.out n)
  · exact (g.free (fun x => n (hm _ x))).trans (h.free n)

theorem foldl {α : Type} (xs : List α) (f : State → α → State) (h : Keeps l s t) (g : ∀ x a, Keeps l s x → Keeps l s (f x a)) :
    Keeps l s (xs.foldl f t) := by
  induction xs generalizing t with
  | nil => exact h
  | cons a xs ih => exact ih (g t a h)

theorem ite (c : Prop) [Decidable c] (ht : Keeps l s t) (hu : Keeps l s u) : Keeps l s (if c then t else u) := by split <;> assumption

end Keeps

end Sys2Proof.Machine
end

