-- ==== Sys2Proof/Laws/KeepsSet.lean ====
section
/-!
SUPPORT. Writing parts of the state.
-/

namespace Sys2Proof.Machine
namespace Keeps
variable {l m : List Part} {s t u : State}
theorem set_dev (v_dev : DevSt) (h : Keeps l s t) (hm : ∀ x ∈ ([.dev] : List Part), x ∈ l)
     :
    Keeps l s { t with dev := v_dev } := by
  refine h.step (m := [.dev]) ?_ hm
  refine ⟨by constructor <;> intros <;> first | rfl | (exfalso; revert ‹_ ∉ _›; decide), fun i => ?_⟩
  exact ⟨⟨i.1.1, i.1.2.1, i.1.2.2.1, i.1.2.2.2.1, i.1.2.2.2.2.1, i.1.2.2.2.2.2.1, i.1.2.2.2.2.2.2.1, i.1.2.2.2.2.2.2.2⟩, i.2.1, i.2.2⟩

theorem set_dev_bus_wins_sess_cfg_weir_casc_cool_cad_gop_chk_basin_integ_slots_boot_upd_rst (v_dev : DevSt) (v_bus : BusSt) (v_wins : Vector Window 8) (v_sess : SessSt) (v_cfg : CfgSt) (v_weir : WeirSt) (v_casc : CascSt) (v_cool : CoolSt) (v_cad : CadSt) (v_gop : GopSt) (v_chk : ChkSt) (v_basin : BasinSt) (v_integ : IntSt) (v_slots : Vector SlotSt 8) (v_boot : BootSt) (v_upd : UpdSt) (v_rst : RstSt) (h : Keeps l s t) (hm : ∀ x ∈ ([.dev, .bus, .wins, .sess, .cfg, .weir, .casc, .cool, .cad, .gop, .chk, .basin, .integ, .slots, .boot, .upd, .rst] : List Part), x ∈ l)
    (i0_bus : Mem.wf 0 t.bus.msixTable = true → Mem.wf 0 (v_bus).msixTable = true)
    (i0_wins : (∀ p : Port, Mem.wf 0 (t.wins.get p).data = true) → ∀ p : Port, Mem.wf 0 ((v_wins).get p).data = true)
    (i0_chk : Mem.wf 0 t.chk.bar4 = true → Mem.wf 0 (v_chk).bar4 = true)
    (i0_basin : Mem.wf 0 t.basin.mem = true → Mem.wf 0 (v_basin).mem = true)
    (i0_boot : Mem.wf 0xFF t.boot.flash = true → Mem.wf 0xFF (v_boot).flash = true)
    (i1_boot : Mem.wf 0 t.boot.rcvBuf = true → Mem.wf 0 (v_boot).rcvBuf = true)
    (i2_boot : Mem.wf 0 t.boot.bootBuf = true → Mem.wf 0 (v_boot).bootBuf = true)
    (i0_upd : Mem.wf 0 t.upd.block = true → Mem.wf 0 (v_upd).block = true) :
    Keeps l s { t with dev := v_dev, bus := v_bus, wins := v_wins, sess := v_sess, cfg := v_cfg, weir := v_weir, casc := v_casc, cool := v_cool, cad := v_cad, gop := v_gop, chk := v_chk, basin := v_basin, integ := v_integ, slots := v_slots, boot := v_boot, upd := v_upd, rst := v_rst } := by
  refine h.step (m := [.dev, .bus, .wins, .sess, .cfg, .weir, .casc, .cool, .cad, .gop, .chk, .basin, .integ, .slots, .boot, .upd, .rst]) ?_ hm
  refine ⟨by constructor <;> intros <;> first | rfl | (exfalso; revert ‹_ ∉ _›; decide), fun i => ?_⟩
  exact ⟨⟨i0_basin i.1.1, i0_chk i.1.2.1, i0_boot i.1.2.2.1, i1_boot i.1.2.2.2.1, i2_boot i.1.2.2.2.2.1, i0_bus i.1.2.2.2.2.2.1, i0_upd i.1.2.2.2.2.2.2.1, i0_wins i.1.2.2.2.2.2.2.2⟩, i.2.1, i.2.2⟩

theorem set_dev_cfg_cad_gop_boot_upd (v_dev : DevSt) (v_cfg : CfgSt) (v_cad : CadSt) (v_gop : GopSt) (v_boot : BootSt) (v_upd : UpdSt) (h : Keeps l s t) (hm : ∀ x ∈ ([.dev, .cfg, .cad, .gop, .boot, .upd] : List Part), x ∈ l)
    (i0_boot : Mem.wf 0xFF t.boot.flash = true → Mem.wf 0xFF (v_boot).flash = true)
    (i1_boot : Mem.wf 0 t.boot.rcvBuf = true → Mem.wf 0 (v_boot).rcvBuf = true)
    (i2_boot : Mem.wf 0 t.boot.bootBuf = true → Mem.wf 0 (v_boot).bootBuf = true)
    (i0_upd : Mem.wf 0 t.upd.block = true → Mem.wf 0 (v_upd).block = true) :
    Keeps l s { t with dev := v_dev, cfg := v_cfg, cad := v_cad, gop := v_gop, boot := v_boot, upd := v_upd } := by
  refine h.step (m := [.dev, .cfg, .cad, .gop, .boot, .upd]) ?_ hm
  refine ⟨by constructor <;> intros <;> first | rfl | (exfalso; revert ‹_ ∉ _›; decide), fun i => ?_⟩
  exact ⟨⟨i.1.1, i.1.2.1, i0_boot i.1.2.2.1, i1_boot i.1.2.2.2.1, i2_boot i.1.2.2.2.2.1, i.1.2.2.2.2.2.1, i0_upd i.1.2.2.2.2.2.2.1, i.1.2.2.2.2.2.2.2⟩, i.2.1, i.2.2⟩

theorem set_dev_cool (v_dev : DevSt) (v_cool : CoolSt) (h : Keeps l s t) (hm : ∀ x ∈ ([.dev, .cool] : List Part), x ∈ l)
     :
    Keeps l s { t with dev := v_dev, cool := v_cool } := by
  refine h.step (m := [.dev, .cool]) ?_ hm
  refine ⟨by constructor <;> intros <;> first | rfl | (exfalso; revert ‹_ ∉ _›; decide), fun i => ?_⟩
  exact ⟨⟨i.1.1, i.1.2.1, i.1.2.2.1, i.1.2.2.2.1, i.1.2.2.2.2.1, i.1.2.2.2.2.2.1, i.1.2.2.2.2.2.2.1, i.1.2.2.2.2.2.2.2⟩, i.2.1, i.2.2⟩

theorem set_dev_cool_boot_rst (v_dev : DevSt) (v_cool : CoolSt) (v_boot : BootSt) (v_rst : RstSt) (h : Keeps l s t) (hm : ∀ x ∈ ([.dev, .cool, .boot, .rst] : List Part), x ∈ l)
    (i0_boot : Mem.wf 0xFF t.boot.flash = true → Mem.wf 0xFF (v_boot).flash = true)
    (i1_boot : Mem.wf 0 t.boot.rcvBuf = true → Mem.wf 0 (v_boot).rcvBuf = true)
    (i2_boot : Mem.wf 0 t.boot.bootBuf = true → Mem.wf 0 (v_boot).bootBuf = true) :
    Keeps l s { t with dev := v_dev, cool := v_cool, boot := v_boot, rst := v_rst } := by
  refine h.step (m := [.dev, .cool, .boot, .rst]) ?_ hm
  refine ⟨by constructor <;> intros <;> first | rfl | (exfalso; revert ‹_ ∉ _›; decide), fun i => ?_⟩
  exact ⟨⟨i.1.1, i.1.2.1, i0_boot i.1.2.2.1, i1_boot i.1.2.2.2.1, i2_boot i.1.2.2.2.2.1, i.1.2.2.2.2.2.1, i.1.2.2.2.2.2.2.1, i.1.2.2.2.2.2.2.2⟩, i.2.1, i.2.2⟩

theorem set_dev_cad (v_dev : DevSt) (v_cad : CadSt) (h : Keeps l s t) (hm : ∀ x ∈ ([.dev, .cad] : List Part), x ∈ l)
     :
    Keeps l s { t with dev := v_dev, cad := v_cad } := by
  refine h.step (m := [.dev, .cad]) ?_ hm
  refine ⟨by constructor <;> intros <;> first | rfl | (exfalso; revert ‹_ ∉ _›; decide), fun i => ?_⟩
  exact ⟨⟨i.1.1, i.1.2.1, i.1.2.2.1, i.1.2.2.2.1, i.1.2.2.2.2.1, i.1.2.2.2.2.2.1, i.1.2.2.2.2.2.2.1, i.1.2.2.2.2.2.2.2⟩, i.2.1, i.2.2⟩

theorem set_dev_chk (v_dev : DevSt) (v_chk : ChkSt) (h : Keeps l s t) (hm : ∀ x ∈ ([.dev, .chk] : List Part), x ∈ l)
    (i0_chk : Mem.wf 0 t.chk.bar4 = true → Mem.wf 0 (v_chk).bar4 = true) :
    Keeps l s { t with dev := v_dev, chk := v_chk } := by
  refine h.step (m := [.dev, .chk]) ?_ hm
  refine ⟨by constructor <;> intros <;> first | rfl | (exfalso; revert ‹_ ∉ _›; decide), fun i => ?_⟩
  exact ⟨⟨i.1.1, i0_chk i.1.2.1, i.1.2.2.1, i.1.2.2.2.1, i.1.2.2.2.2.1, i.1.2.2.2.2.2.1, i.1.2.2.2.2.2.2.1, i.1.2.2.2.2.2.2.2⟩, i.2.1, i.2.2⟩

theorem set_dev_basin (v_dev : DevSt) (v_basin : BasinSt) (h : Keeps l s t) (hm : ∀ x ∈ ([.dev, .basin] : List Part), x ∈ l)
    (i0_basin : Mem.wf 0 t.basin.mem = true → Mem.wf 0 (v_basin).mem = true) :
    Keeps l s { t with dev := v_dev, basin := v_basin } := by
  refine h.step (m := [.dev, .basin]) ?_ hm
  refine ⟨by constructor <;> intros <;> first | rfl | (exfalso; revert ‹_ ∉ _›; decide), fun i => ?_⟩
  exact ⟨⟨i0_basin i.1.1, i.1.2.1, i.1.2.2.1, i.1.2.2.2.1, i.1.2.2.2.2.1, i.1.2.2.2.2.2.1, i.1.2.2.2.2.2.2.1, i.1.2.2.2.2.2.2.2⟩, i.2.1, i.2.2⟩

theorem set_dev_boot (v_dev : DevSt) (v_boot : BootSt) (h : Keeps l s t) (hm : ∀ x ∈ ([.dev, .boot] : List Part), x ∈ l)
    (i0_boot : Mem.wf 0xFF t.boot.flash = true → Mem.wf 0xFF (v_boot).flash = true)
    (i1_boot : Mem.wf 0 t.boot.rcvBuf = true → Mem.wf 0 (v_boot).rcvBuf = true)
    (i2_boot : Mem.wf 0 t.boot.bootBuf = true → Mem.wf 0 (v_boot).bootBuf = true) :
    Keeps l s { t with dev := v_dev, boot := v_boot } := by
  refine h.step (m := [.dev, .boot]) ?_ hm
  refine ⟨by constructor <;> intros <;> first | rfl | (exfalso; revert ‹_ ∉ _›; decide), fun i => ?_⟩
  exact ⟨⟨i.1.1, i.1.2.1, i0_boot i.1.2.2.1, i1_boot i.1.2.2.2.1, i2_boot i.1.2.2.2.2.1, i.1.2.2.2.2.2.1, i.1.2.2.2.2.2.2.1, i.1.2.2.2.2.2.2.2⟩, i.2.1, i.2.2⟩

theorem set_dev_boot_rst (v_dev : DevSt) (v_boot : BootSt) (v_rst : RstSt) (h : Keeps l s t) (hm : ∀ x ∈ ([.dev, .boot, .rst] : List Part), x ∈ l)
    (i0_boot : Mem.wf 0xFF t.boot.flash = true → Mem.wf 0xFF (v_boot).flash = true)
    (i1_boot : Mem.wf 0 t.boot.rcvBuf = true → Mem.wf 0 (v_boot).rcvBuf = true)
    (i2_boot : Mem.wf 0 t.boot.bootBuf = true → Mem.wf 0 (v_boot).bootBuf = true) :
    Keeps l s { t with dev := v_dev, boot := v_boot, rst := v_rst } := by
  refine h.step (m := [.dev, .boot, .rst]) ?_ hm
  refine ⟨by constructor <;> intros <;> first | rfl | (exfalso; revert ‹_ ∉ _›; decide), fun i => ?_⟩
  exact ⟨⟨i.1.1, i.1.2.1, i0_boot i.1.2.2.1, i1_boot i.1.2.2.2.1, i2_boot i.1.2.2.2.2.1, i.1.2.2.2.2.2.1, i.1.2.2.2.2.2.2.1, i.1.2.2.2.2.2.2.2⟩, i.2.1, i.2.2⟩

theorem set_dev_rst (v_dev : DevSt) (v_rst : RstSt) (h : Keeps l s t) (hm : ∀ x ∈ ([.dev, .rst] : List Part), x ∈ l)
     :
    Keeps l s { t with dev := v_dev, rst := v_rst } := by
  refine h.step (m := [.dev, .rst]) ?_ hm
  refine ⟨by constructor <;> intros <;> first | rfl | (exfalso; revert ‹_ ∉ _›; decide), fun i => ?_⟩
  exact ⟨⟨i.1.1, i.1.2.1, i.1.2.2.1, i.1.2.2.2.1, i.1.2.2.2.2.1, i.1.2.2.2.2.2.1, i.1.2.2.2.2.2.2.1, i.1.2.2.2.2.2.2.2⟩, i.2.1, i.2.2⟩

theorem set_dev_rst_ctr (v_dev : DevSt) (v_rst : RstSt) (v_ctr : CtrSt) (h : Keeps l s t) (hm : ∀ x ∈ ([.dev, .rst, .ctr] : List Part), x ∈ l)
    (i0_ctr : (∀ e ∈ t.ctr.vals, e.2 ≤ 2 ^ 64 - 1) → ∀ e ∈ (v_ctr).vals, e.2 ≤ 2 ^ 64 - 1)
    (i1_ctr : t.ctr.log.length ≤ 16384 → (v_ctr).log.length ≤ 16384) :
    Keeps l s { t with dev := v_dev, rst := v_rst, ctr := v_ctr } := by
  refine h.step (m := [.dev, .rst, .ctr]) ?_ hm
  refine ⟨by constructor <;> intros <;> first | rfl | (exfalso; revert ‹_ ∉ _›; decide), fun i => ?_⟩
  exact ⟨⟨i.1.1, i.1.2.1, i.1.2.2.1, i.1.2.2.2.1, i.1.2.2.2.2.1, i.1.2.2.2.2.2.1, i.1.2.2.2.2.2.2.1, i.1.2.2.2.2.2.2.2⟩, i0_ctr i.2.1, i1_ctr i.2.2⟩

theorem set_bus (v_bus : BusSt) (h : Keeps l s t) (hm : ∀ x ∈ ([.bus] : List Part), x ∈ l)
    (i0_bus : Mem.wf 0 t.bus.msixTable = true → Mem.wf 0 (v_bus).msixTable = true) :
    Keeps l s { t with bus := v_bus } := by
  refine h.step (m := [.bus]) ?_ hm
  refine ⟨by constructor <;> intros <;> first | rfl | (exfalso; revert ‹_ ∉ _›; decide), fun i => ?_⟩
  exact ⟨⟨i.1.1, i.1.2.1, i.1.2.2.1, i.1.2.2.2.1, i.1.2.2.2.2.1, i0_bus i.1.2.2.2.2.2.1, i.1.2.2.2.2.2.2.1, i.1.2.2.2.2.2.2.2⟩, i.2.1, i.2.2⟩

theorem set_bus_sess (v_bus : BusSt) (v_sess : SessSt) (h : Keeps l s t) (hm : ∀ x ∈ ([.bus, .sess] : List Part), x ∈ l)
    (i0_bus : Mem.wf 0 t.bus.msixTable = true → Mem.wf 0 (v_bus).msixTable = true) :
    Keeps l s { t with bus := v_bus, sess := v_sess } := by
  refine h.step (m := [.bus, .sess]) ?_ hm
  refine ⟨by constructor <;> intros <;> first | rfl | (exfalso; revert ‹_ ∉ _›; decide), fun i => ?_⟩
  exact ⟨⟨i.1.1, i.1.2.1, i.1.2.2.1, i.1.2.2.2.1, i.1.2.2.2.2.1, i0_bus i.1.2.2.2.2.2.1, i.1.2.2.2.2.2.2.1, i.1.2.2.2.2.2.2.2⟩, i.2.1, i.2.2⟩

theorem set_bus_basin (v_bus : BusSt) (v_basin : BasinSt) (h : Keeps l s t) (hm : ∀ x ∈ ([.bus, .basin] : List Part), x ∈ l)
    (i0_bus : Mem.wf 0 t.bus.msixTable = true → Mem.wf 0 (v_bus).msixTable = true)
    (i0_basin : Mem.wf 0 t.basin.mem = true → Mem.wf 0 (v_basin).mem = true) :
    Keeps l s { t with bus := v_bus, basin := v_basin } := by
  refine h.step (m := [.bus, .basin]) ?_ hm
  refine ⟨by constructor <;> intros <;> first | rfl | (exfalso; revert ‹_ ∉ _›; decide), fun i => ?_⟩
  exact ⟨⟨i0_basin i.1.1, i.1.2.1, i.1.2.2.1, i.1.2.2.2.1, i.1.2.2.2.2.1, i0_bus i.1.2.2.2.2.2.1, i.1.2.2.2.2.2.2.1, i.1.2.2.2.2.2.2.2⟩, i.2.1, i.2.2⟩

theorem set_wins (v_wins : Vector Window 8) (h : Keeps l s t) (hm : ∀ x ∈ ([.wins] : List Part), x ∈ l)
    (i0_wins : (∀ p : Port, Mem.wf 0 (t.wins.get p).data = true) → ∀ p : Port, Mem.wf 0 ((v_wins).get p).data = true) :
    Keeps l s { t with wins := v_wins } := by
  refine h.step (m := [.wins]) ?_ hm
  refine ⟨by constructor <;> intros <;> first | rfl | (exfalso; revert ‹_ ∉ _›; decide), fun i => ?_⟩
  exact ⟨⟨i.1.1, i.1.2.1, i.1.2.2.1, i.1.2.2.2.1, i.1.2.2.2.2.1, i.1.2.2.2.2.2.1, i.1.2.2.2.2.2.2.1, i0_wins i.1.2.2.2.2.2.2.2⟩, i.2.1, i.2.2⟩

theorem set_sess (v_sess : SessSt) (h : Keeps l s t) (hm : ∀ x ∈ ([.sess] : List Part), x ∈ l)
     :
    Keeps l s { t with sess := v_sess } := by
  refine h.step (m := [.sess]) ?_ hm
  refine ⟨by constructor <;> intros <;> first | rfl | (exfalso; revert ‹_ ∉ _›; decide), fun i => ?_⟩
  exact ⟨⟨i.1.1, i.1.2.1, i.1.2.2.1, i.1.2.2.2.1, i.1.2.2.2.2.1, i.1.2.2.2.2.2.1, i.1.2.2.2.2.2.2.1, i.1.2.2.2.2.2.2.2⟩, i.2.1, i.2.2⟩

theorem set_sess_cool (v_sess : SessSt) (v_cool : CoolSt) (h : Keeps l s t) (hm : ∀ x ∈ ([.sess, .cool] : List Part), x ∈ l)
     :
    Keeps l s { t with sess := v_sess, cool := v_cool } := by
  refine h.step (m := [.sess, .cool]) ?_ hm
  refine ⟨by constructor <;> intros <;> first | rfl | (exfalso; revert ‹_ ∉ _›; decide), fun i => ?_⟩
  exact ⟨⟨i.1.1, i.1.2.1, i.1.2.2.1, i.1.2.2.2.1, i.1.2.2.2.2.1, i.1.2.2.2.2.2.1, i.1.2.2.2.2.2.2.1, i.1.2.2.2.2.2.2.2⟩, i.2.1, i.2.2⟩

theorem set_cfg (v_cfg : CfgSt) (h : Keeps l s t) (hm : ∀ x ∈ ([.cfg] : List Part), x ∈ l)
     :
    Keeps l s { t with cfg := v_cfg } := by
  refine h.step (m := [.cfg]) ?_ hm
  refine ⟨by constructor <;> intros <;> first | rfl | (exfalso; revert ‹_ ∉ _›; decide), fun i => ?_⟩
  exact ⟨⟨i.1.1, i.1.2.1, i.1.2.2.1, i.1.2.2.2.1, i.1.2.2.2.2.1, i.1.2.2.2.2.2.1, i.1.2.2.2.2.2.2.1, i.1.2.2.2.2.2.2.2⟩, i.2.1, i.2.2⟩

theorem set_weir (v_weir : WeirSt) (h : Keeps l s t) (hm : ∀ x ∈ ([.weir] : List Part), x ∈ l)
     :
    Keeps l s { t with weir := v_weir } := by
  refine h.step (m := [.weir]) ?_ hm
  refine ⟨by constructor <;> intros <;> first | rfl | (exfalso; revert ‹_ ∉ _›; decide), fun i => ?_⟩
  exact ⟨⟨i.1.1, i.1.2.1, i.1.2.2.1, i.1.2.2.2.1, i.1.2.2.2.2.1, i.1.2.2.2.2.2.1, i.1.2.2.2.2.2.2.1, i.1.2.2.2.2.2.2.2⟩, i.2.1, i.2.2⟩

theorem set_weir_cool (v_weir : WeirSt) (v_cool : CoolSt) (h : Keeps l s t) (hm : ∀ x ∈ ([.weir, .cool] : List Part), x ∈ l)
     :
    Keeps l s { t with weir := v_weir, cool := v_cool } := by
  refine h.step (m := [.weir, .cool]) ?_ hm
  refine ⟨by constructor <;> intros <;> first | rfl | (exfalso; revert ‹_ ∉ _›; decide), fun i => ?_⟩
  exact ⟨⟨i.1.1, i.1.2.1, i.1.2.2.1, i.1.2.2.2.1, i.1.2.2.2.2.1, i.1.2.2.2.2.2.1, i.1.2.2.2.2.2.2.1, i.1.2.2.2.2.2.2.2⟩, i.2.1, i.2.2⟩

theorem set_casc (v_casc : CascSt) (h : Keeps l s t) (hm : ∀ x ∈ ([.casc] : List Part), x ∈ l)
     :
    Keeps l s { t with casc := v_casc } := by
  refine h.step (m := [.casc]) ?_ hm
  refine ⟨by constructor <;> intros <;> first | rfl | (exfalso; revert ‹_ ∉ _›; decide), fun i => ?_⟩
  exact ⟨⟨i.1.1, i.1.2.1, i.1.2.2.1, i.1.2.2.2.1, i.1.2.2.2.2.1, i.1.2.2.2.2.2.1, i.1.2.2.2.2.2.2.1, i.1.2.2.2.2.2.2.2⟩, i.2.1, i.2.2⟩

theorem set_cool (v_cool : CoolSt) (h : Keeps l s t) (hm : ∀ x ∈ ([.cool] : List Part), x ∈ l)
     :
    Keeps l s { t with cool := v_cool } := by
  refine h.step (m := [.cool]) ?_ hm
  refine ⟨by constructor <;> intros <;> first | rfl | (exfalso; revert ‹_ ∉ _›; decide), fun i => ?_⟩
  exact ⟨⟨i.1.1, i.1.2.1, i.1.2.2.1, i.1.2.2.2.1, i.1.2.2.2.2.1, i.1.2.2.2.2.2.1, i.1.2.2.2.2.2.2.1, i.1.2.2.2.2.2.2.2⟩, i.2.1, i.2.2⟩

theorem set_cad (v_cad : CadSt) (h : Keeps l s t) (hm : ∀ x ∈ ([.cad] : List Part), x ∈ l)
     :
    Keeps l s { t with cad := v_cad } := by
  refine h.step (m := [.cad]) ?_ hm
  refine ⟨by constructor <;> intros <;> first | rfl | (exfalso; revert ‹_ ∉ _›; decide), fun i => ?_⟩
  exact ⟨⟨i.1.1, i.1.2.1, i.1.2.2.1, i.1.2.2.2.1, i.1.2.2.2.2.1, i.1.2.2.2.2.2.1, i.1.2.2.2.2.2.2.1, i.1.2.2.2.2.2.2.2⟩, i.2.1, i.2.2⟩

theorem set_cad_gop (v_cad : CadSt) (v_gop : GopSt) (h : Keeps l s t) (hm : ∀ x ∈ ([.cad, .gop] : List Part), x ∈ l)
     :
    Keeps l s { t with cad := v_cad, gop := v_gop } := by
  refine h.step (m := [.cad, .gop]) ?_ hm
  refine ⟨by constructor <;> intros <;> first | rfl | (exfalso; revert ‹_ ∉ _›; decide), fun i => ?_⟩
  exact ⟨⟨i.1.1, i.1.2.1, i.1.2.2.1, i.1.2.2.2.1, i.1.2.2.2.2.1, i.1.2.2.2.2.2.1, i.1.2.2.2.2.2.2.1, i.1.2.2.2.2.2.2.2⟩, i.2.1, i.2.2⟩

theorem set_gop (v_gop : GopSt) (h : Keeps l s t) (hm : ∀ x ∈ ([.gop] : List Part), x ∈ l)
     :
    Keeps l s { t with gop := v_gop } := by
  refine h.step (m := [.gop]) ?_ hm
  refine ⟨by constructor <;> intros <;> first | rfl | (exfalso; revert ‹_ ∉ _›; decide), fun i => ?_⟩
  exact ⟨⟨i.1.1, i.1.2.1, i.1.2.2.1, i.1.2.2.2.1, i.1.2.2.2.2.1, i.1.2.2.2.2.2.1, i.1.2.2.2.2.2.2.1, i.1.2.2.2.2.2.2.2⟩, i.2.1, i.2.2⟩

theorem set_gop_basin (v_gop : GopSt) (v_basin : BasinSt) (h : Keeps l s t) (hm : ∀ x ∈ ([.gop, .basin] : List Part), x ∈ l)
    (i0_basin : Mem.wf 0 t.basin.mem = true → Mem.wf 0 (v_basin).mem = true) :
    Keeps l s { t with gop := v_gop, basin := v_basin } := by
  refine h.step (m := [.gop, .basin]) ?_ hm
  refine ⟨by constructor <;> intros <;> first | rfl | (exfalso; revert ‹_ ∉ _›; decide), fun i => ?_⟩
  exact ⟨⟨i0_basin i.1.1, i.1.2.1, i.1.2.2.1, i.1.2.2.2.1, i.1.2.2.2.2.1, i.1.2.2.2.2.2.1, i.1.2.2.2.2.2.2.1, i.1.2.2.2.2.2.2.2⟩, i.2.1, i.2.2⟩

theorem set_chk (v_chk : ChkSt) (h : Keeps l s t) (hm : ∀ x ∈ ([.chk] : List Part), x ∈ l)
    (i0_chk : Mem.wf 0 t.chk.bar4 = true → Mem.wf 0 (v_chk).bar4 = true) :
    Keeps l s { t with chk := v_chk } := by
  refine h.step (m := [.chk]) ?_ hm
  refine ⟨by constructor <;> intros <;> first | rfl | (exfalso; revert ‹_ ∉ _›; decide), fun i => ?_⟩
  exact ⟨⟨i.1.1, i0_chk i.1.2.1, i.1.2.2.1, i.1.2.2.2.1, i.1.2.2.2.2.1, i.1.2.2.2.2.2.1, i.1.2.2.2.2.2.2.1, i.1.2.2.2.2.2.2.2⟩, i.2.1, i.2.2⟩

theorem set_chk_basin (v_chk : ChkSt) (v_basin : BasinSt) (h : Keeps l s t) (hm : ∀ x ∈ ([.chk, .basin] : List Part), x ∈ l)
    (i0_chk : Mem.wf 0 t.chk.bar4 = true → Mem.wf 0 (v_chk).bar4 = true)
    (i0_basin : Mem.wf 0 t.basin.mem = true → Mem.wf 0 (v_basin).mem = true) :
    Keeps l s { t with chk := v_chk, basin := v_basin } := by
  refine h.step (m := [.chk, .basin]) ?_ hm
  refine ⟨by constructor <;> intros <;> first | rfl | (exfalso; revert ‹_ ∉ _›; decide), fun i => ?_⟩
  exact ⟨⟨i0_basin i.1.1, i0_chk i.1.2.1, i.1.2.2.1, i.1.2.2.2.1, i.1.2.2.2.2.1, i.1.2.2.2.2.2.1, i.1.2.2.2.2.2.2.1, i.1.2.2.2.2.2.2.2⟩, i.2.1, i.2.2⟩

theorem set_chk_basin_ctr (v_chk : ChkSt) (v_basin : BasinSt) (v_ctr : CtrSt) (h : Keeps l s t) (hm : ∀ x ∈ ([.chk, .basin, .ctr] : List Part), x ∈ l)
    (i0_chk : Mem.wf 0 t.chk.bar4 = true → Mem.wf 0 (v_chk).bar4 = true)
    (i0_basin : Mem.wf 0 t.basin.mem = true → Mem.wf 0 (v_basin).mem = true)
    (i0_ctr : (∀ e ∈ t.ctr.vals, e.2 ≤ 2 ^ 64 - 1) → ∀ e ∈ (v_ctr).vals, e.2 ≤ 2 ^ 64 - 1)
    (i1_ctr : t.ctr.log.length ≤ 16384 → (v_ctr).log.length ≤ 16384) :
    Keeps l s { t with chk := v_chk, basin := v_basin, ctr := v_ctr } := by
  refine h.step (m := [.chk, .basin, .ctr]) ?_ hm
  refine ⟨by constructor <;> intros <;> first | rfl | (exfalso; revert ‹_ ∉ _›; decide), fun i => ?_⟩
  exact ⟨⟨i0_basin i.1.1, i0_chk i.1.2.1, i.1.2.2.1, i.1.2.2.2.1, i.1.2.2.2.2.1, i.1.2.2.2.2.2.1, i.1.2.2.2.2.2.2.1, i.1.2.2.2.2.2.2.2⟩, i0_ctr i.2.1, i1_ctr i.2.2⟩

theorem set_chk_integ (v_chk : ChkSt) (v_integ : IntSt) (h : Keeps l s t) (hm : ∀ x ∈ ([.chk, .integ] : List Part), x ∈ l)
    (i0_chk : Mem.wf 0 t.chk.bar4 = true → Mem.wf 0 (v_chk).bar4 = true) :
    Keeps l s { t with chk := v_chk, integ := v_integ } := by
  refine h.step (m := [.chk, .integ]) ?_ hm
  refine ⟨by constructor <;> intros <;> first | rfl | (exfalso; revert ‹_ ∉ _›; decide), fun i => ?_⟩
  exact ⟨⟨i.1.1, i0_chk i.1.2.1, i.1.2.2.1, i.1.2.2.2.1, i.1.2.2.2.2.1, i.1.2.2.2.2.2.1, i.1.2.2.2.2.2.2.1, i.1.2.2.2.2.2.2.2⟩, i.2.1, i.2.2⟩

theorem set_chk_slots (v_chk : ChkSt) (v_slots : Vector SlotSt 8) (h : Keeps l s t) (hm : ∀ x ∈ ([.chk, .slots] : List Part), x ∈ l)
    (i0_chk : Mem.wf 0 t.chk.bar4 = true → Mem.wf 0 (v_chk).bar4 = true) :
    Keeps l s { t with chk := v_chk, slots := v_slots } := by
  refine h.step (m := [.chk, .slots]) ?_ hm
  refine ⟨by constructor <;> intros <;> first | rfl | (exfalso; revert ‹_ ∉ _›; decide), fun i => ?_⟩
  exact ⟨⟨i.1.1, i0_chk i.1.2.1, i.1.2.2.1, i.1.2.2.2.1, i.1.2.2.2.2.1, i.1.2.2.2.2.2.1, i.1.2.2.2.2.2.2.1, i.1.2.2.2.2.2.2.2⟩, i.2.1, i.2.2⟩

theorem set_chk_boot (v_chk : ChkSt) (v_boot : BootSt) (h : Keeps l s t) (hm : ∀ x ∈ ([.chk, .boot] : List Part), x ∈ l)
    (i0_chk : Mem.wf 0 t.chk.bar4 = true → Mem.wf 0 (v_chk).bar4 = true)
    (i0_boot : Mem.wf 0xFF t.boot.flash = true → Mem.wf 0xFF (v_boot).flash = true)
    (i1_boot : Mem.wf 0 t.boot.rcvBuf = true → Mem.wf 0 (v_boot).rcvBuf = true)
    (i2_boot : Mem.wf 0 t.boot.bootBuf = true → Mem.wf 0 (v_boot).bootBuf = true) :
    Keeps l s { t with chk := v_chk, boot := v_boot } := by
  refine h.step (m := [.chk, .boot]) ?_ hm
  refine ⟨by constructor <;> intros <;> first | rfl | (exfalso; revert ‹_ ∉ _›; decide), fun i => ?_⟩
  exact ⟨⟨i.1.1, i0_chk i.1.2.1, i0_boot i.1.2.2.1, i1_boot i.1.2.2.2.1, i2_boot i.1.2.2.2.2.1, i.1.2.2.2.2.2.1, i.1.2.2.2.2.2.2.1, i.1.2.2.2.2.2.2.2⟩, i.2.1, i.2.2⟩

theorem set_basin (v_basin : BasinSt) (h : Keeps l s t) (hm : ∀ x ∈ ([.basin] : List Part), x ∈ l)
    (i0_basin : Mem.wf 0 t.basin.mem = true → Mem.wf 0 (v_basin).mem = true) :
    Keeps l s { t with basin := v_basin } := by
  refine h.step (m := [.basin]) ?_ hm
  refine ⟨by constructor <;> intros <;> first | rfl | (exfalso; revert ‹_ ∉ _›; decide), fun i => ?_⟩
  exact ⟨⟨i0_basin i.1.1, i.1.2.1, i.1.2.2.1, i.1.2.2.2.1, i.1.2.2.2.2.1, i.1.2.2.2.2.2.1, i.1.2.2.2.2.2.2.1, i.1.2.2.2.2.2.2.2⟩, i.2.1, i.2.2⟩

theorem set_basin_upd (v_basin : BasinSt) (v_upd : UpdSt) (h : Keeps l s t) (hm : ∀ x ∈ ([.basin, .upd] : List Part), x ∈ l)
    (i0_basin : Mem.wf 0 t.basin.mem = true → Mem.wf 0 (v_basin).mem = true)
    (i0_upd : Mem.wf 0 t.upd.block = true → Mem.wf 0 (v_upd).block = true) :
    Keeps l s { t with basin := v_basin, upd := v_upd } := by
  refine h.step (m := [.basin, .upd]) ?_ hm
  refine ⟨by constructor <;> intros <;> first | rfl | (exfalso; revert ‹_ ∉ _›; decide), fun i => ?_⟩
  exact ⟨⟨i0_basin i.1.1, i.1.2.1, i.1.2.2.1, i.1.2.2.2.1, i.1.2.2.2.2.1, i.1.2.2.2.2.2.1, i0_upd i.1.2.2.2.2.2.2.1, i.1.2.2.2.2.2.2.2⟩, i.2.1, i.2.2⟩

theorem set_integ (v_integ : IntSt) (h : Keeps l s t) (hm : ∀ x ∈ ([.integ] : List Part), x ∈ l)
     :
    Keeps l s { t with integ := v_integ } := by
  refine h.step (m := [.integ]) ?_ hm
  refine ⟨by constructor <;> intros <;> first | rfl | (exfalso; revert ‹_ ∉ _›; decide), fun i => ?_⟩
  exact ⟨⟨i.1.1, i.1.2.1, i.1.2.2.1, i.1.2.2.2.1, i.1.2.2.2.2.1, i.1.2.2.2.2.2.1, i.1.2.2.2.2.2.2.1, i.1.2.2.2.2.2.2.2⟩, i.2.1, i.2.2⟩

theorem set_slots (v_slots : Vector SlotSt 8) (h : Keeps l s t) (hm : ∀ x ∈ ([.slots] : List Part), x ∈ l)
     :
    Keeps l s { t with slots := v_slots } := by
  refine h.step (m := [.slots]) ?_ hm
  refine ⟨by constructor <;> intros <;> first | rfl | (exfalso; revert ‹_ ∉ _›; decide), fun i => ?_⟩
  exact ⟨⟨i.1.1, i.1.2.1, i.1.2.2.1, i.1.2.2.2.1, i.1.2.2.2.2.1, i.1.2.2.2.2.2.1, i.1.2.2.2.2.2.2.1, i.1.2.2.2.2.2.2.2⟩, i.2.1, i.2.2⟩

theorem set_boot (v_boot : BootSt) (h : Keeps l s t) (hm : ∀ x ∈ ([.boot] : List Part), x ∈ l)
    (i0_boot : Mem.wf 0xFF t.boot.flash = true → Mem.wf 0xFF (v_boot).flash = true)
    (i1_boot : Mem.wf 0 t.boot.rcvBuf = true → Mem.wf 0 (v_boot).rcvBuf = true)
    (i2_boot : Mem.wf 0 t.boot.bootBuf = true → Mem.wf 0 (v_boot).bootBuf = true) :
    Keeps l s { t with boot := v_boot } := by
  refine h.step (m := [.boot]) ?_ hm
  refine ⟨by constructor <;> intros <;> first | rfl | (exfalso; revert ‹_ ∉ _›; decide), fun i => ?_⟩
  exact ⟨⟨i.1.1, i.1.2.1, i0_boot i.1.2.2.1, i1_boot i.1.2.2.2.1, i2_boot i.1.2.2.2.2.1, i.1.2.2.2.2.2.1, i.1.2.2.2.2.2.2.1, i.1.2.2.2.2.2.2.2⟩, i.2.1, i.2.2⟩

theorem set_boot_rst (v_boot : BootSt) (v_rst : RstSt) (h : Keeps l s t) (hm : ∀ x ∈ ([.boot, .rst] : List Part), x ∈ l)
    (i0_boot : Mem.wf 0xFF t.boot.flash = true → Mem.wf 0xFF (v_boot).flash = true)
    (i1_boot : Mem.wf 0 t.boot.rcvBuf = true → Mem.wf 0 (v_boot).rcvBuf = true)
    (i2_boot : Mem.wf 0 t.boot.bootBuf = true → Mem.wf 0 (v_boot).bootBuf = true) :
    Keeps l s { t with boot := v_boot, rst := v_rst } := by
  refine h.step (m := [.boot, .rst]) ?_ hm
  refine ⟨by constructor <;> intros <;> first | rfl | (exfalso; revert ‹_ ∉ _›; decide), fun i => ?_⟩
  exact ⟨⟨i.1.1, i.1.2.1, i0_boot i.1.2.2.1, i1_boot i.1.2.2.2.1, i2_boot i.1.2.2.2.2.1, i.1.2.2.2.2.2.1, i.1.2.2.2.2.2.2.1, i.1.2.2.2.2.2.2.2⟩, i.2.1, i.2.2⟩

theorem set_upd (v_upd : UpdSt) (h : Keeps l s t) (hm : ∀ x ∈ ([.upd] : List Part), x ∈ l)
    (i0_upd : Mem.wf 0 t.upd.block = true → Mem.wf 0 (v_upd).block = true) :
    Keeps l s { t with upd := v_upd } := by
  refine h.step (m := [.upd]) ?_ hm
  refine ⟨by constructor <;> intros <;> first | rfl | (exfalso; revert ‹_ ∉ _›; decide), fun i => ?_⟩
  exact ⟨⟨i.1.1, i.1.2.1, i.1.2.2.1, i.1.2.2.2.1, i.1.2.2.2.2.1, i.1.2.2.2.2.2.1, i0_upd i.1.2.2.2.2.2.2.1, i.1.2.2.2.2.2.2.2⟩, i.2.1, i.2.2⟩

theorem set_rst (v_rst : RstSt) (h : Keeps l s t) (hm : ∀ x ∈ ([.rst] : List Part), x ∈ l)
     :
    Keeps l s { t with rst := v_rst } := by
  refine h.step (m := [.rst]) ?_ hm
  refine ⟨by constructor <;> intros <;> first | rfl | (exfalso; revert ‹_ ∉ _›; decide), fun i => ?_⟩
  exact ⟨⟨i.1.1, i.1.2.1, i.1.2.2.1, i.1.2.2.2.1, i.1.2.2.2.2.1, i.1.2.2.2.2.2.1, i.1.2.2.2.2.2.2.1, i.1.2.2.2.2.2.2.2⟩, i.2.1, i.2.2⟩

theorem set_ctr (v_ctr : CtrSt) (h : Keeps l s t) (hm : ∀ x ∈ ([.ctr] : List Part), x ∈ l)
    (i0_ctr : (∀ e ∈ t.ctr.vals, e.2 ≤ 2 ^ 64 - 1) → ∀ e ∈ (v_ctr).vals, e.2 ≤ 2 ^ 64 - 1)
    (i1_ctr : t.ctr.log.length ≤ 16384 → (v_ctr).log.length ≤ 16384) :
    Keeps l s { t with ctr := v_ctr } := by
  refine h.step (m := [.ctr]) ?_ hm
  refine ⟨by constructor <;> intros <;> first | rfl | (exfalso; revert ‹_ ∉ _›; decide), fun i => ?_⟩
  exact ⟨⟨i.1.1, i.1.2.1, i.1.2.2.1, i.1.2.2.2.1, i.1.2.2.2.2.1, i.1.2.2.2.2.2.1, i.1.2.2.2.2.2.2.1, i.1.2.2.2.2.2.2.2⟩, i0_ctr i.2.1, i1_ctr i.2.2⟩

theorem set_out (v_out : List Msg) (h : Keeps l s t) (hm : ∀ x ∈ ([.out] : List Part), x ∈ l)
     :
    Keeps l s { t with out := v_out } := by
  refine h.step (m := [.out]) ?_ hm
  refine ⟨by constructor <;> intros <;> first | rfl | (exfalso; revert ‹_ ∉ _›; decide), fun i => ?_⟩
  exact ⟨⟨i.1.1, i.1.2.1, i.1.2.2.1, i.1.2.2.2.1, i.1.2.2.2.2.1, i.1.2.2.2.2.2.1, i.1.2.2.2.2.2.2.1, i.1.2.2.2.2.2.2.2⟩, i.2.1, i.2.2⟩

theorem set_free (v_free : Nat) (h : Keeps l s t) (hm : ∀ x ∈ ([.free] : List Part), x ∈ l)
     :
    Keeps l s { t with free := v_free } := by
  refine h.step (m := [.free]) ?_ hm
  refine ⟨by constructor <;> intros <;> first | rfl | (exfalso; revert ‹_ ∉ _›; decide), fun i => ?_⟩
  exact ⟨⟨i.1.1, i.1.2.1, i.1.2.2.1, i.1.2.2.2.1, i.1.2.2.2.2.1, i.1.2.2.2.2.2.1, i.1.2.2.2.2.2.2.1, i.1.2.2.2.2.2.2.2⟩, i.2.1, i.2.2⟩

end Keeps
end Sys2Proof.Machine
end

