-- ==== Sys2Proof/Laws/KeepsOps.lean ====
section
/-!
SUPPORT. What the operations of Machine/Ops.lean touch, and that they keep the invariant.
-/

namespace Sys2Proof.Machine
theorem State.drawn_keeps (s : State) : Keeps [.free] s (State.drawn s) := by
  unfold State.drawn
  exact Keeps.set_free _ (Keeps.refl _ _) (by decide)

theorem State.send_keeps (m : Msg) (s : State) : Keeps [.out] s (State.send m s) := by
  unfold State.send
  exact Keeps.set_out _ (Keeps.refl _ _) (by decide)

theorem State.sends_keeps (ms : List Msg) (s : State) : Keeps [.out] s (State.sends ms s) := by
  unfold State.sends
  exact Keeps.set_out _ (Keeps.refl _ _) (by decide)

theorem State.logEntry_keeps (src code a0 a1 : Nat) (s : State) : Keeps [.ctr] s (s.logEntry src code a0 a1) := by
  unfold State.logEntry
  refine Keeps.set_ctr _ (Keeps.refl _ _) (by decide) (fun i => i) (fun _ => ?_)
  exact length_lastN_le ..

theorem State.count_keeps (c : Nat) (s : State) : Keeps [.ctr] s (s.count c) := by
  unfold State.count
  refine Keeps.set_ctr _ (Keeps.refl _ _) (by decide) (fun i e h => ?_) (fun i => i)
  simp only [Assoc.set, List.mem_append, List.mem_filter, List.mem_singleton] at h
  rcases h with ⟨h, _⟩ | rfl
  · exact i e h
  · exact Nat.min_le_right _ _

theorem State.countN_keeps (c : Nat) (n : Nat) (s : State) : Keeps [.ctr] s (State.countN c n s) := by
  unfold State.countN
  refine Keeps.foldl _ _ ?_ (fun _ _ _ => ?_)
  · exact Keeps.refl _ _
  · refine Keeps.step ?_ (State.count_keeps ..) (by decide)
    assumption

theorem State.supersede_keeps (i : Fin 8) (by_ : Nat) (s : State) : Keeps [.integ, .ctr] s (State.supersede i by_ s) := by
  unfold State.supersede
  extract_lets +onlyGivenNames z0
  extract_lets +onlyGivenNames z1
  extract_lets +onlyGivenNames y2
  have h2 : Keeps [.integ, .ctr] s y2 := by
    unfold y2
    exact Keeps.set_integ _ (Keeps.refl _ _) (by decide)
  clear_value y2
  refine Keeps.step ?_ (State.count_keeps ..) (by decide)
  refine Keeps.step ?_ (State.logEntry_keeps ..) (by decide)
  assumption

theorem State.raise_keeps (c : Nat) (lv : Nat) (sc : State.Scope) (s : State) : Keeps [.integ, .ctr] s (State.raise c lv sc s) := by
  unfold State.raise
  extract_lets +onlyGivenNames z0
  extract_lets +onlyGivenNames z1
  extract_lets +onlyGivenNames y2
  have h2 : Keeps [.integ, .ctr] s y2 := by
    unfold y2
    exact Keeps.step (Keeps.refl _ _) (State.count_keeps ..) (by decide)
  clear_value y2
  refine Keeps.ite _ ?_ ?_
  · assumption
  · extract_lets +onlyGivenNames y3
    have h3 : Keeps [.integ, .ctr] s y3 := by
      unfold y3
      refine Keeps.step ?_ (State.logEntry_keeps ..) (by decide)
      assumption
    clear_value y3
    split
    · refine Keeps.ite _ ?_ ?_
      · refine Keeps.step ?_ (State.supersede_keeps ..) (by decide)
        assumption
      · assumption
    · refine Keeps.ite _ ?_ ?_
      · refine Keeps.foldl _ _ ?_ (fun _ _ _ => ?_)
        · assumption
        · refine Keeps.ite _ ?_ ?_
          · refine Keeps.step ?_ (State.supersede_keeps ..) (by decide)
            assumption
          · assumption
      · assumption

theorem State.notice_keeps (c : Nat) (s : State) : Keeps [.integ, .ctr] s (State.notice c s) := by
  unfold State.notice
  exact Keeps.step (Keeps.refl _ _) (State.raise_keeps ..) (by decide)

theorem State.noticeSlot_keeps (c : Nat) (i : Fin 8) (s : State) : Keeps [.integ, .ctr] s (State.noticeSlot c i s) := by
  unfold State.noticeSlot
  exact Keeps.step (Keeps.refl _ _) (State.raise_keeps ..) (by decide)

theorem State.trace_keeps (pt a0 a1 : Nat) (s : State) : Keeps [.ctr] s (s.trace pt a0 a1) := by
  unfold State.trace
  split
  · split
    · refine Keeps.set_ctr _ (Keeps.refl _ _) (by decide) (fun i => i) (fun _ => ?_)
      exact length_lastN_le ..
    · exact State.count_keeps ..
  · exact Keeps.refl _ _

theorem State.updWin_keeps (p : Port) (f : Window → Window) (s : State)
    (h : Mem.wf 0 (s.win p).data = true → Mem.wf 0 (f (s.win p)).data = true) : Keeps [.wins] s (s.updWin p f) := by
  unfold State.updWin
  refine Keeps.set_wins _ (Keeps.refl _ _) (by decide) (fun i q => ?_)
  by_cases hq : q = p
  · subst hq; rw [Vec.get_upd_self]; exact h (i q)
  · rw [Vec.get_upd_ne _ _ hq]; exact i q

theorem State.msix_keeps (v : Nat) (s : State) : Keeps [.bus, .out] s (State.msix v s) := by
  unfold State.msix
  refine Keeps.ite _ ?_ ?_
  · refine Keeps.ite _ ?_ ?_
    · exact Keeps.set_bus _ (Keeps.refl _ _) (by decide) (fun i => i)
    · exact Keeps.step (Keeps.refl _ _) (State.send_keeps ..) (by decide)
  · exact Keeps.refl _ _

theorem State.sbSend_keeps (kind : Nat) (s : State) : Keeps [.out] s (s.sbSend kind) := State.send_keeps ..

theorem State.winMessage_keeps (p : Port) (s : State) : Keeps [.bus, .out] s (State.winMessage p s) := by
  unfold State.winMessage
  refine Keeps.ite _ ?_ ?_
  · exact Keeps.step (Keeps.refl _ _) (State.msix_keeps ..) (by decide)
  · exact Keeps.refl _ _

theorem State.refuse_keeps (p : Port) (c : Code) (s : State) : Keeps [.bus, .wins, .out] s (s.refuse p c) := by
  unfold State.refuse
  refine Keeps.step (Keeps.step (Keeps.refl _ _) (State.updWin_keeps _ _ _ (fun i => i)) (by decide)) (State.winMessage_keeps ..) (by decide)

theorem State.accept_keeps (p : Port) (bound : Nat) (s : State) : Keeps [.wins] s (s.accept p bound) := State.updWin_keeps _ _ _ (fun i => i)

theorem State.finish_keeps (p : Port) (c : Code) (reply : Bytes) (s : State) : Keeps [.bus, .wins, .out] s (s.finish p c reply) := by
  have h : Keeps [.bus, .wins, .out] s (s.updWin p (endWin c reply s.lt p)) :=
    Keeps.step (Keeps.refl _ _) (State.updWin_keeps _ _ _ (fun _ => by unfold endWin; split <;> first | rfl | exact Mem.wf_cells ..)) (by decide)
  unfold State.finish
  simp only
  split
  · exact h
  · exact Keeps.step h (State.winMessage_keeps ..) (by decide)

theorem State.abandon_keeps (p : Port) (s : State) : Keeps [.bus, .wins, .cfg, .ctr, .out] s (State.abandon p s) := by
  unfold State.abandon
  extract_lets +onlyGivenNames z0
  extract_lets +onlyGivenNames y1
  have h1 : Keeps [.bus, .wins, .cfg, .ctr, .out] s y1 := by
    unfold y1
    exact Keeps.set_cfg _ (Keeps.refl _ _) (by decide)
  clear_value y1
  refine Keeps.step ?_ (State.count_keeps ..) (by decide)
  refine Keeps.step ?_ (State.finish_keeps ..) (by decide)
  assumption

theorem State.draftTouch_keeps (op : Nat) (s : State) : Keeps [.cfg] s (State.draftTouch op s) := by
  unfold State.draftTouch
  refine Keeps.ite _ ?_ ?_
  · exact Keeps.set_cfg _ (Keeps.refl _ _) (by decide)
  · exact Keeps.refl _ _

theorem State.answer_keeps (p : Port) (bound : Nat) (c : Code) (reply : Bytes) (s : State) : Keeps [.bus, .wins, .out] s (State.answer p bound c reply s) := by
  unfold State.answer
  exact Keeps.step (Keeps.step (Keeps.refl _ _) (State.accept_keeps ..) (by decide)) (State.finish_keeps ..) (by decide)

theorem State.answerNow_keeps (p : Port) (c : Code) (reply : Bytes) (s : State) : Keeps [.bus, .wins, .out] s (State.answerNow p c reply s) := by
  unfold State.answerNow
  exact Keeps.step (Keeps.refl _ _) (State.answer_keeps ..) (by decide)

/-- An operation's run and what its refusal leaves keep to the parts of `l`. -/
def OpSpec.Within (o : OpSpec) (l : List Part) : Prop :=
  (∀ p ps b s, Keeps l s (o.run p ps b s)) ∧ (∀ p ps s, Keeps l s (o.refused p ps s))

theorem OpSpec.Within.mono {o : OpSpec} {l m : List Part} (h : o.Within m) (hm : ∀ x ∈ m, x ∈ l) : o.Within l :=
  ⟨fun p ps b s => Keeps.step (Keeps.refl _ _) (h.1 p ps b s) hm, fun p ps s => Keeps.step (Keeps.refl _ _) (h.2 p ps s) hm⟩

theorem OpSpec.decide_keeps {o : OpSpec} {l : List Part} (h : o.Within l) (hl : ∀ x ∈ ([.bus, .wins, .out] : List Part), x ∈ l) (p : Port) (ps : Bytes)
    (s : State) : Keeps l s (o.decide p ps s) := by
  unfold OpSpec.decide
  split
  · refine Keeps.step ?_ (State.refuse_keeps ..) hl
    split
    · exact h.2 ..
    · exact Keeps.refl _ _
  · exact h.1 ..

theorem State.pend_keeps (p : Port) (s : State) : Keeps [.wins] s (s.pend p) := State.updWin_keeps _ _ _ (fun i => i)

theorem State.goWith_keeps {o : Option OpSpec} {l : List Part} (h : ∀ x ∈ o, x.Within l) (hl : ∀ x ∈ ([.bus, .wins, .out] : List Part), x ∈ l)
    (p : Port) (s : State) : Keeps l s (s.goWith o p) := by
  have h1 : Keeps l s (s.pend p) := Keeps.step (Keeps.refl _ _) (State.pend_keeps ..) (fun x hx => hl x (by revert hx x; decide))
  unfold State.goWith
  simp only
  split
  · exact Keeps.step h1 (State.refuse_keeps ..) hl
  · split
    · exact h1
    · split
      · exact Keeps.step h1 (State.refuse_keeps ..) hl
      · exact Keeps.step h1 (OpSpec.decide_keeps (h _ rfl) hl ..) (fun _ hx => hx)

theorem State.fill_keeps (op : Nat) (tag : BitVec 32) (ps : Bytes) (p : Port) (s : State) : Keeps [.wins] s (s.fill op tag ps p) :=
  State.updWin_keeps _ _ _ (fun i => Mem.wf_write _ _ (by split <;> first | rfl | exact i))

theorem State.submitHost_keeps (op : Nat) {o : Option OpSpec} {l : List Part} (h : ∀ x ∈ o, x.Within l)
    (hl : ∀ x ∈ ([.bus, .wins, .ctr, .out] : List Part), x ∈ l) (p : Port) (tag : BitVec 32) (ps : Bytes) (s : State) :
    Keeps l s (s.submitHost op o p tag ps) := by
  unfold State.submitHost
  split
  · exact Keeps.refl _ _
  · split
    · exact Keeps.step (Keeps.refl _ _) (State.countN_keeps ..) (fun x hx => hl x (by revert hx x; decide))
    · exact Keeps.step (Keeps.step (Keeps.refl _ _) (State.fill_keeps ..) (fun x hx => hl x (by revert hx x; decide)))
        (State.goWith_keeps h (fun x hx => hl x (by revert hx x; decide)) ..) (fun _ hx => hx)

theorem State.sbBusy_keeps (op : Nat) (tag : BitVec 32) (s : State) : Keeps [.out] s (s.sbBusy op tag) := State.send_keeps ..

theorem State.sbRespond_keeps (op : Nat) (s : State) : Keeps [.wins, .cfg, .out] s (s.sbRespond op) := by
  unfold State.sbRespond
  exact Keeps.step (Keeps.step (Keeps.step (Keeps.refl _ _) (State.draftTouch_keeps ..) (by decide)) (State.sbSend_keeps ..) (by decide))
    (State.updWin_keeps _ _ _ (fun i => i)) (by decide)

theorem State.submitSideband_keeps (op : Nat) {o : Option OpSpec} {l : List Part} (h : ∀ x ∈ o, x.Within l)
    (hl : ∀ x ∈ ([.bus, .wins, .cfg, .out] : List Part), x ∈ l) (tag : BitVec 32) (ps : Bytes) (s : State) :
    Keeps l s (s.submitSideband op o tag ps) := by
  unfold State.submitSideband
  split
  · exact Keeps.refl _ _
  · split
    · exact Keeps.step (Keeps.refl _ _) (State.sbBusy_keeps ..) (fun x hx => hl x (by revert hx x; decide))
    · exact Keeps.step (Keeps.step (Keeps.step (Keeps.refl _ _) (State.fill_keeps ..) (fun x hx => hl x (by revert hx x; decide)))
        (State.goWith_keeps h (fun x hx => hl x (by revert hx x; decide)) ..) (fun _ hx => hx))
        (State.sbRespond_keeps ..) (fun x hx => hl x (by revert hx x; decide))

theorem State.submit_keeps {o : OpSpec} {l : List Part} (h : o.Within l) (hl : ∀ x ∈ ([.bus, .wins, .cfg, .ctr, .out] : List Part), x ∈ l)
    (p : Port) (tag : BitVec 32) (ps : Bytes) (s : State) : Keeps l s (s.submit o p tag ps) := by
  have h' : ∀ x ∈ some o, x.Within l := by intro x hx; cases hx; exact h
  unfold State.submit
  split
  · exact State.submitSideband_keeps _ h' (fun x hx => hl x (by revert hx x; decide)) ..
  · exact State.submitHost_keeps _ h' (fun x hx => hl x (by revert hx x; decide)) ..
end Sys2Proof.Machine
end

