-- ==== Sys2Proof/Laws/KeepsLines.lean ====
section
/-!
SUPPORT. What the operations of Machine/Lines.lean touch, and that they keep the invariant.
-/

namespace Sys2Proof.Machine
theorem State.setSeal_keeps (l : Nat) (x : Option SealSt) (s : State) : Keeps [.basin] s (State.setSeal l x s) := by
  unfold State.setSeal
  extract_lets +onlyGivenNames z0
  exact Keeps.set_basin _ (Keeps.refl _ _) (by decide) (fun i => i)

theorem State.loseSeal_keeps (l : Nat) (s : State) : Keeps [.basin, .integ, .ctr] s (State.loseSeal l s) := by
  unfold State.loseSeal
  refine Keeps.ite _ ?_ ?_
  · exact Keeps.step (Keeps.step (Keeps.refl _ _) (State.setSeal_keeps ..) (by decide)) (State.notice_keeps ..) (by decide)
  · exact Keeps.refl _ _

theorem State.markTag_keeps (line : Nat) (t : Tensor) (b : Nat) (s : State) : Keeps [.basin] s (State.markTag line t b s) := by
  unfold State.markTag
  extract_lets +onlyGivenNames z0
  extract_lets +onlyGivenNames z1
  refine Keeps.ite _ ?_ ?_
  · exact Keeps.refl _ _
  · exact Keeps.set_basin _ (Keeps.refl _ _) (by decide) (Mem.wf_write _ _)

theorem State.poisonLine_keeps (line : Nat) (s : State) : Keeps [.basin, .integ, .ctr] s (State.poisonLine line s) := by
  unfold State.poisonLine
  extract_lets +onlyGivenNames y0
  have h0 : Keeps [.basin, .integ, .ctr] s y0 := by
    unfold y0
    exact Keeps.step (Keeps.refl _ _) (State.notice_keeps ..) (by decide)
  clear_value y0
  extract_lets +onlyGivenNames z1
  extract_lets +onlyGivenNames y2
  have h2 : Keeps [.basin, .integ, .ctr] s y2 := by
    unfold y2
    refine Keeps.ite _ ?_ ?_
    · refine Keeps.set_basin _ ?_ (by decide) (fun i => i)
      assumption
    · refine Keeps.step ?_ (State.notice_keeps ..) (by decide)
      refine Keeps.set_basin _ ?_ (by decide) (fun i => i)
      assumption
  clear_value y2
  refine Keeps.foldl _ _ ?_ (fun _ _ _ => ?_)
  · assumption
  · extract_lets +onlyGivenNames z3
    extract_lets +onlyGivenNames y4
    have h4 : Keeps [.basin, .integ, .ctr] s y4 := by
      unfold y4
      refine Keeps.foldl _ _ ?_ (fun _ _ _ => ?_)
      · assumption
      · refine Keeps.step ?_ (State.markTag_keeps ..) (by decide)
        assumption
    clear_value y4
    refine Keeps.ite _ ?_ ?_
    · assumption
    · refine Keeps.step ?_ (State.loseSeal_keeps ..) (by decide)
      assumption

theorem State.correctLine_keeps (line : Nat) (data : Bytes) (n : Nat) (s : State) : Keeps [.basin, .integ, .ctr] s (State.correctLine line data n s) := by
  unfold State.correctLine
  extract_lets +onlyGivenNames z0
  extract_lets +onlyGivenNames z1
  extract_lets +onlyGivenNames y2
  have h2 : Keeps [.basin, .integ, .ctr] s y2 := by
    unfold y2
    exact Keeps.set_basin _ (Keeps.refl _ _) (by decide) (Mem.wf_write _ _)
  clear_value y2
  extract_lets +onlyGivenNames y3
  have h3 : Keeps [.basin, .integ, .ctr] s y3 := by
    unfold y3
    refine Keeps.step ?_ (State.count_keeps ..) (by decide)
    assumption
  clear_value y3
  refine Keeps.ite _ ?_ ?_
  · refine Keeps.step ?_ (State.notice_keeps ..) (by decide)
    assumption
  · assumption

theorem State.readLine_keeps (line : Nat) (r : List LineErr × State) : Keeps [.basin, .integ, .ctr, .free] r.2 (State.readLine line r).2.2 := by
  unfold State.readLine
  split
  · exact Keeps.refl _ _
  · split
    · exact Keeps.refl _ _
    · extract_lets +onlyGivenNames z0
      extract_lets +onlyGivenNames z1
      extract_lets +onlyGivenNames z2
      extract_lets +onlyGivenNames y3
      have h3 : Keeps [.basin, .integ, .ctr, .free] r.2 y3 := by
        unfold y3
        refine Keeps.ite _ ?_ ?_
        · exact Keeps.step (Keeps.refl _ _) (State.drawn_keeps ..) (by decide)
        · exact Keeps.refl _ _
      clear_value y3
      extract_lets +onlyGivenNames z4
      split
      · refine Keeps.set_basin _ ?_ (by decide) (Mem.wf_write _ _)
        assumption
      · refine Keeps.step ?_ (State.correctLine_keeps ..) (by decide)
        assumption
      · refine Keeps.step ?_ (State.poisonLine_keeps ..) (by decide)
        assumption

theorem State.readBytes_keeps (off len : Nat) (r : List LineErr × State) : Keeps [.basin, .integ, .ctr, .free] r.2 (State.readBytes off len r).2.2.2 := by
  have key : ∀ (ls : List Nat) (x : List Nat × List LineErr × State), Keeps [.basin, .integ, .ctr, .free] r.2 x.2.2 →
      Keeps [.basin, .integ, .ctr, .free] r.2 (ls.foldl (fun (x : List Nat × List LineErr × State) l =>
        (if (State.readLine l x.2).1 then x.1 ++ [l] else x.1, (State.readLine l x.2).2)) x).2.2 := by
    intro ls
    induction ls with
    | nil => exact fun _ h => h
    | cons l ls ih => exact fun x h => ih _ (Keeps.step h (State.readLine_keeps ..) (by decide))
  unfold State.readBytes
  simp only
  split
  · exact key _ _ (Keeps.refl _ _)
  · exact Keeps.step (key _ _ (Keeps.refl _ _)) (State.drawn_keeps ..) (by decide)

theorem State.readBlock_keeps (t : Tensor) (b : Nat) (r : List LineErr × State) : Keeps [.basin, .integ, .ctr, .free] r.2 (State.readBlock t b r).2.2.2 :=
  State.readBytes_keeps ..

theorem State.startBasin_keeps (s : State) : Keeps [.dev, .basin] s (State.startBasin s) := by
  unfold State.startBasin
  extract_lets +onlyGivenNames z0
  extract_lets +onlyGivenNames y1
  have h1 : Keeps [.dev, .basin] s y1 := by
    unfold y1
    exact Keeps.set_basin _ (Keeps.refl _ _) (by decide) (fun i => i)
  clear_value y1
  refine Keeps.ite _ ?_ ?_
  · assumption
  · refine Keeps.set_dev_basin _ _ ?_ (by decide) (fun i => i)
    assumption

theorem State.basinTraffic_keeps (s : State) : Keeps [.basin] s (State.basinTraffic s) := by
  unfold State.basinTraffic
  exact Keeps.set_basin _ (Keeps.refl _ _) (by decide) (fun i => i)

theorem State.basinClear_keeps (s : State) : Keeps [.basin, .integ, .ctr] s (State.basinClear s) := by
  unfold State.basinClear
  extract_lets +onlyGivenNames y0
  have h0 : Keeps [.basin, .integ, .ctr] s y0 := by
    unfold y0
    refine Keeps.foldl _ _ ?_ (fun _ _ _ => ?_)
    · exact Keeps.refl _ _
    · refine Keeps.step ?_ (State.loseSeal_keeps ..) (by decide)
      assumption
  clear_value y0
  refine Keeps.set_basin _ ?_ (by decide) (fun _ => rfl)
  assumption

theorem State.pushBlocks_keeps (t : Tensor) (n b dest w : Nat) (r : List LineErr × State) :
    Keeps [.basin, .integ, .ctr, .out, .free] r.2 (State.pushBlocks t n b dest w r).2 := by
  induction n generalizing b dest w r with
  | zero => exact Keeps.refl _ _
  | succ n ih =>
    have h : Keeps [.basin, .integ, .ctr, .out, .free] r.2 (State.readBlock t b r).2.2.2 :=
      Keeps.step (Keeps.refl _ _) (State.readBlock_keeps t b r) (by decide)
    unfold State.pushBlocks
    simp only
    split
    · exact Keeps.step (Keeps.step h (State.send_keeps ..) (by decide)) (ih _ _ _ (_, _)) (fun _ hx => hx)
    · exact Keeps.step h (State.send_keeps ..) (by decide)
    · exact h

theorem State.pushCut_keeps (p : Port) (reason : Nat) (s : State) : Keeps [.bus, .wins, .basin, .integ, .ctr, .out, .free] s (State.pushCut p reason s) := by
  unfold State.pushCut
  extract_lets +onlyGivenNames z0
  split
  · exact Keeps.step (Keeps.refl _ _) (State.finish_keeps ..) (by decide)
  · rename_i t _
    have h : Keeps [.bus, .wins, .basin, .integ, .ctr, .out, .free] s
        (State.pushBlocks t (Config.pushed s.free % max 1 (z0.num 8 4)) (z0.num 4 4) (z0.num 0x10 8) 0 ([], s.drawn)).2 :=
      Keeps.step (Keeps.step (Keeps.refl _ _) (State.drawn_keeps ..) (by decide)) (State.pushBlocks_keeps _ _ _ _ _ ([], s.drawn)) (by decide)
    exact Keeps.step h (State.finish_keeps ..) (by decide)

theorem State.pushLinkDown_keeps (s : State) : Keeps [.bus, .wins, .basin, .integ, .ctr, .out, .free] s (State.pushLinkDown s) := by
  unfold State.pushLinkDown
  refine Keeps.foldl _ _ ?_ (fun _ _ _ => ?_)
  · exact Keeps.refl _ _
  · refine Keeps.step ?_ (State.pushCut_keeps ..) (by decide)
    assumption

theorem State.pushSlotGone_keeps (i : Fin 8) (s : State) : Keeps [.bus, .wins, .basin, .integ, .ctr, .out, .free] s (State.pushSlotGone i s) := by
  unfold State.pushSlotGone
  refine Keeps.foldl _ _ ?_ (fun _ _ _ => ?_)
  · exact Keeps.refl _ _
  · refine Keeps.step ?_ (State.pushCut_keeps ..) (by decide)
    assumption
end Sys2Proof.Machine
end

