-- ==== Sys2Proof/Laws/KeepsTray.lean ====
section
/-!
SUPPORT. What the operations of Machine/Tray.lean touch, and that they keep the invariant.
-/

namespace Sys2Proof.Machine
theorem State.updRail_keeps (n : Fin 64) (f : RailSt → RailSt) (s : State) : Keeps [.casc] s (State.updRail n f s) := by
  unfold State.updRail
  exact Keeps.set_casc _ (Keeps.refl _ _) (by decide)

theorem State.updSlot_keeps (i : Fin 8) (f : SlotSt → SlotSt) (s : State) : Keeps [.slots] s (State.updSlot i f s) := by
  unfold State.updSlot
  exact Keeps.set_slots _ (Keeps.refl _ _) (by decide)

theorem State.updIslot_keeps (i : Fin 8) (f : IntSlot → IntSlot) (s : State) : Keeps [.integ] s (State.updIslot i f s) := by
  unfold State.updIslot
  exact Keeps.set_integ _ (Keeps.refl _ _) (by decide)

theorem State.updGrp_keeps (g : Nat) (f : GroupSt → GroupSt) (s : State) : Keeps [.gop] s (State.updGrp g f s) := by
  unfold State.updGrp
  exact Keeps.set_gop _ (Keeps.refl _ _) (by decide)

theorem State.updPort_keeps (p : Fin 18) (f : PortSt → PortSt) (s : State) : Keeps [.cad] s (State.updPort p f s) := by
  unfold State.updPort
  exact Keeps.set_cad _ (Keeps.refl _ _) (by decide)

theorem State.sendCell_keeps (p : Fin 18) (type : Nat) (payload : BitVec 100) (s : State) : Keeps [.cad, .out] s (State.sendCell p type payload s) := by
  unfold State.sendCell
  exact Keeps.step (Keeps.step (Keeps.refl _ _) (State.send_keeps ..) (by decide)) (State.updPort_keeps ..) (by decide)

theorem State.sendOp_keeps (p : Fin 18) (c : OpPayload) (s : State) : Keeps [.cad, .out] s (State.sendOp p c s) := by
  unfold State.sendOp
  exact Keeps.step (Keeps.step (Keeps.refl _ _) (State.sendCell_keeps ..) (by decide)) (State.sendCell_keeps ..) (by decide)

theorem State.sendLane_keeps (i : Fin 8) (type : Nat) (payload : BitVec 72) (s : State) : Keeps [.out] s (State.sendLane i type payload s) := by
  unfold State.sendLane
  exact Keeps.step (Keeps.refl _ _) (State.send_keeps ..) (by decide)

theorem State.sendOps_keeps (p : Fin 18) (cs : List OpPayload) (s : State) : Keeps [.cad, .out] s (State.sendOps p cs s) := by
  unfold State.sendOps
  refine Keeps.foldl _ _ ?_ (fun _ _ _ => ?_)
  · exact Keeps.refl _ _
  · refine Keeps.step ?_ (State.sendOp_keeps ..) (by decide)
    assumption

theorem State.updOp_keeps (o : EpochOp) (f : EpochOp → EpochOp) (s : State) : Keeps [.gop] s (State.updOp o f s) := by
  unfold State.updOp
  exact Keeps.set_gop _ (Keeps.refl _ _) (by decide)

theorem State.dropOp_keeps (o : EpochOp) (s : State) : Keeps [.gop] s (State.dropOp o s) := by
  unfold State.dropOp
  exact Keeps.set_gop _ (Keeps.refl _ _) (by decide)

theorem State.recordOp_keeps (o : EpochOp) (s : State) : Keeps [.gop] s (State.recordOp o s) := by
  unfold State.recordOp
  refine Keeps.ite _ ?_ ?_
  · exact Keeps.step (Keeps.refl _ _) (State.updOp_keeps ..) (by decide)
  · exact Keeps.set_gop _ (Keeps.refl _ _) (by decide)

theorem State.proposalArrives_keeps (o : EpochOp) (s : State) : Keeps [.cad, .gop, .out] s (State.proposalArrives o s) := by
  unfold State.proposalArrives
  refine Keeps.ite _ ?_ ?_
  · exact Keeps.refl _ _
  · extract_lets +onlyGivenNames y0
    have h0 : Keeps [.cad, .gop, .out] s y0 := by
      unfold y0
      refine Keeps.ite _ ?_ ?_
      · exact Keeps.refl _ _
      · exact Keeps.step (Keeps.refl _ _) (State.recordOp_keeps ..) (by decide)
    clear_value y0
    extract_lets +onlyGivenNames y1
    have h1 : Keeps [.cad, .gop, .out] s y1 := by
      unfold y1
      refine Keeps.step ?_ (State.updOp_keeps ..) (by decide)
      assumption
    clear_value y1
    extract_lets +onlyGivenNames y2
    have h2 : Keeps [.cad, .gop, .out] s y2 := by
      unfold y2
      refine Keeps.foldl _ _ ?_ (fun _ _ _ => ?_)
      · assumption
      · refine Keeps.step ?_ (State.sendOps_keeps ..) (by decide)
        assumption
    clear_value y2
    refine Keeps.foldl _ _ ?_ (fun _ _ _ => ?_)
    · assumption
    · refine Keeps.step ?_ (State.sendLane_keeps ..) (by decide)
      assumption

theorem State.propose_keeps (o : EpochOp) (s : State) : Keeps [.cad, .gop, .out] s (State.propose o s) := by
  unfold State.propose
  extract_lets +onlyGivenNames z0
  extract_lets +onlyGivenNames y1
  have h1 : Keeps [.cad, .gop, .out] s y1 := by
    unfold y1
    exact Keeps.step (Keeps.refl _ _) (State.recordOp_keeps ..) (by decide)
  clear_value y1
  refine Keeps.ite _ ?_ ?_
  · assumption
  · refine Keeps.ite _ ?_ ?_
    · refine Keeps.step ?_ (State.proposalArrives_keeps ..) (by decide)
      assumption
    · refine Keeps.step ?_ (State.sendOps_keeps ..) (by decide)
      assumption

theorem State.issueCadence_keeps (g : Nat) (thr : Bool) (s : State) : Keeps [.cad, .gop, .integ, .ctr, .out] s (State.issueCadence g thr s) := by
  unfold State.issueCadence
  extract_lets +onlyGivenNames z0
  extract_lets +onlyGivenNames z1
  split
  · exact Keeps.step (Keeps.refl _ _) (State.propose_keeps ..) (by decide)
  · refine Keeps.ite _ ?_ ?_
    · exact Keeps.step (Keeps.step (Keeps.refl _ _) (State.recordOp_keeps ..) (by decide)) (State.notice_keeps ..) (by decide)
    · exact Keeps.refl _ _

theorem State.requestsChanged_keeps (s : State) : Keeps [.cad, .gop, .integ, .ctr, .out] s (State.requestsChanged s) := by
  unfold State.requestsChanged
  refine Keeps.foldl _ _ ?_ (fun _ _ _ => ?_)
  · exact Keeps.refl _ _
  · refine Keeps.ite _ ?_ ?_
    · assumption
    · refine Keeps.step ?_ (State.issueCadence_keeps ..) (by decide)
      assumption

theorem State.assertThrottle_keeps (s : State) : Keeps [.cad, .gop, .integ, .ctr, .out] s (State.assertThrottle s) := by
  unfold State.assertThrottle
  extract_lets +onlyGivenNames z0
  extract_lets +onlyGivenNames z1
  extract_lets +onlyGivenNames z2
  extract_lets +onlyGivenNames y3
  have h3 : Keeps [.cad, .gop, .integ, .ctr, .out] s y3 := by
    unfold y3
    exact Keeps.set_gop _ (Keeps.refl _ _) (by decide)
  clear_value y3
  refine Keeps.foldl _ _ ?_ (fun _ _ _ => ?_)
  · assumption
  · refine Keeps.ite _ ?_ ?_
    · assumption
    · refine Keeps.step ?_ (State.issueCadence_keeps ..) (by decide)
      assumption

theorem State.emergency_keeps (s : State) : Keeps [.cad, .gop, .integ, .ctr, .out] s (State.emergency s) := by
  unfold State.emergency
  split
  · refine Keeps.ite _ ?_ ?_
    · extract_lets +onlyGivenNames z0
      extract_lets +onlyGivenNames z1
      extract_lets +onlyGivenNames y2
      have h2 : Keeps [.cad, .gop, .integ, .ctr, .out] s y2 := by
        unfold y2
        exact Keeps.set_gop _ (Keeps.refl _ _) (by decide)
      clear_value y2
      refine Keeps.step ?_ (State.count_keeps ..) (by decide)
      refine Keeps.foldl _ _ ?_ (fun _ _ _ => ?_)
      · assumption
      · refine Keeps.ite _ ?_ ?_
        · assumption
        · refine Keeps.step ?_ (State.issueCadence_keeps ..) (by decide)
          assumption
    · exact Keeps.step (Keeps.refl _ _) (State.assertThrottle_keeps ..) (by decide)
  · exact Keeps.step (Keeps.refl _ _) (State.assertThrottle_keeps ..) (by decide)

theorem State.releaseThrottle_keeps (s : State) : Keeps [.gop] s (State.releaseThrottle s) := by
  unfold State.releaseThrottle
  refine Keeps.ite _ ?_ ?_
  · exact Keeps.set_gop _ (Keeps.refl _ _) (by decide)
  · exact Keeps.set_gop _ (Keeps.refl _ _) (by decide)

theorem State.updLane_keeps (o : LaneOp) (f : LaneOp → LaneOp) (s : State) : Keeps [.gop] s (State.updLane o f s) := by
  unfold State.updLane
  exact Keeps.set_gop _ (Keeps.refl _ _) (by decide)

theorem State.failLane_keeps (o : LaneOp) (reason : Nat) (s : State) : Keeps [.cad, .gop, .ctr, .out] s (State.failLane o reason s) := by
  unfold State.failLane
  extract_lets +onlyGivenNames y0
  have h0 : Keeps [.cad, .gop, .ctr, .out] s y0 := by
    unfold y0
    exact Keeps.step (Keeps.step (Keeps.refl _ _) (State.updLane_keeps ..) (by decide)) (State.count_keeps ..) (by decide)
  clear_value y0
  refine Keeps.ite _ ?_ ?_
  · refine Keeps.foldl _ _ ?_ (fun _ _ _ => ?_)
    · assumption
    · refine Keeps.step ?_ (State.sendOp_keeps ..) (by decide)
      assumption
  · refine Keeps.step ?_ (State.sendOp_keeps ..) (by decide)
    assumption

theorem State.memberLost_keeps (i : Fin 8) (s : State) : Keeps [.cad, .gop, .ctr, .out] s (State.memberLost i s) := by
  unfold State.memberLost
  refine Keeps.foldl _ _ ?_ (fun _ _ _ => ?_)
  · exact Keeps.refl _ _
  · refine Keeps.step ?_ (State.failLane_keeps ..) (by decide)
    assumption

theorem State.nbClear_keeps (i : Fin 8) (s : State) : Keeps [.chk, .slots] s (State.nbClear i s) := by
  have key : ∀ (ps : List Nat) (m : Mem), Mem.wf 0 m = true → Mem.wf 0 (ps.foldl (fun m p => m.erase (nbAddr i p 0) 131072) m) = true := by
    intro ps
    induction ps with
    | nil => exact fun _ h => h
    | cons p ps ih => exact fun m h => ih _ (Mem.wf_erase _ _ h)
  unfold State.nbClear
  exact Keeps.set_chk_slots _ _ (Keeps.refl _ _) (by decide) (key _ _)

theorem State.cancelLull_keeps (i : Fin 8) (s : State) : Keeps [.integ, .ctr] s (State.cancelLull i s) := by
  unfold State.cancelLull
  extract_lets +onlyGivenNames z0
  refine Keeps.ite _ ?_ ?_
  · exact Keeps.step (Keeps.step (Keeps.refl _ _) (State.updIslot_keeps ..) (by decide)) (State.count_keeps ..) (by decide)
  · exact Keeps.refl _ _

theorem State.unpowerSlot_keeps (s : State) (i : Fin 8) : Keeps [.gop, .slots] s (State.unpowerSlot s i) := by
  unfold State.unpowerSlot
  extract_lets +onlyGivenNames y0
  have h0 : Keeps [.gop, .slots] s y0 := by
    unfold y0
    exact Keeps.step (Keeps.refl _ _) (State.updSlot_keeps ..) (by decide)
  clear_value y0
  refine Keeps.set_gop _ ?_ (by decide)
  assumption

theorem State.slotPowerSettle_keeps (i : Fin 8) (s : State) : Keeps [.bus, .wins, .out] s (State.slotPowerSettle i s) := by
  unfold State.slotPowerSettle
  refine Keeps.foldl _ _ ?_ (fun _ _ _ => ?_)
  · exact Keeps.refl _ _
  · split
    · refine Keeps.ite _ ?_ ?_
      · refine Keeps.step ?_ (State.finish_keeps ..) (by decide)
        assumption
      · refine Keeps.ite _ ?_ ?_
        · refine Keeps.step ?_ (State.finish_keeps ..) (by decide)
          assumption
        · assumption

theorem State.setSlot_keeps (i : Fin 8) (st : SlotState) (cause : Nat) (s : State) : Keeps [.bus, .wins, .cad, .gop, .chk, .basin, .integ, .slots, .ctr, .out, .free] s (State.setSlot i st cause s) := by
  unfold State.setSlot
  extract_lets +onlyGivenNames z0
  extract_lets +onlyGivenNames y1
  have h1 : Keeps [.bus, .wins, .cad, .gop, .chk, .basin, .integ, .slots, .ctr, .out, .free] s y1 := by
    unfold y1
    exact Keeps.step (Keeps.refl _ _) (State.updSlot_keeps ..) (by decide)
  clear_value y1
  extract_lets +onlyGivenNames y2
  have h2 : Keeps [.bus, .wins, .cad, .gop, .chk, .basin, .integ, .slots, .ctr, .out, .free] s y2 := by
    unfold y2
    refine Keeps.ite _ ?_ ?_
    · refine Keeps.step ?_ (State.cancelLull_keeps ..) (by decide)
      refine Keeps.step ?_ (State.memberLost_keeps ..) (by decide)
      assumption
    · assumption
  clear_value y2
  extract_lets +onlyGivenNames y3
  have h3 : Keeps [.bus, .wins, .cad, .gop, .chk, .basin, .integ, .slots, .ctr, .out, .free] s y3 := by
    unfold y3
    split
    · refine Keeps.step ?_ (State.unpowerSlot_keeps ..) (by decide)
      assumption
    · refine Keeps.step ?_ (State.unpowerSlot_keeps ..) (by decide)
      assumption
    · refine Keeps.step ?_ (State.unpowerSlot_keeps ..) (by decide)
      assumption
    · refine Keeps.step ?_ (State.updSlot_keeps ..) (by decide)
      refine Keeps.step ?_ (State.nbClear_keeps ..) (by decide)
      assumption
    · refine Keeps.ite _ ?_ ?_
      · refine Keeps.step ?_ (State.updSlot_keeps ..) (by decide)
        assumption
      · assumption
    · refine Keeps.step ?_ (State.updSlot_keeps ..) (by decide)
      assumption
    · refine Keeps.step ?_ (State.updSlot_keeps ..) (by decide)
      assumption
  clear_value y3
  extract_lets +onlyGivenNames y4
  have h4 : Keeps [.bus, .wins, .cad, .gop, .chk, .basin, .integ, .slots, .ctr, .out, .free] s y4 := by
    unfold y4
    refine Keeps.ite _ ?_ ?_
    · assumption
    · refine Keeps.step ?_ (State.pushSlotGone_keeps ..) (by decide)
      assumption
  clear_value y4
  refine Keeps.step ?_ (State.slotPowerSettle_keeps ..) (by decide)
  assumption

theorem State.holdSlot_keeps (i : Fin 8) (s : State) : Keeps [.bus, .wins, .cad, .gop, .chk, .basin, .integ, .slots, .ctr, .out, .free] s (State.holdSlot i s) := by
  unfold State.holdSlot
  refine Keeps.ite _ ?_ ?_
  · exact Keeps.step (Keeps.refl _ _) (State.setSlot_keeps ..) (by decide)
  · exact Keeps.refl _ _

theorem State.failCommit_keeps (c : Code) (reason : Nat) (s : State) : Keeps [.bus, .wins, .cfg, .ctr, .out] s (State.failCommit c reason s) := by
  unfold State.failCommit
  split
  · exact Keeps.refl _ _
  · extract_lets +onlyGivenNames z0
    extract_lets +onlyGivenNames z1
    extract_lets +onlyGivenNames y2
    have h2 : Keeps [.bus, .wins, .cfg, .ctr, .out] s y2 := by
      unfold y2
      exact Keeps.set_cfg _ (Keeps.refl _ _) (by decide)
    clear_value y2
    refine Keeps.ite _ ?_ ?_
    · refine Keeps.step ?_ (State.abandon_keeps ..) (by decide)
      assumption
    · refine Keeps.step ?_ (State.finish_keeps ..) (by decide)
      assumption

theorem State.mapChanged_keeps (s : State) : Keeps [.bus, .sess] s (State.mapChanged s) := by
  unfold State.mapChanged
  extract_lets +onlyGivenNames z0
  exact Keeps.set_bus_sess _ _ (Keeps.refl _ _) (by decide) (fun i => i)

theorem State.commitOnLeave_keeps (jump : Bool) (s : State) : Keeps [.bus, .wins, .cfg, .integ, .ctr, .out] s (State.commitOnLeave jump s) := by
  unfold State.commitOnLeave
  split
  · exact Keeps.refl _ _
  · extract_lets +onlyGivenNames z0
    refine Keeps.ite _ ?_ ?_
    · extract_lets +onlyGivenNames y1
      have h1 : Keeps [.bus, .wins, .cfg, .integ, .ctr, .out] s y1 := by
        unfold y1
        exact Keeps.step (Keeps.refl _ _) (State.failCommit_keeps ..) (by decide)
      clear_value y1
      refine Keeps.ite _ ?_ ?_
      · refine Keeps.set_cfg _ ?_ (by decide)
        assumption
      · assumption
    · refine Keeps.ite _ ?_ ?_
      · exact Keeps.step (Keeps.step (Keeps.refl _ _) (State.failCommit_keeps ..) (by decide)) (State.notice_keeps ..) (by decide)
      · refine Keeps.ite _ ?_ ?_
        · exact Keeps.refl _ _
        · refine Keeps.ite _ ?_ ?_
          · exact Keeps.step (Keeps.refl _ _) (State.failCommit_keeps ..) (by decide)
          · exact Keeps.set_cfg _ (Keeps.refl _ _) (by decide)

theorem State.chkLeave_keeps (s : State) : Keeps [.chk, .integ, .ctr] s (State.chkLeave s) := by
  unfold State.chkLeave
  extract_lets +onlyGivenNames z0
  extract_lets +onlyGivenNames y1
  have h1 : Keeps [.chk, .integ, .ctr] s y1 := by
    unfold y1
    refine Keeps.foldl _ _ ?_ (fun _ _ _ => ?_)
    · exact Keeps.refl _ _
    · refine Keeps.step ?_ (State.notice_keeps ..) (by decide)
      assumption
  clear_value y1
  refine Keeps.set_chk _ ?_ (by decide) (fun i => i)
  assumption

theorem State.integLeave_keeps (s : State) : Keeps [.integ, .ctr] s (State.integLeave s) := by
  unfold State.integLeave
  extract_lets +onlyGivenNames y0
  have h0 : Keeps [.integ, .ctr] s y0 := by
    unfold y0
    refine Keeps.ite _ ?_ ?_
    · exact Keeps.step (Keeps.refl _ _) (State.count_keeps ..) (by decide)
    · exact Keeps.refl _ _
  clear_value y0
  extract_lets +onlyGivenNames y1
  have h1 : Keeps [.integ, .ctr] s y1 := by
    unfold y1
    refine Keeps.foldl _ _ ?_ (fun _ _ _ => ?_)
    · assumption
    · refine Keeps.step ?_ (State.cancelLull_keeps ..) (by decide)
      assumption
  clear_value y1
  refine Keeps.set_integ _ ?_ (by decide)
  assumption

theorem State.leaveFull_keeps (s : State) : Keeps [.dev, .bus, .wins, .sess, .cfg, .cad, .gop, .chk, .basin, .integ, .slots, .boot, .upd, .ctr, .out, .free] s (State.leaveFull s) := by
  unfold State.leaveFull
  refine Keeps.ite _ ?_ ?_
  · exact Keeps.refl _ _
  · extract_lets +onlyGivenNames z0
    extract_lets +onlyGivenNames z1
    extract_lets +onlyGivenNames y2
    have h2 : Keeps [.dev, .bus, .wins, .sess, .cfg, .cad, .gop, .chk, .basin, .integ, .slots, .boot, .upd, .ctr, .out, .free] s y2 := by
      unfold y2
      split
      · exact Keeps.step (Keeps.set_upd _ (Keeps.refl _ _) (by decide) (by exact fun i => i)) (State.finish_keeps ..) (by decide)
      · exact Keeps.refl _ _
    clear_value y2
    extract_lets +onlyGivenNames y3
    have h3 : Keeps [.dev, .bus, .wins, .sess, .cfg, .cad, .gop, .chk, .basin, .integ, .slots, .boot, .upd, .ctr, .out, .free] s y3 := by
      unfold y3
      refine Keeps.foldl _ _ ?_ (fun _ _ _ => ?_)
      · assumption
      · refine Keeps.step ?_ (State.holdSlot_keeps ..) (by decide)
        assumption
    clear_value y3
    extract_lets +onlyGivenNames y4
    have h4 : Keeps [.dev, .bus, .wins, .sess, .cfg, .cad, .gop, .chk, .basin, .integ, .slots, .boot, .upd, .ctr, .out, .free] s y4 := by
      unfold y4
      refine Keeps.step ?_ (State.commitOnLeave_keeps ..) (by decide)
      assumption
    clear_value y4
    extract_lets +onlyGivenNames y5
    have h5 : Keeps [.dev, .bus, .wins, .sess, .cfg, .cad, .gop, .chk, .basin, .integ, .slots, .boot, .upd, .ctr, .out, .free] s y5 := by
      unfold y5
      refine Keeps.foldl _ _ ?_ (fun _ _ _ => ?_)
      · assumption
      · refine Keeps.ite _ ?_ ?_
        · refine Keeps.step ?_ (State.abandon_keeps ..) (by decide)
          assumption
        · assumption
    clear_value y5
    extract_lets +onlyGivenNames z6
    extract_lets +onlyGivenNames y7
    have h7 : Keeps [.dev, .bus, .wins, .sess, .cfg, .cad, .gop, .chk, .basin, .integ, .slots, .boot, .upd, .ctr, .out, .free] s y7 := by
      unfold y7
      split
      · refine Keeps.ite _ ?_ ?_
        · refine Keeps.set_cfg _ ?_ (by decide)
          assumption
        · assumption
      · assumption
    clear_value y7
    extract_lets +onlyGivenNames y8
    have h8 : Keeps [.dev, .bus, .wins, .sess, .cfg, .cad, .gop, .chk, .basin, .integ, .slots, .boot, .upd, .ctr, .out, .free] s y8 := by
      unfold y8
      refine Keeps.step ?_ (State.basinClear_keeps ..) (by decide)
      refine Keeps.step ?_ (State.integLeave_keeps ..) (by decide)
      refine Keeps.step ?_ (State.chkLeave_keeps ..) (by decide)
      assumption
    clear_value y8
    extract_lets +onlyGivenNames z9
    extract_lets +onlyGivenNames y10
    have h10 : Keeps [.dev, .bus, .wins, .sess, .cfg, .cad, .gop, .chk, .basin, .integ, .slots, .boot, .upd, .ctr, .out, .free] s y10 := by
      unfold y10
      split
      · refine Keeps.ite _ ?_ ?_
        · refine Keeps.set_upd _ ?_ (by decide) (fun i => i)
          assumption
        · assumption
      · assumption
    clear_value y10
    extract_lets +onlyGivenNames z11
    extract_lets +onlyGivenNames z12
    extract_lets +onlyGivenNames z13
    extract_lets +onlyGivenNames z14
    extract_lets +onlyGivenNames z15
    extract_lets +onlyGivenNames z16
    extract_lets +onlyGivenNames y17
    have h17 : Keeps [.dev, .bus, .wins, .sess, .cfg, .cad, .gop, .chk, .basin, .integ, .slots, .boot, .upd, .ctr, .out, .free] s y17 := by
      unfold y17
      refine Keeps.set_dev_cfg_cad_gop_boot_upd _ _ _ _ _ _ ?_ (by decide) (fun i => i) (fun i => i) (fun i => i) (fun _ => rfl)
      assumption
    clear_value y17
    refine Keeps.step ?_ (State.mapChanged_keeps ..) (by decide)
    assumption
end Sys2Proof.Machine
end

