-- ==== Sys2Proof/Laws/KeepsEvidence.lean ====
section
/-!
SUPPORT. What the operations of Machine/Evidence.lean touch, and that they keep the invariant.
-/

namespace Sys2Proof.Machine
theorem State.pushEvidence_keeps (e : Evidence) (s : State) : Keeps [.integ] s (State.pushEvidence e s) := by
  unfold State.pushEvidence
  exact Keeps.set_integ _ (Keeps.refl _ _) (by decide)

theorem State.lullEnds_keeps (i : Fin 8) (f : Fate) (s : State) : Keeps [.integ, .ctr] s (State.lullEnds i f s) := by
  unfold State.lullEnds
  extract_lets +onlyGivenNames z0
  extract_lets +onlyGivenNames z1
  extract_lets +onlyGivenNames z2
  extract_lets +onlyGivenNames y3
  have h3 : Keeps [.integ, .ctr] s y3 := by
    unfold y3
    exact Keeps.step (Keeps.refl _ _) (State.updIslot_keeps ..) (by decide)
  clear_value y3
  split
  · assumption
  · refine Keeps.step ?_ (State.pushEvidence_keeps ..) (by decide)
    assumption
  · refine Keeps.step ?_ (State.count_keeps ..) (by decide)
    assumption

theorem State.lullResult_keeps (r : CheckRes) (s : State) : Keeps [.integ, .ctr] s (State.lullResult r s) := by
  unfold State.lullResult
  extract_lets +onlyGivenNames z0
  extract_lets +onlyGivenNames z1
  refine Keeps.ite _ ?_ ?_
  · exact Keeps.refl _ _
  · exact Keeps.step (Keeps.refl _ _) (State.lullEnds_keeps ..) (by decide)

theorem State.reportCheck_keeps (r : CheckRes) (s : State) : Keeps [.chk, .integ, .ctr] s (State.reportCheck r s) := by
  unfold State.reportCheck
  extract_lets +onlyGivenNames y0
  have h0 : Keeps [.chk, .integ, .ctr] s y0 := by
    unfold y0
    exact Keeps.step (Keeps.refl _ _) (State.count_keeps ..) (by decide)
  clear_value y0
  extract_lets +onlyGivenNames y1
  have h1 : Keeps [.chk, .integ, .ctr] s y1 := by
    unfold y1
    refine Keeps.ite _ ?_ ?_
    · assumption
    · refine Keeps.step ?_ (State.count_keeps ..) (by decide)
      assumption
  clear_value y1
  extract_lets +onlyGivenNames z2
  extract_lets +onlyGivenNames z3
  extract_lets +onlyGivenNames y4
  have h4 : Keeps [.chk, .integ, .ctr] s y4 := by
    unfold y4
    refine Keeps.set_chk _ ?_ (by decide) (fun i => i)
    assumption
  clear_value y4
  extract_lets +onlyGivenNames y5
  have h5 : Keeps [.chk, .integ, .ctr] s y5 := by
    unfold y5
    split
    · refine Keeps.step ?_ (State.pushEvidence_keeps ..) (by decide)
      assumption
    · assumption
  clear_value y5
  refine Keeps.step ?_ (State.lullResult_keeps ..) (by decide)
  assumption

theorem State.reportOwed_keeps (s : State) : Keeps [.chk, .integ, .ctr] s (State.reportOwed s) := by
  unfold State.reportOwed
  refine Keeps.foldl _ _ ?_ (fun _ _ _ => ?_)
  · exact Keeps.set_chk _ (Keeps.refl _ _) (by decide) (fun i => i)
  · refine Keeps.step ?_ (State.reportCheck_keeps ..) (by decide)
    assumption

theorem State.setArea_keeps (a : Fin 64) (x : AreaSt) (s : State) : Keeps [.chk] s (State.setArea a x s) := by
  unfold State.setArea
  extract_lets +onlyGivenNames z0
  exact Keeps.set_chk _ (Keeps.refl _ _) (by decide) (Mem.wf_write _ _)

theorem State.endCheck_keeps (a : Fin 64) (r : CheckRes) (s : State) : Keeps [.chk, .integ, .ctr] s (State.endCheck a r s) := by
  unfold State.endCheck
  extract_lets +onlyGivenNames z0
  extract_lets +onlyGivenNames z1
  extract_lets +onlyGivenNames y2
  have h2 : Keeps [.chk, .integ, .ctr] s y2 := by
    unfold y2
    exact Keeps.set_chk _ (Keeps.refl _ _) (by decide) (Mem.wf_write _ _)
  clear_value y2
  extract_lets +onlyGivenNames z3
  extract_lets +onlyGivenNames y4
  have h4 : Keeps [.chk, .integ, .ctr] s y4 := by
    unfold y4
    refine Keeps.step ?_ (State.setArea_keeps ..) (by decide)
    assumption
  clear_value y4
  refine Keeps.ite _ ?_ ?_
  · refine Keeps.step ?_ (State.reportCheck_keeps ..) (by decide)
    assumption
  · refine Keeps.set_chk _ ?_ (by decide) (fun i => i)
    assumption

theorem State.endWaiting_keeps (reason : Nat) (s : State) : Keeps [.chk, .integ, .ctr] s (State.endWaiting reason s) := by
  unfold State.endWaiting
  refine Keeps.foldl _ _ ?_ (fun _ _ _ => ?_)
  · exact Keeps.refl _ _
  · refine Keeps.step ?_ (State.endCheck_keeps ..) (by decide)
    assumption

theorem State.engineFails_keeps (s : State) : Keeps [.chk, .integ, .ctr] s (State.engineFails s) := by
  unfold State.engineFails
  extract_lets +onlyGivenNames y0
  have h0 : Keeps [.chk, .integ, .ctr] s y0 := by
    unfold y0
    refine Keeps.foldl _ _ ?_ (fun _ _ _ => ?_)
    · exact Keeps.refl _ _
    · refine Keeps.step ?_ (State.endCheck_keeps ..) (by decide)
      assumption
  clear_value y0
  refine Keeps.step ?_ (State.endWaiting_keeps ..) (by decide)
  assumption
end Sys2Proof.Machine
end

