-- ==== Sys2Proof/Laws/KeepsClear.lean ====
section
/-!
SUPPORT. What the operations of Machine/Clear.lean touch, and that they keep the invariant.
-/

namespace Sys2Proof.Machine
theorem State.systemClear_keeps (s : State) : Keeps [.dev, .bus, .wins, .sess, .cfg, .weir, .casc, .cool, .cad, .gop, .chk, .basin, .integ, .slots, .boot, .upd, .rst] s (State.systemClear s) := by
  have hm : Mem.wf 0 State.resetMsix = true := by decide
  unfold State.systemClear
  exact Keeps.set_dev_bus_wins_sess_cfg_weir_casc_cool_cad_gop_chk_basin_integ_slots_boot_upd_rst _ _ _ _ _ _ _ _ _ _ _ _ _ _ _ _ _ (Keeps.refl _ _)
    (by decide) (fun _ => hm) (fun _ p => by rw [Vec.get_tab]; rfl) (fun _ => rfl) (fun _ => rfl) (fun i => i) (fun _ => rfl) (fun _ => rfl) (fun _ => rfl)

theorem State.haltCores_keeps (s : State) : Keeps [.boot] s (State.haltCores s) := by
  unfold State.haltCores
  exact Keeps.set_boot _ (Keeps.refl _ _) (by decide) (fun i => i) (fun i => i) (fun i => i)

theorem State.addCause_keeps (b : Nat) (s : State) : Keeps [.rst] s (State.addCause b s) := by
  unfold State.addCause
  exact Keeps.set_rst _ (Keeps.refl _ _) (by decide)

theorem State.resetBegin_keeps (b : Nat) (s : State) : Keeps [.dev, .bus, .wins, .sess, .cfg, .cad, .gop, .chk, .basin, .integ, .slots, .boot, .upd, .rst, .ctr, .out, .free] s (State.resetBegin b s) := by
  unfold State.resetBegin
  extract_lets +onlyGivenNames y0
  have h0 : Keeps [.dev, .bus, .wins, .sess, .cfg, .cad, .gop, .chk, .basin, .integ, .slots, .boot, .upd, .rst, .ctr, .out, .free] s y0 := by
    unfold y0
    exact Keeps.step (Keeps.step (Keeps.refl _ _) (State.addCause_keeps ..) (by decide)) (State.notice_keeps ..) (by decide)
  clear_value y0
  extract_lets +onlyGivenNames y1
  have h1 : Keeps [.dev, .bus, .wins, .sess, .cfg, .cad, .gop, .chk, .basin, .integ, .slots, .boot, .upd, .rst, .ctr, .out, .free] s y1 := by
    unfold y1
    refine Keeps.step ?_ (State.leaveFull_keeps ..) (by decide)
    assumption
  clear_value y1
  extract_lets +onlyGivenNames y2
  have h2 : Keeps [.dev, .bus, .wins, .sess, .cfg, .cad, .gop, .chk, .basin, .integ, .slots, .boot, .upd, .rst, .ctr, .out, .free] s y2 := by
    unfold y2
    refine Keeps.step ?_ (State.haltCores_keeps ..) (by decide)
    assumption
  clear_value y2
  refine Keeps.set_dev_rst _ _ ?_ (by decide)
  assumption
end Sys2Proof.Machine
end

