-- ==== Sys2Proof/Laws/KeepsNotebook.lean ====
section
/-!
SUPPORT. What the operations of Machine/Notebook.lean touch, and that they keep the invariant.
-/

namespace Sys2Proof.Machine
theorem State.updFeed_keeps (f : Feed) (g : FeedSt → FeedSt) (s : State) : Keeps [.weir] s (State.updFeed f g s) := by
  unfold State.updFeed
  exact Keeps.set_weir _ (Keeps.refl _ _) (by decide)
end Sys2Proof.Machine
end

