-- ==== Sys2Proof/Laws/KeepsPower.lean ====
section
/-!
SUPPORT. What the operations of Machine/Power.lean touch, and that they keep the invariant.
-/

namespace Sys2Proof.Machine
theorem State.pmbusByte_keeps (n : Fin 64) (cmd : Nat) (v : Nat) (s : State) : Keeps [.out] s (State.pmbusByte n cmd v s) := by
  unfold State.pmbusByte
  extract_lets +onlyGivenNames z0
  extract_lets +onlyGivenNames y1
  have h1 : Keeps [.out] s y1 := by
    unfold y1
    refine Keeps.ite _ ?_ ?_
    · exact Keeps.step (Keeps.refl _ _) (State.send_keeps ..) (by decide)
    · exact Keeps.refl _ _
  clear_value y1
  refine Keeps.step ?_ (State.send_keeps ..) (by decide)
  assumption

theorem State.pmbusOperation_keeps (n : Fin 64) (v : Nat) (nack : Bool) (s : State) : Keeps [.ctr, .out] s (State.pmbusOperation n v nack s) := by
  unfold State.pmbusOperation
  extract_lets +onlyGivenNames y0
  have h0 : Keeps [.ctr, .out] s y0 := by
    unfold y0
    exact Keeps.step (Keeps.refl _ _) (State.pmbusByte_keeps ..) (by decide)
  clear_value y0
  refine Keeps.ite _ ?_ ?_
  · refine Keeps.step ?_ (State.count_keeps ..) (by decide)
    refine Keeps.step ?_ (State.pmbusByte_keeps ..) (by decide)
    assumption
  · assumption

theorem State.turnOn_keeps (nack : BitVec 64) (s : State) (n : Fin 64) : Keeps [.casc, .ctr, .out] s (State.turnOn nack s n) := by
  unfold State.turnOn
  extract_lets +onlyGivenNames z0
  extract_lets +onlyGivenNames y1
  have h1 : Keeps [.casc, .ctr, .out] s y1 := by
    unfold y1
    refine Keeps.ite _ ?_ ?_
    · exact Keeps.step (Keeps.refl _ _) (State.pmbusOperation_keeps ..) (by decide)
    · exact Keeps.refl _ _
  clear_value y1
  refine Keeps.step ?_ (State.updRail_keeps ..) (by decide)
  assumption

theorem State.turnOff_keeps (nack : BitVec 64) (s : State) (n : Fin 64) : Keeps [.casc, .ctr, .out] s (State.turnOff nack s n) := by
  unfold State.turnOff
  extract_lets +onlyGivenNames z0
  extract_lets +onlyGivenNames y1
  have h1 : Keeps [.casc, .ctr, .out] s y1 := by
    unfold y1
    refine Keeps.ite _ ?_ ?_
    · exact Keeps.step (Keeps.refl _ _) (State.pmbusOperation_keeps ..) (by decide)
    · exact Keeps.refl _ _
  clear_value y1
  refine Keeps.step ?_ (State.updRail_keeps ..) (by decide)
  assumption

theorem State.setSeq_keeps (q : Seq) (r : Option SeqRun) (s : State) : Keeps [.casc] s (State.setSeq q r s) := by
  unfold State.setSeq
  split
  · exact Keeps.set_casc _ (Keeps.refl _ _) (by decide)
  · exact Keeps.set_casc _ (Keeps.refl _ _) (by decide)

theorem State.arrive_keeps (s : State) : Keeps [.bus, .wins, .cad, .gop, .chk, .basin, .integ, .slots, .ctr, .out, .free] s (State.arrive s) := by
  unfold State.arrive
  refine Keeps.foldl _ _ ?_ (fun _ _ _ => ?_)
  · exact Keeps.refl _ _
  · refine Keeps.ite _ ?_ ?_
    · refine Keeps.step ?_ (State.setSlot_keeps ..) (by decide)
      assumption
    · assumption

theorem State.powering_keeps (s : State) (n : Fin 64) : Keeps [.bus, .wins, .cad, .gop, .chk, .basin, .integ, .slots, .ctr, .out, .free] s (State.powering s n) := by
  unfold State.powering
  refine Keeps.foldl _ _ ?_ (fun _ _ _ => ?_)
  · exact Keeps.refl _ _
  · refine Keeps.ite _ ?_ ?_
    · refine Keeps.step ?_ (State.setSlot_keeps ..) (by decide)
      assumption
    · assumption

theorem State.slotOffSettle_keeps (s : State) : Keeps [.bus, .wins, .out] s (State.slotOffSettle s) := by
  unfold State.slotOffSettle
  refine Keeps.foldl _ _ ?_ (fun _ _ _ => ?_)
  · exact Keeps.refl _ _
  · extract_lets +onlyGivenNames z0
    refine Keeps.ite _ ?_ ?_
    · refine Keeps.step ?_ (State.finish_keeps ..) (by decide)
      assumption
    · assumption

theorem State.slotSeqEnd_keeps (i : Fin 8) (up : Bool) (s : State) : Keeps [.bus, .wins, .casc, .cad, .gop, .chk, .basin, .integ, .slots, .ctr, .out, .free] s (State.slotSeqEnd i up s) := by
  unfold State.slotSeqEnd
  extract_lets +onlyGivenNames y0
  have h0 : Keeps [.bus, .wins, .casc, .cad, .gop, .chk, .basin, .integ, .slots, .ctr, .out, .free] s y0 := by
    unfold y0
    exact Keeps.step (Keeps.refl _ _) (State.setSeq_keeps ..) (by decide)
  clear_value y0
  refine Keeps.ite _ ?_ ?_
  · refine Keeps.step ?_ (State.arrive_keeps ..) (by decide)
    assumption
  · extract_lets +onlyGivenNames y1
    have h1 : Keeps [.bus, .wins, .casc, .cad, .gop, .chk, .basin, .integ, .slots, .ctr, .out, .free] s y1 := by
      unfold y1
      refine Keeps.ite _ ?_ ?_
      · assumption
      · refine Keeps.ite _ ?_ ?_
        · assumption
        · refine Keeps.step ?_ (State.setSlot_keeps ..) (by decide)
          assumption
    clear_value y1
    refine Keeps.step ?_ (State.slotOffSettle_keeps ..) (by decide)
    assumption

theorem State.slotDown_keeps (i : Fin 8) (s : State) :
    Keeps [.bus, .wins, .casc, .cad, .gop, .chk, .basin, .integ, .slots, .ctr, .out, .free] s (State.slotDown i s) := by
  unfold State.slotDown
  extract_lets +onlyGivenNames _ y0
  have h0 : Keeps [.bus, .wins, .casc, .cad, .gop, .chk, .basin, .integ, .slots, .ctr, .out, .free] s y0 := by
    unfold y0
    exact Keeps.set_casc _ (Keeps.refl _ _) (by decide)
  clear_value y0
  refine Keeps.ite _ h0 ?_
  split
  · exact Keeps.step h0 (State.setSeq_keeps ..) (by decide)
  · exact Keeps.step h0 (State.slotSeqEnd_keeps ..) (by decide)

theorem State.slotUp_keeps (i : Fin 8) (s : State) : Keeps [.bus, .wins, .casc, .cad, .gop, .chk, .basin, .integ, .slots, .ctr, .out, .free] s (State.slotUp i s) := by
  unfold State.slotUp
  refine Keeps.ite _ ?_ ?_
  · exact Keeps.refl _ _
  · split
    · exact Keeps.step (Keeps.refl _ _) (State.setSeq_keeps ..) (by decide)
    · exact Keeps.step (Keeps.step (Keeps.refl _ _) (State.setSlot_keeps ..) (by decide)) (State.arrive_keeps ..) (by decide)

theorem State.quarantine_keeps (i : Fin 8) (c : Nat) (n : Option (Fin 64)) (s : State) : Keeps [.bus, .wins, .casc, .cad, .gop, .chk, .basin, .integ, .slots, .ctr, .out, .free] s (State.quarantine i c n s) := by
  unfold State.quarantine
  extract_lets +onlyGivenNames z0
  extract_lets +onlyGivenNames z1
  extract_lets +onlyGivenNames z2
  extract_lets +onlyGivenNames y3
  have h3 : Keeps [.bus, .wins, .casc, .cad, .gop, .chk, .basin, .integ, .slots, .ctr, .out, .free] s y3 := by
    unfold y3
    refine Keeps.ite _ ?_ ?_
    · exact Keeps.step (Keeps.step (Keeps.refl _ _) (State.setSlot_keeps ..) (by decide)) (State.count_keeps ..) (by decide)
    · exact Keeps.refl _ _
  clear_value y3
  extract_lets +onlyGivenNames y4
  have h4 : Keeps [.bus, .wins, .casc, .cad, .gop, .chk, .basin, .integ, .slots, .ctr, .out, .free] s y4 := by
    unfold y4
    refine Keeps.ite _ ?_ ?_
    · refine Keeps.step ?_ (State.updSlot_keeps ..) (by decide)
      assumption
    · assumption
  clear_value y4
  refine Keeps.ite _ ?_ ?_
  · refine Keeps.step ?_ (State.slotDown_keeps ..) (by decide)
    refine Keeps.step ?_ (State.updSlot_keeps ..) (by decide)
    assumption
  · assumption

theorem State.railFailed_keeps (c : Nat) (n : Fin 64) (s : State) : Keeps [.bus, .wins, .casc, .cad, .gop, .chk, .basin, .integ, .slots, .ctr, .out, .free] s (State.railFailed c n s) := by
  unfold State.railFailed
  refine Keeps.ite _ ?_ ?_
  · exact Keeps.step (Keeps.refl _ _) (State.notice_keeps ..) (by decide)
  · extract_lets +onlyGivenNames z0
    extract_lets +onlyGivenNames y1
    have h1 : Keeps [.bus, .wins, .casc, .cad, .gop, .chk, .basin, .integ, .slots, .ctr, .out, .free] s y1 := by
      unfold y1
      exact Keeps.step (Keeps.refl _ _) (State.count_keeps ..) (by decide)
    clear_value y1
    extract_lets +onlyGivenNames y2
    have h2 : Keeps [.bus, .wins, .casc, .cad, .gop, .chk, .basin, .integ, .slots, .ctr, .out, .free] s y2 := by
      unfold y2
      refine Keeps.ite _ ?_ ?_
      · assumption
      · refine Keeps.step ?_ (State.logEntry_keeps ..) (by decide)
        assumption
    clear_value y2
    refine Keeps.foldl _ _ ?_ (fun _ _ _ => ?_)
    · assumption
    · extract_lets +onlyGivenNames y3
      have h3 : Keeps [.bus, .wins, .casc, .cad, .gop, .chk, .basin, .integ, .slots, .ctr, .out, .free] s y3 := by
        unfold y3
        refine Keeps.ite _ ?_ ?_
        · refine Keeps.step ?_ (State.supersede_keeps ..) (by decide)
          assumption
        · assumption
      clear_value y3
      extract_lets +onlyGivenNames y4
      have h4 : Keeps [.bus, .wins, .casc, .cad, .gop, .chk, .basin, .integ, .slots, .ctr, .out, .free] s y4 := by
        unfold y4
        refine Keeps.step ?_ (State.updSlot_keeps ..) (by decide)
        assumption
      clear_value y4
      refine Keeps.step ?_ (State.quarantine_keeps ..) (by decide)
      assumption

theorem State.failRise_keeps (nack : BitVec 64) (s : State) (n : Fin 64) : Keeps [.bus, .wins, .casc, .cad, .gop, .chk, .basin, .integ, .slots, .ctr, .out, .free] s (State.failRise nack s n) := by
  unfold State.failRise
  extract_lets +onlyGivenNames y0
  have h0 : Keeps [.bus, .wins, .casc, .cad, .gop, .chk, .basin, .integ, .slots, .ctr, .out, .free] s y0 := by
    unfold y0
    exact Keeps.step (Keeps.refl _ _) (State.turnOff_keeps ..) (by decide)
  clear_value y0
  extract_lets +onlyGivenNames y1
  have h1 : Keeps [.bus, .wins, .casc, .cad, .gop, .chk, .basin, .integ, .slots, .ctr, .out, .free] s y1 := by
    unfold y1
    refine Keeps.step ?_ (State.updRail_keeps ..) (by decide)
    assumption
  clear_value y1
  refine Keeps.step ?_ (State.railFailed_keeps ..) (by decide)
  assumption

theorem State.setFeedBkp_keeps (f : Feed) (b : Bool) (s : State) : Keeps [.rst] s (State.setFeedBkp f b s) := by
  unfold State.setFeedBkp
  exact Keeps.set_rst _ (Keeps.refl _ _) (by decide)

theorem State.feedAllOff_keeps (named : Nat) (s : State) (f : Feed) : Keeps [.weir, .rst] s (State.feedAllOff named s f) := by
  unfold State.feedAllOff
  extract_lets +onlyGivenNames z0
  refine Keeps.ite _ ?_ ?_
  · exact Keeps.step (Keeps.step (Keeps.refl _ _) (State.updFeed_keeps ..) (by decide)) (State.setFeedBkp_keeps ..) (by decide)
  · refine Keeps.ite _ ?_ ?_
    · exact Keeps.refl _ _
    · exact Keeps.step (Keeps.refl _ _) (State.updFeed_keeps ..) (by decide)

theorem State.shutdownEnd_keeps (s : State) : Keeps [.dev, .bus, .wins, .sess, .cfg, .weir, .casc, .cool, .cad, .gop, .chk, .basin, .integ, .slots, .boot, .upd, .rst, .out] s (State.shutdownEnd s) := by
  unfold State.shutdownEnd
  split
  · exact Keeps.refl _ _
  · extract_lets +onlyGivenNames y0
    have h0 : Keeps [.dev, .bus, .wins, .sess, .cfg, .weir, .casc, .cool, .cad, .gop, .chk, .basin, .integ, .slots, .boot, .upd, .rst, .out] s y0 := by
      unfold y0
      refine Keeps.foldl _ _ ?_ (fun _ _ _ => ?_)
      · exact Keeps.refl _ _
      · refine Keeps.step ?_ (State.feedAllOff_keeps ..) (by decide)
        assumption
    clear_value y0
    extract_lets +onlyGivenNames z1
    extract_lets +onlyGivenNames y2
    have h2 : Keeps [.dev, .bus, .wins, .sess, .cfg, .weir, .casc, .cool, .cad, .gop, .chk, .basin, .integ, .slots, .boot, .upd, .rst, .out] s y2 := by
      unfold y2
      refine Keeps.set_weir _ ?_ (by decide)
      assumption
    clear_value y2
    extract_lets +onlyGivenNames y3
    have h3 : Keeps [.dev, .bus, .wins, .sess, .cfg, .weir, .casc, .cool, .cad, .gop, .chk, .basin, .integ, .slots, .boot, .upd, .rst, .out] s y3 := by
      unfold y3
      refine Keeps.foldl _ _ ?_ (fun _ _ _ => ?_)
      · assumption
      · refine Keeps.step ?_ (State.finish_keeps ..) (by decide)
        assumption
    clear_value y3
    refine Keeps.ite _ ?_ ?_
    · refine Keeps.step ?_ (State.systemClear_keeps ..) (by decide)
      assumption
    · assumption

theorem State.allOff_keeps (s : State) : Keeps Part.all s (State.allOff s) := by
  unfold State.allOff
  extract_lets +onlyGivenNames z0
  extract_lets +onlyGivenNames y1
  have h1 : Keeps Part.all s y1 := by
    unfold y1
    exact Keeps.set_casc _ (Keeps.refl _ _) (by decide)
  clear_value y1
  extract_lets +onlyGivenNames y2
  have h2 : Keeps Part.all s y2 := by
    unfold y2
    refine Keeps.foldl _ _ ?_ (fun _ _ _ => ?_)
    · assumption
    · refine Keeps.ite _ ?_ ?_
      · assumption
      · refine Keeps.ite _ ?_ ?_
        · assumption
        · refine Keeps.step ?_ (State.setSlot_keeps ..) (by decide)
          assumption
  clear_value y2
  refine Keeps.step ?_ (State.shutdownEnd_keeps ..) (by decide)
  refine Keeps.step ?_ (State.slotOffSettle_keeps ..) (by decide)
  assumption

theorem State.slotsOff_keeps (s : State) : Keeps [.bus, .wins, .cad, .gop, .chk, .basin, .integ, .slots, .ctr, .out, .free] s (State.slotsOff s) := by
  unfold State.slotsOff
  refine Keeps.foldl _ _ ?_ (fun _ _ _ => ?_)
  · exact Keeps.refl _ _
  · split
    · refine Keeps.step ?_ (State.setSlot_keeps ..) (by decide)
      assumption
    · refine Keeps.step ?_ (State.setSlot_keeps ..) (by decide)
      assumption
    · refine Keeps.step ?_ (State.setSlot_keeps ..) (by decide)
      assumption
    · refine Keeps.step ?_ (State.updSlot_keeps ..) (by decide)
      assumption
    · assumption

theorem State.startDown_keeps (s : State) : Keeps [.bus, .wins, .casc, .cad, .gop, .chk, .basin, .integ, .slots, .ctr, .out, .free] s (State.startDown s) := by
  unfold State.startDown
  refine Keeps.ite _ ?_ ?_
  · exact Keeps.refl _ _
  · extract_lets +onlyGivenNames z0
    extract_lets +onlyGivenNames z1
    extract_lets +onlyGivenNames y2
    have h2 : Keeps [.bus, .wins, .casc, .cad, .gop, .chk, .basin, .integ, .slots, .ctr, .out, .free] s y2 := by
      unfold y2
      exact Keeps.set_casc _ (Keeps.refl _ _) (by decide)
    clear_value y2
    refine Keeps.step ?_ (State.slotsOff_keeps ..) (by decide)
    assumption

theorem State.orderlyShutdown_keeps (c : ShutCause) (named : Nat) (s : State) : Keeps Part.all s (State.orderlyShutdown c named s) := by
  unfold State.orderlyShutdown
  extract_lets +onlyGivenNames z0
  extract_lets +onlyGivenNames y1
  have h1 : Keeps Part.all s y1 := by
    unfold y1
    exact Keeps.set_weir _ (Keeps.refl _ _) (by decide)
  clear_value y1
  split
  · refine Keeps.step ?_ (State.shutdownEnd_keeps ..) (by decide)
    assumption
  · refine Keeps.step ?_ (State.startDown_keeps ..) (by decide)
    assumption
  · refine Keeps.step ?_ (State.startDown_keeps ..) (by decide)
    assumption
  · assumption

theorem State.advance_keeps (q : Seq) (s : State) : Keeps Part.all s (State.advance q s) := by
  unfold State.advance
  split
  · exact Keeps.refl _ _
  · refine Keeps.ite _ ?_ ?_
    · exact Keeps.refl _ _
    · split
      · extract_lets +onlyGivenNames y0
        have h0 : Keeps Part.all s y0 := by
          unfold y0
          exact Keeps.step (Keeps.refl _ _) (State.setSeq_keeps ..) (by decide)
        clear_value y0
        extract_lets +onlyGivenNames z1
        extract_lets +onlyGivenNames y2
        have h2 : Keeps Part.all s y2 := by
          unfold y2
          refine Keeps.ite _ ?_ ?_
          · refine Keeps.set_casc _ ?_ (by decide)
            assumption
          · assumption
        clear_value y2
        refine Keeps.ite _ ?_ ?_
        · refine Keeps.step ?_ (State.arrive_keeps ..) (by decide)
          assumption
        · assumption
      · split
        · exact Keeps.step (Keeps.refl _ _) (State.slotSeqEnd_keeps ..) (by decide)
        · refine Keeps.ite _ ?_ ?_
          · exact Keeps.step (Keeps.set_casc _ (Keeps.refl _ _) (by decide)) (State.arrive_keeps ..) (by decide)
          · exact Keeps.step (Keeps.refl _ _) (State.allOff_keeps ..) (by decide)

theorem State.advanceAll_keeps (s : State) : Keeps Part.all s (State.advanceAll s) := by
  unfold State.advanceAll
  refine Keeps.foldl _ _ ?_ (fun _ _ _ => ?_)
  · exact Keeps.step (Keeps.refl _ _) (State.advance_keeps ..) (by decide)
  · refine Keeps.step ?_ (State.advance_keeps ..) (by decide)
    assumption

theorem State.weirOffFull_keeps (s : State) : Keeps [.dev, .bus, .wins, .sess, .cfg, .cad, .gop, .chk, .basin, .integ, .slots, .boot, .upd, .ctr, .out, .free] s (State.weirOffFull s) := by
  unfold State.weirOffFull
  refine Keeps.ite _ ?_ ?_
  · exact Keeps.step (Keeps.refl _ _) (State.leaveFull_keeps ..) (by decide)
  · exact Keeps.refl _ _

theorem State.dropRails_keeps (nack : BitVec 64) (pmbusOff : Bool) (s : State) : Keeps [.casc, .ctr, .out] s (State.dropRails nack pmbusOff s) := by
  unfold State.dropRails
  refine Keeps.foldl _ _ ?_ (fun _ _ _ => ?_)
  · exact Keeps.refl _ _
  · refine Keeps.ite _ ?_ ?_
    · refine Keeps.step ?_ (State.turnOff_keeps ..) (by decide)
      assumption
    · refine Keeps.step ?_ (State.updRail_keeps ..) (by decide)
      assumption

theorem State.loseBus_keeps (s : State) : Keeps Part.all s (State.loseBus s) := by
  unfold State.loseBus
  refine Keeps.ite _ ?_ ?_
  · exact Keeps.refl _ _
  · extract_lets +onlyGivenNames y0
    have h0 : Keeps Part.all s y0 := by
      unfold y0
      exact Keeps.step (Keeps.refl _ _) (State.leaveFull_keeps ..) (by decide)
    clear_value y0
    extract_lets +onlyGivenNames y1
    have h1 : Keeps Part.all s y1 := by
      unfold y1
      refine Keeps.step ?_ (State.dropRails_keeps ..) (by decide)
      refine Keeps.step ?_ (State.notice_keeps ..) (by decide)
      assumption
    clear_value y1
    refine Keeps.step ?_ (State.allOff_keeps ..) (by decide)
    refine Keeps.step ?_ (State.slotsOff_keeps ..) (by decide)
    assumption

theorem State.startRamp_keeps (f : Feed) (s : State) : Keeps [.weir, .rst] s (State.startRamp f s) := by
  unfold State.startRamp
  extract_lets +onlyGivenNames z0
  extract_lets +onlyGivenNames z1
  exact Keeps.step (Keeps.step (Keeps.refl _ _) (State.updFeed_keeps ..) (by decide)) (State.setFeedBkp_keeps ..) (by decide)

theorem State.tryRamp_keeps (f : Feed) (s : State) : Keeps [.weir, .rst] s (State.tryRamp f s) := by
  unfold State.tryRamp
  extract_lets +onlyGivenNames z0
  refine Keeps.ite _ ?_ ?_
  · exact Keeps.step (Keeps.refl _ _) (State.startRamp_keeps ..) (by decide)
  · exact Keeps.refl _ _
end Sys2Proof.Machine
end

