-- ==== Sys2Proof/Laws/KeepsCascade.lean ====
section
/-!
SUPPORT. What the operations of Machine/Cascade.lean touch, and that they keep the invariant.
-/

namespace Sys2Proof.Machine
theorem State.startUp_keeps (s : State) : Keeps [.casc] s (State.startUp s) := by
  unfold State.startUp
  extract_lets +onlyGivenNames z0
  exact Keeps.set_casc _ (Keeps.refl _ _) (by decide)

theorem State.decideSlots_keeps (k : Nat) (s : State) : Keeps [.casc] s (State.decideSlots k s) := by
  unfold State.decideSlots
  refine Keeps.foldl _ _ ?_ (fun _ _ _ => ?_)
  · exact Keeps.refl _ _
  · refine Keeps.ite _ ?_ ?_
    · refine Keeps.set_casc _ ?_ (by decide)
      assumption
    · assumption

theorem State.stageUp_keeps (q : Seq) (nack : BitVec 64) (s : State) : Keeps Part.all s (State.stageUp q nack s) := by
  unfold State.stageUp
  split
  · exact Keeps.refl _ _
  · refine Keeps.ite _ ?_ ?_
    · exact Keeps.refl _ _
    · extract_lets +onlyGivenNames y0
      have h0 : Keeps Part.all s y0 := by
        unfold y0
        refine Keeps.ite _ ?_ ?_
        · exact Keeps.step (Keeps.refl _ _) (State.decideSlots_keeps ..) (by decide)
        · exact Keeps.refl _ _
      clear_value y0
      extract_lets +onlyGivenNames z1
      extract_lets +onlyGivenNames y2
      have h2 : Keeps Part.all s y2 := by
        unfold y2
        refine Keeps.foldl _ _ ?_ (fun _ _ _ => ?_)
        · assumption
        · refine Keeps.step ?_ (State.turnOn_keeps ..) (by decide)
          assumption
      clear_value y2
      extract_lets +onlyGivenNames y3
      have h3 : Keeps Part.all s y3 := by
        unfold y3
        refine Keeps.foldl _ _ ?_ (fun _ _ _ => ?_)
        · assumption
        · refine Keeps.step ?_ (State.powering_keeps ..) (by decide)
          assumption
      clear_value y3
      refine Keeps.step ?_ (State.advance_keeps ..) (by decide)
      refine Keeps.step ?_ (State.setSeq_keeps ..) (by decide)
      assumption

theorem State.stageLate_keeps (q : Seq) (nack : BitVec 64) (s : State) : Keeps Part.all s (State.stageLate q nack s) := by
  unfold State.stageLate
  split
  · exact Keeps.refl _ _
  · refine Keeps.ite _ ?_ ?_
    · exact Keeps.refl _ _
    · extract_lets +onlyGivenNames y0
      have h0 : Keeps Part.all s y0 := by
        unfold y0
        refine Keeps.foldl _ _ ?_ (fun _ _ _ => ?_)
        · exact Keeps.refl _ _
        · refine Keeps.step ?_ (State.failRise_keeps ..) (by decide)
          assumption
      clear_value y0
      refine Keeps.ite _ ?_ ?_
      · refine Keeps.step ?_ (State.advance_keeps ..) (by decide)
        assumption
      · assumption

theorem State.stageDown_keeps (q : Seq) (nack : BitVec 64) (s : State) : Keeps Part.all s (State.stageDown q nack s) := by
  unfold State.stageDown
  split
  · exact Keeps.refl _ _
  · refine Keeps.ite _ ?_ ?_
    · exact Keeps.refl _ _
    · extract_lets +onlyGivenNames y0
      have h0 : Keeps Part.all s y0 := by
        unfold y0
        refine Keeps.ite _ ?_ ?_
        · exact Keeps.step (Keeps.refl _ _) (State.leaveFull_keeps ..) (by decide)
        · exact Keeps.refl _ _
      clear_value y0
      extract_lets +onlyGivenNames y1
      have h1 : Keeps Part.all s y1 := by
        unfold y1
        refine Keeps.foldl _ _ ?_ (fun _ _ _ => ?_)
        · assumption
        · refine Keeps.step ?_ (State.turnOff_keeps ..) (by decide)
          assumption
      clear_value y1
      refine Keeps.step ?_ (State.advance_keeps ..) (by decide)
      refine Keeps.step ?_ (State.setSeq_keeps ..) (by decide)
      assumption

theorem State.stick_keeps (s : State) (n : Fin 64) : Keeps [.casc, .integ, .ctr] s (State.stick s n) := by
  unfold State.stick
  exact Keeps.step (Keeps.step (Keeps.refl _ _) (State.updRail_keeps ..) (by decide)) (State.notice_keeps ..) (by decide)

theorem State.stageStuck_keeps (q : Seq) (s : State) : Keeps Part.all s (State.stageStuck q s) := by
  unfold State.stageStuck
  split
  · exact Keeps.refl _ _
  · refine Keeps.ite _ ?_ ?_
    · exact Keeps.refl _ _
    · refine Keeps.step ?_ (State.advance_keeps ..) (by decide)
      refine Keeps.foldl _ _ ?_ (fun _ _ _ => ?_)
      · exact Keeps.refl _ _
      · refine Keeps.step ?_ (State.stick_keeps ..) (by decide)
        assumption

theorem State.failInService_keeps (n : Fin 64) (high : Bool) (nack : BitVec 64) (s : State) : Keeps Part.all s (State.failInService n high nack s) := by
  unfold State.failInService
  extract_lets +onlyGivenNames z0
  extract_lets +onlyGivenNames z1
  extract_lets +onlyGivenNames y2
  have h2 : Keeps Part.all s y2 := by
    unfold y2
    refine Keeps.ite _ ?_ ?_
    · exact Keeps.step (Keeps.refl _ _) (State.turnOff_keeps ..) (by decide)
    · exact Keeps.refl _ _
  clear_value y2
  extract_lets +onlyGivenNames y3
  have h3 : Keeps Part.all s y3 := by
    unfold y3
    refine Keeps.step ?_ (State.updRail_keeps ..) (by decide)
    assumption
  clear_value y3
  refine Keeps.ite _ ?_ ?_
  · extract_lets +onlyGivenNames y4
    have h4 : Keeps Part.all s y4 := by
      unfold y4
      refine Keeps.step ?_ (State.raise_keeps ..) (by decide)
      assumption
    clear_value y4
    refine Keeps.ite _ ?_ ?_
    · refine Keeps.step ?_ (State.advanceAll_keeps ..) (by decide)
      assumption
    · refine Keeps.step ?_ (State.orderlyShutdown_keeps ..) (by decide)
      refine Keeps.step ?_ (State.leaveFull_keeps ..) (by decide)
      assumption
  · refine Keeps.step ?_ (State.advanceAll_keeps ..) (by decide)
    refine Keeps.step ?_ (State.railFailed_keeps ..) (by decide)
    assumption

theorem State.railOut_keeps (n : Fin 64) (high : Bool) (nack : BitVec 64) (s : State) : Keeps Part.all s (State.railOut n high nack s) := by
  unfold State.railOut
  extract_lets +onlyGivenNames y0
  have h0 : Keeps Part.all s y0 := by
    unfold y0
    exact Keeps.step (Keeps.refl _ _) (State.updRail_keeps ..) (by decide)
  clear_value y0
  refine Keeps.ite _ ?_ ?_
  · assumption
  · refine Keeps.ite _ ?_ ?_
    · refine Keeps.step ?_ (State.updRail_keeps ..) (by decide)
      assumption
    · refine Keeps.ite _ ?_ ?_
      · refine Keeps.step ?_ (State.count_keeps ..) (by decide)
        refine Keeps.step ?_ (State.updRail_keeps ..) (by decide)
        assumption
      · refine Keeps.step ?_ (State.failInService_keeps ..) (by decide)
        assumption

theorem State.railGood_keeps (n : Fin 64) (mv : Nat) (s : State) : Keeps Part.all s (State.railGood n mv s) := by
  unfold State.railGood
  extract_lets +onlyGivenNames z0
  extract_lets +onlyGivenNames y1
  have h1 : Keeps Part.all s y1 := by
    unfold y1
    exact Keeps.step (Keeps.refl _ _) (State.updRail_keeps ..) (by decide)
  clear_value y1
  extract_lets +onlyGivenNames y2
  have h2 : Keeps Part.all s y2 := by
    unfold y2
    refine Keeps.ite _ ?_ ?_
    · refine Keeps.step ?_ (State.basinClear_keeps ..) (by decide)
      assumption
    · assumption
  clear_value y2
  refine Keeps.step ?_ (State.arrive_keeps ..) (by decide)
  refine Keeps.step ?_ (State.advanceAll_keeps ..) (by decide)
  assumption

theorem State.railEmpty_keeps (n : Fin 64) (mv : Nat) (s : State) : Keeps Part.all s (State.railEmpty n mv s) := by
  unfold State.railEmpty
  extract_lets +onlyGivenNames z0
  extract_lets +onlyGivenNames y1
  have h1 : Keeps Part.all s y1 := by
    unfold y1
    exact Keeps.step (Keeps.refl _ _) (State.updRail_keeps ..) (by decide)
  clear_value y1
  refine Keeps.step ?_ (State.advanceAll_keeps ..) (by decide)
  assumption

theorem State.sendSeq_keeps (w : BitVec 16) (s : State) : Keeps [.out] s (State.sendSeq w s) := by
  unfold State.sendSeq
  exact Keeps.step (Keeps.refl _ _) (State.send_keeps ..) (by decide)

theorem State.updSlave_keeps (a : Nat) (f : SlaveSt → SlaveSt) (s : State) : Keeps [.casc] s (State.updSlave a f s) := by
  unfold State.updSlave
  exact Keeps.set_casc _ (Keeps.refl _ _) (by decide)

theorem State.pollReply_keeps (a : Nat) (reply : Option (BitVec 16 × Byte)) (s : State) : Keeps [.casc, .integ, .ctr] s (State.pollReply a reply s) := by
  unfold State.pollReply
  split
  · exact Keeps.step (Keeps.refl _ _) (State.updSlave_keeps ..) (by decide)
  · extract_lets +onlyGivenNames z0
    extract_lets +onlyGivenNames z1
    extract_lets +onlyGivenNames y2
    have h2 : Keeps [.casc, .integ, .ctr] s y2 := by
      unfold y2
      exact Keeps.step (Keeps.refl _ _) (State.updSlave_keeps ..) (by decide)
    clear_value y2
    refine Keeps.ite _ ?_ ?_
    · refine Keeps.step ?_ (State.notice_keeps ..) (by decide)
      assumption
    · assumption

theorem State.slavesOff_keeps (s : State) : Keeps [.casc] s (State.slavesOff s) := by
  unfold State.slavesOff
  split
  · refine Keeps.ite _ ?_ ?_
    · exact Keeps.step (Keeps.refl _ _) (State.setSeq_keeps ..) (by decide)
    · exact Keeps.refl _ _
  · exact Keeps.refl _ _

theorem State.transaction_keeps (reply : Option (BitVec 16 × Byte)) (s : State) : Keeps [.casc, .integ, .ctr, .out] s (State.transaction reply s) := by
  unfold State.transaction
  extract_lets +onlyGivenNames z0
  extract_lets +onlyGivenNames y1
  have h1 : Keeps [.casc, .integ, .ctr, .out] s y1 := by
    unfold y1
    exact Keeps.set_casc _ (Keeps.refl _ _) (by decide)
  clear_value y1
  extract_lets +onlyGivenNames z2
  refine Keeps.ite _ ?_ ?_
  · refine Keeps.step ?_ (State.sendSeq_keeps ..) (by decide)
    refine Keeps.set_casc _ ?_ (by decide)
    assumption
  · refine Keeps.ite _ ?_ ?_
    · refine Keeps.step ?_ (State.sendSeq_keeps ..) (by decide)
      refine Keeps.set_casc _ ?_ (by decide)
      assumption
    · refine Keeps.ite _ ?_ ?_
      · refine Keeps.step ?_ (State.sendSeq_keeps ..) (by decide)
        refine Keeps.set_casc _ ?_ (by decide)
        assumption
      · split
        · assumption
        · extract_lets +onlyGivenNames z3
          extract_lets +onlyGivenNames y4
          have h4 : Keeps [.casc, .integ, .ctr, .out] s y4 := by
            unfold y4
            refine Keeps.step ?_ (State.sendSeq_keeps ..) (by decide)
            refine Keeps.set_casc _ ?_ (by decide)
            assumption
          clear_value y4
          refine Keeps.step ?_ (State.slavesOff_keeps ..) (by decide)
          refine Keeps.step ?_ (State.pollReply_keeps ..) (by decide)
          assumption

theorem State.seqFrame_keeps (s : State) : Keeps [.casc] s (State.seqFrame s) := by
  unfold State.seqFrame
  exact Keeps.set_casc _ (Keeps.refl _ _) (by decide)

theorem State.writeIout_keeps (n : Fin 64) (ack : Bool) (s : State) : Keeps [.casc, .ctr, .out] s (State.writeIout n ack s) := by
  unfold State.writeIout
  extract_lets +onlyGivenNames z0
  extract_lets +onlyGivenNames z1
  refine Keeps.ite _ ?_ ?_
  · exact Keeps.refl _ _
  · extract_lets +onlyGivenNames z2
    extract_lets +onlyGivenNames y3
    have h3 : Keeps [.casc, .ctr, .out] s y3 := by
      unfold y3
      refine Keeps.ite _ ?_ ?_
      · exact Keeps.step (Keeps.refl _ _) (State.send_keeps ..) (by decide)
      · exact Keeps.refl _ _
    clear_value y3
    extract_lets +onlyGivenNames y4
    have h4 : Keeps [.casc, .ctr, .out] s y4 := by
      unfold y4
      refine Keeps.step ?_ (State.send_keeps ..) (by decide)
      assumption
    clear_value y4
    refine Keeps.ite _ ?_ ?_
    · refine Keeps.step ?_ (State.updRail_keeps ..) (by decide)
      assumption
    · refine Keeps.step ?_ (State.count_keeps ..) (by decide)
      assumption

theorem State.clearMark_keeps (s : State) (n : Fin 64) : Keeps [.casc] s (State.clearMark s n) := by
  unfold State.clearMark
  exact Keeps.step (Keeps.refl _ _) (State.updRail_keeps ..) (by decide)

theorem cascadeStatusOp_within : cascadeStatusOp.Within [.bus, .wins, .out] := by
  refine ⟨fun p ps b s => ?_, fun p ps s => ?_⟩
  · dsimp only [cascadeStatusOp, OpSpec.query]
    exact Keeps.step (Keeps.refl _ _) (State.answer_keeps ..) (by decide)
  · dsimp only [cascadeStatusOp, OpSpec.query]
    exact Keeps.refl _ _

theorem railFlagClearOp_within : railFlagClearOp.Within [.bus, .wins, .casc, .out] := by
  refine ⟨fun p ps b s => ?_, fun p ps s => ?_⟩
  · dsimp only [railFlagClearOp, OpSpec.query]
    refine Keeps.step ?_ (State.answerNow_keeps ..) (by decide)
    refine Keeps.foldl _ _ ?_ (fun _ _ _ => ?_)
    · exact Keeps.refl _ _
    · refine Keeps.step ?_ (State.clearMark_keeps ..) (by decide)
      assumption
  · dsimp only [railFlagClearOp, OpSpec.query]
    exact Keeps.refl _ _

theorem execUpSequenceStart_keeps (s : State) : ∃ t, execUpSequenceStart s = .next t ∧ Keeps [.casc] s t := by
  unfold execUpSequenceStart
  extract_lets +onlyGivenNames z0
  extract_lets +onlyGivenNames y1
  have h1 : Keeps [.casc] s y1 := by
    unfold y1
    exact Keeps.set_casc _ (Keeps.refl _ _) (by decide)
  clear_value y1
  refine ⟨_, rfl, ?_⟩
  refine Keeps.ite _ ?_ ?_
  · refine Keeps.step ?_ (State.startUp_keeps ..) (by decide)
    assumption
  · assumption

theorem execCasInLow_keeps (s : State) : ∃ t, execCasInLow s = .next t ∧ Keeps Part.all s t := by
  unfold execCasInLow
  extract_lets +onlyGivenNames z0
  extract_lets +onlyGivenNames y1
  have h1 : Keeps Part.all s y1 := by
    unfold y1
    exact Keeps.set_casc _ (Keeps.refl _ _) (by decide)
  clear_value y1
  refine ⟨_, rfl, ?_⟩
  refine Keeps.ite _ ?_ ?_
  · refine Keeps.step ?_ (State.orderlyShutdown_keeps ..) (by decide)
    assumption
  · assumption

theorem execStageUpDelayExpiry_keeps (q : Seq) (nack : BitVec 64) (s : State) : ∃ t, execStageUpDelayExpiry q nack s = .next t ∧ Keeps Part.all s t := by
  unfold execStageUpDelayExpiry
  exact ⟨_, rfl, Keeps.step (Keeps.refl _ _) (State.stageUp_keeps ..) (by decide)⟩

theorem execRailPowerGood_keeps (n : Fin 64) (mv : Nat) (s : State) : ∃ t, execRailPowerGood n mv s = .next t ∧ Keeps Part.all s t := by
  unfold execRailPowerGood
  refine ⟨_, rfl, ?_⟩
  refine Keeps.ite _ ?_ ?_
  · exact Keeps.step (Keeps.refl _ _) (State.railGood_keeps ..) (by decide)
  · exact Keeps.refl _ _

theorem execPgTimeout_keeps (q : Seq) (nack : BitVec 64) (s : State) : ∃ t, execPgTimeout q nack s = .next t ∧ Keeps Part.all s t := by
  unfold execPgTimeout
  exact ⟨_, rfl, Keeps.step (Keeps.refl _ _) (State.stageLate_keeps ..) (by decide)⟩

theorem execRailLeavesWindow_keeps (n : Fin 64) (high : Bool) (mv : Nat) (nack : Bool) (s : State) : ∃ t, execRailLeavesWindow n high mv nack s = .next t ∧ Keeps Part.all s t := by
  unfold execRailLeavesWindow
  split
  · exact ⟨_, rfl, Keeps.step (Keeps.step (Keeps.refl _ _) (State.updRail_keeps ..) (by decide)) (State.railOut_keeps ..) (by decide)⟩
  · exact ⟨_, rfl, Keeps.refl _ _⟩

theorem execStageDownDelayExpiry_keeps (q : Seq) (nack : BitVec 64) (s : State) : ∃ t, execStageDownDelayExpiry q nack s = .next t ∧ Keeps Part.all s t := by
  unfold execStageDownDelayExpiry
  exact ⟨_, rfl, Keeps.step (Keeps.refl _ _) (State.stageDown_keeps ..) (by decide)⟩

theorem execRailDischarged_keeps (n : Fin 64) (mv : Nat) (s : State) : ∃ t, execRailDischarged n mv s = .next t ∧ Keeps Part.all s t := by
  unfold execRailDischarged
  refine ⟨_, rfl, ?_⟩
  refine Keeps.ite _ ?_ ?_
  · exact Keeps.refl _ _
  · exact Keeps.step (Keeps.refl _ _) (State.railEmpty_keeps ..) (by decide)

theorem execDscTimeout_keeps (q : Seq) (s : State) : ∃ t, execDscTimeout q s = .next t ∧ Keeps Part.all s t := by
  unfold execDscTimeout
  exact ⟨_, rfl, Keeps.step (Keeps.refl _ _) (State.stageStuck_keeps ..) (by decide)⟩

theorem execDownSequenceTimeout_keeps (nack : BitVec 64) (s : State) : ∃ t, execDownSequenceTimeout nack s = .next t ∧ Keeps Part.all s t := by
  unfold execDownSequenceTimeout
  refine ⟨_, rfl, ?_⟩
  refine Keeps.ite _ ?_ ?_
  · exact Keeps.step (Keeps.step (Keeps.step (Keeps.step (Keeps.refl _ _) (State.leaveFull_keeps ..) (by decide)) (State.dropRails_keeps ..) (by decide)) (State.notice_keeps ..) (by decide)) (State.allOff_keeps ..) (by decide)
  · exact Keeps.refl _ _

theorem execBusLost_keeps (s : State) : ∃ t, execBusLost s = .next t ∧ Keeps Part.all s t := by
  unfold execBusLost
  extract_lets +onlyGivenNames z0
  refine ⟨_, rfl, ?_⟩
  refine Keeps.ite _ ?_ ?_
  · exact Keeps.refl _ _
  · exact Keeps.step (Keeps.refl _ _) (State.loseBus_keeps ..) (by decide)

theorem execSeqTransaction_keeps (reply : Option (BitVec 16 × Byte)) (s : State) : ∃ t, execSeqTransaction reply s = .next t ∧ Keeps [.casc, .integ, .ctr, .out] s t := by
  unfold execSeqTransaction
  refine ⟨_, rfl, ?_⟩
  refine Keeps.ite _ ?_ ?_
  · exact Keeps.refl _ _
  · exact Keeps.step (Keeps.refl _ _) (State.transaction_keeps ..) (by decide)

theorem execSeqUpFrame_keeps (s : State) : ∃ t, execSeqUpFrame s = .next t ∧ Keeps [.casc] s t := by
  unfold execSeqUpFrame
  split
  · extract_lets +onlyGivenNames y0
    have h0 : Keeps [.casc] s y0 := by
      unfold y0
      exact Keeps.step (Keeps.refl _ _) (State.seqFrame_keeps ..) (by decide)
    clear_value y0
    refine ⟨_, rfl, ?_⟩
    refine Keeps.set_casc _ ?_ (by decide)
    assumption
  · exact ⟨_, rfl, Keeps.refl _ _⟩

theorem execSeqDownFrame_keeps (s : State) : ∃ t, execSeqDownFrame s = .next t ∧ Keeps Part.all s t := by
  unfold execSeqDownFrame
  split
  · extract_lets +onlyGivenNames y0
    have h0 : Keeps Part.all s y0 := by
      unfold y0
      exact Keeps.step (Keeps.refl _ _) (State.seqFrame_keeps ..) (by decide)
    clear_value y0
    refine ⟨_, rfl, ?_⟩
    refine Keeps.ite _ ?_ ?_
    · refine Keeps.step ?_ (State.orderlyShutdown_keeps ..) (by decide)
      assumption
    · assumption
  · exact ⟨_, rfl, Keeps.refl _ _⟩

theorem execSeqBusFrame_keeps (held : Bool) (s : State) : ∃ t, execSeqBusFrame held s = .next t ∧ Keeps Part.all s t := by
  unfold execSeqBusFrame
  split
  · extract_lets +onlyGivenNames y0
    have h0 : Keeps Part.all s y0 := by
      unfold y0
      exact Keeps.step (Keeps.refl _ _) (State.seqFrame_keeps ..) (by decide)
    clear_value y0
    extract_lets +onlyGivenNames z1
    extract_lets +onlyGivenNames y2
    have h2 : Keeps Part.all s y2 := by
      unfold y2
      refine Keeps.set_casc _ ?_ (by decide)
      assumption
    clear_value y2
    refine ⟨_, rfl, ?_⟩
    refine Keeps.ite _ ?_ ?_
    · assumption
    · refine Keeps.step ?_ (State.loseBus_keeps ..) (by decide)
      assumption
  · exact ⟨_, rfl, Keeps.refl _ _⟩

theorem execSeqPoll_keeps (word : BitVec 16) (crc : Byte) (s : State) : ∃ t, execSeqPoll word crc s = .next t ∧ Keeps [.casc, .ctr, .out] s t := by
  unfold execSeqPoll
  split
  · extract_lets +onlyGivenNames y0
    have h0 : Keeps [.casc, .ctr, .out] s y0 := by
      unfold y0
      exact Keeps.step (Keeps.refl _ _) (State.seqFrame_keeps ..) (by decide)
    clear_value y0
    extract_lets +onlyGivenNames z1
    split
    · refine ⟨_, rfl, ?_⟩
      refine Keeps.step ?_ (State.count_keeps ..) (by decide)
      assumption
    · split
      · refine ⟨_, rfl, ?_⟩
        refine Keeps.step ?_ (State.sendSeq_keeps ..) (by decide)
        assumption
      · refine ⟨_, rfl, ?_⟩
        assumption
  · exact ⟨_, rfl, Keeps.refl _ _⟩

theorem execSeqSilent_keeps (s : State) : ∃ t, execSeqSilent s = .next t ∧ Keeps [.casc, .ctr] s t := by
  unfold execSeqSilent
  split
  · exact ⟨_, rfl, Keeps.step (Keeps.set_casc _ (Keeps.refl _ _) (by decide)) (State.count_keeps ..) (by decide)⟩
  · exact ⟨_, rfl, Keeps.refl _ _⟩

theorem execSlotUpSequence_keeps (slot : Fin 8) (s : State) : ∃ t, execSlotUpSequence slot s = .next t ∧ Keeps [.bus, .wins, .casc, .cad, .gop, .chk, .basin, .integ, .slots, .ctr, .out, .free] s t := by
  unfold execSlotUpSequence
  exact ⟨_, rfl, Keeps.step (Keeps.refl _ _) (State.slotUp_keeps ..) (by decide)⟩

theorem execIoutLimitWrite_keeps (n : Fin 64) (ack : Bool) (s : State) : ∃ t, execIoutLimitWrite n ack s = .next t ∧ Keeps [.casc, .ctr, .out] s t := by
  unfold execIoutLimitWrite
  refine ⟨_, rfl, ?_⟩
  refine Keeps.ite _ ?_ ?_
  · exact Keeps.step (Keeps.refl _ _) (State.writeIout_keeps ..) (by decide)
  · exact Keeps.refl _ _

theorem execRailRoseInShutdown_keeps (n : Fin 64) (s : State) : ∃ t, execRailRoseInShutdown n s = .next t ∧ Keeps [.casc, .ctr] s t := by
  unfold execRailRoseInShutdown
  extract_lets +onlyGivenNames z0
  split
  · exact ⟨_, rfl, Keeps.step (Keeps.step (Keeps.refl _ _) (State.updRail_keeps ..) (by decide)) (State.count_keeps ..) (by decide)⟩
  · exact ⟨_, rfl, Keeps.refl _ _⟩

theorem execCascadeStatus_keeps (p : Port) (tag : BitVec 32) (params : Bytes) (s : State) : ∃ t, execCascadeStatus p tag params s = .next t ∧ Keeps [.bus, .wins, .cfg, .ctr, .out] s t :=
  ⟨_, rfl, State.submit_keeps (OpSpec.Within.mono cascadeStatusOp_within (by decide)) (by decide) ..⟩

theorem execRailFlagClear_keeps (p : Port) (tag : BitVec 32) (params : Bytes) (s : State) : ∃ t, execRailFlagClear p tag params s = .next t ∧ Keeps [.bus, .wins, .cfg, .casc, .ctr, .out] s t :=
  ⟨_, rfl, State.submit_keeps (OpSpec.Within.mono railFlagClearOp_within (by decide)) (by decide) ..⟩
end Sys2Proof.Machine
end

