-- ==== Sys2Proof/Laws/KeepsWeir.lean ====
section
/-!
SUPPORT. What the operations of Machine/Weir.lean touch, and that they keep the invariant.
-/

namespace Sys2Proof.Machine
theorem State.weirOnSettle_keeps (s : State) : Keeps [.bus, .wins, .out] s (State.weirOnSettle s) := by
  unfold State.weirOnSettle
  refine Keeps.foldl _ _ ?_ (fun _ _ _ => ?_)
  · exact Keeps.refl _ _
  · refine Keeps.ite _ ?_ ?_
    · refine Keeps.step ?_ (State.finish_keeps ..) (by decide)
      assumption
    · assumption

theorem State.weirOnFail_keeps (f : Feed) (trip : Option (Feed × TripCause)) (s : State) : Keeps [.bus, .wins, .out] s (State.weirOnFail f trip s) := by
  unfold State.weirOnFail
  refine Keeps.foldl _ _ ?_ (fun _ _ _ => ?_)
  · exact Keeps.refl _ _
  · refine Keeps.ite _ ?_ ?_
    · refine Keeps.step ?_ (State.finish_keeps ..) (by decide)
      assumption
    · assumption

theorem State.tripFeed_keeps (f : Feed) (c : TripCause) (s : State) : Keeps [.dev, .bus, .wins, .sess, .cfg, .weir, .cad, .gop, .chk, .basin, .integ, .slots, .boot, .upd, .ctr, .out, .free] s (State.tripFeed f c s) := by
  unfold State.tripFeed
  extract_lets +onlyGivenNames z0
  refine Keeps.ite _ ?_ ?_
  · exact Keeps.refl _ _
  · extract_lets +onlyGivenNames y1
    have h1 : Keeps [.dev, .bus, .wins, .sess, .cfg, .weir, .cad, .gop, .chk, .basin, .integ, .slots, .boot, .upd, .ctr, .out, .free] s y1 := by
      unfold y1
      exact Keeps.step (Keeps.refl _ _) (State.notice_keeps ..) (by decide)
    clear_value y1
    extract_lets +onlyGivenNames z2
    extract_lets +onlyGivenNames y3
    have h3 : Keeps [.dev, .bus, .wins, .sess, .cfg, .weir, .cad, .gop, .chk, .basin, .integ, .slots, .boot, .upd, .ctr, .out, .free] s y3 := by
      unfold y3
      refine Keeps.step ?_ (State.updFeed_keeps ..) (by decide)
      assumption
    clear_value y3
    extract_lets +onlyGivenNames y4
    have h4 : Keeps [.dev, .bus, .wins, .sess, .cfg, .weir, .cad, .gop, .chk, .basin, .integ, .slots, .boot, .upd, .ctr, .out, .free] s y4 := by
      unfold y4
      refine Keeps.ite _ ?_ ?_
      · assumption
      · refine Keeps.step ?_ (State.notice_keeps ..) (by decide)
        assumption
    clear_value y4
    refine Keeps.step ?_ (State.weirOffFull_keeps ..) (by decide)
    refine Keeps.step ?_ (State.weirOnFail_keeps ..) (by decide)
    assumption

theorem State.surviveLoss_keeps (f : Feed) (pMw : Nat) (s : State) : Keeps [.weir, .cad, .gop, .integ, .ctr, .out] s (State.surviveLoss f pMw s) := by
  unfold State.surviveLoss
  extract_lets +onlyGivenNames z0
  refine Keeps.ite _ ?_ ?_
  · exact Keeps.refl _ _
  · extract_lets +onlyGivenNames y1
    have h1 : Keeps [.weir, .cad, .gop, .integ, .ctr, .out] s y1 := by
      unfold y1
      exact Keeps.step (Keeps.refl _ _) (State.updFeed_keeps ..) (by decide)
    clear_value y1
    refine Keeps.ite _ ?_ ?_
    · assumption
    · extract_lets +onlyGivenNames z2
      extract_lets +onlyGivenNames y3
      have h3 : Keeps [.weir, .cad, .gop, .integ, .ctr, .out] s y3 := by
        unfold y3
        refine Keeps.step ?_ (State.notice_keeps ..) (by decide)
        assumption
      clear_value y3
      extract_lets +onlyGivenNames y4
      have h4 : Keeps [.weir, .cad, .gop, .integ, .ctr, .out] s y4 := by
        unfold y4
        refine Keeps.foldl _ _ ?_ (fun _ _ _ => ?_)
        · assumption
        · refine Keeps.step ?_ (State.updGrp_keeps ..) (by decide)
          assumption
      clear_value y4
      refine Keeps.step ?_ (State.emergency_keeps ..) (by decide)
      assumption

theorem State.loseFeed_keeps (f : Feed) (st : FeedState) (pMw : Nat) (s : State) : Keeps [.weir, .cad, .gop, .integ, .ctr, .out] s (State.loseFeed f st pMw s) := by
  unfold State.loseFeed
  extract_lets +onlyGivenNames y0
  have h0 : Keeps [.weir, .cad, .gop, .integ, .ctr, .out] s y0 := by
    unfold y0
    exact Keeps.step (Keeps.refl _ _) (State.updFeed_keeps ..) (by decide)
  clear_value y0
  refine Keeps.step ?_ (State.surviveLoss_keeps ..) (by decide)
  refine Keeps.step ?_ (State.notice_keeps ..) (by decide)
  assumption

theorem State.inputOut_keeps (f : Feed) (vinMv : Nat) (pMw : Nat) (s : State) : Keeps [.dev, .bus, .wins, .sess, .cfg, .weir, .cad, .gop, .chk, .basin, .integ, .slots, .boot, .upd, .ctr, .out, .free] s (State.inputOut f vinMv pMw s) := by
  unfold State.inputOut
  extract_lets +onlyGivenNames z0
  extract_lets +onlyGivenNames y1
  have h1 : Keeps [.dev, .bus, .wins, .sess, .cfg, .weir, .cad, .gop, .chk, .basin, .integ, .slots, .boot, .upd, .ctr, .out, .free] s y1 := by
    unfold y1
    exact Keeps.step (Keeps.refl _ _) (State.updFeed_keeps ..) (by decide)
  clear_value y1
  extract_lets +onlyGivenNames y2
  have h2 : Keeps [.dev, .bus, .wins, .sess, .cfg, .weir, .cad, .gop, .chk, .basin, .integ, .slots, .boot, .upd, .ctr, .out, .free] s y2 := by
    unfold y2
    refine Keeps.step ?_ (State.count_keeps ..) (by decide)
    assumption
  clear_value y2
  extract_lets +onlyGivenNames z3
  extract_lets +onlyGivenNames y4
  have h4 : Keeps [.dev, .bus, .wins, .sess, .cfg, .weir, .cad, .gop, .chk, .basin, .integ, .slots, .boot, .upd, .ctr, .out, .free] s y4 := by
    unfold y4
    split
    · refine Keeps.step ?_ (State.loseFeed_keeps ..) (by decide)
      assumption
    · refine Keeps.step ?_ (State.updFeed_keeps ..) (by decide)
      assumption
    · refine Keeps.step ?_ (State.updFeed_keeps ..) (by decide)
      assumption
    · assumption
  clear_value y4
  extract_lets +onlyGivenNames z5
  extract_lets +onlyGivenNames y6
  have h6 : Keeps [.dev, .bus, .wins, .sess, .cfg, .weir, .cad, .gop, .chk, .basin, .integ, .slots, .boot, .upd, .ctr, .out, .free] s y6 := by
    unfold y6
    refine Keeps.ite _ ?_ ?_
    · refine Keeps.set_weir _ ?_ (by decide)
      assumption
    · assumption
  clear_value y6
  refine Keeps.step ?_ (State.weirOffFull_keeps ..) (by decide)
  assumption

theorem State.wakeUp_keeps (s : State) : Keeps [.dev] s (State.wakeUp s) := by
  unfold State.wakeUp
  split
  · exact Keeps.set_dev _ (Keeps.refl _ _) (by decide)
  · exact Keeps.set_dev _ (Keeps.refl _ _) (by decide)
  · exact Keeps.refl _ _

theorem State.wantFeed_keeps (f : Feed) (b : Bool) (s : State) : Keeps [.weir, .rst] s (State.wantFeed f b s) := by
  unfold State.wantFeed
  exact Keeps.step (Keeps.step (Keeps.refl _ _) (State.updFeed_keeps ..) (by decide)) (State.tryRamp_keeps ..) (by decide)

theorem State.minOffOver_keeps (f : Feed) (s : State) : Keeps [.weir, .rst] s (State.minOffOver f s) := by
  unfold State.minOffOver
  extract_lets +onlyGivenNames z0
  extract_lets +onlyGivenNames z1
  extract_lets +onlyGivenNames y2
  have h2 : Keeps [.weir, .rst] s y2 := by
    unfold y2
    exact Keeps.step (Keeps.refl _ _) (State.updFeed_keeps ..) (by decide)
  clear_value y2
  extract_lets +onlyGivenNames y3
  have h3 : Keeps [.weir, .rst] s y3 := by
    unfold y3
    refine Keeps.step ?_ (State.setFeedBkp_keeps ..) (by decide)
    assumption
  clear_value y3
  refine Keeps.step ?_ (State.tryRamp_keeps ..) (by decide)
  assumption

theorem State.withdrawLoss_keeps (s : State) : Keeps [.cad, .gop, .integ, .ctr, .out] s (State.withdrawLoss s) := by
  unfold State.withdrawLoss
  refine Keeps.ite _ ?_ ?_
  · exact Keeps.refl _ _
  · extract_lets +onlyGivenNames z0
    extract_lets +onlyGivenNames y1
    have h1 : Keeps [.cad, .gop, .integ, .ctr, .out] s y1 := by
      unfold y1
      exact Keeps.set_gop _ (Keeps.refl _ _) (by decide)
    clear_value y1
    refine Keeps.step ?_ (State.requestsChanged_keeps ..) (by decide)
    assumption

theorem State.feedGood_keeps (f : Feed) (vout : Nat) (i : Int) (s : State) : Keeps [.bus, .wins, .weir, .cad, .gop, .integ, .ctr, .out] s (State.feedGood f vout i s) := by
  unfold State.feedGood
  extract_lets +onlyGivenNames z0
  extract_lets +onlyGivenNames y1
  have h1 : Keeps [.bus, .wins, .weir, .cad, .gop, .integ, .ctr, .out] s y1 := by
    unfold y1
    exact Keeps.step (Keeps.refl _ _) (State.updFeed_keeps ..) (by decide)
  clear_value y1
  extract_lets +onlyGivenNames z2
  extract_lets +onlyGivenNames y3
  have h3 : Keeps [.bus, .wins, .weir, .cad, .gop, .integ, .ctr, .out] s y3 := by
    unfold y3
    refine Keeps.set_weir _ ?_ (by decide)
    assumption
  clear_value y3
  extract_lets +onlyGivenNames y4
  have h4 : Keeps [.bus, .wins, .weir, .cad, .gop, .integ, .ctr, .out] s y4 := by
    unfold y4
    refine Keeps.step ?_ (State.updFeed_keeps ..) (by decide)
    assumption
  clear_value y4
  extract_lets +onlyGivenNames y5
  have h5 : Keeps [.bus, .wins, .weir, .cad, .gop, .integ, .ctr, .out] s y5 := by
    unfold y5
    refine Keeps.ite _ ?_ ?_
    · refine Keeps.step ?_ (State.withdrawLoss_keeps ..) (by decide)
      assumption
    · assumption
  clear_value y5
  refine Keeps.step ?_ (State.weirOnSettle_keeps ..) (by decide)
  assumption

theorem State.windowClose_keeps (pMw : Nat) (a : FeedMeas) (b : FeedMeas) (s : State) : Keeps [.weir, .cad, .gop, .integ, .ctr, .out] s (State.windowClose pMw a b s) := by
  unfold State.windowClose
  extract_lets +onlyGivenNames z0
  extract_lets +onlyGivenNames y1
  have h1 : Keeps [.weir, .cad, .gop, .integ, .ctr, .out] s y1 := by
    unfold y1
    exact Keeps.step (Keeps.step (Keeps.refl _ _) (State.updFeed_keeps ..) (by decide)) (State.updFeed_keeps ..) (by decide)
  clear_value y1
  extract_lets +onlyGivenNames z2
  extract_lets +onlyGivenNames y3
  have h3 : Keeps [.weir, .cad, .gop, .integ, .ctr, .out] s y3 := by
    unfold y3
    refine Keeps.set_weir _ ?_ (by decide)
    assumption
  clear_value y3
  extract_lets +onlyGivenNames z4
  extract_lets +onlyGivenNames z5
  refine Keeps.ite _ ?_ ?_
  · assumption
  · extract_lets +onlyGivenNames z6
    extract_lets +onlyGivenNames z7
    extract_lets +onlyGivenNames z8
    refine Keeps.ite _ ?_ ?_
    · extract_lets +onlyGivenNames y9
      have h9 : Keeps [.weir, .cad, .gop, .integ, .ctr, .out] s y9 := by
        unfold y9
        refine Keeps.set_weir _ ?_ (by decide)
        assumption
      clear_value y9
      refine Keeps.step ?_ (State.requestsChanged_keeps ..) (by decide)
      refine Keeps.step ?_ (State.notice_keeps ..) (by decide)
      assumption
    · refine Keeps.ite _ ?_ ?_
      · extract_lets +onlyGivenNames y9
        have h9 : Keeps [.weir, .cad, .gop, .integ, .ctr, .out] s y9 := by
          unfold y9
          refine Keeps.set_weir _ ?_ (by decide)
          assumption
        clear_value y9
        refine Keeps.step ?_ (State.requestsChanged_keeps ..) (by decide)
        refine Keeps.step ?_ (State.count_keeps ..) (by decide)
        assumption
      · refine Keeps.set_weir _ ?_ (by decide)
        assumption

theorem State.weirOnRun_keeps (p : Port) (ps : Bytes) (b : Nat) (s : State) : Keeps [.bus, .wins, .weir, .rst, .out] s (State.weirOnRun p ps b s) := by
  unfold State.weirOnRun
  extract_lets +onlyGivenNames y0
  have h0 : Keeps [.bus, .wins, .weir, .rst, .out] s y0 := by
    unfold y0
    exact Keeps.step (Keeps.refl _ _) (State.accept_keeps ..) (by decide)
  clear_value y0
  extract_lets +onlyGivenNames y1
  have h1 : Keeps [.bus, .wins, .weir, .rst, .out] s y1 := by
    unfold y1
    refine Keeps.foldl _ _ ?_ (fun _ _ _ => ?_)
    · assumption
    · refine Keeps.step ?_ (State.setFeedBkp_keeps ..) (by decide)
      refine Keeps.step ?_ (State.updFeed_keeps ..) (by decide)
      assumption
  clear_value y1
  refine Keeps.step ?_ (State.weirOnSettle_keeps ..) (by decide)
  refine Keeps.foldl _ _ ?_ (fun _ _ _ => ?_)
  · assumption
  · refine Keeps.step ?_ (State.tryRamp_keeps ..) (by decide)
    assumption

theorem State.weirOffFeed_keeps (last : Bool) (s : State) (f : Feed) : Keeps [.bus, .wins, .weir, .rst, .out] s (State.weirOffFeed last s f) := by
  unfold State.weirOffFeed
  extract_lets +onlyGivenNames y0
  have h0 : Keeps [.bus, .wins, .weir, .rst, .out] s y0 := by
    unfold y0
    exact Keeps.step (Keeps.refl _ _) (State.weirOnFail_keeps ..) (by decide)
  clear_value y0
  extract_lets +onlyGivenNames y1
  have h1 : Keeps [.bus, .wins, .weir, .rst, .out] s y1 := by
    unfold y1
    refine Keeps.step ?_ (State.setFeedBkp_keeps ..) (by decide)
    assumption
  clear_value y1
  refine Keeps.step ?_ (State.updFeed_keeps ..) (by decide)
  assumption

theorem State.weirOffRun_keeps (p : Port) (ps : Bytes) (b : Nat) (s : State) : Keeps Part.all s (State.weirOffRun p ps b s) := by
  unfold State.weirOffRun
  extract_lets +onlyGivenNames z0
  extract_lets +onlyGivenNames z1
  extract_lets +onlyGivenNames y2
  have h2 : Keeps Part.all s y2 := by
    unfold y2
    exact Keeps.step (Keeps.refl _ _) (State.accept_keeps ..) (by decide)
  clear_value y2
  extract_lets +onlyGivenNames y3
  have h3 : Keeps Part.all s y3 := by
    unfold y3
    refine Keeps.foldl _ _ ?_ (fun _ _ _ => ?_)
    · assumption
    · refine Keeps.step ?_ (State.weirOffFeed_keeps ..) (by decide)
      assumption
  clear_value y3
  refine Keeps.ite _ ?_ ?_
  · refine Keeps.step ?_ (State.orderlyShutdown_keeps ..) (by decide)
    assumption
  · extract_lets +onlyGivenNames z4
    extract_lets +onlyGivenNames y5
    have h5 : Keeps Part.all s y5 := by
      unfold y5
      refine Keeps.set_weir _ ?_ (by decide)
      assumption
    clear_value y5
    refine Keeps.step ?_ (State.finish_keeps ..) (by decide)
    assumption

theorem State.weirClearRun_keeps (p : Port) (ps : Bytes) (s : State) : Keeps [.bus, .wins, .weir, .out] s (State.weirClearRun p ps s) := by
  unfold State.weirClearRun
  extract_lets +onlyGivenNames y0
  have h0 : Keeps [.bus, .wins, .weir, .out] s y0 := by
    unfold y0
    refine Keeps.foldl _ _ ?_ (fun _ _ _ => ?_)
    · exact Keeps.refl _ _
    · refine Keeps.ite _ ?_ ?_
      · refine Keeps.step ?_ (State.updFeed_keeps ..) (by decide)
        assumption
      · assumption
  clear_value y0
  refine Keeps.step ?_ (State.answerNow_keeps ..) (by decide)
  assumption

theorem weirOnOp_within : weirOnOp.Within [.bus, .wins, .weir, .rst, .out] := by
  refine ⟨fun p ps b s => ?_, fun p ps s => ?_⟩
  · dsimp only [weirOnOp, OpSpec.query]
    exact Keeps.step (Keeps.refl _ _) (State.weirOnRun_keeps ..) (by decide)
  · dsimp only [weirOnOp, OpSpec.query]
    exact Keeps.refl _ _

theorem weirOffOp_within : weirOffOp.Within Part.all := by
  refine ⟨fun p ps b s => ?_, fun p ps s => ?_⟩
  · dsimp only [weirOffOp, OpSpec.query]
    exact Keeps.step (Keeps.refl _ _) (State.weirOffRun_keeps ..) (by decide)
  · dsimp only [weirOffOp, OpSpec.query]
    exact Keeps.refl _ _

theorem weirClearOp_within : weirClearOp.Within [.bus, .wins, .weir, .out] := by
  refine ⟨fun p ps b s => ?_, fun p ps s => ?_⟩
  · dsimp only [weirClearOp, OpSpec.query]
    exact Keeps.step (Keeps.refl _ _) (State.weirClearRun_keeps ..) (by decide)
  · dsimp only [weirClearOp, OpSpec.query]
    exact Keeps.refl _ _

theorem weirStatusOp_within : weirStatusOp.Within [.bus, .wins, .out] := by
  refine ⟨fun p ps b s => ?_, fun p ps s => ?_⟩
  · dsimp only [weirStatusOp, OpSpec.query]
    exact Keeps.step (Keeps.refl _ _) (State.answer_keeps ..) (by decide)
  · dsimp only [weirStatusOp, OpSpec.query]
    exact Keeps.refl _ _

theorem execWeirOn_keeps (p : Port) (tag : BitVec 32) (params : Bytes) (s : State) : ∃ t, execWeirOn p tag params s = .next t ∧ Keeps [.bus, .wins, .cfg, .weir, .rst, .ctr, .out] s t :=
  ⟨_, rfl, State.submit_keeps (OpSpec.Within.mono weirOnOp_within (by decide)) (by decide) ..⟩

theorem execWeirOff_keeps (p : Port) (tag : BitVec 32) (params : Bytes) (s : State) : ∃ t, execWeirOff p tag params s = .next t ∧ Keeps Part.all s t :=
  ⟨_, rfl, State.submit_keeps (OpSpec.Within.mono weirOffOp_within (by decide)) (by decide) ..⟩

theorem execWeirClear_keeps (p : Port) (tag : BitVec 32) (params : Bytes) (s : State) : ∃ t, execWeirClear p tag params s = .next t ∧ Keeps [.bus, .wins, .cfg, .weir, .ctr, .out] s t :=
  ⟨_, rfl, State.submit_keeps (OpSpec.Within.mono weirClearOp_within (by decide)) (by decide) ..⟩

theorem execWeirStatus_keeps (p : Port) (tag : BitVec 32) (params : Bytes) (s : State) : ∃ t, execWeirStatus p tag params s = .next t ∧ Keeps [.bus, .wins, .cfg, .ctr, .out] s t :=
  ⟨_, rfl, State.submit_keeps (OpSpec.Within.mono weirStatusOp_within (by decide)) (by decide) ..⟩

theorem execFeedInWindow_keeps (f : Feed) (vinMv : Nat) (s : State) : ∃ t, execFeedInWindow f vinMv s = .next t ∧ Keeps [.dev, .weir, .rst] s t := by
  unfold execFeedInWindow
  split
  · exact ⟨_, rfl, Keeps.refl _ _⟩
  · extract_lets +onlyGivenNames y0
    have h0 : Keeps [.dev, .weir, .rst] s y0 := by
      unfold y0
      exact Keeps.step (Keeps.refl _ _) (State.updFeed_keeps ..) (by decide)
    clear_value y0
    extract_lets +onlyGivenNames y1
    have h1 : Keeps [.dev, .weir, .rst] s y1 := by
      unfold y1
      refine Keeps.ite _ ?_ ?_
      · refine Keeps.step ?_ (State.wakeUp_keeps ..) (by decide)
        assumption
      · assumption
    clear_value y1
    refine ⟨_, rfl, ?_⟩
    refine Keeps.step ?_ (State.tryRamp_keeps ..) (by decide)
    assumption

theorem execFeedOutOfWindow_keeps (f : Feed) (vinMv : Nat) (powerMw : Nat) (s : State) : ∃ t, execFeedOutOfWindow f vinMv powerMw s = .next t ∧ Keeps [.dev, .bus, .wins, .sess, .cfg, .weir, .cad, .gop, .chk, .basin, .integ, .slots, .boot, .upd, .ctr, .out, .free] s t := by
  unfold execFeedOutOfWindow
  refine ⟨_, rfl, ?_⟩
  refine Keeps.ite _ ?_ ?_
  · exact Keeps.step (Keeps.refl _ _) (State.inputOut_keeps ..) (by decide)
  · exact Keeps.refl _ _

theorem execFeedInputReturn_keeps (f : Feed) (vinMv : Nat) (s : State) : ∃ t, execFeedInputReturn f vinMv s = .next t ∧ Keeps [.dev, .weir, .rst] s t := by
  unfold execFeedInputReturn
  split
  · exact ⟨_, rfl, Keeps.refl _ _⟩
  · extract_lets +onlyGivenNames z0
    extract_lets +onlyGivenNames y1
    have h1 : Keeps [.dev, .weir, .rst] s y1 := by
      unfold y1
      exact Keeps.step (Keeps.refl _ _) (State.updFeed_keeps ..) (by decide)
    clear_value y1
    extract_lets +onlyGivenNames y2
    have h2 : Keeps [.dev, .weir, .rst] s y2 := by
      unfold y2
      refine Keeps.ite _ ?_ ?_
      · refine Keeps.step ?_ (State.wakeUp_keeps ..) (by decide)
        assumption
      · assumption
    clear_value y2
    extract_lets +onlyGivenNames z3
    extract_lets +onlyGivenNames y4
    have h4 : Keeps [.dev, .weir, .rst] s y4 := by
      unfold y4
      refine Keeps.set_weir _ ?_ (by decide)
      assumption
    clear_value y4
    extract_lets +onlyGivenNames z5
    refine ⟨_, rfl, ?_⟩
    refine Keeps.ite _ ?_ ?_
    · refine Keeps.step ?_ (State.startRamp_keeps ..) (by decide)
      assumption
    · assumption

theorem execFeedPowerGood_keeps (f : Feed) (voutMv : Nat) (iMa : Int) (s : State) : ∃ t, execFeedPowerGood f voutMv iMa s = .next t ∧ Keeps [.bus, .wins, .weir, .cad, .gop, .integ, .ctr, .out] s t := by
  unfold execFeedPowerGood
  refine ⟨_, rfl, ?_⟩
  refine Keeps.ite _ ?_ ?_
  · exact Keeps.step (Keeps.refl _ _) (State.feedGood_keeps ..) (by decide)
  · exact Keeps.refl _ _

theorem execRampTimeout_keeps (f : Feed) (s : State) : ∃ t, execRampTimeout f s = .next t ∧ Keeps [.dev, .bus, .wins, .sess, .cfg, .weir, .cad, .gop, .chk, .basin, .integ, .slots, .boot, .upd, .ctr, .out, .free] s t := by
  unfold execRampTimeout
  refine ⟨_, rfl, ?_⟩
  refine Keeps.ite _ ?_ ?_
  · exact Keeps.step (Keeps.refl _ _) (State.tripFeed_keeps ..) (by decide)
  · exact Keeps.refl _ _

theorem execCurrentLimitReached_keeps (f : Feed) (iMa : Int) (s : State) : ∃ t, execCurrentLimitReached f iMa s = .next t ∧ Keeps [.weir] s t := by
  unfold execCurrentLimitReached
  extract_lets +onlyGivenNames z0
  refine ⟨_, rfl, ?_⟩
  refine Keeps.ite _ ?_ ?_
  · exact Keeps.step (Keeps.refl _ _) (State.updFeed_keeps ..) (by decide)
  · exact Keeps.refl _ _

theorem execFaultTimerClear_keeps (f : Feed) (s : State) : ∃ t, execFaultTimerClear f s = .next t ∧ Keeps [.weir] s t := by
  unfold execFaultTimerClear
  exact ⟨_, rfl, Keeps.step (Keeps.refl _ _) (State.updFeed_keeps ..) (by decide)⟩

theorem execFaultTimerExpiry_keeps (f : Feed) (s : State) : ∃ t, execFaultTimerExpiry f s = .next t ∧ Keeps [.dev, .bus, .wins, .sess, .cfg, .weir, .cad, .gop, .chk, .basin, .integ, .slots, .boot, .upd, .ctr, .out, .free] s t := by
  unfold execFaultTimerExpiry
  refine ⟨_, rfl, ?_⟩
  refine Keeps.ite _ ?_ ?_
  · exact Keeps.step (Keeps.refl _ _) (State.tripFeed_keeps ..) (by decide)
  · exact Keeps.refl _ _

theorem execSoaTrip_keeps (f : Feed) (s : State) : ∃ t, execSoaTrip f s = .next t ∧ Keeps [.dev, .bus, .wins, .sess, .cfg, .weir, .cad, .gop, .chk, .basin, .integ, .slots, .boot, .upd, .ctr, .out, .free] s t := by
  unfold execSoaTrip
  exact ⟨_, rfl, Keeps.step (Keeps.refl _ _) (State.tripFeed_keeps ..) (by decide)⟩

theorem execFastTrip_keeps (f : Feed) (s : State) : ∃ t, execFastTrip f s = .next t ∧ Keeps [.dev, .bus, .wins, .sess, .cfg, .weir, .cad, .gop, .chk, .basin, .integ, .slots, .boot, .upd, .ctr, .out, .free] s t := by
  unfold execFastTrip
  exact ⟨_, rfl, Keeps.step (Keeps.refl _ _) (State.tripFeed_keeps ..) (by decide)⟩

theorem execFeedLoss_keeps (f : Feed) (powerMw : Nat) (s : State) : ∃ t, execFeedLoss f powerMw s = .next t ∧ Keeps [.dev, .bus, .wins, .sess, .cfg, .weir, .cad, .gop, .chk, .basin, .integ, .slots, .boot, .upd, .ctr, .out, .free] s t := by
  unfold execFeedLoss
  refine ⟨_, rfl, ?_⟩
  refine Keeps.ite _ ?_ ?_
  · exact Keeps.step (Keeps.step (Keeps.refl _ _) (State.loseFeed_keeps ..) (by decide)) (State.weirOffFull_keeps ..) (by decide)
  · exact Keeps.refl _ _

theorem execCooldownEnd_keeps (f : Feed) (s : State) : ∃ t, execCooldownEnd f s = .next t ∧ Keeps [.weir, .rst] s t := by
  unfold execCooldownEnd
  extract_lets +onlyGivenNames z0
  extract_lets +onlyGivenNames y1
  have h1 : Keeps [.weir, .rst] s y1 := by
    unfold y1
    exact Keeps.step (Keeps.refl _ _) (State.updFeed_keeps ..) (by decide)
  clear_value y1
  split
  · extract_lets +onlyGivenNames y2
    have h2 : Keeps [.weir, .rst] s y2 := by
      unfold y2
      refine Keeps.step ?_ (State.updFeed_keeps ..) (by decide)
      assumption
    clear_value y2
    refine ⟨_, rfl, ?_⟩
    refine Keeps.step ?_ (State.tryRamp_keeps ..) (by decide)
    assumption
  · refine ⟨_, rfl, ?_⟩
    refine Keeps.step ?_ (State.tryRamp_keeps ..) (by decide)
    assumption

theorem execRetryCountReset_keeps (f : Feed) (s : State) : ∃ t, execRetryCountReset f s = .next t ∧ Keeps [.weir] s t := by
  unfold execRetryCountReset
  refine ⟨_, rfl, ?_⟩
  refine Keeps.ite _ ?_ ?_
  · exact Keeps.step (Keeps.refl _ _) (State.updFeed_keeps ..) (by decide)
  · exact Keeps.refl _ _

theorem execHoldupExpiry_keeps (s : State) : ∃ t, execHoldupExpiry s = .next t ∧ Keeps Part.all s t := by
  unfold execHoldupExpiry
  refine ⟨_, rfl, ?_⟩
  refine Keeps.ite _ ?_ ?_
  · exact Keeps.step (Keeps.step (Keeps.refl _ _) (State.raise_keeps ..) (by decide)) (State.orderlyShutdown_keeps ..) (by decide)
  · exact Keeps.refl _ _

theorem execMinOffEnd_keeps (f : Feed) (s : State) : ∃ t, execMinOffEnd f s = .next t ∧ Keeps [.weir, .rst] s t := by
  unfold execMinOffEnd
  refine ⟨_, rfl, ?_⟩
  refine Keeps.ite _ ?_ ?_
  · exact Keeps.refl _ _
  · refine Keeps.ite _ ?_ ?_
    · exact Keeps.step (Keeps.refl _ _) (State.minOffOver_keeps ..) (by decide)
    · exact Keeps.step (Keeps.refl _ _) (State.updFeed_keeps ..) (by decide)

theorem execPowerWindowClose_keeps (pMw : Nat) (a : FeedMeas) (b : FeedMeas) (s : State) : ∃ t, execPowerWindowClose pMw a b s = .next t ∧ Keeps [.weir, .cad, .gop, .integ, .ctr, .out] s t := by
  unfold execPowerWindowClose
  refine ⟨_, rfl, ?_⟩
  refine Keeps.ite _ ?_ ?_
  · exact Keeps.step (Keeps.refl _ _) (State.windowClose_keeps ..) (by decide)
  · exact Keeps.refl _ _

theorem execShareImbalance_keeps (s : State) : ∃ t, execShareImbalance s = .next t ∧ Keeps [.ctr] s t := by
  unfold execShareImbalance
  refine ⟨_, rfl, ?_⟩
  refine Keeps.ite _ ?_ ?_
  · exact Keeps.step (Keeps.refl _ _) (State.count_keeps ..) (by decide)
  · exact Keeps.refl _ _
end Sys2Proof.Machine
end

