-- ==== Sys2Proof/Laws/KeepsFans.lean ====
section
/-!
SUPPORT. What the operations of Machine/Fans.lean touch, and that they keep the invariant.
-/

namespace Sys2Proof.Machine
theorem State.updChan_keeps (c : Fin 28) (f : ChanSt → ChanSt) (s : State) : Keeps [.cool] s (State.updChan c f s) := by
  unfold State.updChan
  exact Keeps.set_cool _ (Keeps.refl _ _) (by decide)

theorem State.updZone_keeps (z : Fin 4) (f : ZoneSt → ZoneSt) (s : State) : Keeps [.cool] s (State.updZone z f s) := by
  unfold State.updZone
  exact Keeps.set_cool _ (Keeps.refl _ _) (by decide)

theorem State.updOut_keeps (o : Fin 20) (f : OutSt → OutSt) (s : State) : Keeps [.cool] s (State.updOut o f s) := by
  unfold State.updOut
  exact Keeps.set_cool _ (Keeps.refl _ _) (by decide)

theorem State.zoneEval_keeps (s : State) (z : Fin 4) : Keeps [.cool] s (State.zoneEval s z) := by
  unfold State.zoneEval
  split
  · exact Keeps.step (Keeps.refl _ _) (State.updZone_keeps ..) (by decide)
  · extract_lets +onlyGivenNames z0
    exact Keeps.step (Keeps.refl _ _) (State.updZone_keeps ..) (by decide)

theorem State.spinUp_keeps (s : State) (o : Fin 20) : Keeps [.cool] s (State.spinUp s o) := by
  unfold State.spinUp
  exact Keeps.step (Keeps.refl _ _) (State.updOut_keeps ..) (by decide)

theorem State.driveOut_keeps (slew : Bool) (s : State) (o : Fin 20) : Keeps [.cool] s (State.driveOut slew s o) := by
  unfold State.driveOut
  extract_lets +onlyGivenNames z0
  split
  · extract_lets +onlyGivenNames z1
    refine Keeps.ite _ ?_ ?_
    · exact Keeps.step (Keeps.refl _ _) (State.updOut_keeps ..) (by decide)
    · refine Keeps.ite _ ?_ ?_
      · refine Keeps.ite _ ?_ ?_
        · exact Keeps.step (Keeps.refl _ _) (State.spinUp_keeps ..) (by decide)
        · exact Keeps.refl _ _
      · refine Keeps.ite _ ?_ ?_
        · exact Keeps.step (Keeps.refl _ _) (State.spinUp_keeps ..) (by decide)
        · extract_lets +onlyGivenNames z2
          exact Keeps.step (Keeps.refl _ _) (State.updOut_keeps ..) (by decide)

theorem State.driveAll_keeps (slew : Bool) (s : State) : Keeps [.cool] s (State.driveAll slew s) := by
  unfold State.driveAll
  refine Keeps.foldl _ _ ?_ (fun _ _ _ => ?_)
  · exact Keeps.refl _ _
  · refine Keeps.step ?_ (State.driveOut_keeps ..) (by decide)
    assumption

theorem State.failOut_keeps (o : Fin 20) (s : State) : Keeps [.dev, .cool, .integ, .ctr] s (State.failOut o s) := by
  unfold State.failOut
  extract_lets +onlyGivenNames y0
  have h0 : Keeps [.dev, .cool, .integ, .ctr] s y0 := by
    unfold y0
    exact Keeps.step (Keeps.refl _ _) (State.updOut_keeps ..) (by decide)
  clear_value y0
  refine Keeps.step ?_ (State.driveAll_keeps ..) (by decide)
  refine Keeps.step ?_ (State.wakeUp_keeps ..) (by decide)
  refine Keeps.step ?_ (State.notice_keeps ..) (by decide)
  assumption

theorem State.spinStep_keeps (o : Fin 20) (tachOk : Bool) (s : State) : Keeps [.dev, .cool, .integ, .ctr] s (State.spinStep o tachOk s) := by
  unfold State.spinStep
  extract_lets +onlyGivenNames z0
  refine Keeps.ite _ ?_ ?_
  · exact Keeps.step (Keeps.refl _ _) (State.updOut_keeps ..) (by decide)
  · refine Keeps.ite _ ?_ ?_
    · exact Keeps.step (Keeps.step (Keeps.refl _ _) (State.updOut_keeps ..) (by decide)) (State.driveOut_keeps ..) (by decide)
    · refine Keeps.ite _ ?_ ?_
      · exact Keeps.step (Keeps.refl _ _) (State.updOut_keeps ..) (by decide)
      · refine Keeps.ite _ ?_ ?_
        · exact Keeps.step (Keeps.refl _ _) (State.failOut_keeps ..) (by decide)
        · exact Keeps.step (Keeps.refl _ _) (State.updOut_keeps ..) (by decide)

theorem State.ceilingTimers_keeps (s : State) : Keeps [.cool] s (State.ceilingTimers s) := by
  unfold State.ceilingTimers
  extract_lets +onlyGivenNames z0
  extract_lets +onlyGivenNames z1
  extract_lets +onlyGivenNames z2
  extract_lets +onlyGivenNames z3
  extract_lets +onlyGivenNames z4
  exact Keeps.set_cool _ (Keeps.refl _ _) (by decide)

theorem State.setCeiling_keeps (k : Nat) (s : State) : Keeps [.cool, .cad, .gop, .integ, .ctr, .out] s (State.setCeiling k s) := by
  unfold State.setCeiling
  exact Keeps.step (Keeps.step (Keeps.set_cool _ (Keeps.refl _ _) (by decide)) (State.count_keeps ..) (by decide)) (State.requestsChanged_keeps ..) (by decide)

theorem State.ceilingOver_keeps (s : State) : Keeps [.cool, .cad, .gop, .integ, .ctr, .out] s (State.ceilingOver s) := by
  unfold State.ceilingOver
  refine Keeps.ite _ ?_ ?_
  · exact Keeps.refl _ _
  · refine Keeps.ite _ ?_ ?_
    · exact Keeps.step (Keeps.refl _ _) (State.setCeiling_keeps ..) (by decide)
    · exact Keeps.step (Keeps.set_cool _ (Keeps.refl _ _) (by decide)) (State.notice_keeps ..) (by decide)

theorem State.coolApplied_keeps (s : State) : Keeps [.cool] s (State.coolApplied s) := by
  unfold State.coolApplied
  refine Keeps.ite _ ?_ ?_
  · exact Keeps.refl _ _
  · exact Keeps.set_cool _ (Keeps.refl _ _) (by decide)

theorem State.updFlow_keeps (n : Fin 4) (f : FlowSt → FlowSt) (s : State) : Keeps [.cool] s (State.updFlow n f s) := by
  unfold State.updFlow
  exact Keeps.set_cool _ (Keeps.refl _ _) (by decide)

theorem execFanEngineEval_keeps (rpm : List Nat) (s : State) : ∃ t, execFanEngineEval rpm s = .next t ∧ Keeps [.cool] s t := by
  unfold execFanEngineEval
  split
  · exact ⟨_, rfl, Keeps.refl _ _⟩
  · extract_lets +onlyGivenNames y0
    have h0 : Keeps [.cool] s y0 := by
      unfold y0
      refine Keeps.foldl _ _ ?_ (fun _ _ _ => ?_)
      · exact Keeps.refl _ _
      · refine Keeps.step ?_ (State.updOut_keeps ..) (by decide)
        assumption
    clear_value y0
    extract_lets +onlyGivenNames z1
    extract_lets +onlyGivenNames y2
    have h2 : Keeps [.cool] s y2 := by
      unfold y2
      refine Keeps.foldl _ _ ?_ (fun _ _ _ => ?_)
      · refine Keeps.set_cool _ ?_ (by decide)
        assumption
      · refine Keeps.step ?_ (State.zoneEval_keeps ..) (by decide)
        assumption
    clear_value y2
    refine ⟨_, rfl, ?_⟩
    refine Keeps.step ?_ (State.ceilingTimers_keeps ..) (by decide)
    refine Keeps.step ?_ (State.driveAll_keeps ..) (by decide)
    assumption

theorem execSpinUpStep_keeps (o : Fin 20) (tachOk : Bool) (s : State) : ∃ t, execSpinUpStep o tachOk s = .next t ∧ Keeps [.dev, .cool, .integ, .ctr] s t := by
  unfold execSpinUpStep
  refine ⟨_, rfl, ?_⟩
  refine Keeps.ite _ ?_ ?_
  · exact Keeps.step (Keeps.refl _ _) (State.spinStep_keeps ..) (by decide)
  · exact Keeps.refl _ _

theorem execTachNoEdge_keeps (o : Fin 20) (s : State) : ∃ t, execTachNoEdge o s = .next t ∧ Keeps [.dev, .cool, .integ, .ctr] s t := by
  unfold execTachNoEdge
  refine ⟨_, rfl, ?_⟩
  refine Keeps.ite _ ?_ ?_
  · exact Keeps.step (Keeps.refl _ _) (State.failOut_keeps ..) (by decide)
  · exact Keeps.refl _ _

theorem execOutputSlow_keeps (o : Fin 20) (s : State) : ∃ t, execOutputSlow o s = .next t ∧ Keeps [.cool, .ctr] s t := by
  unfold execOutputSlow
  refine ⟨_, rfl, ?_⟩
  refine Keeps.ite _ ?_ ?_
  · exact Keeps.step (Keeps.step (Keeps.refl _ _) (State.updOut_keeps ..) (by decide)) (State.count_keeps ..) (by decide)
  · exact Keeps.refl _ _

theorem execOutputRestored_keeps (o : Fin 20) (s : State) : ∃ t, execOutputRestored o s = .next t ∧ Keeps [.cool, .ctr] s t := by
  unfold execOutputRestored
  refine ⟨_, rfl, ?_⟩
  refine Keeps.ite _ ?_ ?_
  · exact Keeps.step (Keeps.step (Keeps.step (Keeps.refl _ _) (State.updOut_keeps ..) (by decide)) (State.count_keeps ..) (by decide)) (State.driveAll_keeps ..) (by decide)
  · exact Keeps.refl _ _

theorem execCeilingOverTimer_keeps (s : State) : ∃ t, execCeilingOverTimer s = .next t ∧ Keeps [.cool, .cad, .gop, .integ, .ctr, .out] s t := by
  unfold execCeilingOverTimer
  exact ⟨_, rfl, Keeps.step (Keeps.refl _ _) (State.ceilingOver_keeps ..) (by decide)⟩

theorem execCeilingReturn_keeps (s : State) : ∃ t, execCeilingReturn s = .next t ∧ Keeps [.cool] s t := by
  unfold execCeilingReturn
  refine ⟨_, rfl, ?_⟩
  refine Keeps.ite _ ?_ ?_
  · exact Keeps.set_cool _ (Keeps.refl _ _) (by decide)
  · exact Keeps.refl _ _

theorem execCeilingUnderTimer_keeps (s : State) : ∃ t, execCeilingUnderTimer s = .next t ∧ Keeps [.cool, .cad, .gop, .integ, .ctr, .out] s t := by
  unfold execCeilingUnderTimer
  refine ⟨_, rfl, ?_⟩
  refine Keeps.ite _ ?_ ?_
  · exact Keeps.step (Keeps.refl _ _) (State.setCeiling_keeps ..) (by decide)
  · exact Keeps.refl _ _

theorem execFlowMeasure_keeps (n : Fin 4) (pulses : Nat) (s : State) : ∃ t, execFlowMeasure n pulses s = .next t ∧ Keeps [.cool] s t := by
  unfold execFlowMeasure
  extract_lets +onlyGivenNames z0
  exact ⟨_, rfl, Keeps.step (Keeps.refl _ _) (State.updFlow_keeps ..) (by decide)⟩

theorem execFlowLow_keeps (n : Fin 4) (s : State) : ∃ t, execFlowLow n s = .next t ∧ Keeps [.cool, .integ, .ctr] s t := by
  unfold execFlowLow
  refine ⟨_, rfl, ?_⟩
  refine Keeps.ite _ ?_ ?_
  · exact Keeps.step (Keeps.step (Keeps.step (Keeps.refl _ _) (State.updFlow_keeps ..) (by decide)) (State.notice_keeps ..) (by decide)) (State.driveAll_keeps ..) (by decide)
  · exact Keeps.refl _ _

theorem execFlowRecover_keeps (n : Fin 4) (s : State) : ∃ t, execFlowRecover n s = .next t ∧ Keeps [.cool] s t := by
  unfold execFlowRecover
  refine ⟨_, rfl, ?_⟩
  refine Keeps.ite _ ?_ ?_
  · exact Keeps.step (Keeps.step (Keeps.refl _ _) (State.updFlow_keeps ..) (by decide)) (State.driveAll_keeps ..) (by decide)
  · exact Keeps.refl _ _
end Sys2Proof.Machine
end

