-- ==== Sys2Proof/Laws/KeepsThermal.lean ====
section
/-!
SUPPORT. What the operations of Machine/Thermal.lean touch, and that they keep the invariant.
-/

namespace Sys2Proof.Machine
theorem State.freeReading_keeps (s : State) : Keeps [.free] s (State.freeReading s).2 := by
  unfold State.freeReading
  exact Keeps.step (Keeps.refl _ _) (State.drawn_keeps ..) (by decide)

theorem State.convTemp_keeps (s : State) (c : Fin 28) (v : Conv) : Keeps [.free] s (State.convTemp s c v).2 := by
  have hf := State.freeReading_keeps s
  unfold State.convTemp
  extract_lets +onlyGivenNames z0 z1 z2
  have h : ∀ r : Option Int, Keeps [.free] s (z2 r).2 := by
    intro r
    unfold z2
    cases r with
    | some t => exact Keeps.refl _ _
    | none => exact hf
  clear_value z2 z0 z1
  split
  · split <;> exact Keeps.refl _ _
  · generalize ntcReading _ _ _ = r1
    generalize ptReading _ = r2
    split
    · exact Keeps.refl _ _
    · split
      · exact h _
      · exact h _
      · exact Keeps.refl _ _
      · exact Keeps.refl _ _
  · exact Keeps.refl _ _

theorem State.judgeWarn_keeps (c : Fin 28) (s : State) : Keeps [.dev, .cool, .ctr] s (State.judgeWarn c s) := by
  unfold State.judgeWarn
  extract_lets +onlyGivenNames z0
  refine Keeps.ite _ ?_ ?_
  · exact Keeps.step (Keeps.refl _ _) (State.updChan_keeps ..) (by decide)
  · extract_lets +onlyGivenNames z1
    extract_lets +onlyGivenNames z2
    refine Keeps.ite _ ?_ ?_
    · exact Keeps.step (Keeps.refl _ _) (State.updChan_keeps ..) (by decide)
    · refine Keeps.ite _ ?_ ?_
      · exact Keeps.step (Keeps.refl _ _) (State.updChan_keeps ..) (by decide)
      · extract_lets +onlyGivenNames y3
        have h3 : Keeps [.dev, .cool, .ctr] s y3 := by
          unfold y3
          exact Keeps.step (Keeps.refl _ _) (State.updChan_keeps ..) (by decide)
        clear_value y3
        refine Keeps.ite _ ?_ ?_
        · assumption
        · refine Keeps.step ?_ (State.wakeUp_keeps ..) (by decide)
          refine Keeps.step ?_ (State.count_keeps ..) (by decide)
          assumption

theorem State.trayOff_keeps (c : ShutCause) (s : State) : Keeps Part.all s (State.trayOff c s) := by
  unfold State.trayOff
  refine Keeps.ite _ ?_ ?_
  · exact Keeps.refl _ _
  · exact Keeps.step (Keeps.refl _ _) (State.orderlyShutdown_keeps ..) (by decide)

theorem State.tripSlot_keeps (i : Fin 8) (s : State) : Keeps [.bus, .wins, .casc, .cad, .gop, .chk, .basin, .integ, .slots, .ctr, .out, .free] s (State.tripSlot i s) := by
  unfold State.tripSlot
  split
  · exact Keeps.step (Keeps.step (Keeps.refl _ _) (State.setSlot_keeps ..) (by decide)) (State.slotDown_keeps ..) (by decide)
  · exact Keeps.step (Keeps.step (Keeps.refl _ _) (State.setSlot_keeps ..) (by decide)) (State.slotDown_keeps ..) (by decide)
  · exact Keeps.step (Keeps.step (Keeps.refl _ _) (State.setSlot_keeps ..) (by decide)) (State.slotDown_keeps ..) (by decide)
  · refine Keeps.ite _ ?_ ?_
    · exact Keeps.step (Keeps.refl _ _) (State.slotDown_keeps ..) (by decide)
    · exact Keeps.refl _ _
  · exact Keeps.step (Keeps.refl _ _) (State.slotDown_keeps ..) (by decide)
  · exact Keeps.refl _ _
  · exact Keeps.refl _ _

theorem State.tripChan_keeps (c : Fin 28) (s : State) : Keeps Part.all s (State.tripChan c s) := by
  unfold State.tripChan
  simp only
  generalize s.chanScope c = sc
  have h0 : ∀ a b, Keeps Part.all s (s.raise a b sc) :=
    fun _ _ => Keeps.step (Keeps.refl _ _) (State.raise_keeps ..) (by decide)
  cases sc with
  | none =>
    refine Keeps.step (Keeps.set_weir _ ?_ (by decide)) (State.trayOff_keeps ..) (by decide)
    refine Keeps.ite _ (Keeps.step ?_ (State.raise_keeps ..) (by decide)) ?_
    all_goals exact Keeps.step (h0 _ _) (State.updChan_keeps ..) (by decide)
  | some i =>
    refine Keeps.step ?_ (State.tripSlot_keeps ..) (by decide)
    refine Keeps.ite _ (Keeps.step ?_ (State.raise_keeps ..) (by decide)) ?_
    all_goals exact Keeps.step (h0 _ _) (State.updChan_keeps ..) (by decide)

theorem State.judgeTrip_keeps (c : Fin 28) (s : State) : Keeps Part.all s (State.judgeTrip c s) := by
  unfold State.judgeTrip
  extract_lets +onlyGivenNames z0
  refine Keeps.ite _ ?_ ?_
  · refine Keeps.ite _ ?_ ?_
    · exact Keeps.refl _ _
    · refine Keeps.ite _ ?_ ?_
      · exact Keeps.step (Keeps.refl _ _) (State.updChan_keeps ..) (by decide)
      · exact Keeps.step (Keeps.refl _ _) (State.updChan_keeps ..) (by decide)
  · refine Keeps.ite _ ?_ ?_
    · exact Keeps.step (Keeps.refl _ _) (State.updChan_keeps ..) (by decide)
    · refine Keeps.ite _ ?_ ?_
      · exact Keeps.step (Keeps.refl _ _) (State.updChan_keeps ..) (by decide)
      · exact Keeps.step (Keeps.refl _ _) (State.tripChan_keeps ..) (by decide)

theorem State.restartFeed_keeps (on : Nat) (s : State) (f : Feed) : Keeps [.weir, .rst] s (State.restartFeed on s f) := by
  unfold State.restartFeed
  refine Keeps.ite _ ?_ ?_
  · extract_lets +onlyGivenNames z0
    exact Keeps.step (Keeps.step (Keeps.refl _ _) (State.updFeed_keeps ..) (by decide)) (State.tryRamp_keeps ..) (by decide)
  · exact Keeps.refl _ _

theorem State.endTrip_keeps (c : Fin 28) (record : Bool) (s : State) : Keeps [.bus, .wins, .weir, .casc, .cool, .cad, .gop, .chk, .basin, .integ, .slots, .rst, .ctr, .out, .free] s (State.endTrip c record s) := by
  unfold State.endTrip
  extract_lets +onlyGivenNames z0
  extract_lets +onlyGivenNames y1
  have h1 : Keeps [.bus, .wins, .weir, .casc, .cool, .cad, .gop, .chk, .basin, .integ, .slots, .rst, .ctr, .out, .free] s y1 := by
    unfold y1
    exact Keeps.step (Keeps.refl _ _) (State.updChan_keeps ..) (by decide)
  clear_value y1
  extract_lets +onlyGivenNames z2
  split
  · refine Keeps.foldl _ _ ?_ (fun _ _ _ => ?_)
    · assumption
    · refine Keeps.step ?_ (State.updChan_keeps ..) (by decide)
      assumption
  · split
    · refine Keeps.ite _ ?_ ?_
      · unfold z2
        refine Keeps.step ?_ (State.raise_keeps ..) (by decide)
        refine Keeps.step ?_ (State.updChan_keeps ..) (by decide)
        refine Keeps.step ?_ (State.slotUp_keeps ..) (by decide)
        assumption
      · assumption
    · extract_lets +onlyGivenNames z3
      extract_lets +onlyGivenNames y4
      have h4 : Keeps [.bus, .wins, .weir, .casc, .cool, .cad, .gop, .chk, .basin, .integ, .slots, .rst, .ctr, .out, .free] s y4 := by
        unfold y4
        refine Keeps.set_weir _ ?_ (by decide)
        assumption
      clear_value y4
      extract_lets +onlyGivenNames z5
      extract_lets +onlyGivenNames y6
      have h6 : Keeps [.bus, .wins, .weir, .casc, .cool, .cad, .gop, .chk, .basin, .integ, .slots, .rst, .ctr, .out, .free] s y6 := by
        unfold y6
        refine Keeps.foldl _ _ ?_ (fun _ _ _ => ?_)
        · assumption
        · refine Keeps.step ?_ (State.restartFeed_keeps ..) (by decide)
          assumption
      clear_value y6
      refine Keeps.ite _ ?_ ?_
      · unfold z2
        refine Keeps.step ?_ (State.raise_keeps ..) (by decide)
        refine Keeps.step ?_ (State.updChan_keeps ..) (by decide)
        assumption
      · assumption

theorem State.holdOver_keeps (c : Fin 28) (record : Bool) (s : State) : Keeps [.bus, .wins, .weir, .casc, .cool, .cad, .gop, .chk, .basin, .integ, .slots, .rst, .ctr, .out, .free] s (State.holdOver c record s) := by
  unfold State.holdOver
  refine Keeps.ite _ ?_ ?_
  · exact Keeps.step (Keeps.refl _ _) (State.updChan_keeps ..) (by decide)
  · exact Keeps.step (Keeps.refl _ _) (State.endTrip_keeps ..) (by decide)

theorem State.waitedRestarts_keeps (s : State) : Keeps [.bus, .wins, .weir, .casc, .cool, .cad, .gop, .chk, .basin, .integ, .slots, .rst, .ctr, .out, .free] s (State.waitedRestarts s) := by
  unfold State.waitedRestarts
  refine Keeps.foldl _ _ ?_ (fun _ _ _ => ?_)
  · exact Keeps.refl _ _
  · split
    · refine Keeps.step ?_ (State.endTrip_keeps ..) (by decide)
      assumption
    · assumption

theorem State.chanGone_keeps (c : Fin 28) (s : State) : Keeps [.weir, .cool] s (State.chanGone c s) := by
  unfold State.chanGone
  extract_lets +onlyGivenNames z0
  extract_lets +onlyGivenNames y1
  have h1 : Keeps [.weir, .cool] s y1 := by
    unfold y1
    exact Keeps.step (Keeps.refl _ _) (State.updChan_keeps ..) (by decide)
  clear_value y1
  refine Keeps.ite _ ?_ ?_
  · refine Keeps.set_weir _ ?_ (by decide)
    assumption
  · assumption

theorem State.gustOn_keeps (c : Fin 28) (s : State) : Keeps [.cool, .cad, .gop, .integ, .ctr, .out] s (State.gustOn c s) := by
  unfold State.gustOn
  extract_lets +onlyGivenNames y0
  have h0 : Keeps [.cool, .cad, .gop, .integ, .ctr, .out] s y0 := by
    unfold y0
    exact Keeps.step (Keeps.refl _ _) (State.raise_keeps ..) (by decide)
  clear_value y0
  extract_lets +onlyGivenNames y1
  have h1 : Keeps [.cool, .cad, .gop, .integ, .ctr, .out] s y1 := by
    unfold y1
    refine Keeps.foldl _ _ ?_ (fun _ _ _ => ?_)
    · assumption
    · refine Keeps.step ?_ (State.updZone_keeps ..) (by decide)
      assumption
  clear_value y1
  extract_lets +onlyGivenNames z2
  extract_lets +onlyGivenNames y3
  have h3 : Keeps [.cool, .cad, .gop, .integ, .ctr, .out] s y3 := by
    unfold y3
    refine Keeps.set_cool _ ?_ (by decide)
    assumption
  clear_value y3
  refine Keeps.ite _ ?_ ?_
  · assumption
  · refine Keeps.step ?_ (State.emergency_keeps ..) (by decide)
    refine Keeps.foldl _ _ ?_ (fun _ _ _ => ?_)
    · assumption
    · refine Keeps.step ?_ (State.updGrp_keeps ..) (by decide)
      assumption

theorem State.judgeGust_keeps (c : Fin 28) (s : State) : Keeps [.cool, .cad, .gop, .integ, .ctr, .out] s (State.judgeGust c s) := by
  unfold State.judgeGust
  split
  · exact Keeps.refl _ _
  · refine Keeps.ite _ ?_ ?_
    · exact Keeps.step (Keeps.step (Keeps.refl _ _) (State.updChan_keeps ..) (by decide)) (State.gustOn_keeps ..) (by decide)
    · exact Keeps.refl _ _

theorem State.takeConv_keeps (c : Fin 28) (v : Conv) (s : State) : Keeps [.cool, .integ, .ctr, .free] s (State.takeConv c v s) := by
  unfold State.takeConv
  extract_lets +onlyGivenNames z0
  extract_lets +onlyGivenNames z1
  refine Keeps.ite _ ?_ ?_
  · extract_lets +onlyGivenNames z2
    extract_lets +onlyGivenNames z3
    refine Keeps.ite _ (Keeps.step ?_ (State.raise_keeps ..) (by decide)) ?_
    all_goals exact Keeps.step (Keeps.refl _ _) (State.updChan_keeps ..) (by decide)
  · have h := State.convTemp_keeps s c v
    split
    · rename_i hE; rw [hE] at h
      exact Keeps.step (Keeps.refl _ _) h (by decide)
    · rename_i hE; rw [hE] at h
      extract_lets +onlyGivenNames z2
      extract_lets +onlyGivenNames z3
      extract_lets +onlyGivenNames z4
      refine Keeps.ite _ (Keeps.step ?_ (State.count_keeps ..) (by decide)) ?_
      all_goals exact Keeps.step (Keeps.step (Keeps.refl _ _) h (by decide)) (State.updChan_keeps ..) (by decide)

theorem State.convert_keeps (s : State) (cv : Fin 28 × Conv) : Keeps Part.all s (State.convert s cv) := by
  unfold State.convert
  extract_lets +onlyGivenNames z0
  refine Keeps.ite _ ?_ ?_
  · exact Keeps.step (Keeps.step (Keeps.refl _ _) (State.chanGone_keeps ..) (by decide)) (State.updChan_keeps ..) (by decide)
  · extract_lets +onlyGivenNames y1
    have h1 : Keeps Part.all s y1 := by
      unfold y1
      exact Keeps.step (Keeps.refl _ _) (State.takeConv_keeps ..) (by decide)
    clear_value y1
    refine Keeps.ite _ ?_ ?_
    · assumption
    · refine Keeps.step ?_ (State.judgeTrip_keeps ..) (by decide)
      refine Keeps.step ?_ (State.judgeWarn_keeps ..) (by decide)
      refine Keeps.step ?_ (State.judgeGust_keeps ..) (by decide)
      assumption

theorem State.withdrawGust_keeps (s : State) : Keeps [.cad, .gop, .integ, .ctr, .out] s (State.withdrawGust s) := by
  unfold State.withdrawGust
  refine Keeps.ite _ ?_ ?_
  · exact Keeps.refl _ _
  · extract_lets +onlyGivenNames z0
    extract_lets +onlyGivenNames y1
    have h1 : Keeps [.cad, .gop, .integ, .ctr, .out] s y1 := by
      unfold y1
      exact Keeps.set_gop _ (Keeps.refl _ _) (by decide)
    clear_value y1
    refine Keeps.step ?_ (State.requestsChanged_keeps ..) (by decide)
    assumption

theorem State.gustQuiet_keeps (s : State) : Keeps [.cool, .cad, .gop, .integ, .ctr, .out] s (State.gustQuiet s) := by
  unfold State.gustQuiet
  extract_lets +onlyGivenNames z0
  extract_lets +onlyGivenNames z1
  extract_lets +onlyGivenNames y2
  have h2 : Keeps [.cool, .cad, .gop, .integ, .ctr, .out] s y2 := by
    unfold y2
    exact Keeps.set_cool _ (Keeps.refl _ _) (by decide)
  clear_value y2
  extract_lets +onlyGivenNames y3
  have h3 : Keeps [.cool, .cad, .gop, .integ, .ctr, .out] s y3 := by
    unfold y3
    refine Keeps.step ?_ (State.driveAll_keeps ..) (by decide)
    assumption
  clear_value y3
  refine Keeps.ite _ ?_ ?_
  · refine Keeps.step ?_ (State.withdrawGust_keeps ..) (by decide)
    assumption
  · assumption

theorem State.tripClearRun_keeps (p : Port) (ps : Bytes) (s : State) : Keeps [.bus, .wins, .weir, .casc, .cool, .cad, .gop, .chk, .basin, .integ, .slots, .rst, .ctr, .out, .free] s (State.tripClearRun p ps s) := by
  unfold State.tripClearRun
  extract_lets +onlyGivenNames z0
  extract_lets +onlyGivenNames z1
  extract_lets +onlyGivenNames z2
  extract_lets +onlyGivenNames y3
  have h3 : Keeps [.bus, .wins, .weir, .casc, .cool, .cad, .gop, .chk, .basin, .integ, .slots, .rst, .ctr, .out, .free] s y3 := by
    unfold y3
    refine Keeps.foldl _ _ ?_ (fun _ _ _ => ?_)
    · exact Keeps.refl _ _
    · refine Keeps.step ?_ (State.holdOver_keeps ..) (by decide)
      refine Keeps.step ?_ (State.updChan_keeps ..) (by decide)
      assumption
  clear_value y3
  refine Keeps.step ?_ (State.answerNow_keeps ..) (by decide)
  assumption

theorem thermStatusOp_within : thermStatusOp.Within [.bus, .wins, .out] := by
  refine ⟨fun p ps b s => ?_, fun p ps s => ?_⟩
  · dsimp only [thermStatusOp, OpSpec.query]
    exact Keeps.step (Keeps.refl _ _) (State.answer_keeps ..) (by decide)
  · dsimp only [thermStatusOp, OpSpec.query]
    exact Keeps.refl _ _

theorem tripClearOp_within : tripClearOp.Within [.bus, .wins, .weir, .casc, .cool, .cad, .gop, .chk, .basin, .integ, .slots, .rst, .ctr, .out, .free] := by
  refine ⟨fun p ps b s => ?_, fun p ps s => ?_⟩
  · dsimp only [tripClearOp, OpSpec.query]
    exact Keeps.step (Keeps.refl _ _) (State.tripClearRun_keeps ..) (by decide)
  · dsimp only [tripClearOp, OpSpec.query]
    exact Keeps.refl _ _

theorem execThermStatus_keeps (p : Port) (tag : BitVec 32) (params : Bytes) (s : State) : ∃ t, execThermStatus p tag params s = .next t ∧ Keeps [.bus, .wins, .cfg, .ctr, .out] s t :=
  ⟨_, rfl, State.submit_keeps (OpSpec.Within.mono thermStatusOp_within (by decide)) (by decide) ..⟩

theorem execTripClear_keeps (p : Port) (tag : BitVec 32) (params : Bytes) (s : State) : ∃ t, execTripClear p tag params s = .next t ∧ Keeps [.bus, .wins, .cfg, .weir, .casc, .cool, .cad, .gop, .chk, .basin, .integ, .slots, .rst, .ctr, .out, .free] s t :=
  ⟨_, rfl, State.submit_keeps (OpSpec.Within.mono tripClearOp_within (by decide)) (by decide) ..⟩

theorem execTempConversion_keeps (cs : List Conv) (s : State) : ∃ t, execTempConversion cs s = .next t ∧ Keeps Part.all s t := by
  unfold execTempConversion
  refine ⟨_, rfl, ?_⟩
  refine Keeps.ite _ ?_ ?_
  · refine Keeps.step ?_ (State.driveAll_keeps ..) (by decide)
    refine Keeps.foldl _ _ ?_ (fun _ _ _ => ?_)
    · exact Keeps.refl _ _
    · refine Keeps.step ?_ (State.convert_keeps ..) (by decide)
      assumption
  · exact Keeps.refl _ _

theorem execTripHoldEnd_keeps (c : Fin 28) (s : State) : ∃ t, execTripHoldEnd c s = .next t ∧ Keeps [.bus, .wins, .weir, .casc, .cool, .cad, .gop, .chk, .basin, .integ, .slots, .rst, .ctr, .out, .free] s t := by
  unfold execTripHoldEnd
  extract_lets +onlyGivenNames z0
  refine ⟨_, rfl, ?_⟩
  refine Keeps.ite _ ?_ ?_
  · exact Keeps.step (Keeps.refl _ _) (State.holdOver_keeps ..) (by decide)
  · exact Keeps.refl _ _

theorem execGustQuiet_keeps (s : State) : ∃ t, execGustQuiet s = .next t ∧ Keeps [.cool, .cad, .gop, .integ, .ctr, .out] s t := by
  unfold execGustQuiet
  exact ⟨_, rfl, Keeps.step (Keeps.refl _ _) (State.gustQuiet_keeps ..) (by decide)⟩
end Sys2Proof.Machine
end

