-- ==== Sys2Proof/Laws/KeepsLeak.lean ====
section
/-!
SUPPORT. What the operations of Machine/Leak.lean touch, and that they keep the invariant.
-/

namespace Sys2Proof.Machine
theorem State.updRope_keeps (r : Fin 8) (f : RopeSt → RopeSt) (s : State) : Keeps [.cool] s (State.updRope r f s) := by
  unfold State.updRope
  exact Keeps.set_cool _ (Keeps.refl _ _) (by decide)

theorem State.measureRope_keeps (s : State) (c : Fin 8 × Nat) : Keeps [.cool, .ctr] s (State.measureRope s c) := by
  unfold State.measureRope
  extract_lets +onlyGivenNames z0
  extract_lets +onlyGivenNames z1
  refine Keeps.ite _ ?_ ?_
  · exact Keeps.step (Keeps.refl _ _) (State.updRope_keeps ..) (by decide)
  · refine Keeps.ite _ ?_ ?_
    · extract_lets +onlyGivenNames y2
      have h2 : Keeps [.cool, .ctr] s y2 := by
        unfold y2
        exact Keeps.step (Keeps.refl _ _) (State.updRope_keeps ..) (by decide)
      clear_value y2
      refine Keeps.ite _ ?_ ?_
      · assumption
      · refine Keeps.step ?_ (State.count_keeps ..) (by decide)
        assumption
    · exact Keeps.step (Keeps.refl _ _) (State.updRope_keeps ..) (by decide)

theorem State.ropeWet_keeps (r : Fin 8) (s : State) : Keeps Part.all s (State.ropeWet r s) := by
  unfold State.ropeWet
  extract_lets +onlyGivenNames y0
  have h0 : Keeps Part.all s y0 := by
    unfold y0
    exact Keeps.step (Keeps.refl _ _) (State.updRope_keeps ..) (by decide)
  clear_value y0
  refine Keeps.ite _ ?_ ?_
  · extract_lets +onlyGivenNames y1
    have h1 : Keeps Part.all s y1 := by
      unfold y1
      refine Keeps.step ?_ (State.wakeUp_keeps ..) (by decide)
      refine Keeps.step ?_ (State.raise_keeps ..) (by decide)
      assumption
    clear_value y1
    refine Keeps.step ?_ (State.trayOff_keeps ..) (by decide)
    refine Keeps.set_weir_cool _ _ ?_ (by decide)
    assumption
  · refine Keeps.step ?_ (State.wakeUp_keeps ..) (by decide)
    refine Keeps.step ?_ (State.count_keeps ..) (by decide)
    assumption

theorem State.stopPumps_keeps (s : State) : Keeps [.cool] s (State.stopPumps s) := by
  unfold State.stopPumps
  exact Keeps.step (Keeps.set_cool _ (Keeps.refl _ _) (by decide)) (State.driveAll_keeps ..) (by decide)

theorem State.feedAfterLeak_keeps (s : State) (f : Feed) : Keeps [.weir, .rst] s (State.feedAfterLeak s f) := by
  unfold State.feedAfterLeak
  refine Keeps.ite _ ?_ ?_
  · exact Keeps.step (Keeps.step (Keeps.refl _ _) (State.updFeed_keeps ..) (by decide)) (State.tryRamp_keeps ..) (by decide)
  · exact Keeps.refl _ _

theorem State.clearLeak_keeps (s : State) : Keeps [.bus, .wins, .weir, .casc, .cool, .cad, .gop, .chk, .basin, .integ, .slots, .rst, .ctr, .out, .free] s (State.clearLeak s) := by
  unfold State.clearLeak
  extract_lets +onlyGivenNames z0
  extract_lets +onlyGivenNames z1
  extract_lets +onlyGivenNames z2
  extract_lets +onlyGivenNames y3
  have h3 : Keeps [.bus, .wins, .weir, .casc, .cool, .cad, .gop, .chk, .basin, .integ, .slots, .rst, .ctr, .out, .free] s y3 := by
    unfold y3
    exact Keeps.set_weir_cool _ _ (Keeps.refl _ _) (by decide)
  clear_value y3
  extract_lets +onlyGivenNames y4
  have h4 : Keeps [.bus, .wins, .weir, .casc, .cool, .cad, .gop, .chk, .basin, .integ, .slots, .rst, .ctr, .out, .free] s y4 := by
    unfold y4
    refine Keeps.ite _ ?_ ?_
    · refine Keeps.foldl _ _ ?_ (fun _ _ _ => ?_)
      · assumption
      · refine Keeps.step ?_ (State.spinUp_keeps ..) (by decide)
        assumption
    · assumption
  clear_value y4
  refine Keeps.step ?_ (State.driveAll_keeps ..) (by decide)
  refine Keeps.step ?_ (State.waitedRestarts_keeps ..) (by decide)
  refine Keeps.foldl _ _ ?_ (fun _ _ _ => ?_)
  · assumption
  · refine Keeps.step ?_ (State.feedAfterLeak_keeps ..) (by decide)
    assumption

theorem State.leakClearRun_keeps (p : Port) (s : State) : Keeps [.bus, .wins, .weir, .casc, .cool, .cad, .gop, .chk, .basin, .integ, .slots, .rst, .ctr, .out, .free] s (State.leakClearRun p s) := by
  unfold State.leakClearRun
  extract_lets +onlyGivenNames z0
  exact Keeps.step (Keeps.step (Keeps.refl _ _) (State.clearLeak_keeps ..) (by decide)) (State.answerNow_keeps ..) (by decide)

theorem coolStatusOp_within : coolStatusOp.Within [.bus, .wins, .out] := by
  refine ⟨fun p ps b s => ?_, fun p ps s => ?_⟩
  · dsimp only [coolStatusOp, OpSpec.query]
    exact Keeps.step (Keeps.refl _ _) (State.answer_keeps ..) (by decide)
  · dsimp only [coolStatusOp, OpSpec.query]
    exact Keeps.refl _ _

theorem leakClearOp_within : leakClearOp.Within [.bus, .wins, .weir, .casc, .cool, .cad, .gop, .chk, .basin, .integ, .slots, .rst, .ctr, .out, .free] := by
  refine ⟨fun p ps b s => ?_, fun p ps s => ?_⟩
  · dsimp only [leakClearOp, OpSpec.query]
    exact Keeps.step (Keeps.refl _ _) (State.leakClearRun_keeps ..) (by decide)
  · dsimp only [leakClearOp, OpSpec.query]
    exact Keeps.refl _ _

theorem execCoolStatus_keeps (p : Port) (tag : BitVec 32) (params : Bytes) (s : State) : ∃ t, execCoolStatus p tag params s = .next t ∧ Keeps [.bus, .wins, .cfg, .ctr, .out] s t :=
  ⟨_, rfl, State.submit_keeps (OpSpec.Within.mono coolStatusOp_within (by decide)) (by decide) ..⟩

theorem execLeakClear_keeps (p : Port) (tag : BitVec 32) (params : Bytes) (s : State) : ∃ t, execLeakClear p tag params s = .next t ∧ Keeps [.bus, .wins, .cfg, .weir, .casc, .cool, .cad, .gop, .chk, .basin, .integ, .slots, .rst, .ctr, .out, .free] s t :=
  ⟨_, rfl, State.submit_keeps (OpSpec.Within.mono leakClearOp_within (by decide)) (by decide) ..⟩

theorem execLeakMeasure_keeps (kohm : List Nat) (s : State) : ∃ t, execLeakMeasure kohm s = .next t ∧ Keeps [.cool, .ctr] s t := by
  unfold execLeakMeasure
  refine ⟨_, rfl, ?_⟩
  refine Keeps.ite _ ?_ ?_
  · refine Keeps.foldl _ _ ?_ (fun _ _ _ => ?_)
    · exact Keeps.refl _ _
    · refine Keeps.step ?_ (State.measureRope_keeps ..) (by decide)
      assumption
  · exact Keeps.refl _ _

theorem execLeakWet_keeps (r : Fin 8) (s : State) : ∃ t, execLeakWet r s = .next t ∧ Keeps Part.all s t := by
  unfold execLeakWet
  refine ⟨_, rfl, ?_⟩
  refine Keeps.ite _ ?_ ?_
  · exact Keeps.step (Keeps.refl _ _) (State.ropeWet_keeps ..) (by decide)
  · exact Keeps.refl _ _

theorem execRopeDry_keeps (r : Fin 8) (s : State) : ∃ t, execRopeDry r s = .next t ∧ Keeps [.cool] s t := by
  unfold execRopeDry
  refine ⟨_, rfl, ?_⟩
  refine Keeps.ite _ ?_ ?_
  · exact Keeps.step (Keeps.refl _ _) (State.updRope_keeps ..) (by decide)
  · exact Keeps.refl _ _

theorem execLeakPumpStop_keeps (s : State) : ∃ t, execLeakPumpStop s = .next t ∧ Keeps [.cool] s t := by
  unfold execLeakPumpStop
  refine ⟨_, rfl, ?_⟩
  refine Keeps.ite _ ?_ ?_
  · exact Keeps.step (Keeps.refl _ _) (State.stopPumps_keeps ..) (by decide)
  · exact Keeps.refl _ _
end Sys2Proof.Machine
end

