-- ==== Sys2Proof/Laws/KeepsSettings.lean ====
section
/-!
SUPPORT. What the operations of Machine/Settings.lean touch, and that they keep the invariant.
-/

namespace Sys2Proof.Machine
theorem State.setDraft_keeps (d : Option Draft) (s : State) : Keeps [.cfg] s (State.setDraft d s) := by
  unfold State.setDraft
  exact Keeps.set_cfg _ (Keeps.refl _ _) (by decide)

theorem State.draftOpenRun_keeps (p : Port) (s : State) : Keeps [.bus, .wins, .cfg, .out] s (State.draftOpenRun p s) := by
  unfold State.draftOpenRun
  extract_lets +onlyGivenNames z0
  extract_lets +onlyGivenNames z1
  exact Keeps.step (Keeps.set_cfg _ (Keeps.refl _ _) (by decide)) (State.answerNow_keeps ..) (by decide)

theorem State.draftSetRun_keeps (p : Port) (ps : Bytes) (s : State) : Keeps [.bus, .wins, .cfg, .out] s (State.draftSetRun p ps s) := by
  unfold State.draftSetRun
  split
  · extract_lets +onlyGivenNames z0
    exact Keeps.step (Keeps.step (Keeps.refl _ _) (State.setDraft_keeps ..) (by decide)) (State.answerNow_keeps ..) (by decide)
  · exact Keeps.refl _ _

theorem State.markChecked_keeps (s : State) : Keeps [.cfg] s (State.markChecked s) := by
  unfold State.markChecked
  exact Keeps.step (Keeps.refl _ _) (State.setDraft_keeps ..) (by decide)

theorem State.draftCheckRun_keeps (p : Port) (b : Nat) (s : State) : Keeps [.bus, .wins, .cfg, .out] s (State.draftCheckRun p b s) := by
  unfold State.draftCheckRun
  split
  · exact Keeps.step (Keeps.step (Keeps.refl _ _) (State.markChecked_keeps ..) (by decide)) (State.answer_keeps ..) (by decide)
  · exact Keeps.step (Keeps.refl _ _) (State.answer_keeps ..) (by decide)

theorem State.planDue_keeps (instant : Nat) (s : State) : Keeps [.slots] s (State.planDue instant s) := by
  unfold State.planDue
  refine Keeps.foldl _ _ ?_ (fun _ _ _ => ?_)
  · exact Keeps.refl _ _
  · refine Keeps.foldl _ _ ?_ (fun _ _ _ => ?_)
    · assumption
    · refine Keeps.step ?_ (State.updSlot_keeps ..) (by decide)
      assumption

theorem State.recordCommit_keeps (p : Port) (ps : Bytes) (t : Nat) (s : State) : Keeps [.cfg] s (State.recordCommit p ps t s) := by
  unfold State.recordCommit
  exact Keeps.set_cfg _ (Keeps.refl _ _) (by decide)

theorem State.draftCommitRun_keeps (p : Port) (ps : Bytes) (b : Nat) (s : State) : Keeps [.bus, .wins, .cfg, .cad, .gop, .slots, .out] s (State.draftCommitRun p ps b s) := by
  unfold State.draftCommitRun
  extract_lets z0 z1
  have h1 : Keeps [.bus, .wins, .cfg, .cad, .gop, .slots, .out] s z1 :=
    Keeps.step (Keeps.step (Keeps.refl _ _) (State.accept_keeps ..) (by decide)) (State.recordCommit_keeps ..) (by decide)
  clear_value z1
  refine Keeps.ite _ (Keeps.step (Keeps.refl _ _) (State.answer_keeps ..) (by decide)) (Keeps.ite _ ?_ ?_)
  · exact Keeps.step h1 (State.planDue_keeps ..) (by decide)
  · exact Keeps.step h1 (State.propose_keeps ..) (by decide)

theorem State.liveWait_keeps (p : Port) (l : List (Key × Nat)) (s : State) : Keeps [.cfg] s (State.liveWait p l s) := by
  unfold State.liveWait
  exact Keeps.set_cfg _ (Keeps.refl _ _) (by decide)

theorem State.flashWrite_keeps (a : Nat) (bs : Bytes) (s : State) : Keeps [.boot] s (State.flashWrite a bs s) := by
  unfold State.flashWrite
  exact Keeps.set_boot _ (Keeps.refl _ _) (by decide) (Mem.wf_write _ _) (fun i => i) (fun i => i)

theorem State.flashErase_keeps (a : Nat) (k : Nat) (s : State) : Keeps [.boot] s (State.flashErase a k s) := by
  unfold State.flashErase
  exact Keeps.set_boot _ (Keeps.refl _ _) (by decide) (Mem.wf_erase _ _) (fun i => i) (fun i => i)

theorem State.settingsSaveRun_keeps (p : Port) (b : Nat) (s : State) : Keeps [.bus, .wins, .cfg, .integ, .boot, .ctr, .out] s (State.settingsSaveRun p b s) := by
  unfold State.settingsSaveRun
  refine Keeps.ite _ (Keeps.step (Keeps.step (Keeps.refl _ _) (State.answer_keeps ..) (by decide)) (State.notice_keeps ..) (by decide)) ?_
  exact Keeps.step (Keeps.set_cfg _ (Keeps.step (Keeps.refl _ _) (State.accept_keeps ..) (by decide)) (by decide)) (State.flashErase_keeps ..) (by decide)

theorem State.settingsSaved_keeps (ok : Bool) (s : State) : Keeps [.bus, .wins, .cfg, .integ, .boot, .ctr, .out] s (State.settingsSaved ok s) := by
  unfold State.settingsSaved
  split
  · exact Keeps.refl _ _
  · extract_lets +onlyGivenNames z0
    extract_lets +onlyGivenNames y1
    have h1 : Keeps [.bus, .wins, .cfg, .integ, .boot, .ctr, .out] s y1 := by
      unfold y1
      exact Keeps.set_cfg _ (Keeps.refl _ _) (by decide)
    clear_value y1
    extract_lets +onlyGivenNames z2
    refine Keeps.ite _ ?_ ?_
    · unfold z2
      refine Keeps.foldl _ _ ?_ (fun _ _ _ => ?_)
      · refine Keeps.step ?_ (State.flashWrite_keeps ..) (by decide)
        assumption
      · refine Keeps.step ?_ (State.finish_keeps ..) (by decide)
        assumption
    · unfold z2
      refine Keeps.foldl _ _ ?_ (fun _ _ _ => ?_)
      · refine Keeps.step ?_ (State.notice_keeps ..) (by decide)
        assumption
      · refine Keeps.step ?_ (State.finish_keeps ..) (by decide)
        assumption

theorem State.chooseBank_keeps (s : State) (ns : List Nat) (first : Bool) : Keeps [.integ, .ctr] s (State.chooseBank s ns first).2 := by
  induction ns generalizing s first with
  | nil => exact State.notice_keeps ..
  | cons n ns ih =>
    have h : ∀ k, Keeps [.integ, .ctr] s (s.countN 0x0011 k) := fun k => Keeps.step (Keeps.refl _ _) (State.countN_keeps ..) (by decide)
    unfold State.chooseBank
    simp only
    split
    · exact h _
    · refine Keeps.step ?_ (ih ..) (fun _ hx => hx)
      exact Keeps.ite _ (Keeps.step (h _) (State.notice_keeps ..) (by decide)) (h _)

theorem draftOpenOp_within : draftOpenOp.Within [.bus, .wins, .cfg, .out] := by
  refine ⟨fun p ps b s => ?_, fun p ps s => ?_⟩
  · dsimp only [draftOpenOp, OpSpec.query]
    exact Keeps.step (Keeps.refl _ _) (State.draftOpenRun_keeps ..) (by decide)
  · dsimp only [draftOpenOp, OpSpec.query]
    exact Keeps.refl _ _

theorem draftSetOp_within : draftSetOp.Within [.bus, .wins, .cfg, .out] := by
  refine ⟨fun p ps b s => ?_, fun p ps s => ?_⟩
  · dsimp only [draftSetOp, OpSpec.query]
    exact Keeps.step (Keeps.refl _ _) (State.draftSetRun_keeps ..) (by decide)
  · dsimp only [draftSetOp, OpSpec.query]
    exact Keeps.refl _ _

theorem draftGetOp_within : draftGetOp.Within [.bus, .wins, .out] := by
  refine ⟨fun p ps b s => ?_, fun p ps s => ?_⟩
  · dsimp only [draftGetOp, OpSpec.query]
    exact Keeps.step (Keeps.refl _ _) (State.answer_keeps ..) (by decide)
  · dsimp only [draftGetOp, OpSpec.query]
    exact Keeps.refl _ _

theorem draftCheckOp_within : draftCheckOp.Within [.bus, .wins, .cfg, .out] := by
  refine ⟨fun p ps b s => ?_, fun p ps s => ?_⟩
  · dsimp only [draftCheckOp, OpSpec.query]
    exact Keeps.step (Keeps.refl _ _) (State.draftCheckRun_keeps ..) (by decide)
  · dsimp only [draftCheckOp, OpSpec.query]
    exact Keeps.refl _ _

theorem draftCommitOp_within : draftCommitOp.Within [.bus, .wins, .cfg, .cad, .gop, .slots, .out] := by
  refine ⟨fun p ps b s => ?_, fun p ps s => ?_⟩
  · dsimp only [draftCommitOp, OpSpec.query]
    exact Keeps.step (Keeps.refl _ _) (State.draftCommitRun_keeps ..) (by decide)
  · dsimp only [draftCommitOp, OpSpec.query]
    exact Keeps.refl _ _

theorem draftAbortOp_within : draftAbortOp.Within [.bus, .wins, .cfg, .out] := by
  refine ⟨fun p ps b s => ?_, fun p ps s => ?_⟩
  · dsimp only [draftAbortOp, OpSpec.query]
    exact Keeps.step (Keeps.step (Keeps.refl _ _) (State.setDraft_keeps ..) (by decide)) (State.answer_keeps ..) (by decide)
  · dsimp only [draftAbortOp, OpSpec.query]
    exact Keeps.refl _ _

theorem settingsSaveOp_within : settingsSaveOp.Within [.bus, .wins, .cfg, .integ, .boot, .ctr, .out] := by
  refine ⟨fun p ps b s => ?_, fun p ps s => ?_⟩
  · dsimp only [settingsSaveOp, OpSpec.query]
    exact Keeps.step (Keeps.refl _ _) (State.settingsSaveRun_keeps ..) (by decide)
  · dsimp only [settingsSaveOp, OpSpec.query]
    exact Keeps.refl _ _

theorem liveSetOp_within : liveSetOp.Within [.bus, .wins, .cfg, .out] := by
  refine ⟨fun p ps b s => ?_, fun p ps s => ?_⟩
  · dsimp only [liveSetOp, OpSpec.query]
    exact Keeps.step (Keeps.step (Keeps.refl _ _) (State.accept_keeps ..) (by decide)) (State.liveWait_keeps ..) (by decide)
  · dsimp only [liveSetOp, OpSpec.query]
    exact Keeps.refl _ _

theorem liveGetOp_within : liveGetOp.Within [.bus, .wins, .out] := by
  refine ⟨fun p ps b s => ?_, fun p ps s => ?_⟩
  · dsimp only [liveGetOp, OpSpec.query]
    exact Keeps.step (Keeps.refl _ _) (State.answer_keeps ..) (by decide)
  · dsimp only [liveGetOp, OpSpec.query]
    exact Keeps.refl _ _

theorem fanSetOp_within : fanSetOp.Within [.bus, .wins, .cfg, .out] := by
  refine ⟨fun p ps b s => ?_, fun p ps s => ?_⟩
  · dsimp only [fanSetOp, OpSpec.query]
    exact Keeps.step (Keeps.step (Keeps.refl _ _) (State.accept_keeps ..) (by decide)) (State.liveWait_keeps ..) (by decide)
  · dsimp only [fanSetOp, OpSpec.query]
    exact Keeps.refl _ _

theorem execDraftOpen_keeps (p : Port) (tag : BitVec 32) (params : Bytes) (s : State) : ∃ t, execDraftOpen p tag params s = .next t ∧ Keeps [.bus, .wins, .cfg, .ctr, .out] s t :=
  ⟨_, rfl, State.submit_keeps (OpSpec.Within.mono draftOpenOp_within (by decide)) (by decide) ..⟩

theorem execDraftSet_keeps (p : Port) (tag : BitVec 32) (params : Bytes) (s : State) : ∃ t, execDraftSet p tag params s = .next t ∧ Keeps [.bus, .wins, .cfg, .ctr, .out] s t :=
  ⟨_, rfl, State.submit_keeps (OpSpec.Within.mono draftSetOp_within (by decide)) (by decide) ..⟩

theorem execDraftGet_keeps (p : Port) (tag : BitVec 32) (params : Bytes) (s : State) : ∃ t, execDraftGet p tag params s = .next t ∧ Keeps [.bus, .wins, .cfg, .ctr, .out] s t :=
  ⟨_, rfl, State.submit_keeps (OpSpec.Within.mono draftGetOp_within (by decide)) (by decide) ..⟩

theorem execDraftCheck_keeps (p : Port) (tag : BitVec 32) (params : Bytes) (s : State) : ∃ t, execDraftCheck p tag params s = .next t ∧ Keeps [.bus, .wins, .cfg, .ctr, .out] s t :=
  ⟨_, rfl, State.submit_keeps (OpSpec.Within.mono draftCheckOp_within (by decide)) (by decide) ..⟩

theorem execDraftCommit_keeps (p : Port) (tag : BitVec 32) (params : Bytes) (s : State) : ∃ t, execDraftCommit p tag params s = .next t ∧ Keeps [.bus, .wins, .cfg, .cad, .gop, .slots, .ctr, .out] s t :=
  ⟨_, rfl, State.submit_keeps (OpSpec.Within.mono draftCommitOp_within (by decide)) (by decide) ..⟩

theorem execDraftAbort_keeps (p : Port) (tag : BitVec 32) (params : Bytes) (s : State) : ∃ t, execDraftAbort p tag params s = .next t ∧ Keeps [.bus, .wins, .cfg, .ctr, .out] s t :=
  ⟨_, rfl, State.submit_keeps (OpSpec.Within.mono draftAbortOp_within (by decide)) (by decide) ..⟩

theorem execSettingsSave_keeps (p : Port) (tag : BitVec 32) (params : Bytes) (s : State) : ∃ t, execSettingsSave p tag params s = .next t ∧ Keeps [.bus, .wins, .cfg, .integ, .boot, .ctr, .out] s t :=
  ⟨_, rfl, State.submit_keeps (OpSpec.Within.mono settingsSaveOp_within (by decide)) (by decide) ..⟩

theorem execLiveSet_keeps (p : Port) (tag : BitVec 32) (params : Bytes) (s : State) : ∃ t, execLiveSet p tag params s = .next t ∧ Keeps [.bus, .wins, .cfg, .ctr, .out] s t :=
  ⟨_, rfl, State.submit_keeps (OpSpec.Within.mono liveSetOp_within (by decide)) (by decide) ..⟩

theorem execLiveGet_keeps (p : Port) (tag : BitVec 32) (params : Bytes) (s : State) : ∃ t, execLiveGet p tag params s = .next t ∧ Keeps [.bus, .wins, .cfg, .ctr, .out] s t :=
  ⟨_, rfl, State.submit_keeps (OpSpec.Within.mono liveGetOp_within (by decide)) (by decide) ..⟩

theorem execFanSet_keeps (p : Port) (tag : BitVec 32) (params : Bytes) (s : State) : ∃ t, execFanSet p tag params s = .next t ∧ Keeps [.bus, .wins, .cfg, .ctr, .out] s t :=
  ⟨_, rfl, State.submit_keeps (OpSpec.Within.mono fanSetOp_within (by decide)) (by decide) ..⟩

theorem execSettingsSaveComplete_keeps (readBackOk : Bool) (s : State) : ∃ t, execSettingsSaveComplete readBackOk s = .next t ∧ Keeps [.bus, .wins, .cfg, .integ, .boot, .ctr, .out] s t := by
  unfold execSettingsSaveComplete
  exact ⟨_, rfl, Keeps.step (Keeps.refl _ _) (State.settingsSaved_keeps ..) (by decide)⟩

theorem execSidebandDraftIdle_keeps (s : State) : ∃ t, execSidebandDraftIdle s = .next t ∧ Keeps [.cfg, .ctr] s t := by
  unfold execSidebandDraftIdle
  refine ⟨_, rfl, ?_⟩
  split
  · refine Keeps.ite _ ?_ ?_
    · exact Keeps.step (Keeps.step (Keeps.refl _ _) (State.setDraft_keeps ..) (by decide)) (State.count_keeps ..) (by decide)
    · exact Keeps.refl _ _
  · exact Keeps.refl _ _
end Sys2Proof.Machine
end

