-- ==== Sys2Proof/Laws/KeepsImage.lean ====
section
/-!
SUPPORT. What the operations of Machine/Image.lean touch, and that they keep the invariant.
-/

namespace Sys2Proof.Machine
theorem State.judgeDormancy_keeps (s : State) : Keeps [.upd, .ctr] s (State.judgeDormancy s) := by
  unfold State.judgeDormancy
  extract_lets +onlyGivenNames z0
  extract_lets +onlyGivenNames z1
  extract_lets +onlyGivenNames y2
  have h2 : Keeps [.upd, .ctr] s y2 := by
    unfold y2
    exact Keeps.set_upd _ (Keeps.refl _ _) (by decide) (fun i => i)
  clear_value y2
  refine Keeps.ite _ ?_ ?_
  · exact Keeps.refl _ _
  · refine Keeps.step ?_ (State.count_keeps ..) (by decide)
    assumption

theorem State.measurePacks_keeps (s : State) : Keeps [.boot] s (State.measurePacks s) := by
  unfold State.measurePacks
  exact Keeps.set_boot _ (Keeps.refl _ _) (by decide) (fun i => i) (fun i => i) (fun i => i)
end Sys2Proof.Machine
end

