-- ==== Sys2Proof/Laws/KeepsSession.lean ====
section
/-!
SUPPORT. What the operations of Machine/Session.lean touch, and that they keep the invariant.
-/

namespace Sys2Proof.Machine
theorem State.dropDraft_keeps (o : Owner) (s : State) : Keeps [.cfg] s (State.dropDraft o s) := by
  unfold State.dropDraft
  split
  · refine Keeps.ite _ ?_ ?_
    · exact Keeps.step (Keeps.refl _ _) (State.setDraft_keeps ..) (by decide)
    · exact Keeps.refl _ _
  · exact Keeps.refl _ _

theorem State.dropUpdate_keeps (o : Owner) (s : State) : Keeps [.upd] s (State.dropUpdate o s) := by
  unfold State.dropUpdate
  split
  · refine Keeps.ite _ ?_ ?_
    · exact Keeps.set_upd _ (Keeps.refl _ _) (by decide) (fun i => i)
    · exact Keeps.refl _ _
  · exact Keeps.refl _ _

theorem State.dropHolds_keeps (o : Owner) (s : State) : Keeps [.chk, .basin] s (State.dropHolds o s) := by
  unfold State.dropHolds
  exact Keeps.set_chk_basin _ _ (Keeps.refl _ _) (by decide) (fun i => i) (fun i => i)

theorem State.hostLeaves_keeps (e : SessEnd) (s : State) : Keeps [.sess] s (State.hostLeaves e s) := by
  unfold State.hostLeaves
  exact Keeps.set_sess _ (Keeps.refl _ _) (by decide)

theorem State.endNotice_keeps (e : SessEnd) (s : State) : Keeps [.integ, .ctr] s (State.endNotice e s) := by
  unfold State.endNotice
  split <;> first | exact State.notice_keeps .. | exact Keeps.refl _ _

theorem State.endCommands_keeps (s : State) : Keeps [.bus, .wins, .cfg, .ctr, .out] s (State.endCommands s) := by
  unfold State.endCommands
  exact Keeps.foldl _ _ (Keeps.refl _ _) (fun _ _ h => Keeps.ite _ (Keeps.step h (State.abandon_keeps ..) (by decide)) h)

theorem State.endHost_keeps (e : SessEnd) (s : State) : Keeps [.bus, .wins, .sess, .cfg, .cool, .chk, .basin, .integ, .upd, .ctr, .out] s (State.endHost e s) := by
  unfold State.endHost
  refine Keeps.ite _ (Keeps.refl _ _) ?_
  refine Keeps.step ?_ (State.driveAll_keeps ..) (by decide)
  refine Keeps.step ?_ (State.dropHolds_keeps ..) (by decide)
  refine Keeps.step ?_ (State.dropUpdate_keeps ..) (by decide)
  refine Keeps.step ?_ (State.dropDraft_keeps ..) (by decide)
  refine Keeps.step ?_ (State.endCommands_keeps ..) (by decide)
  refine Keeps.step ?_ (State.endNotice_keeps ..) (by decide)
  exact Keeps.step (Keeps.refl _ _) (State.hostLeaves_keeps ..) (by decide)

theorem State.endSideband_keeps (s : State) : Keeps [.sess, .cfg, .chk, .basin, .upd] s (State.endSideband s) := by
  unfold State.endSideband
  split
  · exact Keeps.refl _ _
  · extract_lets +onlyGivenNames z0
    extract_lets +onlyGivenNames y1
    have h1 : Keeps [.sess, .cfg, .chk, .basin, .upd] s y1 := by
      unfold y1
      exact Keeps.set_sess _ (Keeps.refl _ _) (by decide)
    clear_value y1
    refine Keeps.step ?_ (State.dropHolds_keeps ..) (by decide)
    refine Keeps.step ?_ (State.dropUpdate_keeps ..) (by decide)
    refine Keeps.step ?_ (State.dropDraft_keeps ..) (by decide)
    assumption

theorem State.renewLease_keeps (s : State) : Keeps [.sess] s (State.renewLease s) := by
  unfold State.renewLease
  exact Keeps.set_sess _ (Keeps.refl _ _) (by decide)

theorem State.setSession_keeps (p : Port) (x : Session) (s : State) : Keeps [.sess] s (State.setSession p x s) := by
  unfold State.setSession
  exact Keeps.set_sess _ (Keeps.refl _ _) (by decide)

theorem State.remap_keeps (p : Port) (map : Nat) (s : State) : Keeps [.sess] s (State.remap p map s) := by
  unfold State.remap
  split
  · exact State.setSession_keeps ..
  · exact Keeps.refl _ _

theorem State.newSession_keeps (p : Port) (map : Nat) (s : State) : Keeps [.bus, .wins, .sess, .cfg, .cool, .chk, .basin, .integ, .upd, .ctr, .out] s (State.newSession p map s) := by
  unfold State.newSession
  extract_lets y _ z
  have h : Keeps [.bus, .wins, .sess, .cfg, .cool, .chk, .basin, .integ, .upd, .ctr, .out] s y :=
    Keeps.ite _ (Keeps.step (Keeps.refl _ _) (State.endSideband_keeps ..) (by decide)) (Keeps.step (Keeps.refl _ _) (State.endHost_keeps ..) (by decide))
  have hz : Keeps [.bus, .wins, .sess, .cfg, .cool, .chk, .basin, .integ, .upd, .ctr, .out] s z := Keeps.step (Keeps.set_sess _ h (by decide)) (State.setSession_keeps ..) (by decide)
  exact Keeps.ite _ hz (Keeps.set_sess _ hz (by decide))

theorem State.openSession_keeps (p : Port) (ps : Bytes) (s : State) : Keeps [.bus, .wins, .sess, .cfg, .cool, .chk, .basin, .integ, .upd, .ctr, .out] s (State.openSession p ps s) := by
  unfold State.openSession
  extract_lets neg y
  have h : Keeps [.bus, .wins, .sess, .cfg, .cool, .chk, .basin, .integ, .upd, .ctr, .out] s y :=
    Keeps.ite _ (Keeps.step (Keeps.refl _ _) (State.remap_keeps ..) (by decide)) (Keeps.step (Keeps.refl _ _) (State.newSession_keeps ..) (by decide))
  exact Keeps.ite _ h (Keeps.step h (State.renewLease_keeps ..) (by decide))

theorem State.helloRun_keeps (p : Port) (ps : Bytes) (b : Nat) (s : State) : Keeps [.bus, .wins, .sess, .cfg, .cool, .chk, .basin, .integ, .upd, .ctr, .out] s (State.helloRun p ps b s) := by
  unfold State.helloRun
  extract_lets +onlyGivenNames y0
  have h0 : Keeps [.bus, .wins, .sess, .cfg, .cool, .chk, .basin, .integ, .upd, .ctr, .out] s y0 := by
    unfold y0
    exact Keeps.step (Keeps.refl _ _) (State.openSession_keeps ..) (by decide)
  clear_value y0
  refine Keeps.step ?_ (State.answer_keeps ..) (by decide)
  assumption

theorem State.functionReset_keeps (s : State) : Keeps [.bus] s (State.functionReset s) := by
  unfold State.functionReset
  exact Keeps.set_bus _ (Keeps.refl _ _) (by decide) (fun _ => rfl)

theorem State.flrWindows_keeps (s : State) : Keeps [.wins] s (State.flrWindows s) := by
  unfold State.flrWindows
  refine Keeps.set_wins _ (Keeps.refl _ _) (by decide) (fun i p => ?_)
  rw [Vec.get_mapIdx]
  split
  · exact i p
  · split
    · exact i p
    · rfl

theorem State.fanTakeover_keeps (s : State) : Keeps [.sess, .cool] s (State.fanTakeover s) := by
  unfold State.fanTakeover
  extract_lets +onlyGivenNames z0
  extract_lets +onlyGivenNames z1
  extract_lets +onlyGivenNames z2
  extract_lets +onlyGivenNames y3
  have h3 : Keeps [.sess, .cool] s y3 := by
    unfold y3
    exact Keeps.set_sess_cool _ _ (Keeps.refl _ _) (by decide)
  clear_value y3
  refine Keeps.step ?_ (State.driveAll_keeps ..) (by decide)
  assumption

theorem helloOp_within : helloOp.Within [.bus, .wins, .sess, .cfg, .cool, .chk, .basin, .integ, .upd, .ctr, .out] := by
  refine ⟨fun p ps b s => ?_, fun p ps s => ?_⟩
  · dsimp only [helloOp, OpSpec.query]
    exact Keeps.step (Keeps.refl _ _) (State.helloRun_keeps ..) (by decide)
  · dsimp only [helloOp, OpSpec.query]
    exact Keeps.refl _ _

theorem leaseRenewOp_within : leaseRenewOp.Within [.bus, .wins, .sess, .out] := by
  refine ⟨fun p ps b s => ?_, fun p ps s => ?_⟩
  · dsimp only [leaseRenewOp, OpSpec.query]
    exact Keeps.step (Keeps.step (Keeps.refl _ _) (State.renewLease_keeps ..) (by decide)) (State.answerNow_keeps ..) (by decide)
  · dsimp only [leaseRenewOp, OpSpec.query]
    exact Keeps.refl _ _

theorem identifyOp_within : identifyOp.Within [.bus, .wins, .out] := by
  refine ⟨fun p ps b s => ?_, fun p ps s => ?_⟩
  · dsimp only [identifyOp, OpSpec.query]
    exact Keeps.step (Keeps.refl _ _) (State.answer_keeps ..) (by decide)
  · dsimp only [identifyOp, OpSpec.query]
    exact Keeps.refl _ _

theorem leaseReleaseOp_within : leaseReleaseOp.Within [.bus, .wins, .sess, .cfg, .cool, .chk, .basin, .integ, .upd, .ctr, .out] := by
  refine ⟨fun p ps b s => ?_, fun p ps s => ?_⟩
  · dsimp only [leaseReleaseOp, OpSpec.query]
    exact Keeps.step (Keeps.step (Keeps.refl _ _) (State.endHost_keeps ..) (by decide)) (State.answer_keeps ..) (by decide)
  · dsimp only [leaseReleaseOp, OpSpec.query]
    exact Keeps.refl _ _

theorem counterReadOp_within : counterReadOp.Within [.bus, .wins, .out] := by
  refine ⟨fun p ps b s => ?_, fun p ps s => ?_⟩
  · dsimp only [counterReadOp, OpSpec.query]
    exact Keeps.step (Keeps.refl _ _) (State.answer_keeps ..) (by decide)
  · dsimp only [counterReadOp, OpSpec.query]
    exact Keeps.refl _ _

theorem logReadOp_within : logReadOp.Within [.bus, .wins, .out] := by
  refine ⟨fun p ps b s => ?_, fun p ps s => ?_⟩
  · dsimp only [logReadOp, OpSpec.query]
    exact Keeps.step (Keeps.refl _ _) (State.answer_keeps ..) (by decide)
  · dsimp only [logReadOp, OpSpec.query]
    exact Keeps.refl _ _

theorem sensorReadOp_within : sensorReadOp.Within [.bus, .wins, .out] := by
  refine ⟨fun p ps b s => ?_, fun p ps s => ?_⟩
  · dsimp only [sensorReadOp, OpSpec.query]
    exact Keeps.step (Keeps.refl _ _) (State.answer_keeps ..) (by decide)
  · dsimp only [sensorReadOp, OpSpec.query]
    exact Keeps.refl _ _

theorem execHello_keeps (p : Port) (tag : BitVec 32) (params : Bytes) (s : State) : ∃ t, execHello p tag params s = .next t ∧ Keeps [.bus, .wins, .sess, .cfg, .cool, .chk, .basin, .integ, .upd, .ctr, .out] s t :=
  ⟨_, rfl, State.submit_keeps (OpSpec.Within.mono helloOp_within (by decide)) (by decide) ..⟩

theorem execLeaseRenew_keeps (p : Port) (tag : BitVec 32) (params : Bytes) (s : State) : ∃ t, execLeaseRenew p tag params s = .next t ∧ Keeps [.bus, .wins, .sess, .cfg, .ctr, .out] s t :=
  ⟨_, rfl, State.submit_keeps (OpSpec.Within.mono leaseRenewOp_within (by decide)) (by decide) ..⟩

theorem execIdentify_keeps (p : Port) (tag : BitVec 32) (params : Bytes) (s : State) : ∃ t, execIdentify p tag params s = .next t ∧ Keeps [.bus, .wins, .cfg, .ctr, .out] s t :=
  ⟨_, rfl, State.submit_keeps (OpSpec.Within.mono identifyOp_within (by decide)) (by decide) ..⟩

theorem execLeaseRelease_keeps (p : Port) (tag : BitVec 32) (params : Bytes) (s : State) : ∃ t, execLeaseRelease p tag params s = .next t ∧ Keeps [.bus, .wins, .sess, .cfg, .cool, .chk, .basin, .integ, .upd, .ctr, .out] s t :=
  ⟨_, rfl, State.submit_keeps (OpSpec.Within.mono leaseReleaseOp_within (by decide)) (by decide) ..⟩

theorem execCounterRead_keeps (p : Port) (tag : BitVec 32) (params : Bytes) (s : State) : ∃ t, execCounterRead p tag params s = .next t ∧ Keeps [.bus, .wins, .cfg, .ctr, .out] s t :=
  ⟨_, rfl, State.submit_keeps (OpSpec.Within.mono counterReadOp_within (by decide)) (by decide) ..⟩

theorem execLogRead_keeps (p : Port) (tag : BitVec 32) (params : Bytes) (s : State) : ∃ t, execLogRead p tag params s = .next t ∧ Keeps [.bus, .wins, .cfg, .ctr, .out] s t :=
  ⟨_, rfl, State.submit_keeps (OpSpec.Within.mono logReadOp_within (by decide)) (by decide) ..⟩

theorem execSensorRead_keeps (p : Port) (tag : BitVec 32) (params : Bytes) (s : State) : ∃ t, execSensorRead p tag params s = .next t ∧ Keeps [.bus, .wins, .cfg, .ctr, .out] s t :=
  ⟨_, rfl, State.submit_keeps (OpSpec.Within.mono sensorReadOp_within (by decide)) (by decide) ..⟩

theorem execLeaseExpiry_keeps (s : State) : ∃ t, execLeaseExpiry s = .next t ∧ Keeps [.bus, .wins, .sess, .cfg, .cool, .chk, .basin, .integ, .upd, .ctr, .out] s t := by
  unfold execLeaseExpiry
  refine ⟨_, rfl, ?_⟩
  refine Keeps.ite _ ?_ ?_
  · exact Keeps.step (Keeps.refl _ _) (State.endHost_keeps ..) (by decide)
  · exact Keeps.refl _ _

theorem execFanHoldEnd_keeps (s : State) : ∃ t, execFanHoldEnd s = .next t ∧ Keeps [.sess, .cool] s t := by
  unfold execFanHoldEnd
  refine ⟨_, rfl, ?_⟩
  split
  · refine Keeps.ite _ ?_ ?_
    · exact Keeps.step (Keeps.refl _ _) (State.fanTakeover_keeps ..) (by decide)
    · exact Keeps.refl _ _
  · exact Keeps.refl _ _

theorem execPerstAssert_keeps (s : State) : ∃ t, execPerstAssert s = .next t ∧ Keeps [.bus, .wins, .sess, .cfg, .cool, .chk, .basin, .integ, .upd, .ctr, .out, .free] s t := by
  unfold execPerstAssert
  refine ⟨_, rfl, ?_⟩
  refine Keeps.ite _ ?_ ?_
  · exact Keeps.refl _ _
  · extract_lets +onlyGivenNames y0
    have h0 : Keeps [.bus, .wins, .sess, .cfg, .cool, .chk, .basin, .integ, .upd, .ctr, .out, .free] s y0 := by
      unfold y0
      exact Keeps.step (Keeps.step (Keeps.step (Keeps.refl _ _) (State.endHost_keeps ..) (by decide)) (State.functionReset_keeps ..) (by decide)) (State.pushLinkDown_keeps ..) (by decide)
    clear_value y0
    refine Keeps.set_bus _ ?_ (by decide) (fun i => i)
    assumption

theorem execFunctionLevelReset_keeps (s : State) : ∃ t, execFunctionLevelReset s = .next t ∧ Keeps [.bus, .wins, .sess, .cfg, .cool, .chk, .basin, .integ, .upd, .ctr, .out] s t := by
  unfold execFunctionLevelReset
  refine ⟨_, rfl, ?_⟩
  refine Keeps.ite _ ?_ ?_
  · exact Keeps.step (Keeps.step (Keeps.step (Keeps.refl _ _) (State.endHost_keeps ..) (by decide)) (State.functionReset_keeps ..) (by decide)) (State.flrWindows_keeps ..) (by decide)
  · exact Keeps.refl _ _

theorem execPcieLinkLoss_keeps (s : State) : ∃ t, execPcieLinkLoss s = .next t ∧ Keeps [.bus, .wins, .sess, .cfg, .cool, .chk, .basin, .integ, .upd, .ctr, .out, .free] s t := by
  unfold execPcieLinkLoss
  refine ⟨_, rfl, ?_⟩
  refine Keeps.ite _ ?_ ?_
  · extract_lets +onlyGivenNames y0
    have h0 : Keeps [.bus, .wins, .sess, .cfg, .cool, .chk, .basin, .integ, .upd, .ctr, .out, .free] s y0 := by
      unfold y0
      exact Keeps.step (Keeps.step (Keeps.step (Keeps.refl _ _) (State.endHost_keeps ..) (by decide)) (State.functionReset_keeps ..) (by decide)) (State.pushLinkDown_keeps ..) (by decide)
    clear_value y0
    refine Keeps.set_bus _ ?_ (by decide) (fun i => i)
    assumption
  · exact Keeps.refl _ _
end Sys2Proof.Machine
end

