-- ==== Sys2Proof/Laws/KeepsReset.lean ====
section
/-!
SUPPORT. What the operations of Machine/Reset.lean touch, and that they keep the invariant.
-/

namespace Sys2Proof.Machine
theorem State.systemReset_keeps (b : Nat) (s : State) : Keeps Part.all s (State.systemReset b s) := by
  unfold State.systemReset
  split
  · exact Keeps.refl _ _
  · extract_lets +onlyGivenNames y0
    have h0 : Keeps Part.all s y0 := by
      unfold y0
      exact Keeps.step (Keeps.step (Keeps.step (Keeps.refl _ _) (State.addCause_keeps ..) (by decide)) (State.notice_keeps ..) (by decide)) (State.count_keeps ..) (by decide)
    clear_value y0
    refine Keeps.set_dev_rst _ _ ?_ (by decide)
    assumption
  · extract_lets +onlyGivenNames y0
    have h0 : Keeps Part.all s y0 := by
      unfold y0
      exact Keeps.step (Keeps.step (Keeps.step (Keeps.refl _ _) (State.addCause_keeps ..) (by decide)) (State.notice_keeps ..) (by decide)) (State.count_keeps ..) (by decide)
    clear_value y0
    refine Keeps.set_dev_rst _ _ ?_ (by decide)
    assumption
  · refine Keeps.ite _ ?_ ?_
    · exact Keeps.step (Keeps.refl _ _) (State.addCause_keeps ..) (by decide)
    · extract_lets +onlyGivenNames y0
      have h0 : Keeps Part.all s y0 := by
        unfold y0
        exact Keeps.step (Keeps.refl _ _) (State.resetBegin_keeps ..) (by decide)
      clear_value y0
      refine Keeps.ite _ ?_ ?_
      · refine Keeps.step ?_ (State.orderlyShutdown_keeps ..) (by decide)
        refine Keeps.set_rst _ ?_ (by decide)
        assumption
      · refine Keeps.ite _ ?_ ?_
        · refine Keeps.step ?_ (State.systemClear_keeps ..) (by decide)
          refine Keeps.step ?_ (State.orderlyShutdown_keeps ..) (by decide)
          assumption
        · refine Keeps.step ?_ (State.systemClear_keeps ..) (by decide)
          assumption

theorem State.powerOn_keeps (b : Nat) (lost restart : Bool) (s : State) : Keeps Part.all s (State.powerOn b lost restart s) := by
  have hm : Mem.wf 0 State.resetMsix = true := by decide
  have key : ∀ t : State, t.pending = s.pending → (s.Inv → t.Inv) → Keeps Part.all s t := by
    intro t hp hi
    refine ⟨?_, hi⟩
    constructor
    case pending => exact hp
    all_goals exact fun hn => absurd (by decide) hn
  have hn : ∀ t : State, t.pending = s.pending → (s.Inv → t.Inv) → Keeps Part.all s (t.notice (0x0830 + b)) :=
    fun t hp hi => Keeps.step (key t hp hi) (State.notice_keeps ..) (by decide)
  have hc : ∀ t : State, t.pending = s.pending → (s.Inv → t.Inv) → Keeps Part.all s
      (if restart then (t.notice (0x0830 + b)).count 0x0839 else t.notice (0x0830 + b)) :=
    fun t hp hi => Keeps.ite _ (Keeps.step (hn t hp hi) (State.count_keeps ..) (by decide)) (hn t hp hi)
  refine hc _ rfl (fun i => ⟨⟨rfl, rfl, i.1.2.2.1, rfl, rfl, hm, rfl, fun p => ?_⟩, fun e h => ?_, Nat.zero_le _⟩)
  · show Mem.wf 0 ((Vec.tab 8 State.resetWin).get p).data = true
    rw [Vec.get_tab]; rfl
  · cases h

theorem State.powerOff_keeps (lost : Bool) (s : State) : Keeps Part.all s (State.powerOff lost s) := by
  unfold State.powerOff
  exact Keeps.set_dev_rst_ctr _ _ _ (State.powerOn_keeps ..) (by decide) (fun _ e h => by simp at h) (fun _ => Nat.zero_le _)

theorem State.updCore_keeps (k : Fin 8) (f : CoreSt → CoreSt) (s : State) : Keeps [.boot] s (State.updCore k f s) := by
  unfold State.updCore
  exact Keeps.set_boot _ (Keeps.refl _ _) (by decide) (fun i => i) (fun i => i) (fun i => i)

theorem State.releaseCore_keeps (k : Fin 8) (s : State) : Keeps [.chk, .integ, .boot, .ctr] s (State.releaseCore k s) := by
  unfold State.releaseCore
  extract_lets +onlyGivenNames y0
  have h0 : Keeps [.chk, .integ, .boot, .ctr] s y0 := by
    unfold y0
    exact Keeps.step (Keeps.refl _ _) (State.updCore_keeps ..) (by decide)
  clear_value y0
  refine Keeps.ite _ ?_ ?_
  · refine Keeps.step ?_ (State.reportOwed_keeps ..) (by decide)
    assumption
  · assumption

theorem State.coreRecord_keeps (k : Fin 8) (bit : Nat) (pc : Nat) (addr : Nat) (s : State) : Keeps [.rst] s (State.coreRecord k bit pc addr s) := by
  unfold State.coreRecord
  extract_lets +onlyGivenNames z0
  exact Keeps.set_rst _ (Keeps.refl _ _) (by decide)

theorem State.coreRestart_keeps (k : Fin 8) (s : State) : Keeps [.cool, .boot] s (State.coreRestart k s) := by
  unfold State.coreRestart
  extract_lets +onlyGivenNames y0
  have h0 : Keeps [.cool, .boot] s y0 := by
    unfold y0
    exact Keeps.step (Keeps.refl _ _) (State.updCore_keeps ..) (by decide)
  clear_value y0
  extract_lets +onlyGivenNames z1
  extract_lets +onlyGivenNames y2
  have h2 : Keeps [.cool, .boot] s y2 := by
    unfold y2
    refine Keeps.ite _ ?_ ?_
    · refine Keeps.set_boot _ ?_ (by decide) (fun i => i) (fun i => i) (fun i => i)
      assumption
    · assumption
  clear_value y2
  refine Keeps.ite _ ?_ ?_
  · refine Keeps.set_cool _ ?_ (by decide)
    assumption
  · assumption

theorem State.coreReset_keeps (k : Fin 8) (watchdog : Bool) (text : Bool) (pc : Nat) (addr : Nat) (sys : Nat) (s : State) : Keeps Part.all s (State.coreReset k watchdog text pc addr sys s) := by
  unfold State.coreReset
  extract_lets +onlyGivenNames z0
  refine Keeps.ite _ ?_ ?_
  · refine Keeps.ite _ ?_ ?_
    · exact Keeps.step (Keeps.refl _ _) (State.addCause_keeps ..) (by decide)
    · exact Keeps.refl _ _
  · extract_lets +onlyGivenNames y1
    have h1 : Keeps Part.all s y1 := by
      unfold y1
      exact Keeps.step (Keeps.step (Keeps.step (Keeps.refl _ _) (State.addCause_keeps ..) (by decide)) (State.logEntry_keeps ..) (by decide)) (State.coreRecord_keeps ..) (by decide)
    clear_value y1
    extract_lets +onlyGivenNames y2
    have h2 : Keeps Part.all s y2 := by
      unfold y2
      refine Keeps.ite _ ?_ ?_
      · refine Keeps.step ?_ (State.notice_keeps ..) (by decide)
        assumption
      · assumption
    clear_value y2
    refine Keeps.ite _ ?_ ?_
    · refine Keeps.step ?_ (State.coreRestart_keeps ..) (by decide)
      assumption
    · refine Keeps.ite _ ?_ ?_
      · refine Keeps.step ?_ (State.systemReset_keeps ..) (by decide)
        assumption
      · refine Keeps.step ?_ (State.notice_keeps ..) (by decide)
        refine Keeps.step ?_ (State.updCore_keeps ..) (by decide)
        refine Keeps.step ?_ (State.coreRestart_keeps ..) (by decide)
        assumption

theorem State.wdFire_keeps (k : Fin 8) (s : State) : Keeps [.integ, .boot, .ctr] s (State.wdFire k s) := by
  unfold State.wdFire
  exact Keeps.step (Keeps.step (Keeps.refl _ _) (State.updCore_keeps ..) (by decide)) (State.notice_keeps ..) (by decide)

theorem State.keeperFire_keeps (k : Fin 8) (text : Bool) (s : State) : Keeps Part.all s (State.keeperFire k text s) := by
  unfold State.keeperFire
  extract_lets +onlyGivenNames y0
  have h0 : Keeps Part.all s y0 := by
    unfold y0
    exact Keeps.step (Keeps.refl _ _) (State.wdFire_keeps ..) (by decide)
  clear_value y0
  refine Keeps.ite _ ?_ ?_
  · refine Keeps.step ?_ (State.systemReset_keeps ..) (by decide)
    assumption
  · refine Keeps.step ?_ (State.coreReset_keeps ..) (by decide)
    refine Keeps.set_rst _ ?_ (by decide)
    assumption

theorem State.upperFire_keeps (k : Fin 8) (text : Bool) (s : State) : Keeps Part.all s (State.upperFire k text s) := by
  unfold State.upperFire
  extract_lets +onlyGivenNames y0
  have h0 : Keeps Part.all s y0 := by
    unfold y0
    exact Keeps.step (Keeps.refl _ _) (State.wdFire_keeps ..) (by decide)
  clear_value y0
  refine Keeps.ite _ ?_ ?_
  · extract_lets +onlyGivenNames z1
    refine Keeps.step ?_ (State.notice_keeps ..) (by decide)
    refine Keeps.step ?_ (State.updCore_keeps ..) (by decide)
    refine Keeps.step ?_ (State.coreRestart_keeps ..) (by decide)
    refine Keeps.step ?_ (State.coreRecord_keeps ..) (by decide)
    refine Keeps.step ?_ (State.logEntry_keeps ..) (by decide)
    refine Keeps.step ?_ (State.addCause_keeps ..) (by decide)
    assumption
  · refine Keeps.step ?_ (State.coreReset_keeps ..) (by decide)
    assumption

theorem State.requested_keeps (t : ResetTarget) (sys : Nat) (text : Bool) (s : State) : Keeps Part.all s (State.requested t sys text s) := by
  unfold State.requested
  split
  · exact Keeps.step (Keeps.refl _ _) (State.systemReset_keeps ..) (by decide)
  · exact Keeps.step (Keeps.refl _ _) (State.coreReset_keeps ..) (by decide)

theorem State.setPll_keeps (p : Pll) (x : PllState) (s : State) : Keeps [.dev] s (State.setPll p x s) := by
  unfold State.setPll
  exact Keeps.set_dev _ (Keeps.refl _ _) (by decide)

theorem State.startPll_keeps (p : Pll) (s : State) : Keeps [.dev] s (State.startPll p s) := by
  unfold State.startPll
  split
  · exact Keeps.step (Keeps.refl _ _) (State.setPll_keeps ..) (by decide)
  · exact Keeps.step (Keeps.refl _ _) (State.setPll_keeps ..) (by decide)
  · exact Keeps.refl _ _

theorem State.clockFailure_keeps (s : State) : Keeps Part.all s (State.clockFailure s) := by
  unfold State.clockFailure
  refine Keeps.ite _ ?_ ?_
  · exact Keeps.refl _ _
  · exact Keeps.step (Keeps.refl _ _) (State.systemReset_keeps ..) (by decide)

theorem State.calmReached_keeps (s : State) : Keeps [.dev, .rst] s (State.calmReached s) := by
  unfold State.calmReached
  exact Keeps.set_dev_rst _ _ (Keeps.refl _ _) (by decide)

theorem State.keeperResume_keeps (s : State) : Keeps [.dev, .boot] s (State.keeperResume s) := by
  unfold State.keeperResume
  extract_lets +onlyGivenNames z0
  exact Keeps.set_dev_boot _ _ (Keeps.refl _ _) (by decide) (fun i => i) (fun i => i) (fun i => i)

theorem State.rtcWrite_keeps (ps : Bytes) (s : State) : Keeps [.rst] s (State.rtcWrite ps s) := by
  unfold State.rtcWrite
  extract_lets +onlyGivenNames z0
  exact Keeps.set_rst _ (Keeps.refl _ _) (by decide)

theorem resetStatusOp_within : resetStatusOp.Within [.bus, .wins, .out] := by
  refine ⟨fun p ps b s => ?_, fun p ps s => ?_⟩
  · dsimp only [resetStatusOp, OpSpec.query]
    exact Keeps.step (Keeps.refl _ _) (State.answer_keeps ..) (by decide)
  · dsimp only [resetStatusOp, OpSpec.query]
    exact Keeps.refl _ _

theorem resetRequestOp_within : resetRequestOp.Within [.bus, .wins, .rst, .out] := by
  refine ⟨fun p ps b s => ?_, fun p ps s => ?_⟩
  · dsimp only [resetRequestOp, OpSpec.query]
    exact Keeps.step (Keeps.set_rst _ (Keeps.refl _ _) (by decide)) (State.answerNow_keeps ..) (by decide)
  · dsimp only [resetRequestOp, OpSpec.query]
    exact Keeps.refl _ _

theorem calmEnterOp_within : calmEnterOp.Within [.dev, .bus, .wins, .out] := by
  refine ⟨fun p ps b s => ?_, fun p ps s => ?_⟩
  · dsimp only [calmEnterOp, OpSpec.query]
    exact Keeps.set_dev _ (Keeps.step (Keeps.refl _ _) (State.answerNow_keeps ..) (by decide)) (by decide)
  · dsimp only [calmEnterOp, OpSpec.query]
    exact Keeps.refl _ _

theorem rtcReadOp_within : rtcReadOp.Within [.bus, .wins, .out] := by
  refine ⟨fun p ps b s => ?_, fun p ps s => ?_⟩
  · dsimp only [rtcReadOp, OpSpec.query]
    exact Keeps.step (Keeps.refl _ _) (State.answer_keeps ..) (by decide)
  · dsimp only [rtcReadOp, OpSpec.query]
    exact Keeps.refl _ _

theorem rtcWriteOp_within : rtcWriteOp.Within [.bus, .wins, .rst, .out] := by
  refine ⟨fun p ps b s => ?_, fun p ps s => ?_⟩
  · dsimp only [rtcWriteOp, OpSpec.query]
    exact Keeps.step (Keeps.step (Keeps.refl _ _) (State.rtcWrite_keeps ..) (by decide)) (State.answer_keeps ..) (by decide)
  · dsimp only [rtcWriteOp, OpSpec.query]
    exact Keeps.refl _ _

theorem bkpReadOp_within : bkpReadOp.Within [.bus, .wins, .out] := by
  refine ⟨fun p ps b s => ?_, fun p ps s => ?_⟩
  · dsimp only [bkpReadOp, OpSpec.query]
    exact Keeps.step (Keeps.refl _ _) (State.answer_keeps ..) (by decide)
  · dsimp only [bkpReadOp, OpSpec.query]
    exact Keeps.refl _ _

theorem bkpWriteOp_within : bkpWriteOp.Within [.bus, .wins, .rst, .out] := by
  refine ⟨fun p ps b s => ?_, fun p ps s => ?_⟩
  · dsimp only [bkpWriteOp, OpSpec.query]
    exact Keeps.step (Keeps.set_rst _ (Keeps.refl _ _) (by decide)) (State.answerNow_keeps ..) (by decide)
  · dsimp only [bkpWriteOp, OpSpec.query]
    exact Keeps.refl _ _

theorem execResetStatus_keeps (p : Port) (tag : BitVec 32) (params : Bytes) (s : State) : ∃ t, execResetStatus p tag params s = .next t ∧ Keeps [.bus, .wins, .cfg, .ctr, .out] s t :=
  ⟨_, rfl, State.submit_keeps (OpSpec.Within.mono resetStatusOp_within (by decide)) (by decide) ..⟩

theorem execResetRequest_keeps (p : Port) (tag : BitVec 32) (params : Bytes) (s : State) : ∃ t, execResetRequest p tag params s = .next t ∧ Keeps [.bus, .wins, .cfg, .rst, .ctr, .out] s t :=
  ⟨_, rfl, State.submit_keeps (OpSpec.Within.mono resetRequestOp_within (by decide)) (by decide) ..⟩

theorem execCalmEnter_keeps (p : Port) (tag : BitVec 32) (params : Bytes) (s : State) : ∃ t, execCalmEnter p tag params s = .next t ∧ Keeps [.dev, .bus, .wins, .cfg, .ctr, .out] s t :=
  ⟨_, rfl, State.submit_keeps (OpSpec.Within.mono calmEnterOp_within (by decide)) (by decide) ..⟩

theorem execRtcRead_keeps (p : Port) (tag : BitVec 32) (params : Bytes) (s : State) : ∃ t, execRtcRead p tag params s = .next t ∧ Keeps [.bus, .wins, .cfg, .ctr, .out] s t :=
  ⟨_, rfl, State.submit_keeps (OpSpec.Within.mono rtcReadOp_within (by decide)) (by decide) ..⟩

theorem execRtcWrite_keeps (p : Port) (tag : BitVec 32) (params : Bytes) (s : State) : ∃ t, execRtcWrite p tag params s = .next t ∧ Keeps [.bus, .wins, .cfg, .rst, .ctr, .out] s t :=
  ⟨_, rfl, State.submit_keeps (OpSpec.Within.mono rtcWriteOp_within (by decide)) (by decide) ..⟩

theorem execBkpRead_keeps (p : Port) (tag : BitVec 32) (params : Bytes) (s : State) : ∃ t, execBkpRead p tag params s = .next t ∧ Keeps [.bus, .wins, .cfg, .ctr, .out] s t :=
  ⟨_, rfl, State.submit_keeps (OpSpec.Within.mono bkpReadOp_within (by decide)) (by decide) ..⟩

theorem execBkpWrite_keeps (p : Port) (tag : BitVec 32) (params : Bytes) (s : State) : ∃ t, execBkpWrite p tag params s = .next t ∧ Keeps [.bus, .wins, .cfg, .rst, .ctr, .out] s t :=
  ⟨_, rfl, State.submit_keeps (OpSpec.Within.mono bkpWriteOp_within (by decide)) (by decide) ..⟩

theorem execPowerOnReset_keeps (vbatOk : Bool) (s : State) : ∃ t, execPowerOnReset vbatOk s = .next t ∧ Keeps Part.all s t := by
  unfold execPowerOnReset
  exact ⟨_, rfl, Keeps.step (Keeps.refl _ _) (State.powerOn_keeps ..) (by decide)⟩

theorem execBrownOut_keeps (deep : Bool) (vbatOk : Bool) (s : State) : ∃ t, execBrownOut deep vbatOk s = .next t ∧ Keeps Part.all s t := by
  unfold execBrownOut
  refine ⟨_, rfl, ?_⟩
  refine Keeps.ite _ ?_ ?_
  · exact Keeps.refl _ _
  · refine Keeps.ite _ ?_ ?_
    · exact Keeps.step (Keeps.refl _ _) (State.powerOff_keeps ..) (by decide)
    · exact Keeps.step (Keeps.refl _ _) (State.powerOn_keeps ..) (by decide)

theorem execPinReset_keeps (widthNs : Nat) (s : State) : ∃ t, execPinReset widthNs s = .next t ∧ Keeps Part.all s t := by
  unfold execPinReset
  refine ⟨_, rfl, ?_⟩
  refine Keeps.ite _ ?_ ?_
  · exact Keeps.refl _ _
  · refine Keeps.ite _ ?_ ?_
    · exact Keeps.step (Keeps.refl _ _) (State.systemReset_keeps ..) (by decide)
    · extract_lets +onlyGivenNames z0
      extract_lets +onlyGivenNames y1
      have h1 : Keeps Part.all s y1 := by
        unfold y1
        exact Keeps.step (Keeps.refl _ _) (State.drawn_keeps ..) (by decide)
      clear_value y1
      refine Keeps.ite _ ?_ ?_
      · refine Keeps.step ?_ (State.systemReset_keeps ..) (by decide)
        assumption
      · assumption

theorem execClockFailure_keeps (s : State) : ∃ t, execClockFailure s = .next t ∧ Keeps Part.all s t := by
  unfold execClockFailure
  exact ⟨_, rfl, Keeps.step (Keeps.refl _ _) (State.clockFailure_keeps ..) (by decide)⟩

theorem execClockRecovered_keeps (s : State) : ∃ t, execClockRecovered s = .next t ∧ Keeps [.dev] s t := by
  unfold execClockRecovered
  exact ⟨_, rfl, Keeps.set_dev _ (Keeps.refl _ _) (by decide)⟩

theorem execKeeperWatchdogFire_keeps (k : Fin 2) (textOk : Bool) (s : State) : ∃ t, execKeeperWatchdogFire k textOk s = .next t ∧ Keeps Part.all s t := by
  unfold execKeeperWatchdogFire
  refine ⟨_, rfl, ?_⟩
  refine Keeps.ite _ ?_ ?_
  · exact Keeps.step (Keeps.refl _ _) (State.keeperFire_keeps ..) (by decide)
  · exact Keeps.refl _ _

theorem execEscalationWindowClose_keeps (s : State) : ∃ t, execEscalationWindowClose s = .next t ∧ Keeps [.rst] s t := by
  unfold execEscalationWindowClose
  refine ⟨_, rfl, ?_⟩
  split
  · refine Keeps.ite _ ?_ ?_
    · exact Keeps.set_rst _ (Keeps.refl _ _) (by decide)
    · exact Keeps.refl _ _
  · exact Keeps.refl _ _

theorem execUpperWatchdogFire_keeps (u : Fin 6) (textOk : Bool) (s : State) : ∃ t, execUpperWatchdogFire u textOk s = .next t ∧ Keeps Part.all s t := by
  unfold execUpperWatchdogFire
  refine ⟨_, rfl, ?_⟩
  refine Keeps.ite _ ?_ ?_
  · exact Keeps.step (Keeps.refl _ _) (State.upperFire_keeps ..) (by decide)
  · exact Keeps.refl _ _

theorem execKeeperLockup_keeps (k : Fin 2) (s : State) : ∃ t, execKeeperLockup k s = .next t ∧ Keeps Part.all s t := by
  unfold execKeeperLockup
  refine ⟨_, rfl, ?_⟩
  refine Keeps.ite _ ?_ ?_
  · exact Keeps.step (Keeps.refl _ _) (State.systemReset_keeps ..) (by decide)
  · exact Keeps.refl _ _

theorem execUpperLockup_keeps (u : Fin 6) (textOk : Bool) (s : State) : ∃ t, execUpperLockup u textOk s = .next t ∧ Keeps Part.all s t := by
  unfold execUpperLockup
  exact ⟨_, rfl, Keeps.step (Keeps.refl _ _) (State.coreReset_keeps ..) (by decide)⟩

theorem execProtectionFault_keeps (k : Fin 8) (addr : BitVec 32) (pc : BitVec 32) (textOk : Bool) (s : State) : ∃ t, execProtectionFault k addr pc textOk s = .next t ∧ Keeps Part.all s t := by
  unfold execProtectionFault
  refine ⟨_, rfl, ?_⟩
  refine Keeps.ite _ ?_ ?_
  · exact Keeps.step (Keeps.step (Keeps.step (Keeps.refl _ _) (State.notice_keeps ..) (by decide)) (State.logEntry_keeps ..) (by decide)) (State.coreReset_keeps ..) (by decide)
  · exact Keeps.refl _ _

theorem execSoftwareResetRequest_keeps (requester : Fin 8) (target : ResetTarget) (textOk : Bool) (s : State) : ∃ t, execSoftwareResetRequest requester target textOk s = .next t ∧ Keeps Part.all s t := by
  unfold execSoftwareResetRequest
  refine ⟨_, rfl, ?_⟩
  refine Keeps.ite _ ?_ ?_
  · exact Keeps.step (Keeps.refl _ _) (State.requested_keeps ..) (by decide)
  · exact Keeps.refl _ _

theorem execDebugResetRequest_keeps (target : ResetTarget) (textOk : Bool) (s : State) : ∃ t, execDebugResetRequest target textOk s = .next t ∧ Keeps Part.all s t := by
  unfold execDebugResetRequest
  exact ⟨_, rfl, Keeps.step (Keeps.refl _ _) (State.requested_keeps ..) (by decide)⟩

theorem execResetRequestDue_keeps (s : State) : ∃ t, execResetRequestDue s = .next t ∧ Keeps Part.all s t := by
  unfold execResetRequestDue
  refine ⟨_, rfl, ?_⟩
  split
  · refine Keeps.ite _ ?_ ?_
    · exact Keeps.step (Keeps.refl _ _) (State.systemReset_keeps ..) (by decide)
    · exact Keeps.refl _ _
  · exact Keeps.refl _ _

theorem execRtcAlarm_keeps (s : State) : ∃ t, execRtcAlarm s = .next t ∧ Keeps [.dev] s t := by
  unfold execRtcAlarm
  refine ⟨_, rfl, ?_⟩
  refine Keeps.ite _ ?_ ?_
  · exact Keeps.step (Keeps.refl _ _) (State.wakeUp_keeps ..) (by decide)
  · exact Keeps.refl _ _

theorem execCalmReached_keeps (s : State) : ∃ t, execCalmReached s = .next t ∧ Keeps [.dev, .rst] s t := by
  unfold execCalmReached
  refine ⟨_, rfl, ?_⟩
  refine Keeps.ite _ ?_ ?_
  · exact Keeps.step (Keeps.refl _ _) (State.calmReached_keeps ..) (by decide)
  · exact Keeps.refl _ _

theorem execKeeperResume_keeps (s : State) : ∃ t, execKeeperResume s = .next t ∧ Keeps [.dev, .boot] s t := by
  unfold execKeeperResume
  refine ⟨_, rfl, ?_⟩
  refine Keeps.ite _ ?_ ?_
  · exact Keeps.step (Keeps.refl _ _) (State.keeperResume_keeps ..) (by decide)
  · exact Keeps.refl _ _

theorem execSidebandWakeTransfer_keeps (s : State) : ∃ t, execSidebandWakeTransfer s = .next t ∧ Keeps [.dev, .out] s t := by
  unfold execSidebandWakeTransfer
  refine ⟨_, rfl, ?_⟩
  refine Keeps.ite _ ?_ ?_
  · exact Keeps.step (Keeps.step (Keeps.refl _ _) (State.send_keeps ..) (by decide)) (State.wakeUp_keeps ..) (by decide)
  · exact Keeps.refl _ _

theorem execPerstRelease_keeps (s : State) : ∃ t, execPerstRelease s = .next t ∧ Keeps [.dev, .bus] s t := by
  unfold execPerstRelease
  refine ⟨_, rfl, ?_⟩
  refine Keeps.ite _ ?_ ?_
  · exact Keeps.step (Keeps.set_bus _ (Keeps.refl _ _) (by decide) (by exact fun i => i)) (State.wakeUp_keeps ..) (by decide)
  · exact Keeps.refl _ _

theorem execRelK1_keeps (s : State) : ∃ t, execRelK1 s = .next t ∧ Keeps [.chk, .integ, .boot, .ctr] s t := by
  unfold execRelK1
  refine ⟨_, rfl, ?_⟩
  refine Keeps.ite _ ?_ ?_
  · exact Keeps.refl _ _
  · refine Keeps.ite _ ?_ ?_
    · exact Keeps.step (Keeps.step (Keeps.refl _ _) (State.releaseCore_keeps ..) (by decide)) (State.logEntry_keeps ..) (by decide)
    · exact Keeps.step (Keeps.refl _ _) (State.notice_keeps ..) (by decide)

theorem execRelU_keeps (m : BitVec 6) (s : State) : ∃ t, execRelU m s = .next t ∧ Keeps [.chk, .integ, .boot, .ctr] s t := by
  unfold execRelU
  refine ⟨_, rfl, ?_⟩
  refine Keeps.ite _ ?_ ?_
  · exact Keeps.refl _ _
  · extract_lets +onlyGivenNames z0
    extract_lets +onlyGivenNames z1
    extract_lets +onlyGivenNames y2
    have h2 : Keeps [.chk, .integ, .boot, .ctr] s y2 := by
      unfold y2
      refine Keeps.foldl _ _ ?_ (fun _ _ _ => ?_)
      · exact Keeps.refl _ _
      · refine Keeps.step ?_ (State.releaseCore_keeps ..) (by decide)
        assumption
    clear_value y2
    extract_lets +onlyGivenNames y3
    have h3 : Keeps [.chk, .integ, .boot, .ctr] s y3 := by
      unfold y3
      refine Keeps.ite _ ?_ ?_
      · assumption
      · refine Keeps.step ?_ (State.logEntry_keeps ..) (by decide)
        assumption
    clear_value y3
    refine Keeps.ite _ ?_ ?_
    · assumption
    · refine Keeps.step ?_ (State.notice_keeps ..) (by decide)
      assumption

theorem execHaltU_keeps (m : BitVec 6) (s : State) : ∃ t, execHaltU m s = .next t ∧ Keeps [.dev, .bus, .wins, .sess, .cfg, .cad, .gop, .chk, .basin, .integ, .slots, .boot, .upd, .ctr, .out, .free] s t := by
  unfold execHaltU
  refine ⟨_, rfl, ?_⟩
  refine Keeps.ite _ ?_ ?_
  · exact Keeps.refl _ _
  · extract_lets +onlyGivenNames z0
    extract_lets +onlyGivenNames y1
    have h1 : Keeps [.dev, .bus, .wins, .sess, .cfg, .cad, .gop, .chk, .basin, .integ, .slots, .boot, .upd, .ctr, .out, .free] s y1 := by
      unfold y1
      exact Keeps.set_boot _ (Keeps.refl _ _) (by decide) (fun i => i) (fun i => i) (fun i => i)
    clear_value y1
    refine Keeps.ite _ ?_ ?_
    · assumption
    · refine Keeps.step ?_ (State.leaveFull_keeps ..) (by decide)
      assumption

theorem execWatchdogService_keeps (k : Fin 8) (vs : Bytes) (s : State) : ∃ t, execWatchdogService k vs s = .next t ∧ Keeps [.boot] s t := by
  unfold execWatchdogService
  refine ⟨_, rfl, ?_⟩
  refine Keeps.ite _ ?_ ?_
  · exact Keeps.step (Keeps.refl _ _) (State.updCore_keeps ..) (by decide)
  · exact Keeps.refl _ _

theorem execWatchdogTimeoutSet_keeps (k : Fin 8) (ms : Nat) (s : State) : ∃ t, execWatchdogTimeoutSet k ms s = .next t ∧ Keeps [.boot, .ctr] s t := by
  unfold execWatchdogTimeoutSet
  refine ⟨_, rfl, ?_⟩
  refine Keeps.ite _ ?_ ?_
  · exact Keeps.refl _ _
  · refine Keeps.ite _ ?_ ?_
    · exact Keeps.step (Keeps.refl _ _) (State.count_keeps ..) (by decide)
    · refine Keeps.ite _ ?_ ?_
      · exact Keeps.step (Keeps.refl _ _) (State.updCore_keeps ..) (by decide)
      · exact Keeps.refl _ _
end Sys2Proof.Machine
end

