-- ==== Sys2Proof/Laws/KeepsBoot.lean ====
section
/-!
SUPPORT. What the operations of Machine/Boot.lean touch, and that they keep the invariant.
-/

namespace Sys2Proof.Machine
theorem State.optionsDone_keeps (good : Bool) (o : OptionBlock) (src : BitVec 2) (clk : BitVec 2) (s : State) : Keeps [.dev, .cool, .ctr] s (State.optionsDone good o src clk s) := by
  unfold State.optionsDone
  refine Keeps.ite _ ?_ ?_
  · exact Keeps.set_dev_cool _ _ (Keeps.refl _ _) (by decide)
  · extract_lets +onlyGivenNames z0
    extract_lets +onlyGivenNames y1
    have h1 : Keeps [.dev, .cool, .ctr] s y1 := by
      unfold y1
      exact Keeps.set_dev _ (Keeps.refl _ _) (by decide)
    clear_value y1
    refine Keeps.ite _ ?_ ?_
    · refine Keeps.step ?_ (State.count_keeps ..) (by decide)
      assumption
    · assumption

theorem State.arm_keeps (s : State) : Keeps [.dev, .cool] s (State.arm s) := by
  unfold State.arm
  refine Keeps.ite _ ?_ ?_
  · exact Keeps.refl _ _
  · refine Keeps.foldl _ _ ?_ (fun _ _ _ => ?_)
    · exact Keeps.set_dev _ (Keeps.refl _ _) (by decide)
    · refine Keeps.step ?_ (State.spinUp_keeps ..) (by decide)
      assumption

theorem State.programClear_keeps (s : State) : Keeps [.boot] s (State.programClear s) := by
  unfold State.programClear
  exact Keeps.step (Keeps.refl _ _) (State.flashWrite_keeps ..) (by decide)

theorem State.copyStaging_keeps (s : State) : Keeps [.integ, .boot, .ctr] s (State.copyStaging s) := by
  unfold State.copyStaging
  refine Keeps.ite _ ?_ ?_
  · exact Keeps.refl _ _
  · extract_lets +onlyGivenNames z0
    extract_lets +onlyGivenNames z1
    refine Keeps.ite _ ?_ ?_
    · exact Keeps.step (Keeps.refl _ _) (State.programClear_keeps ..) (by decide)
    · refine Keeps.ite _ ?_ ?_
      · exact Keeps.step (Keeps.step (Keeps.refl _ _) (State.programClear_keeps ..) (by decide)) (State.notice_keeps ..) (by decide)
      · extract_lets +onlyGivenNames z2
        extract_lets +onlyGivenNames z3
        extract_lets +onlyGivenNames z4
        extract_lets +onlyGivenNames z5
        extract_lets +onlyGivenNames z6
        extract_lets +onlyGivenNames y7
        have h7 : Keeps [.integ, .boot, .ctr] s y7 := by
          unfold y7
          refine Keeps.foldl _ _ ?_ (fun _ _ _ => ?_)
          · exact Keeps.step (Keeps.refl _ _) (State.flashErase_keeps ..) (by decide)
          · refine Keeps.step ?_ (State.flashWrite_keeps ..) (by decide)
            assumption
        clear_value y7
        refine Keeps.ite _ ?_ ?_
        · extract_lets +onlyGivenNames y8
          have h8 : Keeps [.integ, .boot, .ctr] s y8 := by
            unfold y8
            refine Keeps.step ?_ (State.notice_keeps ..) (by decide)
            refine Keeps.step ?_ (State.programClear_keeps ..) (by decide)
            refine Keeps.step ?_ (State.flashWrite_keeps ..) (by decide)
            assumption
          clear_value y8
          extract_lets +onlyGivenNames y9
          have h9 : Keeps [.integ, .boot, .ctr] s y9 := by
            unfold y9
            refine Keeps.step ?_ (State.logEntry_keeps ..) (by decide)
            assumption
          clear_value y9
          refine Keeps.set_boot _ ?_ (by decide) (fun i => i) (fun i => i) (fun i => i)
          assumption
        · refine Keeps.step ?_ (State.logEntry_keeps ..) (by decide)
          refine Keeps.step ?_ (State.notice_keeps ..) (by decide)
          refine Keeps.step ?_ (State.programClear_keeps ..) (by decide)
          assumption

theorem State.placeCore_keeps (body : Bytes) (s : State) (k : Fin 8) : Keeps [.boot] s (State.placeCore body s k) := by
  unfold State.placeCore
  extract_lets +onlyGivenNames z0
  exact Keeps.step (Keeps.refl _ _) (State.updCore_keeps ..) (by decide)

theorem State.handOver_keeps (bank : Option Nat) (trial : Nat) (img : Bytes) (s : State) : Keeps [.dev, .boot, .rst] s (State.handOver bank trial img s) := by
  unfold State.handOver
  extract_lets +onlyGivenNames z0
  extract_lets +onlyGivenNames y1
  have h1 : Keeps [.dev, .boot, .rst] s y1 := by
    unfold y1
    refine Keeps.foldl _ _ ?_ (fun _ _ _ => ?_)
    · exact Keeps.refl _ _
    · refine Keeps.step ?_ (State.placeCore_keeps ..) (by decide)
      assumption
  clear_value y1
  extract_lets +onlyGivenNames y2
  have h2 : Keeps [.dev, .boot, .rst] s y2 := by
    unfold y2
    refine Keeps.step ?_ (State.updCore_keeps ..) (by decide)
    assumption
  clear_value y2
  refine Keeps.set_dev_boot_rst _ _ _ ?_ (by decide) (fun i => i) (fun _ => rfl) (fun _ => rfl)
  assumption

theorem State.noteSkip_keeps (n : Nat) (why : Nat) (s : State) : Keeps [.ctr] s (State.noteSkip n why s) := by
  unfold State.noteSkip
  exact Keeps.step (Keeps.refl _ _) (State.logEntry_keeps ..) (by decide)

theorem State.noteStart_keeps (n : Nat) (s : State) : Keeps [.boot, .ctr] s (State.noteStart n s) := by
  unfold State.noteStart
  extract_lets +onlyGivenNames y0
  have h0 : Keeps [.boot, .ctr] s y0 := by
    unfold y0
    exact Keeps.step (Keeps.refl _ _) (State.logEntry_keeps ..) (by decide)
  clear_value y0
  refine Keeps.ite _ ?_ ?_
  · refine Keeps.step ?_ (State.flashWrite_keeps ..) (by decide)
    assumption
  · assumption

theorem State.tryBanks_keeps (s : State) (ns : List Nat) (skipped : List (Nat × Nat)) :
    (∀ t, (State.tryBanks s ns skipped).1 = some t → Keeps [.dev, .integ, .boot, .rst, .ctr] s t) ∧
      Keeps [.dev, .integ, .boot, .rst, .ctr] s (State.tryBanks s ns skipped).2.1 := by
  induction ns generalizing s skipped with
  | nil => exact ⟨fun _ h => by simp [State.tryBanks] at h, Keeps.refl _ _⟩
  | cons n ns ih =>
    have next : ∀ (u : State) (sk : List (Nat × Nat)), Keeps [.dev, .integ, .boot, .rst, .ctr] s u →
        (∀ t, (State.tryBanks u ns sk).1 = some t → Keeps [.dev, .integ, .boot, .rst, .ctr] s t) ∧
          Keeps [.dev, .integ, .boot, .rst, .ctr] s (State.tryBanks u ns sk).2.1 :=
      fun u sk hu => ⟨fun t ht => Keeps.step hu ((ih u sk).1 t ht) (fun _ hx => hx), Keeps.step hu (ih u sk).2 (fun _ hx => hx)⟩
    have h1 : ∀ a, Keeps [.dev, .integ, .boot, .rst, .ctr] s (((s.flashWrite a (zeros 4)).notice 0x0801).noteSkip n 6) := fun a =>
      Keeps.step (Keeps.step (Keeps.step (Keeps.refl _ _) (State.flashWrite_keeps ..) (by decide)) (State.notice_keeps ..) (by decide))
        (State.noteSkip_keeps ..) (by decide)
    have h2 : ∀ why, Keeps [.dev, .integ, .boot, .rst, .ctr] s ((s.notice 0x0800).noteSkip n why) := fun why =>
      Keeps.step (Keeps.step (Keeps.refl _ _) (State.notice_keeps ..) (by decide)) (State.noteSkip_keeps ..) (by decide)
    have h3 : Keeps [.dev, .integ, .boot, .rst, .ctr] s (s.noteStart n) := Keeps.step (Keeps.refl _ _) (State.noteStart_keeps ..) (by decide)
    rw [State.tryBanks]
    generalize bankBase n + 0x108 = a1
    dsimp only
    split
    · exact next _ _ (h1 a1)
    · split
      · rename_i why _
        have h := h2 why
        generalize (s.notice 0x0800).noteSkip n why = u at h ⊢
        exact next _ _ (Keeps.set_boot _ h (by decide) (fun i => i) (fun i => i) (fun i => i))
      · generalize s.noteStart n = u at h3 ⊢
        refine ⟨fun t ht => ?_, h3⟩
        cases ht
        exact Keeps.step h3 (State.handOver_keeps ..) (by decide)

theorem State.romStart_keeps (s : State) : Keeps [.boot, .rst, .ctr] s (State.romStart s) := by
  unfold State.romStart
  extract_lets +onlyGivenNames z0 z1 z2 y3 y4
  have h3 : Keeps [.boot, .rst, .ctr] s y3 := Keeps.set_boot_rst _ _ (Keeps.refl _ _) (by decide) (fun i => i) (fun i => i) (fun i => i)
  have h4 : Keeps [.boot, .rst, .ctr] s y4 := Keeps.step h3 (State.logEntry_keeps ..) (by decide)
  split
  · exact Keeps.step h4 (State.count_keeps ..) (by decide)
  · exact h4

theorem State.romFailed_keeps (skipped : List (Nat × Nat)) (s : State) : Keeps [.dev, .cool, .boot, .rst] s (State.romFailed skipped s) := by
  unfold State.romFailed
  exact Keeps.step (Keeps.set_dev_cool_boot_rst _ _ _ _ (Keeps.refl _ _) (by decide) (by exact fun i => i) (by exact fun i => i) (by exact fun i => i)) (State.driveAll_keeps ..) (by decide)

theorem State.romBanks_keeps (s : State) : Keeps [.dev, .cool, .integ, .boot, .rst, .ctr] s (State.romBanks s) := by
  have hb := State.tryBanks_keeps s s.candidates []
  unfold State.romBanks
  generalize s.tryBanks s.candidates [] = x at hb
  obtain ⟨a, u, sk⟩ := x
  cases a with
  | some t => exact Keeps.step (Keeps.refl _ _) (hb.1 t rfl) (by decide)
  | none => exact Keeps.step (Keeps.step (Keeps.refl _ _) hb.2 (by decide)) (State.romFailed_keeps ..) (by decide)

theorem State.romEntry_keeps (s : State) : Keeps [.dev, .cool, .integ, .boot, .rst, .ctr] s (State.romEntry s) := by
  unfold State.romEntry
  extract_lets +onlyGivenNames y0
  have h0 : Keeps [.dev, .cool, .integ, .boot, .rst, .ctr] s y0 := by
    unfold y0
    exact Keeps.step (Keeps.refl _ _) (State.romStart_keeps ..) (by decide)
  clear_value y0
  refine Keeps.ite _ ?_ ?_
  · refine Keeps.set_dev_boot _ _ ?_ (by decide) (fun i => i) (fun i => i) (fun i => i)
    assumption
  · refine Keeps.step ?_ (State.romBanks_keeps ..) (by decide)
    refine Keeps.step ?_ (State.copyStaging_keeps ..) (by decide)
    assumption

theorem State.rcvTake_keeps (off : Nat) (bs : Bytes) (s : State) : Keeps [.boot] s (State.rcvTake off bs s) := by
  unfold State.rcvTake
  refine Keeps.ite _ ?_ ?_
  · exact Keeps.refl _ _
  · exact Keeps.set_boot _ (Keeps.refl _ _) (by decide) (fun i => i) (fun i => i) (Mem.wf_write _ _)

theorem State.rcvBoot_keeps (s : State) : Keeps [.dev, .boot, .rst] s (State.rcvBoot s) := by
  unfold State.rcvBoot
  extract_lets +onlyGivenNames z0
  refine Keeps.ite _ ?_ ?_
  · exact Keeps.set_boot _ (Keeps.refl _ _) (by decide) (fun i => i) (fun i => i) (fun i => i)
  · extract_lets +onlyGivenNames z1
    split
    · exact Keeps.set_boot _ (Keeps.refl _ _) (by decide) (fun i => i) (fun i => i) (fun i => i)
    · exact Keeps.step (Keeps.refl _ _) (State.handOver_keeps ..) (by decide)

theorem State.loadStore_keeps (s : State) : Keeps [.cfg, .integ, .ctr] s (State.loadStore s) := by
  have h := State.chooseBank_keeps s s.validBanks true
  unfold State.loadStore
  split <;> rename_i hE <;> rw [hE] at h <;>
    exact Keeps.set_cfg _ (Keeps.step (Keeps.refl _ _) h (by decide)) (by decide)

theorem State.measureStore_keeps (s : State) : Keeps [.boot] s (State.measureStore s) := by
  unfold State.measureStore
  split
  · exact Keeps.set_boot _ (Keeps.refl _ _) (by decide) (fun i => i) (fun i => i) (fun i => i)
  · exact Keeps.refl _ _

theorem State.feedStart_keeps (s : State) (f : Feed) : Keeps [.weir, .integ, .rst, .ctr] s (State.feedStart s f) := by
  unfold State.feedStart
  refine Keeps.ite _ ?_ ?_
  · exact Keeps.step (Keeps.refl _ _) (State.updFeed_keeps ..) (by decide)
  · extract_lets +onlyGivenNames y0
    have h0 : Keeps [.weir, .integ, .rst, .ctr] s y0 := by
      unfold y0
      exact Keeps.step (Keeps.refl _ _) (State.updFeed_keeps ..) (by decide)
    clear_value y0
    refine Keeps.ite _ ?_ ?_
    · refine Keeps.step ?_ (State.notice_keeps ..) (by decide)
      refine Keeps.step ?_ (State.updFeed_keeps ..) (by decide)
      assumption
    · refine Keeps.ite _ ?_ ?_
      · refine Keeps.step ?_ (State.wantFeed_keeps ..) (by decide)
        assumption
      · assumption

theorem State.keeperLoad_keeps (tBe tPp : Nat) (s : State) : Keeps [.dev, .cfg, .integ, .boot, .upd, .ctr] s (State.keeperLoad tBe tPp s) := by
  unfold State.keeperLoad
  extract_lets +onlyGivenNames z0
  extract_lets +onlyGivenNames y1
  have h1 : Keeps [.dev, .cfg, .integ, .boot, .upd, .ctr] s y1 := by
    unfold y1
    exact Keeps.step (Keeps.set_dev _ (Keeps.refl _ _) (by decide)) (State.loadStore_keeps ..) (by decide)
  clear_value y1
  extract_lets +onlyGivenNames z2
  extract_lets +onlyGivenNames y3
  have h3 : Keeps [.dev, .cfg, .integ, .boot, .upd, .ctr] s y3 := by
    unfold y3
    refine Keeps.set_boot _ ?_ (by decide) (fun i => i) (fun i => i) (fun i => i)
    assumption
  clear_value y3
  extract_lets +onlyGivenNames y4
  have h4 : Keeps [.dev, .cfg, .integ, .boot, .upd, .ctr] s y4 := by
    unfold y4
    refine Keeps.step ?_ (State.logEntry_keeps ..) (by decide)
    refine Keeps.step ?_ (State.measurePacks_keeps ..) (by decide)
    refine Keeps.step ?_ (State.measureStore_keeps ..) (by decide)
    assumption
  clear_value y4
  refine Keeps.set_upd _ ?_ (by decide) (fun i => i)
  assumption

theorem State.releaseK1_keeps (s : State) : Keeps [.chk, .integ, .boot, .ctr] s (State.releaseK1 s) := by
  unfold State.releaseK1
  extract_lets +onlyGivenNames y0
  have h0 : Keeps [.chk, .integ, .boot, .ctr] s y0 := by
    unfold y0
    exact Keeps.step (Keeps.refl _ _) (State.updCore_keeps ..) (by decide)
  clear_value y0
  refine Keeps.ite _ ?_ ?_
  · exact Keeps.step (Keeps.step h0 (State.releaseCore_keeps ..) (by decide)) (State.logEntry_keeps ..) (by decide)
  · exact Keeps.step h0 (State.notice_keeps ..) (by decide)

theorem State.keeperFans_keeps (s : State) : Keeps [.cool] s (State.keeperFans s) := by
  unfold State.keeperFans
  exact Keeps.step (Keeps.set_cool _ (Keeps.refl _ _) (by decide)) (State.driveAll_keeps ..) (by decide)

theorem State.keeperStart_keeps (tBe : Nat) (tPp : Nat) (s : State) : Keeps [.dev, .cfg, .weir, .cool, .chk, .integ, .boot, .upd, .rst, .ctr] s (State.keeperStart tBe tPp s) := by
  unfold State.keeperStart
  refine Keeps.foldl _ _ ?_ (fun _ _ _ => ?_)
  · exact Keeps.step (Keeps.step (Keeps.step (Keeps.refl _ _) (State.keeperLoad_keeps ..) (by decide)) (State.releaseK1_keeps ..) (by decide)) (State.keeperFans_keeps ..) (by decide)
  · refine Keeps.step ?_ (State.feedStart_keeps ..) (by decide)
    assumption

theorem State.confirmBank_keeps (s : State) : Keeps [.boot, .ctr] s (State.confirmBank s) := by
  unfold State.confirmBank
  split
  · extract_lets +onlyGivenNames y0
    have h0 : Keeps [.boot, .ctr] s y0 := by
      unfold y0
      exact Keeps.step (Keeps.step (Keeps.refl _ _) (State.flashWrite_keeps ..) (by decide)) (State.logEntry_keeps ..) (by decide)
    clear_value y0
    refine Keeps.set_boot _ ?_ (by decide) (fun i => i) (fun i => i) (fun i => i)
    assumption
  · exact Keeps.refl _ _

theorem State.setKeySlot_keeps (i : Fin 4) (k : KeySlot) (s : State) : Keeps [.boot] s (State.setKeySlot i k s) := by
  unfold State.setKeySlot
  exact Keeps.set_boot _ (Keeps.refl _ _) (by decide) (fun i => i) (fun i => i) (fun i => i)

theorem bootStatusOp_within : bootStatusOp.Within [.bus, .wins, .out] := by
  refine ⟨fun p ps b s => ?_, fun p ps s => ?_⟩
  · dsimp only [bootStatusOp, OpSpec.query]
    exact Keeps.step (Keeps.refl _ _) (State.answer_keeps ..) (by decide)
  · dsimp only [bootStatusOp, OpSpec.query]
    exact Keeps.refl _ _

theorem keyStatusOp_within : keyStatusOp.Within [.bus, .wins, .out] := by
  refine ⟨fun p ps b s => ?_, fun p ps s => ?_⟩
  · dsimp only [keyStatusOp, OpSpec.query]
    exact Keeps.step (Keeps.refl _ _) (State.answer_keeps ..) (by decide)
  · dsimp only [keyStatusOp, OpSpec.query]
    exact Keeps.refl _ _

theorem keyProgramOp_within : keyProgramOp.Within [.bus, .wins, .boot, .out] := by
  refine ⟨fun p ps b s => ?_, fun p ps s => ?_⟩
  · dsimp only [keyProgramOp, OpSpec.query]
    exact Keeps.step (Keeps.step (Keeps.refl _ _) (State.setKeySlot_keeps ..) (by decide)) (State.answer_keeps ..) (by decide)
  · dsimp only [keyProgramOp, OpSpec.query]
    exact Keeps.refl _ _

theorem keyRevokeOp_within : keyRevokeOp.Within [.bus, .wins, .boot, .out] := by
  refine ⟨fun p ps b s => ?_, fun p ps s => ?_⟩
  · dsimp only [keyRevokeOp, OpSpec.query]
    exact Keeps.step (Keeps.step (Keeps.refl _ _) (State.setKeySlot_keeps ..) (by decide)) (State.answer_keeps ..) (by decide)
  · dsimp only [keyRevokeOp, OpSpec.query]
    exact Keeps.refl _ _

theorem execOptionLoadingDone_keeps (good : Bool) (opt : OptionBlock) (bootSrc : BitVec 2) (clkMode : BitVec 2) (s : State) : ∃ t, execOptionLoadingDone good opt bootSrc clkMode s = .next t ∧ Keeps [.dev, .cool, .ctr] s t := by
  unfold execOptionLoadingDone
  refine ⟨_, rfl, ?_⟩
  refine Keeps.ite _ ?_ ?_
  · exact Keeps.step (Keeps.refl _ _) (State.optionsDone_keeps ..) (by decide)
  · exact Keeps.refl _ _

theorem execOptionFaultRetry_keeps (s : State) : ∃ t, execOptionFaultRetry s = .next t ∧ Keeps [.dev] s t := by
  unfold execOptionFaultRetry
  refine ⟨_, rfl, ?_⟩
  refine Keeps.ite _ ?_ ?_
  · exact Keeps.set_dev _ (Keeps.refl _ _) (by decide)
  · exact Keeps.refl _ _

theorem execReferenceCheck_keeps (ok : Bool) (s : State) : ∃ t, execReferenceCheck ok s = .next t ∧ Keeps [.dev] s t := by
  unfold execReferenceCheck
  refine ⟨_, rfl, ?_⟩
  refine Keeps.ite _ ?_ ?_
  · exact Keeps.step (Keeps.set_dev _ (Keeps.refl _ _) (by decide)) (State.startPll_keeps ..) (by decide)
  · exact Keeps.refl _ _

theorem execTmcRstNRelease_keeps (heldLow : Bool) (s : State) : ∃ t, execTmcRstNRelease heldLow s = .next t ∧ Keeps Part.all s t := by
  unfold execTmcRstNRelease
  refine ⟨_, rfl, ?_⟩
  refine Keeps.ite _ ?_ ?_
  · extract_lets +onlyGivenNames z0
    extract_lets +onlyGivenNames y1
    have h1 : Keeps Part.all s y1 := by
      unfold y1
      exact Keeps.set_dev _ (Keeps.refl _ _) (by decide)
    clear_value y1
    refine Keeps.ite _ ?_ ?_
    · refine Keeps.step ?_ (State.systemReset_keeps ..) (by decide)
      assumption
    · assumption
  · exact Keeps.refl _ _

theorem execProtectionsArmed_keeps (s : State) : ∃ t, execProtectionsArmed s = .next t ∧ Keeps [.dev, .cool] s t := by
  unfold execProtectionsArmed
  refine ⟨_, rfl, ?_⟩
  refine Keeps.ite _ ?_ ?_
  · exact Keeps.step (Keeps.refl _ _) (State.arm_keeps ..) (by decide)
  · exact Keeps.refl _ _

theorem execRomEntry_keeps (s : State) : ∃ t, execRomEntry s = .next t ∧ Keeps [.dev, .cool, .integ, .boot, .rst, .ctr] s t := by
  unfold execRomEntry
  refine ⟨_, rfl, ?_⟩
  refine Keeps.ite _ ?_ ?_
  · exact Keeps.step (Keeps.refl _ _) (State.romEntry_keeps ..) (by decide)
  · exact Keeps.refl _ _

theorem execRomFailRetry_keeps (s : State) : ∃ t, execRomFailRetry s = .next t ∧ Keeps Part.all s t := by
  unfold execRomFailRetry
  refine ⟨_, rfl, ?_⟩
  refine Keeps.ite _ ?_ ?_
  · exact Keeps.step (Keeps.refl _ _) (State.systemReset_keeps ..) (by decide)
  · exact Keeps.refl _ _

theorem execKeeperImageStart_keeps (tBeMs : Nat) (tPpUs : Nat) (s : State) : ∃ t, execKeeperImageStart tBeMs tPpUs s = .next t ∧ Keeps [.dev, .cfg, .weir, .cool, .chk, .integ, .boot, .upd, .rst, .ctr] s t := by
  unfold execKeeperImageStart
  refine ⟨_, rfl, ?_⟩
  refine Keeps.ite _ ?_ ?_
  · exact Keeps.step (Keeps.refl _ _) (State.keeperStart_keeps ..) (by decide)
  · exact Keeps.refl _ _

theorem execBankConfirm_keeps (s : State) : ∃ t, execBankConfirm s = .next t ∧ Keeps [.boot, .ctr] s t := by
  unfold execBankConfirm
  refine ⟨_, rfl, ?_⟩
  refine Keeps.ite _ ?_ ?_
  · exact Keeps.step (Keeps.refl _ _) (State.confirmBank_keeps ..) (by decide)
  · exact Keeps.refl _ _

theorem execRcvCopy_keeps (s : State) : ∃ t, execRcvCopy s = .next t ∧ Keeps [.boot] s t := by
  unfold execRcvCopy
  refine ⟨_, rfl, ?_⟩
  refine Keeps.ite _ ?_ ?_
  · exact Keeps.step (Keeps.refl _ _) (State.rcvTake_keeps ..) (by decide)
  · exact Keeps.refl _ _

theorem execRcvCheckAndBoot_keeps (s : State) : ∃ t, execRcvCheckAndBoot s = .next t ∧ Keeps [.dev, .boot, .rst] s t := by
  unfold execRcvCheckAndBoot
  refine ⟨_, rfl, ?_⟩
  refine Keeps.ite _ ?_ ?_
  · exact Keeps.step (Keeps.refl _ _) (State.rcvBoot_keeps ..) (by decide)
  · exact Keeps.refl _ _

theorem execRcvI3cCopy_keeps (len : Nat) (off : Nat) (data : Bytes) (crc : Byte) (s : State) : ∃ t, execRcvI3cCopy len off data crc s = .next t ∧ Keeps [.boot] s t := by
  unfold execRcvI3cCopy
  refine ⟨_, rfl, ?_⟩
  refine Keeps.ite _ ?_ ?_
  · exact Keeps.step (Keeps.refl _ _) (State.rcvTake_keeps ..) (by decide)
  · exact Keeps.refl _ _

theorem execRcvI3cCheckAndBoot_keeps (len : Nat) (off : Nat) (data : Bytes) (crc : Byte) (s : State) : ∃ t, execRcvI3cCheckAndBoot len off data crc s = .next t ∧ Keeps [.dev, .boot, .rst] s t := by
  unfold execRcvI3cCheckAndBoot
  refine ⟨_, rfl, ?_⟩
  refine Keeps.ite _ ?_ ?_
  · exact Keeps.step (Keeps.refl _ _) (State.rcvBoot_keeps ..) (by decide)
  · exact Keeps.refl _ _

theorem execRcvI3cStateRead_keeps (s : State) : ∃ t, execRcvI3cStateRead s = .next t ∧ Keeps [.out] s t := by
  unfold execRcvI3cStateRead
  refine ⟨_, rfl, ?_⟩
  refine Keeps.ite _ ?_ ?_
  · exact Keeps.step (Keeps.refl _ _) (State.send_keeps ..) (by decide)
  · exact Keeps.refl _ _

theorem execBootStatus_keeps (p : Port) (tag : BitVec 32) (params : Bytes) (s : State) : ∃ t, execBootStatus p tag params s = .next t ∧ Keeps [.bus, .wins, .cfg, .ctr, .out] s t :=
  ⟨_, rfl, State.submit_keeps (OpSpec.Within.mono bootStatusOp_within (by decide)) (by decide) ..⟩

theorem execKeyStatus_keeps (p : Port) (tag : BitVec 32) (params : Bytes) (s : State) : ∃ t, execKeyStatus p tag params s = .next t ∧ Keeps [.bus, .wins, .cfg, .ctr, .out] s t :=
  ⟨_, rfl, State.submit_keeps (OpSpec.Within.mono keyStatusOp_within (by decide)) (by decide) ..⟩

theorem execKeyProgram_keeps (p : Port) (tag : BitVec 32) (params : Bytes) (s : State) : ∃ t, execKeyProgram p tag params s = .next t ∧ Keeps [.bus, .wins, .cfg, .boot, .ctr, .out] s t :=
  ⟨_, rfl, State.submit_keeps (OpSpec.Within.mono keyProgramOp_within (by decide)) (by decide) ..⟩

theorem execKeyRevoke_keeps (p : Port) (tag : BitVec 32) (params : Bytes) (s : State) : ∃ t, execKeyRevoke p tag params s = .next t ∧ Keeps [.bus, .wins, .cfg, .boot, .ctr, .out] s t :=
  ⟨_, rfl, State.submit_keeps (OpSpec.Within.mono keyRevokeOp_within (by decide)) (by decide) ..⟩
end Sys2Proof.Machine
end

