-- ==== Sys2Proof/Laws/KeepsSideband.lean ====
section
/-!
SUPPORT. What the operations of Machine/Sideband.lean touch, and that they keep the invariant.
-/

namespace Sys2Proof.Machine
theorem State.setAddr_keeps (a : BitVec 7) (s : State) : Keeps [.sess] s (State.setAddr a s) := by
  unfold State.setAddr
  exact Keeps.set_sess _ (Keeps.refl _ _) (by decide)

theorem State.controlReply_keeps (cmd : Byte) (bs : Bytes) (s : State) : Keeps [.out] s (State.controlReply cmd bs s) := by
  unfold State.controlReply
  exact Keeps.step (Keeps.refl _ _) (State.send_keeps ..) (by decide)

theorem State.mctpReply_keeps (cmd : Byte) (d : Bytes) (s : State) : Keeps [.sess, .out] s (State.mctpReply cmd d s) := by
  unfold State.mctpReply
  split
  · extract_lets +onlyGivenNames z0
    refine Keeps.ite _ ?_ ?_
    · refine Keeps.ite _ ?_ ?_
      · exact Keeps.step (Keeps.refl _ _) (State.controlReply_keeps ..) (by decide)
      · exact Keeps.step (Keeps.set_sess _ (Keeps.refl _ _) (by decide)) (State.controlReply_keeps ..) (by decide)
    · exact Keeps.step (Keeps.refl _ _) (State.controlReply_keeps ..) (by decide)
  · exact Keeps.step (Keeps.refl _ _) (State.controlReply_keeps ..) (by decide)
  · extract_lets +onlyGivenNames z0
    refine Keeps.ite _ ?_ ?_
    · exact Keeps.step (Keeps.refl _ _) (State.controlReply_keeps ..) (by decide)
    · exact Keeps.step (Keeps.refl _ _) (State.controlReply_keeps ..) (by decide)
  · exact Keeps.step (Keeps.refl _ _) (State.controlReply_keeps ..) (by decide)
  · exact Keeps.step (Keeps.refl _ _) (State.controlReply_keeps ..) (by decide)

theorem State.pldmReply_keeps (type : Byte) (cmd : Byte) (bs : Bytes) (s : State) : Keeps [.out] s (State.pldmReply type cmd bs s) := by
  unfold State.pldmReply
  exact Keeps.step (Keeps.refl _ _) (State.send_keeps ..) (by decide)

theorem State.setSpdm_keeps (v : Bool) (a : Bool) (x : Bytes) (y : Bytes) (z : Bytes) (s : State) : Keeps [.sess] s (State.setSpdm v a x y z s) := by
  unfold State.setSpdm
  exact Keeps.set_sess _ (Keeps.refl _ _) (by decide)

theorem State.spdmSend_keeps (bs : Bytes) (s : State) : Keeps [.out] s (State.spdmSend bs s) := by
  unfold State.spdmSend
  exact Keeps.step (Keeps.refl _ _) (State.send_keeps ..) (by decide)

theorem State.spdmError_keeps (code : Byte) (req : Byte) (s : State) : Keeps [.out] s (State.spdmError code req s) := by
  unfold State.spdmError
  exact Keeps.step (Keeps.refl _ _) (State.spdmSend_keeps ..) (by decide)

theorem State.signed_keeps (d : Bytes) (s : State) : Keeps [.free] s (State.signed d s).2 := by
  unfold State.signed
  exact Keeps.step (Keeps.refl _ _) (State.drawn_keeps ..) (by decide)

theorem State.nonce_keeps (s : State) : Keeps [.free] s (State.nonce s).2 := by
  unfold State.nonce
  exact Keeps.step (Keeps.refl _ _) (State.drawn_keeps ..) (by decide)

theorem State.spdmVersions_keeps (s : State) : Keeps [.sess, .out] s (State.spdmVersions s) := by
  unfold State.spdmVersions
  extract_lets +onlyGivenNames z0
  extract_lets +onlyGivenNames z1
  exact Keeps.step (Keeps.step (Keeps.refl _ _) (State.setSpdm_keeps ..) (by decide)) (State.spdmSend_keeps ..) (by decide)

theorem State.spdmCapabilities_keeps (req : Bytes) (s : State) : Keeps [.sess, .out] s (State.spdmCapabilities req s) := by
  unfold State.spdmCapabilities
  refine Keeps.ite _ ?_ ?_
  · exact Keeps.step (Keeps.refl _ _) (State.spdmError_keeps ..) (by decide)
  · extract_lets +onlyGivenNames z0
    exact Keeps.step (Keeps.step (Keeps.refl _ _) (State.setSpdm_keeps ..) (by decide)) (State.spdmSend_keeps ..) (by decide)

theorem State.spdmAlgorithms_keeps (req : Bytes) (s : State) : Keeps [.sess, .out] s (State.spdmAlgorithms req s) := by
  unfold State.spdmAlgorithms
  refine Keeps.ite _ ?_ ?_
  · exact Keeps.step (Keeps.refl _ _) (State.spdmError_keeps ..) (by decide)
  · extract_lets +onlyGivenNames z0
    exact Keeps.step (Keeps.step (Keeps.refl _ _) (State.setSpdm_keeps ..) (by decide)) (State.spdmSend_keeps ..) (by decide)

theorem State.spdmDigests_keeps (s : State) : Keeps [.sess, .out] s (State.spdmDigests s) := by
  unfold State.spdmDigests
  refine Keeps.ite _ ?_ ?_
  · exact Keeps.step (Keeps.refl _ _) (State.spdmError_keeps ..) (by decide)
  · extract_lets +onlyGivenNames z0
    exact Keeps.step (Keeps.step (Keeps.refl _ _) (State.setSpdm_keeps ..) (by decide)) (State.spdmSend_keeps ..) (by decide)

theorem State.spdmCertificate_keeps (slot : Byte) (off : Nat) (len : Nat) (s : State) : Keeps [.sess, .out] s (State.spdmCertificate slot off len s) := by
  unfold State.spdmCertificate
  extract_lets +onlyGivenNames z0
  refine Keeps.ite _ ?_ ?_
  · exact Keeps.step (Keeps.refl _ _) (State.spdmError_keeps ..) (by decide)
  · refine Keeps.ite _ ?_ ?_
    · exact Keeps.step (Keeps.refl _ _) (State.spdmError_keeps ..) (by decide)
    · extract_lets +onlyGivenNames z1
      extract_lets +onlyGivenNames z2
      exact Keeps.step (Keeps.step (Keeps.refl _ _) (State.setSpdm_keeps ..) (by decide)) (State.spdmSend_keeps ..) (by decide)

theorem State.spdmChallenge_keeps (slot hashType : Byte) (non : Bytes) (s : State) : Keeps [.sess, .out, .free] s (State.spdmChallenge slot hashType non s) := by
  have h : Keeps [.sess, .out, .free] s s.nonce.2 := Keeps.step (Keeps.refl _ _) (State.nonce_keeps s) (by decide)
  unfold State.spdmChallenge
  refine Keeps.ite _ (Keeps.step (Keeps.refl _ _) (State.spdmError_keeps ..) (by decide)) ?_
  refine Keeps.ite _ (Keeps.step (Keeps.refl _ _) (State.spdmError_keeps ..) (by decide)) ?_
  simp only
  exact Keeps.step (Keeps.step (Keeps.step h (State.signed_keeps _ s.nonce.2) (by decide)) (State.setSpdm_keeps ..) (by decide))
    (State.spdmSend_keeps ..) (by decide)

theorem State.spdmMeasurements_keeps (attr op : Byte) (non : Bytes) (s : State) : Keeps [.sess, .out, .free] s (State.spdmMeasurements attr op non s) := by
  have h : Keeps [.sess, .out, .free] s s.nonce.2 := Keeps.step (Keeps.refl _ _) (State.nonce_keeps s) (by decide)
  unfold State.spdmMeasurements
  simp only
  refine Keeps.ite _ (Keeps.step (Keeps.refl _ _) (State.spdmError_keeps ..) (by decide)) ?_
  refine Keeps.ite _ (Keeps.step (Keeps.refl _ _) (State.spdmError_keeps ..) (by decide)) ?_
  refine Keeps.ite _ ?_ ?_
  · exact Keeps.step (Keeps.step (Keeps.step h (State.signed_keeps _ s.nonce.2) (by decide)) (State.setSpdm_keeps ..) (by decide))
      (State.spdmSend_keeps ..) (by decide)
  · exact Keeps.step (Keeps.step h (State.setSpdm_keeps ..) (by decide)) (State.spdmSend_keeps ..) (by decide)

theorem execSidebandStatusQuery_keeps (s : State) : ∃ t, execSidebandStatusQuery s = .next t ∧ Keeps [.out] s t := by
  unfold execSidebandStatusQuery
  unfold State.sidebandDo
  refine ⟨_, rfl, ?_⟩
  refine Keeps.ite _ ?_ ?_
  · exact Keeps.step (Keeps.refl _ _) (State.sbSend_keeps ..) (by decide)
  · exact Keeps.refl _ _

theorem execSidebandCompletionNotice_keeps (s : State) : ∃ t, execSidebandCompletionNotice s = .next t ∧ Keeps [.wins, .out] s t := by
  unfold execSidebandCompletionNotice
  unfold State.sidebandDo
  refine ⟨_, rfl, ?_⟩
  refine Keeps.ite _ ?_ ?_
  · refine Keeps.ite _ ?_ ?_
    · exact Keeps.step (Keeps.step (Keeps.refl _ _) (State.sbSend_keeps ..) (by decide)) (State.updWin_keeps _ _ _ (fun i => i)) (by decide)
    · exact Keeps.refl _ _
  · exact Keeps.refl _ _

theorem execMctpControl_keeps (cmd : Byte) (data : Bytes) (s : State) : ∃ t, execMctpControl cmd data s = .next t ∧ Keeps [.sess, .out] s t := by
  unfold execMctpControl
  unfold State.sidebandDo
  refine ⟨_, rfl, ?_⟩
  refine Keeps.ite _ ?_ ?_
  · exact Keeps.step (Keeps.refl _ _) (State.mctpReply_keeps ..) (by decide)
  · exact Keeps.refl _ _

theorem execMctpOtherMessage_keeps (_type : Byte) (_data : Bytes) (s : State) : ∃ t, execMctpOtherMessage _type _data s = .next t ∧ Keeps [] s t := by
  unfold execMctpOtherMessage
  exact ⟨_, rfl, Keeps.refl _ _⟩

theorem execI3cEntdaa_keeps (addr : BitVec 7) (s : State) : ∃ t, execI3cEntdaa addr s = .next t ∧ Keeps [.sess] s t := by
  unfold execI3cEntdaa
  refine ⟨_, rfl, ?_⟩
  refine Keeps.ite _ ?_ ?_
  · exact Keeps.step (Keeps.refl _ _) (State.setAddr_keeps ..) (by decide)
  · exact Keeps.refl _ _

theorem execI3cSetdasa_keeps (static : BitVec 7) (addr : BitVec 7) (s : State) : ∃ t, execI3cSetdasa static addr s = .next t ∧ Keeps [.sess] s t := by
  unfold execI3cSetdasa
  refine ⟨_, rfl, ?_⟩
  refine Keeps.ite _ ?_ ?_
  · exact Keeps.step (Keeps.refl _ _) (State.setAddr_keeps ..) (by decide)
  · exact Keeps.refl _ _

theorem execGetTid_keeps (s : State) : ∃ t, execGetTid s = .next t ∧ Keeps [.out] s t := by
  unfold execGetTid
  unfold State.sidebandDo
  refine ⟨_, rfl, ?_⟩
  refine Keeps.ite _ ?_ ?_
  · exact Keeps.step (Keeps.refl _ _) (State.pldmReply_keeps ..) (by decide)
  · exact Keeps.refl _ _

theorem execGetPldmVersion_keeps (type : Byte) (s : State) : ∃ t, execGetPldmVersion type s = .next t ∧ Keeps [.out] s t := by
  unfold execGetPldmVersion
  unfold State.sidebandDo
  refine ⟨_, rfl, ?_⟩
  refine Keeps.ite _ ?_ ?_
  · exact Keeps.step (Keeps.refl _ _) (State.pldmReply_keeps ..) (by decide)
  · exact Keeps.refl _ _

theorem execGetPldmTypes_keeps (s : State) : ∃ t, execGetPldmTypes s = .next t ∧ Keeps [.out] s t := by
  unfold execGetPldmTypes
  unfold State.sidebandDo
  refine ⟨_, rfl, ?_⟩
  refine Keeps.ite _ ?_ ?_
  · exact Keeps.step (Keeps.refl _ _) (State.pldmReply_keeps ..) (by decide)
  · exact Keeps.refl _ _

theorem execGetPldmCommands_keeps (type : Byte) (s : State) : ∃ t, execGetPldmCommands type s = .next t ∧ Keeps [.out] s t := by
  unfold execGetPldmCommands
  unfold State.sidebandDo
  refine ⟨_, rfl, ?_⟩
  refine Keeps.ite _ ?_ ?_
  · exact Keeps.step (Keeps.refl _ _) (State.pldmReply_keeps ..) (by decide)
  · exact Keeps.refl _ _

theorem execGetPdrRepositoryInfo_keeps (s : State) : ∃ t, execGetPdrRepositoryInfo s = .next t ∧ Keeps [.out] s t := by
  unfold execGetPdrRepositoryInfo
  unfold State.sidebandDo
  refine ⟨_, rfl, ?_⟩
  refine Keeps.ite _ ?_ ?_
  · exact Keeps.step (Keeps.refl _ _) (State.pldmReply_keeps ..) (by decide)
  · exact Keeps.refl _ _

theorem execGetPdr_keeps (handle : BitVec 32) (s : State) : ∃ t, execGetPdr handle s = .next t ∧ Keeps [.out] s t := by
  unfold execGetPdr
  unfold State.sidebandDo
  refine ⟨_, rfl, ?_⟩
  refine Keeps.ite _ ?_ ?_
  · exact Keeps.step (Keeps.refl _ _) (State.pldmReply_keeps ..) (by decide)
  · exact Keeps.refl _ _

theorem execGetSensorReading_keeps (id : BitVec 16) (s : State) : ∃ t, execGetSensorReading id s = .next t ∧ Keeps [.out] s t := by
  unfold execGetSensorReading
  unfold State.sidebandDo
  refine ⟨_, rfl, ?_⟩
  refine Keeps.ite _ ?_ ?_
  · exact Keeps.step (Keeps.refl _ _) (State.pldmReply_keeps ..) (by decide)
  · exact Keeps.refl _ _

theorem execGetVersion_keeps (s : State) : ∃ t, execGetVersion s = .next t ∧ Keeps [.sess, .out] s t := by
  unfold execGetVersion
  unfold State.sidebandDo
  refine ⟨_, rfl, ?_⟩
  refine Keeps.ite _ ?_ ?_
  · exact Keeps.step (Keeps.refl _ _) (State.spdmVersions_keeps ..) (by decide)
  · exact Keeps.refl _ _

theorem execGetCapabilities_keeps (req : Bytes) (s : State) : ∃ t, execGetCapabilities req s = .next t ∧ Keeps [.sess, .out] s t := by
  unfold execGetCapabilities
  unfold State.sidebandDo
  refine ⟨_, rfl, ?_⟩
  refine Keeps.ite _ ?_ ?_
  · exact Keeps.step (Keeps.refl _ _) (State.spdmCapabilities_keeps ..) (by decide)
  · exact Keeps.refl _ _

theorem execNegotiateAlgorithms_keeps (req : Bytes) (s : State) : ∃ t, execNegotiateAlgorithms req s = .next t ∧ Keeps [.sess, .out] s t := by
  unfold execNegotiateAlgorithms
  unfold State.sidebandDo
  refine ⟨_, rfl, ?_⟩
  refine Keeps.ite _ ?_ ?_
  · exact Keeps.step (Keeps.refl _ _) (State.spdmAlgorithms_keeps ..) (by decide)
  · exact Keeps.refl _ _

theorem execGetDigests_keeps (s : State) : ∃ t, execGetDigests s = .next t ∧ Keeps [.sess, .out] s t := by
  unfold execGetDigests
  unfold State.sidebandDo
  refine ⟨_, rfl, ?_⟩
  refine Keeps.ite _ ?_ ?_
  · exact Keeps.step (Keeps.refl _ _) (State.spdmDigests_keeps ..) (by decide)
  · exact Keeps.refl _ _

theorem execGetCertificate_keeps (slot : Byte) (off : BitVec 16) (len : BitVec 16) (s : State) : ∃ t, execGetCertificate slot off len s = .next t ∧ Keeps [.sess, .out] s t := by
  unfold execGetCertificate
  unfold State.sidebandDo
  refine ⟨_, rfl, ?_⟩
  refine Keeps.ite _ ?_ ?_
  · exact Keeps.step (Keeps.refl _ _) (State.spdmCertificate_keeps ..) (by decide)
  · exact Keeps.refl _ _

theorem execChallenge_keeps (slot : Byte) (hashType : Byte) (nonce : Bytes) (s : State) : ∃ t, execChallenge slot hashType nonce s = .next t ∧ Keeps [.sess, .out, .free] s t := by
  unfold execChallenge
  unfold State.sidebandDo
  refine ⟨_, rfl, ?_⟩
  refine Keeps.ite _ ?_ ?_
  · exact Keeps.step (Keeps.refl _ _) (State.spdmChallenge_keeps ..) (by decide)
  · exact Keeps.refl _ _

theorem execGetMeasurements_keeps (attr : Byte) (op : Byte) (nonce : Bytes) (s : State) : ∃ t, execGetMeasurements attr op nonce s = .next t ∧ Keeps [.sess, .out, .free] s t := by
  unfold execGetMeasurements
  unfold State.sidebandDo
  refine ⟨_, rfl, ?_⟩
  refine Keeps.ite _ ?_ ?_
  · exact Keeps.step (Keeps.refl _ _) (State.spdmMeasurements_keeps ..) (by decide)
  · exact Keeps.refl _ _

theorem execKeyExchange_keeps (_req : Bytes) (s : State) : ∃ t, execKeyExchange _req s = .next t ∧ Keeps [.out] s t := by
  unfold execKeyExchange
  unfold State.sidebandDo
  refine ⟨_, rfl, ?_⟩
  refine Keeps.ite _ ?_ ?_
  · exact Keeps.step (Keeps.refl _ _) (State.spdmError_keeps ..) (by decide)
  · exact Keeps.refl _ _

theorem execPskExchange_keeps (_req : Bytes) (s : State) : ∃ t, execPskExchange _req s = .next t ∧ Keeps [.out] s t := by
  unfold execPskExchange
  unfold State.sidebandDo
  refine ⟨_, rfl, ?_⟩
  refine Keeps.ite _ ?_ ?_
  · exact Keeps.step (Keeps.refl _ _) (State.spdmError_keeps ..) (by decide)
  · exact Keeps.refl _ _
end Sys2Proof.Machine
end

