-- ==== Sys2Proof/Laws/KeepsBasin.lean ====
section
/-!
SUPPORT. What the operations of Machine/Basin.lean touch, and that they keep the invariant.
-/

namespace Sys2Proof.Machine
theorem State.bar2Fetch_keeps (off len : Nat) (errs : List LineErr) (s : State) :
    Keeps [.bus, .basin, .integ, .ctr, .free] s (State.bar2Fetch off len errs s) := by
  have key : ∀ (ls : List Nat) (x : List Nat × List LineErr × State), Keeps [.bus, .basin, .integ, .ctr, .free] s x.2.2 →
      Keeps [.bus, .basin, .integ, .ctr, .free] s (ls.foldl (fun (x : List Nat × List LineErr × State) l =>
        if (x.2.2.placeOf l).served then
          (if (State.readLine l x.2).1 then x.1 ++ [l] else x.1, (State.readLine l x.2).2)
        else x) x).2.2 := by
    intro ls
    induction ls with
    | nil => exact fun _ h => h
    | cons l ls ih =>
      intro x h
      rw [List.foldl_cons]
      refine ih _ ?_
      by_cases hc : (x.2.2.placeOf l).served = true
      · rw [if_pos hc]; exact Keeps.step h (State.readLine_keeps ..) (by decide)
      · rw [if_neg hc]; exact h
  unfold State.bar2Fetch
  simp only
  have h := key (linesOf off len) ([], errs, s) (Keeps.refl _ _)
  refine Keeps.ite _ ?_ (Keeps.step (Keeps.step ?_ (State.drawn_keeps ..) (by decide)) (State.notice_keeps ..) (by decide))
  all_goals exact Keeps.set_bus _ h (by decide) (fun i => i)

theorem State.storeLine_keeps (off : Nat) (data : Bytes) (line : Nat) (x : List Nat × List LineErr × State) :
    Keeps [.basin, .integ, .ctr, .free] x.2.2 (State.storeLine off data line x).2.2 := by
  have h : Keeps [.basin, .integ, .ctr, .free] x.2.2 (State.readLine line x.2).2.2 := State.readLine_keeps ..
  unfold State.storeLine
  simp only
  split
  · exact Keeps.refl _ _
  · exact Keeps.refl _ _
  · exact Keeps.refl _ _
  · split
    · exact Keeps.refl _ _
    · split
      · exact Keeps.set_basin _ (Keeps.refl _ _) (by decide) (Mem.wf_write _ _)
      · split
        · exact h
        · exact Keeps.set_basin _ h (by decide) (Mem.wf_write _ _)

theorem State.bar2Store_keeps (off : Nat) (data : Bytes) (errs : List LineErr) (s : State) :
    Keeps [.basin, .integ, .ctr, .free] s (State.bar2Store off data errs s) := by
  have key : ∀ (ls : List Nat) (x : List Nat × List LineErr × State), Keeps [.basin, .integ, .ctr, .free] s x.2.2 →
      Keeps [.basin, .integ, .ctr, .free] s (ls.foldl (fun x l => State.storeLine off data l x) x).2.2 := by
    intro ls
    induction ls with
    | nil => exact fun _ h => h
    | cons l ls ih => exact fun x h => ih _ (Keeps.step h (State.storeLine_keeps ..) (by decide))
  unfold State.bar2Store
  refine Keeps.ite _ (Keeps.step (Keeps.refl _ _) (State.count_keeps ..) (by decide)) ?_
  exact Keeps.foldl _ _ (key _ ([], errs, s) (Keeps.refl _ _)) (fun _ _ h => Keeps.step h (State.count_keeps ..) (by decide))

theorem State.bar2Access_keeps (off : Nat) (data : Option Bytes) (len : Nat) (errs : List LineErr) (s : State) :
    Keeps [.dev, .bus, .basin, .integ, .ctr, .free] s (State.bar2Access off data len errs s) := by
  have serve : ∀ t : State, Keeps [.dev, .bus, .basin, .integ, .ctr, .free] s t →
      Keeps [.dev, .bus, .basin, .integ, .ctr, .free] s (match data with | some d => t.bar2Store off d errs | none => t.bar2Fetch off len errs) := by
    intro t h
    cases data with
    | some d => exact Keeps.step h (State.bar2Store_keeps ..) (by decide)
    | none => exact Keeps.step h (State.bar2Fetch_keeps ..) (by decide)
  have h : Keeps [.dev, .bus, .basin, .integ, .ctr, .free] s s.startBasin := Keeps.step (Keeps.refl _ _) (State.startBasin_keeps ..) (by decide)
  unfold State.bar2Access
  refine Keeps.ite _ (serve _ (Keeps.refl _ _)) ?_
  refine Keeps.ite _ (serve _ h) ?_
  exact Keeps.set_bus _ h (by decide) (fun i => i)

theorem State.basinReady_keeps (s : State) : Keeps [.bus, .wins, .basin, .integ, .ctr, .out, .free] s (State.basinReady s) := by
  unfold State.basinReady
  extract_lets +onlyGivenNames z0
  extract_lets +onlyGivenNames z1
  extract_lets +onlyGivenNames z2
  extract_lets +onlyGivenNames y3
  have h3 : Keeps [.bus, .wins, .basin, .integ, .ctr, .out, .free] s y3 := by
    unfold y3
    exact Keeps.set_bus_basin _ _ (Keeps.refl _ _) (by decide) (fun i => i) (fun i => i)
  clear_value y3
  extract_lets +onlyGivenNames y4
  have h4 : Keeps [.bus, .wins, .basin, .integ, .ctr, .out, .free] s y4 := by
    unfold y4
    refine Keeps.foldl _ _ ?_ (fun _ _ _ => ?_)
    · assumption
    · split
      · refine Keeps.step ?_ (State.bar2Store_keeps ..) (by decide)
        assumption
      · refine Keeps.step ?_ (State.bar2Fetch_keeps ..) (by decide)
        assumption
  clear_value y4
  refine Keeps.foldl _ _ ?_ (fun _ _ _ => ?_)
  · assumption
  · refine Keeps.step ?_ (State.finish_keeps ..) (by decide)
    assumption

theorem State.scrubNext_keeps (s : State) : Keeps [.basin, .ctr] s (State.scrubNext s) := by
  unfold State.scrubNext
  extract_lets +onlyGivenNames z0
  extract_lets +onlyGivenNames z1
  refine Keeps.ite _ ?_ ?_
  · exact Keeps.step (Keeps.set_basin _ (Keeps.refl _ _) (by decide) (by exact fun i => i)) (State.count_keeps ..) (by decide)
  · exact Keeps.set_basin _ (Keeps.refl _ _) (by decide) (fun i => i)

theorem State.digestRun_keeps (bs : List (Nat × Tensor × Nat)) (acc : Bytes) (r : List LineErr × State) :
    Keeps [.basin, .integ, .ctr, .free] r.2 (State.digestRun bs acc r).2.2 := by
  induction bs generalizing acc r with
  | nil => exact Keeps.refl _ _
  | cons c bs ih =>
    have h := State.readBlock_keeps c.2.1 c.2.2 r
    unfold State.digestRun
    simp only
    split
    · exact Keeps.step h (ih ..) (fun _ hx => hx)
    · exact h
    · exact h

theorem State.endJobs_keeps (s : State) : Keeps [.bus, .wins, .basin, .out] s (State.endJobs s) := by
  unfold State.endJobs
  refine Keeps.ite _ ?_ ?_
  · exact Keeps.refl _ _
  · extract_lets +onlyGivenNames z0
    extract_lets +onlyGivenNames z1
    extract_lets +onlyGivenNames y2
    have h2 : Keeps [.bus, .wins, .basin, .out] s y2 := by
      unfold y2
      exact Keeps.set_basin _ (Keeps.refl _ _) (by decide) (fun i => i)
    clear_value y2
    refine Keeps.foldl _ _ ?_ (fun _ _ _ => ?_)
    · assumption
    · refine Keeps.step ?_ (State.finish_keeps ..) (by decide)
      assumption

theorem State.addRecord_keeps (j : SealJob) (r : Nat × Bytes × Nat × Nat × Nat) (s : State) : Keeps [.basin] s (State.addRecord j r s) := by
  unfold State.addRecord
  exact Keeps.set_basin _ (Keeps.refl _ _) (by decide) (fun i => i)

theorem State.sealFails_keeps (l : Nat) (s : State) : Keeps [.basin, .integ, .ctr] s (State.sealFails l s) := by
  unfold State.sealFails
  split
  · extract_lets +onlyGivenNames y0
    have h0 : Keeps [.basin, .integ, .ctr] s y0 := by
      unfold y0
      exact Keeps.step (Keeps.refl _ _) (State.setSeal_keeps ..) (by decide)
    clear_value y0
    refine Keeps.ite _ ?_ ?_
    · refine Keeps.step ?_ (State.notice_keeps ..) (by decide)
      assumption
    · assumption
  · exact Keeps.refl _ _

theorem State.layerDone_keeps (j : SealJob) (l : Nat) (errs : List LineErr) (s : State) : Keeps [.basin, .integ, .ctr, .free] s (State.layerDone j l errs s) := by
  unfold State.layerDone
  split
  · exact Keeps.step (Keeps.step (Keeps.refl _ _) (State.addRecord_keeps ..) (by decide)) (State.sealFails_keeps ..) (by decide)
  · rename_i m _
    have h : Keeps [.basin, .integ, .ctr, .free] s (State.digestRun (layerBlocks m) [] (errs, s.basinTraffic)).2.2 :=
      Keeps.step (Keeps.step (Keeps.refl _ _) (State.basinTraffic_keeps s) (by decide)) (State.digestRun_keeps _ _ (errs, s.basinTraffic)) (by decide)
    have hr : ∀ x, Keeps [.basin, .integ, .ctr, .free] s ((State.digestRun (layerBlocks m) [] (errs, s.basinTraffic)).2.2.addRecord j x) :=
      fun _ => Keeps.step h (State.addRecord_keeps ..) (by decide)
    simp only
    split
    · exact Keeps.ite _ (hr _) (Keeps.step (hr _) (State.sealFails_keeps ..) (by decide))
    · refine Keeps.ite _ ?_ ?_
      · split
        · exact Keeps.ite _ (hr _) (Keeps.step (hr _) (State.loseSeal_keeps ..) (by decide))
        · exact hr _
      · exact Keeps.ite _ (Keeps.step (hr _) (State.setSeal_keeps ..) (by decide)) (Keeps.step (hr _) (State.sealFails_keeps ..) (by decide))

theorem State.layerChanged_keeps (l : Nat) (s : State) : Keeps [.basin, .integ, .ctr] s (State.layerChanged l s) := by
  unfold State.layerChanged
  extract_lets +onlyGivenNames y0
  have h0 : Keeps [.basin, .integ, .ctr] s y0 := by
    unfold y0
    exact Keeps.step (Keeps.step (Keeps.refl _ _) (State.loseSeal_keeps ..) (by decide)) (State.sealFails_keeps ..) (by decide)
  clear_value y0
  refine Keeps.foldl _ _ ?_ (fun _ _ _ => ?_)
  · assumption
  · refine Keeps.step ?_ (State.addRecord_keeps ..) (by decide)
    assumption

theorem startJob_keeps (j : SealJob) (b : Nat) (s : State) : Keeps [.dev, .bus, .wins, .basin, .out] s (startJob j b s) := by
  unfold startJob
  refine Keeps.ite _ ?_ ?_
  · exact Keeps.step (Keeps.refl _ _) (State.answer_keeps ..) (by decide)
  · exact Keeps.step (Keeps.step (Keeps.set_basin _ (Keeps.refl _ _) (by decide) (by exact fun i => i)) (State.startBasin_keeps ..) (by decide)) (State.accept_keeps ..) (by decide)

theorem basinStatusOp_within : basinStatusOp.Within [.bus, .wins, .out] := by
  refine ⟨fun p ps b s => ?_, fun p ps s => ?_⟩
  · dsimp only [basinStatusOp, OpSpec.query]
    exact Keeps.step (Keeps.refl _ _) (State.answer_keeps ..) (by decide)
  · dsimp only [basinStatusOp, OpSpec.query]
    exact Keeps.refl _ _

theorem basinHoldOp_within : basinHoldOp.Within [.dev, .bus, .wins, .basin, .out] := by
  refine ⟨fun p ps b s => ?_, fun p ps s => ?_⟩
  · dsimp only [basinHoldOp, OpSpec.query]
    refine Keeps.ite _ ?_ ?_
    · exact Keeps.step (Keeps.set_basin _ (Keeps.refl _ _) (by decide) (by exact fun i => i)) (State.answer_keeps ..) (by decide)
    · refine Keeps.ite _ ?_ ?_
      · exact Keeps.step (Keeps.step (Keeps.set_basin _ (Keeps.refl _ _) (by decide) (by exact fun i => i)) (State.startBasin_keeps ..) (by decide)) (State.answer_keeps ..) (by decide)
      · exact Keeps.step (Keeps.step (Keeps.set_basin _ (Keeps.refl _ _) (by decide) (by exact fun i => i)) (State.startBasin_keeps ..) (by decide)) (State.accept_keeps ..) (by decide)
  · dsimp only [basinHoldOp, OpSpec.query]
    exact Keeps.refl _ _

theorem basinSealOp_within : basinSealOp.Within [.dev, .bus, .wins, .basin, .out] := by
  refine ⟨fun p ps b s => ?_, fun p ps s => ?_⟩
  · dsimp only [basinSealOp, OpSpec.query]
    refine Keeps.step ?_ (startJob_keeps ..) (by decide)
    refine Keeps.foldl _ _ ?_ (fun _ _ _ => ?_)
    · exact Keeps.refl _ _
    · refine Keeps.step ?_ (State.setSeal_keeps ..) (by decide)
      assumption
  · dsimp only [basinSealOp, OpSpec.query]
    exact Keeps.refl _ _

theorem basinUnsealOp_within : basinUnsealOp.Within [.bus, .wins, .basin, .out] := by
  refine ⟨fun p ps b s => ?_, fun p ps s => ?_⟩
  · dsimp only [basinUnsealOp, OpSpec.query]
    refine Keeps.step ?_ (State.answerNow_keeps ..) (by decide)
    refine Keeps.foldl _ _ ?_ (fun _ _ _ => ?_)
    · exact Keeps.refl _ _
    · refine Keeps.step ?_ (State.setSeal_keeps ..) (by decide)
      assumption
  · dsimp only [basinUnsealOp, OpSpec.query]
    exact Keeps.refl _ _

theorem basinVerifyOp_within : basinVerifyOp.Within [.dev, .bus, .wins, .basin, .out] := by
  refine ⟨fun p ps b s => ?_, fun p ps s => ?_⟩
  · dsimp only [basinVerifyOp, OpSpec.query]
    exact Keeps.step (Keeps.refl _ _) (startJob_keeps ..) (by decide)
  · dsimp only [basinVerifyOp, OpSpec.query]
    exact Keeps.refl _ _

theorem modelDigestOp_within : modelDigestOp.Within [.bus, .wins, .out] := by
  refine ⟨fun p ps b s => ?_, fun p ps s => ?_⟩
  · dsimp only [modelDigestOp, OpSpec.query]
    exact Keeps.step (Keeps.refl _ _) (State.answerNow_keeps ..) (by decide)
  · dsimp only [modelDigestOp, OpSpec.query]
    exact Keeps.refl _ _

theorem basinPushOp_within : basinPushOp.Within [.dev, .bus, .wins, .basin, .out] := by
  refine ⟨fun p ps b s => ?_, fun p ps s => ?_⟩
  · dsimp only [basinPushOp, OpSpec.query]
    exact Keeps.step (Keeps.step (Keeps.refl _ _) (State.startBasin_keeps ..) (by decide)) (State.accept_keeps ..) (by decide)
  · dsimp only [basinPushOp, OpSpec.query]
    exact Keeps.refl _ _

theorem poisonListOp_within : poisonListOp.Within [.bus, .wins, .out] := by
  refine ⟨fun p ps b s => ?_, fun p ps s => ?_⟩
  · dsimp only [poisonListOp, OpSpec.query]
    exact Keeps.step (Keeps.refl _ _) (State.answer_keeps ..) (by decide)
  · dsimp only [poisonListOp, OpSpec.query]
    exact Keeps.refl _ _

theorem execBasinStatus_keeps (p : Port) (tag : BitVec 32) (params : Bytes) (s : State) : ∃ t, execBasinStatus p tag params s = .next t ∧ Keeps [.bus, .wins, .cfg, .ctr, .out] s t :=
  ⟨_, rfl, State.submit_keeps (OpSpec.Within.mono basinStatusOp_within (by decide)) (by decide) ..⟩

theorem execBasinHold_keeps (p : Port) (tag : BitVec 32) (params : Bytes) (s : State) : ∃ t, execBasinHold p tag params s = .next t ∧ Keeps [.dev, .bus, .wins, .cfg, .basin, .ctr, .out] s t :=
  ⟨_, rfl, State.submit_keeps (OpSpec.Within.mono basinHoldOp_within (by decide)) (by decide) ..⟩

theorem execBasinSeal_keeps (p : Port) (tag : BitVec 32) (params : Bytes) (s : State) : ∃ t, execBasinSeal p tag params s = .next t ∧ Keeps [.dev, .bus, .wins, .cfg, .basin, .ctr, .out] s t :=
  ⟨_, rfl, State.submit_keeps (OpSpec.Within.mono basinSealOp_within (by decide)) (by decide) ..⟩

theorem execBasinUnseal_keeps (p : Port) (tag : BitVec 32) (params : Bytes) (s : State) : ∃ t, execBasinUnseal p tag params s = .next t ∧ Keeps [.bus, .wins, .cfg, .basin, .ctr, .out] s t :=
  ⟨_, rfl, State.submit_keeps (OpSpec.Within.mono basinUnsealOp_within (by decide)) (by decide) ..⟩

theorem execBasinVerify_keeps (p : Port) (tag : BitVec 32) (params : Bytes) (s : State) : ∃ t, execBasinVerify p tag params s = .next t ∧ Keeps [.dev, .bus, .wins, .cfg, .basin, .ctr, .out] s t :=
  ⟨_, rfl, State.submit_keeps (OpSpec.Within.mono basinVerifyOp_within (by decide)) (by decide) ..⟩

theorem execModelDigest_keeps (p : Port) (tag : BitVec 32) (params : Bytes) (s : State) : ∃ t, execModelDigest p tag params s = .next t ∧ Keeps [.bus, .wins, .cfg, .ctr, .out] s t :=
  ⟨_, rfl, State.submit_keeps (OpSpec.Within.mono modelDigestOp_within (by decide)) (by decide) ..⟩

theorem execBasinPush_keeps (p : Port) (tag : BitVec 32) (params : Bytes) (s : State) : ∃ t, execBasinPush p tag params s = .next t ∧ Keeps [.dev, .bus, .wins, .cfg, .basin, .ctr, .out] s t :=
  ⟨_, rfl, State.submit_keeps (OpSpec.Within.mono basinPushOp_within (by decide)) (by decide) ..⟩

theorem execPoisonList_keeps (p : Port) (tag : BitVec 32) (params : Bytes) (s : State) : ∃ t, execPoisonList p tag params s = .next t ∧ Keeps [.bus, .wins, .cfg, .ctr, .out] s t :=
  ⟨_, rfl, State.submit_keeps (OpSpec.Within.mono poisonListOp_within (by decide)) (by decide) ..⟩

theorem execBar2Write_keeps (off : Nat) (data : Bytes) (errs : List LineErr) (s : State) : ∃ t, execBar2Write off data errs s = .next t ∧ Keeps [.dev, .bus, .basin, .integ, .ctr, .free] s t := by
  unfold execBar2Write
  refine ⟨_, rfl, ?_⟩
  refine Keeps.ite _ ?_ ?_
  · exact Keeps.refl _ _
  · refine Keeps.ite _ ?_ ?_
    · exact Keeps.step (Keeps.refl _ _) (State.count_keeps ..) (by decide)
    · exact Keeps.step (Keeps.refl _ _) (State.bar2Access_keeps ..) (by decide)

theorem execBar2Read_keeps (off : Nat) (len : Nat) (errs : List LineErr) (s : State) : ∃ t, execBar2Read off len errs s = .next t ∧ Keeps [.dev, .bus, .basin, .integ, .ctr, .free] s t := by
  unfold execBar2Read
  refine ⟨_, rfl, ?_⟩
  refine Keeps.ite _ ?_ ?_
  · exact Keeps.refl _ _
  · refine Keeps.ite _ ?_ ?_
    · exact Keeps.set_bus _ (Keeps.refl _ _) (by decide) (fun i => i)
    · exact Keeps.step (Keeps.refl _ _) (State.bar2Access_keeps ..) (by decide)

theorem execBasinSelfRefresh_keeps (s : State) : ∃ t, execBasinSelfRefresh s = .next t ∧ Keeps [.dev, .basin] s t := by
  unfold execBasinSelfRefresh
  refine ⟨_, rfl, ?_⟩
  refine Keeps.ite _ ?_ ?_
  · exact Keeps.set_dev_basin _ _ (Keeps.refl _ _) (by decide) (fun i => i)
  · exact Keeps.refl _ _

theorem execBasinUsable_keeps (s : State) : ∃ t, execBasinUsable s = .next t ∧ Keeps [.bus, .wins, .basin, .integ, .ctr, .out, .free] s t := by
  unfold execBasinUsable
  refine ⟨_, rfl, ?_⟩
  refine Keeps.ite _ ?_ ?_
  · exact Keeps.step (Keeps.refl _ _) (State.basinReady_keeps ..) (by decide)
  · exact Keeps.refl _ _

theorem execTierUsable_keeps (tier : Tier) (dimm0 dimm1 : Nat) (s : State) : ∃ t, execTierUsable tier dimm0 dimm1 s = .next t ∧
    Keeps [.dev, .bus, .wins, .basin, .integ, .ctr, .out, .free] s t := by
  unfold execTierUsable
  refine ⟨_, rfl, ?_⟩
  split
  · exact Keeps.refl _ _
  extract_lets +onlyGivenNames d y
  have hs : Keeps [.dev, .bus, .wins, .basin, .integ, .ctr, .out, .free] s y := Keeps.set_dev _ (Keeps.refl _ _) (by decide)
  have hv : ∀ v : BasinSt, v.mem = s.basin.mem → Keeps [.dev, .bus, .wins, .basin, .integ, .ctr, .out, .free] s ({ y with basin := v } : State).basinReady :=
    fun v e => Keeps.step (Keeps.set_basin v hs (by decide) (fun i => e ▸ i)) (State.basinReady_keeps _) (by decide)
  cases tier with
  | hbm =>
    dsimp only
    split
    · exact Keeps.refl _ _
    · exact hv _ rfl
  | dimm =>
    dsimp only
    split
    · exact Keeps.refl _ _
    · have h := hv { s.basin with dimmUsable := true, dimm0 := dimm0, dimm1 := dimm1 } rfl
      split
      · exact Keeps.step h (State.notice_keeps ..) (by decide)
      · exact h

theorem execScrubRead_keeps (err : List (Nat × Byte)) (s : State) : ∃ t, execScrubRead err s = .next t ∧ Keeps [.basin, .integ, .ctr, .free] s t := by
  unfold execScrubRead
  refine ⟨_, rfl, ?_⟩
  refine Keeps.ite _ ?_ ?_
  · exact Keeps.refl _ _
  · extract_lets +onlyGivenNames z0
    extract_lets +onlyGivenNames y1
    have h1 : Keeps [.basin, .integ, .ctr, .free] s y1 := by
      unfold y1
      refine Keeps.ite _ ?_ ?_
      · exact Keeps.set_basin _ (Keeps.refl _ _) (by decide) (fun i => i)
      · exact Keeps.refl _ _
    clear_value y1
    extract_lets +onlyGivenNames z2
    refine Keeps.ite _ ?_ ?_
    · assumption
    · extract_lets +onlyGivenNames z3
      extract_lets +onlyGivenNames y4
      have h4 : Keeps [.basin, .integ, .ctr, .free] s y4 := by
        unfold y4
        refine Keeps.step ?_ (State.scrubNext_keeps ..) (by decide)
        refine Keeps.step ?_ (State.readLine_keeps ..) (by decide)
        assumption
      clear_value y4
      refine Keeps.ite _ ?_ ?_
      · refine Keeps.set_basin _ ?_ (by decide) (fun i => i)
        assumption
      · assumption

theorem execScrubCatchUp_keeps (s : State) : ∃ t, execScrubCatchUp s = .next t ∧ Keeps [.dev, .basin] s t := by
  unfold execScrubCatchUp
  refine ⟨_, rfl, ?_⟩
  refine Keeps.ite _ ?_ ?_
  · exact Keeps.step (Keeps.set_basin _ (Keeps.refl _ _) (by decide) (by exact fun i => i)) (State.startBasin_keeps ..) (by decide)
  · exact Keeps.refl _ _

theorem execDigestDone_keeps (layer : Nat) (errs : List LineErr) (s : State) : ∃ t, execDigestDone layer errs s = .next t ∧ Keeps [.bus, .wins, .basin, .integ, .ctr, .out, .free] s t := by
  unfold execDigestDone
  refine ⟨_, rfl, ?_⟩
  refine Keeps.ite _ ?_ ?_
  · exact Keeps.refl _ _
  · split
    · exact Keeps.step (Keeps.step (Keeps.refl _ _) (State.layerDone_keeps ..) (by decide)) (State.endJobs_keeps ..) (by decide)
    · exact Keeps.refl _ _

theorem execPushComplete_keeps (linkDown : Bool) (errs : List LineErr) (s : State) : ∃ t, execPushComplete linkDown errs s = .next t ∧
    Keeps [.bus, .wins, .basin, .integ, .ctr, .out, .free] s t := by
  refine ⟨_, rfl, Keeps.ite _ (Keeps.refl _ _) ?_⟩
  split
  · exact Keeps.refl _ _
  · simp only
    refine Keeps.ite _ (Keeps.step (Keeps.refl _ _) (State.pushCut_keeps ..) (by decide)) ?_
    split
    · exact Keeps.step (Keeps.refl _ _) (State.pushCut_keeps ..) (by decide)
    · have h : Keeps [.bus, .wins, .basin, .integ, .ctr, .out, .free] s s.basinTraffic := Keeps.step (Keeps.refl _ _) (State.basinTraffic_keeps s) (by decide)
      exact Keeps.step (Keeps.step (Keeps.step h (State.pushBlocks_keeps _ _ _ _ _ (errs, s.basinTraffic)) (by decide)) (State.send_keeps ..) (by decide))
        (State.finish_keeps ..) (by decide)
end Sys2Proof.Machine
end

