-- ==== Sys2Proof/Laws/KeepsLanes.lean ====
section
/-!
SUPPORT. What the operations of Machine/Lanes.lean touch, and that they keep the invariant.
-/

namespace Sys2Proof.Machine
theorem State.laneWords_keeps (i : Fin 8) (opId : Byte) (ws : List (BitVec 64)) (s : State) : Keeps [.out] s (State.laneWords i opId ws s) := by
  unfold State.laneWords
  refine Keeps.foldl _ _ ?_ (fun _ _ _ => ?_)
  · exact Keeps.refl _ _
  · split
    · refine Keeps.step ?_ (State.sendLane_keeps ..) (by decide)
      assumption

theorem State.laneNotice_keeps (i : Fin 8) (opId : Byte) (reason : Nat) (s : State) : Keeps [.out] s (State.laneNotice i opId reason s) := by
  unfold State.laneNotice
  exact Keeps.step (Keeps.refl _ _) (State.sendLane_keeps ..) (by decide)

theorem State.refuseLane_keeps (i : Fin 8) (opId : Byte) (reason : Nat) (s : State) : Keeps [.ctr, .out] s (State.refuseLane i opId reason s) := by
  unfold State.refuseLane
  exact Keeps.step (Keeps.step (Keeps.refl _ _) (State.laneNotice_keeps ..) (by decide)) (State.count_keeps ..) (by decide)

theorem State.laneDone_keeps (o : LaneOp) (ws : List (BitVec 64)) (words : Nat) (s : State) : Keeps [.cad, .gop, .out] s (State.laneDone o ws words s) := by
  unfold State.laneDone
  extract_lets +onlyGivenNames z0
  extract_lets +onlyGivenNames z1
  extract_lets +onlyGivenNames y2
  have h2 : Keeps [.cad, .gop, .out] s y2 := by
    unfold y2
    exact Keeps.step (Keeps.refl _ _) (State.updLane_keeps ..) (by decide)
  clear_value y2
  refine Keeps.foldl _ _ ?_ (fun _ _ _ => ?_)
  · assumption
  · refine Keeps.step ?_ (State.sendOps_keeps ..) (by decide)
    assumption

theorem State.laneProgress_keeps (o : LaneOp) (s : State) : Keeps [.cad, .gop, .out] s (State.laneProgress o s) := by
  unfold State.laneProgress
  extract_lets +onlyGivenNames z0
  split
  · split
    · refine Keeps.ite _ ?_ ?_
      · exact Keeps.step (Keeps.refl _ _) (State.laneDone_keeps ..) (by decide)
      · exact Keeps.step (Keeps.refl _ _) (State.sendOps_keeps ..) (by decide)
    · exact Keeps.refl _ _
  · refine Keeps.ite _ ?_ ?_
    · refine Keeps.ite _ ?_ ?_
      · exact Keeps.step (Keeps.refl _ _) (State.laneDone_keeps ..) (by decide)
      · exact Keeps.refl _ _
    · split
      · exact Keeps.step (Keeps.refl _ _) (State.sendOps_keeps ..) (by decide)
      · exact Keeps.refl _ _
  · refine Keeps.ite _ ?_ ?_
    · refine Keeps.ite _ ?_ ?_
      · exact Keeps.step (Keeps.refl _ _) (State.laneDone_keeps ..) (by decide)
      · exact Keeps.step (Keeps.step (Keeps.refl _ _) (State.updLane_keeps ..) (by decide)) (State.sendOps_keeps ..) (by decide)
    · exact Keeps.refl _ _

theorem State.contribute_keeps (g : Nat) (opId : Byte) (src : Source) (replica : Nat) (ws : List (BitVec 64)) (layer : Option Nat) (s : State) : Keeps [.cad, .gop, .ctr, .out] s (State.contribute g opId src replica ws layer s) := by
  unfold State.contribute
  split
  · extract_lets +onlyGivenNames z0
    extract_lets +onlyGivenNames z1
    exact Keeps.step (Keeps.set_gop _ (Keeps.refl _ _) (by decide)) (State.laneProgress_keeps ..) (by decide)
  · refine Keeps.ite _ ?_ ?_
    · extract_lets +onlyGivenNames y0
      have h0 : Keeps [.cad, .gop, .ctr, .out] s y0 := by
        unfold y0
        refine Keeps.ite _ ?_ ?_
        · exact Keeps.step (Keeps.refl _ _) (State.failLane_keeps ..) (by decide)
        · exact Keeps.refl _ _
      clear_value y0
      split
      · refine Keeps.step ?_ (State.refuseLane_keeps ..) (by decide)
        assumption
      · refine Keeps.step ?_ (State.count_keeps ..) (by decide)
        assumption
    · refine Keeps.ite _ ?_ ?_
      · exact Keeps.refl _ _
      · refine Keeps.ite _ ?_ ?_
        · refine Keeps.ite _ ?_ ?_
          · exact Keeps.refl _ _
          · exact Keeps.step (Keeps.refl _ _) (State.failLane_keeps ..) (by decide)
        · refine Keeps.ite _ ?_ ?_
          · exact Keeps.refl _ _
          · extract_lets +onlyGivenNames z0
            exact Keeps.step (Keeps.step (Keeps.refl _ _) (State.updLane_keeps ..) (by decide)) (State.laneProgress_keeps ..) (by decide)

theorem State.laneMessage_keeps (i : Fin 8) (fn : Nat) (seq : BitVec 4) (replica : Nat) (ws : List (BitVec 64)) (layer : Option Nat) (s : State) : Keeps [.cad, .gop, .ctr, .out] s (State.laneMessage i fn seq replica ws layer s) := by
  unfold State.laneMessage
  extract_lets +onlyGivenNames z0
  refine Keeps.ite _ ?_ ?_
  · exact Keeps.refl _ _
  · split
    · exact Keeps.step (Keeps.refl _ _) (State.refuseLane_keeps ..) (by decide)
    · exact Keeps.step (Keeps.refl _ _) (State.contribute_keeps ..) (by decide)

theorem State.basinVotes_keeps (g : Nat) (opId : Byte) (layer : Option Nat) (s : State) : Keeps [.cad, .gop, .ctr, .out] s (State.basinVotes g opId layer s) := by
  unfold State.basinVotes
  split
  · exact Keeps.refl _ _
  · extract_lets +onlyGivenNames z0
    refine Keeps.ite _ ?_ ?_
    · exact Keeps.refl _ _
    · split
      · exact Keeps.step (Keeps.refl _ _) (State.contribute_keeps ..) (by decide)
      · exact Keeps.refl _ _

theorem State.voteMessage_keeps (i : Fin 8) (seq : BitVec 4) (digest : BitVec 256) (s : State) : Keeps [.cad, .gop, .slots, .ctr, .out] s (State.voteMessage i seq digest s) := by
  unfold State.voteMessage
  extract_lets +onlyGivenNames z0
  extract_lets +onlyGivenNames z1
  extract_lets +onlyGivenNames y2
  have h2 : Keeps [.cad, .gop, .slots, .ctr, .out] s y2 := by
    unfold y2
    exact Keeps.step (Keeps.refl _ _) (State.laneMessage_keeps ..) (by decide)
  clear_value y2
  refine Keeps.ite _ ?_ ?_
  · refine Keeps.step ?_ (State.updSlot_keeps ..) (by decide)
    refine Keeps.step ?_ (State.basinVotes_keeps ..) (by decide)
    assumption
  · assumption

theorem State.laneTimeout_keeps (o : LaneOp) (s : State) : Keeps [.cad, .gop, .ctr, .out] s (State.laneTimeout o s) := by
  unfold State.laneTimeout
  refine Keeps.ite _ ?_ ?_
  · exact Keeps.step (Keeps.refl _ _) (State.laneDone_keeps ..) (by decide)
  · exact Keeps.step (Keeps.refl _ _) (State.failLane_keeps ..) (by decide)

theorem State.laneDeliver_keeps (o : LaneOp) (s : State) : Keeps [.gop, .out] s (State.laneDeliver o s) := by
  unfold State.laneDeliver
  split
  · exact Keeps.refl _ _
  · extract_lets +onlyGivenNames y0
    have h0 : Keeps [.gop, .out] s y0 := by
      unfold y0
      refine Keeps.foldl _ _ ?_ (fun _ _ _ => ?_)
      · exact Keeps.refl _ _
      · refine Keeps.ite _ ?_ ?_
        · assumption
        · split
          · refine Keeps.step ?_ (State.laneWords_keeps ..) (by decide)
            assumption
          · refine Keeps.step ?_ (State.laneNotice_keeps ..) (by decide)
            assumption
    clear_value y0
    extract_lets +onlyGivenNames y1
    have h1 : Keeps [.gop, .out] s y1 := by
      unfold y1
      refine Keeps.step ?_ (State.updLane_keeps ..) (by decide)
      assumption
    clear_value y1
    refine Keeps.set_gop _ ?_ (by decide)
    assumption

theorem State.routeLost_keeps (s : State) : Keeps [.gop, .ctr] s (State.routeLost s) := by
  unfold State.routeLost
  refine Keeps.foldl _ _ ?_ (fun _ _ _ => ?_)
  · exact Keeps.refl _ _
  · refine Keeps.step ?_ (State.count_keeps ..) (by decide)
    refine Keeps.step ?_ (State.updLane_keeps ..) (by decide)
    assumption

theorem State.laneClimb_keeps (p : Fin 18) (c : OpPayload) (ws : List (BitVec 64)) (s : State) : Keeps [.cad, .gop, .ctr, .out] s (State.laneClimb p c ws s) := by
  unfold State.laneClimb
  extract_lets +onlyGivenNames z0
  extract_lets +onlyGivenNames z1
  refine Keeps.ite _ ?_ ?_
  · split
    · refine Keeps.ite _ ?_ ?_
      · extract_lets +onlyGivenNames y2
        have h2 : Keeps [.cad, .gop, .ctr, .out] s y2 := by
          unfold y2
          exact Keeps.step (Keeps.refl _ _) (State.updLane_keeps ..) (by decide)
        clear_value y2
        refine Keeps.ite _ ?_ ?_
        · refine Keeps.foldl _ _ ?_ (fun _ _ _ => ?_)
          · assumption
          · refine Keeps.step ?_ (State.sendOp_keeps ..) (by decide)
            assumption
        · refine Keeps.step ?_ (State.sendOp_keeps ..) (by decide)
          assumption
      · exact Keeps.refl _ _
    · refine Keeps.ite _ ?_ ?_
      · refine Keeps.foldl _ _ ?_ (fun _ _ _ => ?_)
        · exact Keeps.refl _ _
        · refine Keeps.step ?_ (State.sendOp_keeps ..) (by decide)
          assumption
      · exact Keeps.step (Keeps.refl _ _) (State.sendOp_keeps ..) (by decide)
  · refine Keeps.ite _ ?_ ?_
    · exact Keeps.step (Keeps.step (Keeps.step (Keeps.refl _ _) (State.count_keeps ..) (by decide)) (State.count_keeps ..) (by decide)) (State.sendOp_keeps ..) (by decide)
    · exact Keeps.step (Keeps.refl _ _) (State.contribute_keeps ..) (by decide)

theorem State.laneDescend_keeps (c : OpPayload) (ws : List (BitVec 64)) (s : State) : Keeps [.cad, .gop, .out] s (State.laneDescend c ws s) := by
  unfold State.laneDescend
  extract_lets +onlyGivenNames z0
  extract_lets +onlyGivenNames z1
  extract_lets +onlyGivenNames z2
  extract_lets +onlyGivenNames z3
  extract_lets +onlyGivenNames y4
  have h4 : Keeps [.cad, .gop, .out] s y4 := by
    unfold y4
    split
    · exact Keeps.step (Keeps.refl _ _) (State.updLane_keeps ..) (by decide)
    · exact Keeps.set_gop _ (Keeps.refl _ _) (by decide)
  clear_value y4
  extract_lets +onlyGivenNames z5
  refine Keeps.foldl _ _ ?_ (fun _ _ _ => ?_)
  · assumption
  · refine Keeps.step ?_ (State.sendOps_keeps ..) (by decide)
    assumption

theorem execBarrier_keeps (slot : Fin 8) (seq : BitVec 4) (s : State) : ∃ t, execBarrier slot seq s = .next t ∧ Keeps [.cad, .gop, .ctr, .out] s t := by
  unfold execBarrier
  exact ⟨_, rfl, Keeps.step (Keeps.refl _ _) (State.laneMessage_keeps ..) (by decide)⟩

theorem execBroadcast_keeps (slot : Fin 8) (seq : BitVec 4) (words : List (BitVec 64)) (s : State) : ∃ t, execBroadcast slot seq words s = .next t ∧ Keeps [.cad, .gop, .ctr, .out] s t := by
  unfold execBroadcast
  refine ⟨_, rfl, ?_⟩
  refine Keeps.ite _ ?_ ?_
  · exact Keeps.refl _ _
  · exact Keeps.step (Keeps.refl _ _) (State.laneMessage_keeps ..) (by decide)

theorem execReduce_keeps (slot : Fin 8) (fn : BitVec 4) (seq : BitVec 4) (value : BitVec 64) (s : State) : ∃ t, execReduce slot fn seq value s = .next t ∧ Keeps [.cad, .gop, .ctr, .out] s t := by
  unfold execReduce
  refine ⟨_, rfl, ?_⟩
  refine Keeps.ite _ ?_ ?_
  · exact Keeps.refl _ _
  · exact Keeps.step (Keeps.refl _ _) (State.laneMessage_keeps ..) (by decide)

theorem execVote_keeps (slot : Fin 8) (seq : BitVec 4) (digest : BitVec 256) (s : State) : ∃ t, execVote slot seq digest s = .next t ∧ Keeps [.cad, .gop, .slots, .ctr, .out] s t := by
  unfold execVote
  exact ⟨_, rfl, Keeps.step (Keeps.refl _ _) (State.voteMessage_keeps ..) (by decide)⟩

theorem execLaneOpTimeout_keeps (group : Fin 256) (opId : Byte) (s : State) : ∃ t, execLaneOpTimeout group opId s = .next t ∧ Keeps [.cad, .gop, .ctr, .out] s t := by
  unfold execLaneOpTimeout
  refine ⟨_, rfl, ?_⟩
  split
  · refine Keeps.ite _ ?_ ?_
    · exact Keeps.step (Keeps.refl _ _) (State.laneTimeout_keeps ..) (by decide)
    · exact Keeps.refl _ _
  · exact Keeps.refl _ _

theorem execLaneOpResult_keeps (group : Fin 256) (opId : Byte) (s : State) : ∃ t, execLaneOpResult group opId s = .next t ∧ Keeps [.gop, .out] s t := by
  unfold execLaneOpResult
  refine ⟨_, rfl, ?_⟩
  split
  · refine Keeps.ite _ ?_ ?_
    · exact Keeps.step (Keeps.refl _ _) (State.laneDeliver_keeps ..) (by decide)
    · exact Keeps.refl _ _
  · exact Keeps.refl _ _
end Sys2Proof.Machine
end

