-- ==== Sys2Proof/Laws/KeepsEpochs.lean ====
section
/-!
SUPPORT. What the operations of Machine/Epochs.lean touch, and that they keep the invariant.
-/

namespace Sys2Proof.Machine
theorem State.sendDown_keeps (s : State) (g : Nat) : Keeps [.cad, .out] s (State.sendDown s g) := by
  unfold State.sendDown
  split
  · exact Keeps.refl _ _
  · extract_lets +onlyGivenNames z0
    refine Keeps.foldl _ _ ?_ (fun _ _ _ => ?_)
    · exact Keeps.refl _ _
    · refine Keeps.step ?_ (State.sendOp_keeps ..) (by decide)
      assumption

theorem State.sendDomainDown_keeps (s : State) : Keeps [.cad, .out] s (State.sendDomainDown s) := by
  unfold State.sendDomainDown
  split
  · exact Keeps.refl _ _
  · refine Keeps.foldl _ _ ?_ (fun _ _ _ => ?_)
    · exact Keeps.refl _ _
    · refine Keeps.step ?_ (State.sendOp_keeps ..) (by decide)
      assumption

theorem State.reachReport_keeps (s : State) : Keeps [.cad, .out] s (State.reachReport s) := by
  unfold State.reachReport
  refine Keeps.ite _ ?_ ?_
  · exact Keeps.refl _ _
  · extract_lets +onlyGivenNames y0
    have h0 : Keeps [.cad, .out] s y0 := by
      unfold y0
      refine Keeps.foldl _ _ ?_ (fun _ _ _ => ?_)
      · exact Keeps.refl _ _
      · refine Keeps.ite _ ?_ ?_
        · refine Keeps.step ?_ (State.sendDown_keeps ..) (by decide)
          assumption
        · refine Keeps.step ?_ (State.sendOp_keeps ..) (by decide)
          assumption
    clear_value y0
    refine Keeps.ite _ ?_ ?_
    · refine Keeps.step ?_ (State.sendDomainDown_keeps ..) (by decide)
      assumption
    · refine Keeps.step ?_ (State.sendOp_keeps ..) (by decide)
      assumption

theorem State.reachRecord_keeps (p : Fin 18) (c : OpPayload) (s : State) : Keeps [.cad, .gop, .integ, .ctr, .out] s (State.reachRecord p c s) := by
  unfold State.reachRecord
  extract_lets +onlyGivenNames z0
  extract_lets +onlyGivenNames z1
  refine Keeps.ite _ ?_ ?_
  · refine Keeps.ite _ ?_ ?_
    · exact Keeps.refl _ _
    · extract_lets +onlyGivenNames z2
      refine Keeps.ite _ ?_ ?_
      · extract_lets +onlyGivenNames z3
        extract_lets +onlyGivenNames y4
        have h4 : Keeps [.cad, .gop, .integ, .ctr, .out] s y4 := by
          unfold y4
          exact Keeps.set_gop _ (Keeps.refl _ _) (by decide)
        clear_value y4
        refine Keeps.ite _ ?_ ?_
        · refine Keeps.step ?_ (State.sendDomainDown_keeps ..) (by decide)
          assumption
        · assumption
      · extract_lets +onlyGivenNames y3
        have h3 : Keeps [.cad, .gop, .integ, .ctr, .out] s y3 := by
          unfold y3
          exact Keeps.step (Keeps.refl _ _) (State.updGrp_keeps ..) (by decide)
        clear_value y3
        refine Keeps.ite _ ?_ ?_
        · refine Keeps.step ?_ (State.sendDown_keeps ..) (by decide)
          assumption
        · assumption
  · refine Keeps.ite _ ?_ ?_
    · exact Keeps.refl _ _
    · refine Keeps.ite _ ?_ ?_
      · exact Keeps.step (Keeps.set_gop _ (Keeps.refl _ _) (by decide)) (State.sendDomainDown_keeps ..) (by decide)
      · extract_lets +onlyGivenNames y2
        have h2 : Keeps [.cad, .gop, .integ, .ctr, .out] s y2 := by
          unfold y2
          exact Keeps.step (Keeps.refl _ _) (State.updGrp_keeps ..) (by decide)
        clear_value y2
        extract_lets +onlyGivenNames y3
        have h3 : Keeps [.cad, .gop, .integ, .ctr, .out] s y3 := by
          unfold y3
          refine Keeps.step ?_ (State.sendDown_keeps ..) (by decide)
          assumption
        clear_value y3
        refine Keeps.ite _ ?_ ?_
        · refine Keeps.step ?_ (State.issueCadence_keeps ..) (by decide)
          assumption
        · assumption

theorem State.endOp_keeps (o : EpochOp) (c : Code) (reason : Nat) (s : State) : Keeps [.bus, .wins, .out] s (State.endOp o c reason s) := by
  unfold State.endOp
  extract_lets +onlyGivenNames z0
  refine Keeps.ite _ ?_ ?_
  · exact Keeps.refl _ _
  · refine Keeps.foldl _ _ ?_ (fun _ _ _ => ?_)
    · exact Keeps.refl _ _
    · refine Keeps.ite _ ?_ ?_
      · refine Keeps.step ?_ (State.finish_keeps ..) (by decide)
        assumption
      · assumption

theorem State.holdGroup_keeps (g : Nat) (s : State) : Keeps [.bus, .wins, .cad, .gop, .chk, .basin, .integ, .slots, .ctr, .out, .free] s (State.holdGroup g s) := by
  unfold State.holdGroup
  refine Keeps.step ?_ (State.updGrp_keeps ..) (by decide)
  refine Keeps.foldl _ _ ?_ (fun _ _ _ => ?_)
  · exact Keeps.refl _ _
  · refine Keeps.step ?_ (State.holdSlot_keeps ..) (by decide)
    assumption

theorem State.cadenceRetry_keeps (o : EpochOp) (s : State) : Keeps [.cad, .gop, .integ, .ctr, .out] s (State.cadenceRetry o s) := by
  unfold State.cadenceRetry
  refine Keeps.ite _ ?_ ?_
  · exact Keeps.step (Keeps.step (Keeps.refl _ _) (State.notice_keeps ..) (by decide)) (State.issueCadence_keeps ..) (by decide)
  · exact Keeps.refl _ _

theorem State.decideHere_keeps (o : EpochOp) (ok : Bool) (step : Nat) (s : State) : Keeps [.bus, .wins, .cfg, .cad, .gop, .integ, .ctr, .out] s (State.decideHere o ok step s) := by
  unfold State.decideHere
  extract_lets +onlyGivenNames y0
  have h0 : Keeps [.bus, .wins, .cfg, .cad, .gop, .integ, .ctr, .out] s y0 := by
    unfold y0
    refine Keeps.foldl _ _ ?_ (fun _ _ _ => ?_)
    · exact Keeps.refl _ _
    · refine Keeps.step ?_ (State.sendOps_keeps ..) (by decide)
      assumption
  clear_value y0
  refine Keeps.ite _ ?_ ?_
  · refine Keeps.step ?_ (State.updOp_keeps ..) (by decide)
    assumption
  · extract_lets +onlyGivenNames y1
    have h1 : Keeps [.bus, .wins, .cfg, .cad, .gop, .integ, .ctr, .out] s y1 := by
      unfold y1
      refine Keeps.foldl _ _ ?_ (fun _ _ _ => ?_)
      · assumption
      · refine Keeps.step ?_ (State.sendLane_keeps ..) (by decide)
        assumption
    clear_value y1
    extract_lets +onlyGivenNames y2
    have h2 : Keeps [.bus, .wins, .cfg, .cad, .gop, .integ, .ctr, .out] s y2 := by
      unfold y2
      refine Keeps.ite _ ?_ ?_
      · refine Keeps.step ?_ (State.updOp_keeps ..) (by decide)
        assumption
      · refine Keeps.step ?_ (State.dropOp_keeps ..) (by decide)
        assumption
    clear_value y2
    extract_lets +onlyGivenNames y3
    have h3 : Keeps [.bus, .wins, .cfg, .cad, .gop, .integ, .ctr, .out] s y3 := by
      unfold y3
      refine Keeps.ite _ ?_ ?_
      · refine Keeps.step ?_ (State.failCommit_keeps ..) (by decide)
        assumption
      · assumption
    clear_value y3
    refine Keeps.step ?_ (State.cadenceRetry_keeps ..) (by decide)
    refine Keeps.step ?_ (State.endOp_keeps ..) (by decide)
    assumption

theorem State.armAdvance_keeps (o : EpochOp) (s : State) : Keeps [.bus, .wins, .cfg, .cad, .gop, .integ, .ctr, .out] s (State.armAdvance o s) := by
  unfold State.armAdvance
  refine Keeps.ite _ ?_ ?_
  · exact Keeps.refl _ _
  · refine Keeps.ite _ ?_ ?_
    · exact Keeps.refl _ _
    · extract_lets +onlyGivenNames z0
      extract_lets +onlyGivenNames z1
      extract_lets +onlyGivenNames z2
      refine Keeps.ite _ ?_ ?_
      · exact Keeps.step (Keeps.refl _ _) (State.decideHere_keeps ..) (by decide)
      · exact Keeps.step (Keeps.refl _ _) (State.sendOp_keeps ..) (by decide)

theorem State.armReduce_keeps (o : EpochOp) (s : State) : Keeps [.bus, .wins, .cfg, .cad, .gop, .integ, .slots, .ctr, .out] s (State.armReduce o s) := by
  unfold State.armReduce
  extract_lets +onlyGivenNames z0
  extract_lets +onlyGivenNames y1
  have h1 : Keeps [.bus, .wins, .cfg, .cad, .gop, .integ, .slots, .ctr, .out] s y1 := by
    unfold y1
    refine Keeps.ite _ ?_ ?_
    · exact Keeps.step (Keeps.refl _ _) (State.planDue_keeps ..) (by decide)
    · exact Keeps.refl _ _
  clear_value y1
  refine Keeps.step ?_ (State.armAdvance_keeps ..) (by decide)
  refine Keeps.step ?_ (State.updOp_keeps ..) (by decide)
  assumption

theorem State.armReport_keeps (p : Fin 18) (c : OpPayload) (s : State) : Keeps [.bus, .wins, .cfg, .cad, .gop, .integ, .ctr, .out] s (State.armReport p c s) := by
  unfold State.armReport
  extract_lets +onlyGivenNames z0
  split
  · exact Keeps.refl _ _
  · extract_lets +onlyGivenNames z1
    exact Keeps.step (Keeps.step (Keeps.refl _ _) (State.updOp_keeps ..) (by decide)) (State.armAdvance_keeps ..) (by decide)

theorem State.noDecision_keeps (now : Bool) (o : EpochOp) (s : State) : Keeps [.bus, .wins, .cfg, .cad, .gop, .chk, .basin, .integ, .slots, .ctr, .out, .free] s (State.noDecision now o s) := by
  unfold State.noDecision
  extract_lets +onlyGivenNames y0
  have h0 : Keeps [.bus, .wins, .cfg, .cad, .gop, .chk, .basin, .integ, .slots, .ctr, .out, .free] s y0 := by
    unfold y0
    exact Keeps.step (Keeps.refl _ _) (State.notice_keeps ..) (by decide)
  clear_value y0
  extract_lets +onlyGivenNames y1
  have h1 : Keeps [.bus, .wins, .cfg, .cad, .gop, .chk, .basin, .integ, .slots, .ctr, .out, .free] s y1 := by
    unfold y1
    refine Keeps.ite _ ?_ ?_
    · refine Keeps.step ?_ (State.notice_keeps ..) (by decide)
      refine Keeps.step ?_ (State.failCommit_keeps ..) (by decide)
      assumption
    · assumption
  clear_value y1
  extract_lets +onlyGivenNames y2
  have h2 : Keeps [.bus, .wins, .cfg, .cad, .gop, .chk, .basin, .integ, .slots, .ctr, .out, .free] s y2 := by
    unfold y2
    refine Keeps.step ?_ (State.endOp_keeps ..) (by decide)
    assumption
  clear_value y2
  extract_lets +onlyGivenNames y3
  have h3 : Keeps [.bus, .wins, .cfg, .cad, .gop, .chk, .basin, .integ, .slots, .ctr, .out, .free] s y3 := by
    unfold y3
    refine Keeps.ite _ ?_ ?_
    · refine Keeps.step ?_ (State.dropOp_keeps ..) (by decide)
      assumption
    · refine Keeps.ite _ ?_ ?_
      · refine Keeps.step ?_ (State.holdGroup_keeps ..) (by decide)
        refine Keeps.step ?_ (State.dropOp_keeps ..) (by decide)
        assumption
      · refine Keeps.step ?_ (State.updOp_keeps ..) (by decide)
        assumption
  clear_value y3
  extract_lets +onlyGivenNames z4
  extract_lets +onlyGivenNames z5
  extract_lets +onlyGivenNames z6
  extract_lets +onlyGivenNames y7
  have h7 : Keeps [.bus, .wins, .cfg, .cad, .gop, .chk, .basin, .integ, .slots, .ctr, .out, .free] s y7 := by
    unfold y7
    refine Keeps.set_gop _ ?_ (by decide)
    assumption
  clear_value y7
  extract_lets +onlyGivenNames y8
  have h8 : Keeps [.bus, .wins, .cfg, .cad, .gop, .chk, .basin, .integ, .slots, .ctr, .out, .free] s y8 := by
    unfold y8
    refine Keeps.ite _ ?_ ?_
    · refine Keeps.ite _ ?_ ?_
      · refine Keeps.step ?_ (State.releaseThrottle_keeps ..) (by decide)
        assumption
      · assumption
    · assumption
  clear_value y8
  refine Keeps.step ?_ (State.cadenceRetry_keeps ..) (by decide)
  assumption

theorem State.opsLost_keeps (all : Bool) (s : State) : Keeps [.bus, .wins, .cfg, .cad, .gop, .chk, .basin, .integ, .slots, .ctr, .out, .free] s (State.opsLost all s) := by
  unfold State.opsLost
  refine Keeps.foldl _ _ ?_ (fun _ _ _ => ?_)
  · exact Keeps.refl _ _
  · refine Keeps.step ?_ (State.noDecision_keeps ..) (by decide)
    assumption

theorem State.expelDecide_keeps (g : Nat) (slots : BitVec 8) (node : BitVec 32) (s : State) : Keeps [.bus, .wins, .cad, .gop, .out] s (State.expelDecide g slots node s) := by
  unfold State.expelDecide
  refine Keeps.ite _ ?_ ?_
  · extract_lets +onlyGivenNames z0
    extract_lets +onlyGivenNames z1
    extract_lets +onlyGivenNames y2
    have h2 : Keeps [.bus, .wins, .cad, .gop, .out] s y2 := by
      unfold y2
      exact Keeps.set_gop _ (Keeps.refl _ _) (by decide)
    clear_value y2
    refine Keeps.foldl _ _ ?_ (fun _ _ _ => ?_)
    · assumption
    · refine Keeps.step ?_ (State.sendOps_keeps ..) (by decide)
      assumption
  · extract_lets +onlyGivenNames y0
    have h0 : Keeps [.bus, .wins, .cad, .gop, .out] s y0 := by
      unfold y0
      refine Keeps.foldl _ _ ?_ (fun _ _ _ => ?_)
      · exact Keeps.refl _ _
      · refine Keeps.step ?_ (State.finish_keeps ..) (by decide)
        assumption
    clear_value y0
    refine Keeps.foldl _ _ ?_ (fun _ _ _ => ?_)
    · assumption
    · refine Keeps.step ?_ (State.sendOps_keeps ..) (by decide)
      assumption

theorem State.expelArrives_keeps (g : Nat) (failed : Bool) (epoch : Nat) (slots : BitVec 8) (node : BitVec 32) (s : State) : Keeps [.bus, .wins, .cad, .gop, .integ, .ctr, .out] s (State.expelArrives g failed epoch slots node s) := by
  unfold State.expelArrives
  extract_lets +onlyGivenNames y0
  have h0 : Keeps [.bus, .wins, .cad, .gop, .integ, .ctr, .out] s y0 := by
    unfold y0
    refine Keeps.foldl _ _ ?_ (fun _ _ _ => ?_)
    · exact Keeps.refl _ _
    · refine Keeps.step ?_ (State.sendOps_keeps ..) (by decide)
      assumption
  clear_value y0
  refine Keeps.ite _ ?_ ?_
  · refine Keeps.foldl _ _ ?_ (fun _ _ _ => ?_)
    · assumption
    · refine Keeps.step ?_ (State.finish_keeps ..) (by decide)
      assumption
  · extract_lets +onlyGivenNames y1
    have h1 : Keeps [.bus, .wins, .cad, .gop, .integ, .ctr, .out] s y1 := by
      unfold y1
      refine Keeps.ite _ ?_ ?_
      · refine Keeps.step ?_ (State.notice_keeps ..) (by decide)
        assumption
      · assumption
    clear_value y1
    refine Keeps.set_gop _ ?_ (by decide)
    assumption

theorem State.expelNow_keeps (d : ExpelDue) (s : State) : Keeps [.bus, .wins, .cad, .gop, .chk, .basin, .integ, .slots, .ctr, .out, .free] s (State.expelNow d s) := by
  unfold State.expelNow
  extract_lets +onlyGivenNames z0
  extract_lets +onlyGivenNames z1
  extract_lets +onlyGivenNames y2
  have h2 : Keeps [.bus, .wins, .cad, .gop, .chk, .basin, .integ, .slots, .ctr, .out, .free] s y2 := by
    unfold y2
    refine Keeps.foldl _ _ ?_ (fun _ _ _ => ?_)
    · exact Keeps.refl _ _
    · extract_lets +onlyGivenNames y3
      have h3 : Keeps [.bus, .wins, .cad, .gop, .chk, .basin, .integ, .slots, .ctr, .out, .free] s y3 := by
        unfold y3
        refine Keeps.step ?_ (State.updGrp_keeps ..) (by decide)
        refine Keeps.step ?_ (State.updSlot_keeps ..) (by decide)
        assumption
      clear_value y3
      refine Keeps.ite _ ?_ ?_
      · refine Keeps.step ?_ (State.holdSlot_keeps ..) (by decide)
        assumption
      · assumption
  clear_value y2
  extract_lets +onlyGivenNames z3
  extract_lets +onlyGivenNames y4
  have h4 : Keeps [.bus, .wins, .cad, .gop, .chk, .basin, .integ, .slots, .ctr, .out, .free] s y4 := by
    unfold y4
    refine Keeps.set_gop _ ?_ (by decide)
    assumption
  clear_value y4
  refine Keeps.foldl _ _ ?_ (fun _ _ _ => ?_)
  · assumption
  · refine Keeps.step ?_ (State.finish_keeps ..) (by decide)
    assumption

theorem State.opMessage_keeps (p : Fin 18) (cs : List OpPayload) (s : State) : Keeps [.bus, .wins, .cfg, .cad, .gop, .integ, .ctr, .out] s (State.opMessage p cs s) := by
  unfold State.opMessage
  split
  · exact Keeps.refl _ _
  · simp only
    refine Keeps.ite _ (Keeps.ite _ (Keeps.step (Keeps.refl _ _) (State.laneClimb_keeps ..) (by decide))
      (Keeps.step (Keeps.refl _ _) (State.laneDescend_keeps ..) (by decide))) ?_
    refine Keeps.ite _ (Keeps.ite _ (Keeps.ite _ (Keeps.step (Keeps.refl _ _) (State.expelDecide_keeps ..) (by decide))
      (Keeps.step (Keeps.refl _ _) (State.sendOps_keeps ..) (by decide))) (Keeps.step (Keeps.refl _ _) (State.expelArrives_keeps ..) (by decide))) ?_
    refine Keeps.ite _ (Keeps.step (Keeps.refl _ _) (State.reachRecord_keeps ..) (by decide)) ?_
    refine Keeps.ite _ ?_ ?_
    · split
      · exact Keeps.step (Keeps.refl _ _) (State.decideHere_keeps ..) (by decide)
      · exact Keeps.refl _ _
    · split
      · exact Keeps.refl _ _
      · exact Keeps.ite _ (Keeps.step (Keeps.refl _ _) (State.armReport_keeps ..) (by decide))
          (Keeps.ite _ (Keeps.step (Keeps.refl _ _) (State.sendOps_keeps ..) (by decide))
            (Keeps.step (Keeps.refl _ _) (State.proposalArrives_keeps ..) (by decide)))

theorem State.setRx_keeps (p : Fin 18) (l : List OpPayload) (s : State) : Keeps [.gop] s (State.setRx p l s) := by
  unfold State.setRx
  exact Keeps.set_gop _ (Keeps.refl _ _) (by decide)

theorem State.opCell_keeps (p : Fin 18) (c : OpPayload) (s : State) : Keeps [.bus, .wins, .cfg, .cad, .gop, .integ, .ctr, .out] s (State.opCell p c s) := by
  unfold State.opCell
  extract_lets +onlyGivenNames z0
  extract_lets +onlyGivenNames z1
  extract_lets +onlyGivenNames z2
  refine Keeps.ite _ ?_ ?_
  · exact Keeps.step (Keeps.refl _ _) (State.setRx_keeps ..) (by decide)
  · refine Keeps.ite _ ?_ ?_
    · exact Keeps.step (Keeps.step (Keeps.refl _ _) (State.setRx_keeps ..) (by decide)) (State.opMessage_keeps ..) (by decide)
    · exact Keeps.step (Keeps.refl _ _) (State.setRx_keeps ..) (by decide)

theorem State.opCellLost_keeps (p : Fin 18) (s : State) : Keeps [.cad, .gop, .integ, .ctr, .out] s (State.opCellLost p s) := by
  have h : Keeps [.cad, .gop, .integ, .ctr, .out] s ((s.notice (0x0550 + p.1)).setRx p []) :=
    Keeps.step (Keeps.step (Keeps.refl _ _) (State.notice_keeps ..) (by decide)) (State.setRx_keeps ..) (by decide)
  unfold State.opCellLost
  simp only
  split
  · refine Keeps.ite _ ?_ h
    split
    · exact Keeps.ite _ (Keeps.step h (State.failLane_keeps ..) (by decide)) h
    · exact h
  · exact h

theorem State.cadRequestRun_keeps (p : Port) (ps : Bytes) (b : Nat) (s : State) : Keeps [.wins, .cad, .gop, .out] s (State.cadRequestRun p ps b s) := by
  unfold State.cadRequestRun
  extract_lets +onlyGivenNames z0
  extract_lets +onlyGivenNames z1
  extract_lets +onlyGivenNames z2
  extract_lets +onlyGivenNames z3
  extract_lets +onlyGivenNames y4
  have h4 : Keeps [.wins, .cad, .gop, .out] s y4 := by
    unfold y4
    exact Keeps.step (Keeps.refl _ _) (State.accept_keeps ..) (by decide)
  clear_value y4
  refine Keeps.ite _ ?_ ?_
  · refine Keeps.step ?_ (State.recordOp_keeps ..) (by decide)
    assumption
  · refine Keeps.step ?_ (State.propose_keeps ..) (by decide)
    refine Keeps.step ?_ (State.updGrp_keeps ..) (by decide)
    assumption

theorem State.expelRun_keeps (p : Port) (ps : Bytes) (b : Nat) (s : State) : Keeps [.wins, .cad, .out] s (State.expelRun p ps b s) := by
  unfold State.expelRun
  extract_lets +onlyGivenNames y0
  have h0 : Keeps [.wins, .cad, .out] s y0 := by
    unfold y0
    exact Keeps.step (Keeps.refl _ _) (State.accept_keeps ..) (by decide)
  clear_value y0
  extract_lets +onlyGivenNames z1
  refine Keeps.ite _ ?_ ?_
  · assumption
  · refine Keeps.step ?_ (State.sendOps_keeps ..) (by decide)
    assumption

theorem groupStatusOp_within : groupStatusOp.Within [.bus, .wins, .out] := by
  refine ⟨fun p ps b s => ?_, fun p ps s => ?_⟩
  · dsimp only [groupStatusOp, OpSpec.query]
    exact Keeps.step (Keeps.refl _ _) (State.answer_keeps ..) (by decide)
  · dsimp only [groupStatusOp, OpSpec.query]
    exact Keeps.refl _ _

theorem cadRequestOp_within : cadRequestOp.Within [.bus, .wins, .cad, .gop, .out] := by
  refine ⟨fun p ps b s => ?_, fun p ps s => ?_⟩
  · dsimp only [cadRequestOp, OpSpec.query]
    exact Keeps.step (Keeps.refl _ _) (State.cadRequestRun_keeps ..) (by decide)
  · dsimp only [cadRequestOp, OpSpec.query]
    exact Keeps.refl _ _

theorem resetAtOp_within : resetAtOp.Within [.bus, .wins, .cad, .gop, .out] := by
  refine ⟨fun p ps b s => ?_, fun p ps s => ?_⟩
  · dsimp only [resetAtOp, OpSpec.query]
    exact Keeps.step (Keeps.step (Keeps.refl _ _) (State.accept_keeps ..) (by decide)) (State.propose_keeps ..) (by decide)
  · dsimp only [resetAtOp, OpSpec.query]
    exact Keeps.refl _ _

theorem snapshotAtOp_within : snapshotAtOp.Within [.bus, .wins, .cad, .gop, .out] := by
  refine ⟨fun p ps b s => ?_, fun p ps s => ?_⟩
  · dsimp only [snapshotAtOp, OpSpec.query]
    exact Keeps.step (Keeps.step (Keeps.refl _ _) (State.accept_keeps ..) (by decide)) (State.propose_keeps ..) (by decide)
  · dsimp only [snapshotAtOp, OpSpec.query]
    exact Keeps.refl _ _

theorem snapshotReadOp_within : snapshotReadOp.Within [.bus, .wins, .out] := by
  refine ⟨fun p ps b s => ?_, fun p ps s => ?_⟩
  · dsimp only [snapshotReadOp, OpSpec.query]
    exact Keeps.step (Keeps.refl _ _) (State.answer_keeps ..) (by decide)
  · dsimp only [snapshotReadOp, OpSpec.query]
    exact Keeps.refl _ _

theorem expelOp_within : expelOp.Within [.bus, .wins, .cad, .out] := by
  refine ⟨fun p ps b s => ?_, fun p ps s => ?_⟩
  · dsimp only [expelOp, OpSpec.query]
    exact Keeps.step (Keeps.refl _ _) (State.expelRun_keeps ..) (by decide)
  · dsimp only [expelOp, OpSpec.query]
    exact Keeps.refl _ _

theorem execGroupStatus_keeps (p : Port) (tag : BitVec 32) (params : Bytes) (s : State) : ∃ t, execGroupStatus p tag params s = .next t ∧ Keeps [.bus, .wins, .cfg, .ctr, .out] s t :=
  ⟨_, rfl, State.submit_keeps (OpSpec.Within.mono groupStatusOp_within (by decide)) (by decide) ..⟩

theorem execCadRequest_keeps (p : Port) (tag : BitVec 32) (params : Bytes) (s : State) : ∃ t, execCadRequest p tag params s = .next t ∧ Keeps [.bus, .wins, .cfg, .cad, .gop, .ctr, .out] s t :=
  ⟨_, rfl, State.submit_keeps (OpSpec.Within.mono cadRequestOp_within (by decide)) (by decide) ..⟩

theorem execResetAt_keeps (p : Port) (tag : BitVec 32) (params : Bytes) (s : State) : ∃ t, execResetAt p tag params s = .next t ∧ Keeps [.bus, .wins, .cfg, .cad, .gop, .ctr, .out] s t :=
  ⟨_, rfl, State.submit_keeps (OpSpec.Within.mono resetAtOp_within (by decide)) (by decide) ..⟩

theorem execSnapshotAt_keeps (p : Port) (tag : BitVec 32) (params : Bytes) (s : State) : ∃ t, execSnapshotAt p tag params s = .next t ∧ Keeps [.bus, .wins, .cfg, .cad, .gop, .ctr, .out] s t :=
  ⟨_, rfl, State.submit_keeps (OpSpec.Within.mono snapshotAtOp_within (by decide)) (by decide) ..⟩

theorem execSnapshotRead_keeps (p : Port) (tag : BitVec 32) (params : Bytes) (s : State) : ∃ t, execSnapshotRead p tag params s = .next t ∧ Keeps [.bus, .wins, .cfg, .ctr, .out] s t :=
  ⟨_, rfl, State.submit_keeps (OpSpec.Within.mono snapshotReadOp_within (by decide)) (by decide) ..⟩

theorem execExpel_keeps (p : Port) (tag : BitVec 32) (params : Bytes) (s : State) : ∃ t, execExpel p tag params s = .next t ∧ Keeps [.bus, .wins, .cfg, .cad, .ctr, .out] s t :=
  ⟨_, rfl, State.submit_keeps (OpSpec.Within.mono expelOp_within (by decide)) (by decide) ..⟩

theorem execOpCell_keeps (port : Fin 18) (first : Option (BitVec 100)) (second : Option (BitVec 100)) (s : State) : ∃ t, execOpCell port first second s = .next t ∧ Keeps [.bus, .wins, .cfg, .cad, .gop, .integ, .ctr, .out] s t := by
  unfold execOpCell
  refine ⟨_, rfl, ?_⟩
  refine Keeps.ite _ ?_ ?_
  · exact Keeps.refl _ _
  · split
    · exact Keeps.step (Keeps.refl _ _) (State.opCell_keeps ..) (by decide)
    · exact Keeps.step (Keeps.refl _ _) (State.opCell_keeps ..) (by decide)
    · exact Keeps.step (Keeps.refl _ _) (State.opCellLost_keeps ..) (by decide)

theorem execReachReport_keeps (s : State) : ∃ t, execReachReport s = .next t ∧ Keeps [.cad, .out] s t := by
  unfold execReachReport
  exact ⟨_, rfl, Keeps.step (Keeps.refl _ _) (State.reachReport_keeps ..) (by decide)⟩

theorem execReachRecord_keeps (port : Fin 18) (c : OpPayload) (s : State) : ∃ t, execReachRecord port c s = .next t ∧ Keeps [.cad, .gop, .integ, .ctr, .out] s t := by
  unfold execReachRecord
  refine ⟨_, rfl, ?_⟩
  refine Keeps.ite _ ?_ ?_
  · exact Keeps.step (Keeps.refl _ _) (State.reachRecord_keeps ..) (by decide)
  · exact Keeps.refl _ _

theorem execEpochProposal_keeps (group : Fin 256) (fn : EpochFn) (epoch : Nat) (arg : Nat) (commitId : BitVec 32) (s : State) : ∃ t, execEpochProposal group fn epoch arg commitId s = .next t ∧ Keeps [.cad, .gop, .out] s t := by
  unfold execEpochProposal
  refine ⟨_, rfl, ?_⟩
  refine Keeps.ite _ ?_ ?_
  · exact Keeps.step (Keeps.refl _ _) (State.proposalArrives_keeps ..) (by decide)
  · exact Keeps.refl _ _

theorem execArmWord_keeps (slot : Fin 8) (op : Byte) (epochFrame : BitVec 54) (status : Byte) (s : State) : ∃ t, execArmWord slot op epochFrame status s = .next t ∧ Keeps [.gop] s t := by
  unfold execArmWord
  refine ⟨_, rfl, ?_⟩
  split
  · refine Keeps.ite _ ?_ ?_
    · exact Keeps.refl _ _
    · exact Keeps.step (Keeps.refl _ _) (State.updOp_keeps ..) (by decide)
  · exact Keeps.refl _ _

theorem execArmReduceStart_keeps (group : Fin 256) (fn : EpochFn) (epoch : Nat) (s : State) : ∃ t, execArmReduceStart group fn epoch s = .next t ∧ Keeps [.bus, .wins, .cfg, .cad, .gop, .integ, .slots, .ctr, .out] s t := by
  unfold execArmReduceStart
  refine ⟨_, rfl, ?_⟩
  split
  · refine Keeps.ite _ ?_ ?_
    · exact Keeps.refl _ _
    · exact Keeps.step (Keeps.refl _ _) (State.armReduce_keeps ..) (by decide)
  · exact Keeps.refl _ _

theorem execDecide_keeps (group : Fin 256) (fn : EpochFn) (epoch : Nat) (goAhead : Bool) (step : BitVec 4) (s : State) : ∃ t, execDecide group fn epoch goAhead step s = .next t ∧ Keeps [.bus, .wins, .cfg, .cad, .gop, .integ, .ctr, .out] s t := by
  unfold execDecide
  refine ⟨_, rfl, ?_⟩
  split
  · refine Keeps.ite _ ?_ ?_
    · exact Keeps.refl _ _
    · exact Keeps.step (Keeps.refl _ _) (State.decideHere_keeps ..) (by decide)
  · exact Keeps.refl _ _

theorem execEpochNoDecision_keeps (group : Fin 256) (fn : EpochFn) (epoch : Nat) (s : State) : ∃ t, execEpochNoDecision group fn epoch s = .next t ∧ Keeps [.bus, .wins, .cfg, .cad, .gop, .chk, .basin, .integ, .slots, .ctr, .out, .free] s t := by
  unfold execEpochNoDecision
  refine ⟨_, rfl, ?_⟩
  split
  · refine Keeps.ite _ ?_ ?_
    · exact Keeps.step (Keeps.refl _ _) (State.noDecision_keeps ..) (by decide)
    · exact Keeps.refl _ _
  · exact Keeps.refl _ _

theorem execExpelDecision_keeps (group : Fin 256) (node : BitVec 32) (slots : BitVec 8) (s : State) : ∃ t, execExpelDecision group node slots s = .next t ∧ Keeps [.bus, .wins, .cad, .gop, .out] s t := by
  unfold execExpelDecision
  refine ⟨_, rfl, ?_⟩
  refine Keeps.ite _ ?_ ?_
  · exact Keeps.step (Keeps.refl _ _) (State.expelDecide_keeps ..) (by decide)
  · exact Keeps.refl _ _

theorem execExpelEffect_keeps (group : Fin 256) (slots : BitVec 8) (epoch : Nat) (s : State) : ∃ t, execExpelEffect group slots epoch s = .next t ∧ Keeps [.bus, .wins, .cad, .gop, .chk, .basin, .integ, .slots, .ctr, .out, .free] s t := by
  unfold execExpelEffect
  refine ⟨_, rfl, ?_⟩
  split
  · refine Keeps.ite _ ?_ ?_
    · exact Keeps.step (Keeps.refl _ _) (State.expelNow_keeps ..) (by decide)
    · exact Keeps.refl _ _
  · exact Keeps.refl _ _
end Sys2Proof.Machine
end

