-- ==== Sys2Proof/Laws/KeepsCadence.lean ====
section
/-!
SUPPORT. What the operations of Machine/Cadence.lean touch, and that they keep the invariant.
-/

namespace Sys2Proof.Machine
theorem State.childGone_keeps (p : Fin 18) (s : State) : Keeps [.gop] s (State.childGone p s) := by
  unfold State.childGone
  refine Keeps.ite _ ?_ ?_
  · exact Keeps.refl _ _
  · exact Keeps.set_gop _ (Keeps.refl _ _) (by decide)

theorem State.uplinkCommandsFail_keeps (s : State) : Keeps [.bus, .wins, .out] s (State.uplinkCommandsFail s) := by
  unfold State.uplinkCommandsFail
  refine Keeps.foldl _ _ ?_ (fun _ _ _ => ?_)
  · exact Keeps.refl _ _
  · refine Keeps.step ?_ (State.finish_keeps ..) (by decide)
    assumption

theorem State.linkLost_keeps (p : Fin 18) (s : State) : Keeps [.bus, .wins, .cad, .gop, .integ, .ctr, .out] s (State.linkLost p s) := by
  unfold State.linkLost
  extract_lets +onlyGivenNames y0
  have h0 : Keeps [.bus, .wins, .cad, .gop, .integ, .ctr, .out] s y0 := by
    unfold y0
    exact Keeps.step (Keeps.step (Keeps.step (Keeps.refl _ _) (State.updPort_keeps ..) (by decide)) (State.notice_keeps ..) (by decide)) (State.childGone_keeps ..) (by decide)
  clear_value y0
  extract_lets +onlyGivenNames y1
  have h1 : Keeps [.bus, .wins, .cad, .gop, .integ, .ctr, .out] s y1 := by
    unfold y1
    refine Keeps.step ?_ (State.setRx_keeps ..) (by decide)
    assumption
  clear_value y1
  refine Keeps.ite _ ?_ ?_
  · refine Keeps.step ?_ (State.uplinkCommandsFail_keeps ..) (by decide)
    refine Keeps.step ?_ (State.routeLost_keeps ..) (by decide)
    assumption
  · assumption

theorem State.identCell_keeps (p : Fin 18) (c : IdentCell) (s : State) : Keeps [.cad, .gop] s (State.identCell p c s) := by
  unfold State.identCell
  extract_lets +onlyGivenNames z0
  extract_lets +onlyGivenNames z1
  extract_lets +onlyGivenNames z2
  extract_lets +onlyGivenNames z3
  extract_lets +onlyGivenNames z4
  extract_lets +onlyGivenNames z5
  refine Keeps.ite _ ?_ ?_
  · exact Keeps.step (Keeps.step (Keeps.refl _ _) (State.updPort_keeps ..) (by decide)) (State.childGone_keeps ..) (by decide)
  · refine Keeps.ite _ ?_ ?_
    · exact Keeps.step (Keeps.refl _ _) (State.updPort_keeps ..) (by decide)
    · exact Keeps.step (Keeps.refl _ _) (State.updPort_keeps ..) (by decide)

theorem State.echo_keeps (p : Fin 18) (t1 : Int) (t4 : Int) (turn : Nat) (s : State) : Keeps [.cad, .gop] s (State.echo p t1 t4 turn s) := by
  unfold State.echo
  extract_lets +onlyGivenNames z0
  extract_lets +onlyGivenNames z1
  refine Keeps.ite _ ?_ ?_
  · extract_lets +onlyGivenNames z2
    refine Keeps.ite _ ?_ ?_
    · exact Keeps.step (Keeps.refl _ _) (State.updPort_keeps ..) (by decide)
    · extract_lets +onlyGivenNames z3
      exact Keeps.step (Keeps.step (Keeps.refl _ _) (State.updPort_keeps ..) (by decide)) (State.childGone_keeps ..) (by decide)
  · extract_lets +onlyGivenNames z2
    refine Keeps.ite _ ?_ ?_
    · exact Keeps.step (Keeps.step (Keeps.refl _ _) (State.updPort_keeps ..) (by decide)) (State.childGone_keeps ..) (by decide)
    · exact Keeps.step (Keeps.refl _ _) (State.updPort_keeps ..) (by decide)

theorem State.slew_keeps (off : Int) (arrival : Nat) (s : State) : Keeps [.cad] s (State.slew off arrival s) := by
  unfold State.slew
  extract_lets +onlyGivenNames z0
  extract_lets +onlyGivenNames z1
  extract_lets +onlyGivenNames z2
  exact Keeps.set_cad _ (Keeps.refl _ _) (by decide)

theorem State.callStep_keeps (off : Int) (arrival : Nat) (s : State) : Keeps [.cad] s (State.callStep off arrival s) := by
  unfold State.callStep
  exact Keeps.set_cad _ (Keeps.refl _ _) (by decide)

theorem State.enterHoldover_keeps (e0 : Nat) (s : State) : Keeps [.cad] s (State.enterHoldover e0 s) := by
  unfold State.enterHoldover
  exact Keeps.set_cad _ (Keeps.refl _ _) (by decide)

theorem State.followStamp_keeps (off : Int) (err : Nat) (arrival : Nat) (s : State) : Keeps [.cad] s (State.followStamp off err arrival s) := by
  unfold State.followStamp
  extract_lets +onlyGivenNames z0
  extract_lets +onlyGivenNames y1
  have h1 : Keeps [.cad] s y1 := by
    unfold y1
    exact Keeps.set_cad _ (Keeps.refl _ _) (by decide)
  clear_value y1
  split
  · refine Keeps.ite _ ?_ ?_
    · refine Keeps.step ?_ (State.callStep_keeps ..) (by decide)
      assumption
    · extract_lets +onlyGivenNames y2
      have h2 : Keeps [.cad] s y2 := by
        unfold y2
        refine Keeps.step ?_ (State.slew_keeps ..) (by decide)
        assumption
      clear_value y2
      refine Keeps.set_cad _ ?_ (by decide)
      assumption
  · refine Keeps.ite _ ?_ ?_
    · refine Keeps.step ?_ (State.slew_keeps ..) (by decide)
      assumption
    · refine Keeps.step ?_ (State.callStep_keeps ..) (by decide)
      refine Keeps.step ?_ (State.enterHoldover_keeps ..) (by decide)
      assumption
  · refine Keeps.ite _ ?_ ?_
    · refine Keeps.step ?_ (State.callStep_keeps ..) (by decide)
      assumption
    · extract_lets +onlyGivenNames y2
      have h2 : Keeps [.cad] s y2 := by
        unfold y2
        refine Keeps.step ?_ (State.slew_keeps ..) (by decide)
        assumption
      clear_value y2
      refine Keeps.set_cad _ ?_ (by decide)
      assumption
  · assumption

theorem State.stampIn_keeps (p : Fin 18) (c : StampCell) (arrival : Nat) (s : State) : Keeps [.cad] s (State.stampIn p c arrival s) := by
  unfold State.stampIn
  extract_lets +onlyGivenNames z0
  extract_lets +onlyGivenNames z1
  extract_lets +onlyGivenNames z2
  extract_lets +onlyGivenNames y3
  have h3 : Keeps [.cad] s y3 := by
    unfold y3
    exact Keeps.step (Keeps.refl _ _) (State.updPort_keeps ..) (by decide)
  clear_value y3
  refine Keeps.ite _ ?_ ?_
  · extract_lets +onlyGivenNames z4
    refine Keeps.step ?_ (State.followStamp_keeps ..) (by decide)
    assumption
  · assumption

theorem State.makeStep_keeps (x : TimeStep) (s : State) : Keeps [.dev, .bus, .wins, .cfg, .cad, .gop, .chk, .basin, .integ, .slots, .ctr, .out, .free] s (State.makeStep x s) := by
  unfold State.makeStep
  extract_lets +onlyGivenNames y0
  have h0 : Keeps [.dev, .bus, .wins, .cfg, .cad, .gop, .chk, .basin, .integ, .slots, .ctr, .out, .free] s y0 := by
    unfold y0
    exact Keeps.step (Keeps.step (Keeps.refl _ _) (State.notice_keeps ..) (by decide)) (State.opsLost_keeps ..) (by decide)
  clear_value y0
  extract_lets +onlyGivenNames z1
  extract_lets +onlyGivenNames z2
  extract_lets +onlyGivenNames y3
  have h3 : Keeps [.dev, .bus, .wins, .cfg, .cad, .gop, .chk, .basin, .integ, .slots, .ctr, .out, .free] s y3 := by
    unfold y3
    split
    · refine Keeps.ite _ ?_ ?_
      · refine Keeps.step ?_ (State.failCommit_keeps ..) (by decide)
        assumption
      · refine Keeps.ite _ ?_ ?_
        · refine Keeps.set_cfg _ ?_ (by decide)
          assumption
        · assumption
    · assumption
  clear_value y3
  extract_lets +onlyGivenNames z4
  extract_lets +onlyGivenNames y5
  have h5 : Keeps [.dev, .bus, .wins, .cfg, .cad, .gop, .chk, .basin, .integ, .slots, .ctr, .out, .free] s y5 := by
    unfold y5
    refine Keeps.set_cad _ ?_ (by decide)
    assumption
  clear_value y5
  extract_lets +onlyGivenNames z6
  extract_lets +onlyGivenNames z7
  extract_lets +onlyGivenNames z8
  extract_lets +onlyGivenNames y9
  have h9 : Keeps [.dev, .bus, .wins, .cfg, .cad, .gop, .chk, .basin, .integ, .slots, .ctr, .out, .free] s y9 := by
    unfold y9
    refine Keeps.set_dev_cad _ _ ?_ (by decide)
    assumption
  clear_value y9
  refine Keeps.foldl _ _ ?_ (fun _ _ _ => ?_)
  · assumption
  · split
    · refine Keeps.step ?_ (State.updSlot_keeps ..) (by decide)
      assumption
    · assumption

theorem State.tryStep_keeps (s : State) : Keeps [.dev, .bus, .wins, .cfg, .cad, .gop, .chk, .basin, .integ, .slots, .ctr, .out, .free] s (State.tryStep s) := by
  unfold State.tryStep
  split
  · refine Keeps.ite _ ?_ ?_
    · exact Keeps.refl _ _
    · exact Keeps.step (Keeps.refl _ _) (State.makeStep_keeps ..) (by decide)
  · exact Keeps.refl _ _

theorem State.enterLocked_keeps (s : State) : Keeps [.bus, .wins, .cad, .gop, .out] s (State.enterLocked s) := by
  unfold State.enterLocked
  extract_lets +onlyGivenNames z0
  extract_lets +onlyGivenNames z1
  extract_lets +onlyGivenNames z2
  extract_lets +onlyGivenNames y3
  have h3 : Keeps [.bus, .wins, .cad, .gop, .out] s y3 := by
    unfold y3
    exact Keeps.set_cad_gop _ _ (Keeps.refl _ _) (by decide)
  clear_value y3
  refine Keeps.foldl _ _ ?_ (fun _ _ _ => ?_)
  · assumption
  · refine Keeps.step ?_ (State.finish_keeps ..) (by decide)
    assumption

theorem State.switchUplink_keeps (s : State) : Keeps [.bus, .wins, .cfg, .cad, .gop, .chk, .basin, .integ, .slots, .ctr, .out, .free] s (State.switchUplink s) := by
  unfold State.switchUplink
  extract_lets +onlyGivenNames y0
  have h0 : Keeps [.bus, .wins, .cfg, .cad, .gop, .chk, .basin, .integ, .slots, .ctr, .out, .free] s y0 := by
    unfold y0
    exact Keeps.step (Keeps.step (Keeps.step (Keeps.refl _ _) (State.notice_keeps ..) (by decide)) (State.routeLost_keeps ..) (by decide)) (State.opsLost_keeps ..) (by decide)
  clear_value y0
  extract_lets +onlyGivenNames z1
  refine Keeps.set_cad_gop _ _ ?_ (by decide)
  assumption

theorem State.timeSlot_keeps (p : Fin 18) (e : EchoTimes) (s : State) : Keeps [.cad, .out] s (State.timeSlot p e s) := by
  unfold State.timeSlot
  extract_lets +onlyGivenNames z0
  extract_lets +onlyGivenNames z1
  extract_lets +onlyGivenNames z2
  extract_lets +onlyGivenNames y3
  have h3 : Keeps [.cad, .out] s y3 := by
    unfold y3
    exact Keeps.step (Keeps.refl _ _) (State.updPort_keeps ..) (by decide)
  clear_value y3
  refine Keeps.ite _ ?_ ?_
  · extract_lets +onlyGivenNames y4
    have h4 : Keeps [.cad, .out] s y4 := by
      unfold y4
      refine Keeps.step ?_ (State.sendCell_keeps ..) (by decide)
      assumption
    clear_value y4
    refine Keeps.ite _ ?_ ?_
    · refine Keeps.set_cad _ ?_ (by decide)
      assumption
    · assumption
  · refine Keeps.ite _ ?_ ?_
    · refine Keeps.step ?_ (State.sendCell_keeps ..) (by decide)
      assumption
    · refine Keeps.step ?_ (State.sendCell_keeps ..) (by decide)
      assumption

theorem State.frameWords_keeps (b : Nat) (s : State) : Keeps [.cad, .out] s (State.frameWords b s) := by
  unfold State.frameWords
  extract_lets +onlyGivenNames z0
  refine Keeps.ite _ ?_ ?_
  · exact Keeps.refl _ _
  · extract_lets +onlyGivenNames z1
    extract_lets +onlyGivenNames y2
    have h2 : Keeps [.cad, .out] s y2 := by
      unfold y2
      exact Keeps.set_cad _ (Keeps.refl _ _) (by decide)
    clear_value y2
    refine Keeps.foldl _ _ ?_ (fun _ _ _ => ?_)
    · assumption
    · refine Keeps.ite _ ?_ ?_
      · refine Keeps.step ?_ (State.sendLane_keeps ..) (by decide)
        assumption
      · assumption

theorem State.cadenceHolds_keeps (s : State) : Keeps [.bus, .wins, .cad, .gop, .chk, .basin, .integ, .slots, .ctr, .out, .free] s (State.cadenceHolds s) := by
  unfold State.cadenceHolds
  extract_lets +onlyGivenNames y0
  have h0 : Keeps [.bus, .wins, .cad, .gop, .chk, .basin, .integ, .slots, .ctr, .out, .free] s y0 := by
    unfold y0
    refine Keeps.ite _ ?_ ?_
    · refine Keeps.foldl _ _ ?_ (fun _ _ _ => ?_)
      · exact Keeps.refl _ _
      · refine Keeps.step ?_ (State.holdSlot_keeps ..) (by decide)
        assumption
    · exact Keeps.refl _ _
  clear_value y0
  refine Keeps.ite _ ?_ ?_
  · refine Keeps.foldl _ _ ?_ (fun _ _ _ => ?_)
    · assumption
    · refine Keeps.ite _ ?_ ?_
      · assumption
      · refine Keeps.step ?_ (State.holdGroup_keeps ..) (by decide)
        assumption
  · assumption

theorem State.portsBoundary_keeps (b : Nat) (s : State) : Keeps [.bus, .wins, .cad, .out] s (State.portsBoundary b s) := by
  unfold State.portsBoundary
  extract_lets +onlyGivenNames z0
  extract_lets +onlyGivenNames y1
  have h1 : Keeps [.bus, .wins, .cad, .out] s y1 := by
    unfold y1
    exact Keeps.set_cad _ (Keeps.refl _ _) (by decide)
  clear_value y1
  split
  · refine Keeps.ite _ ?_ ?_
    · extract_lets +onlyGivenNames z2
      extract_lets +onlyGivenNames y3
      have h3 : Keeps [.bus, .wins, .cad, .out] s y3 := by
        unfold y3
        refine Keeps.set_cad _ ?_ (by decide)
        assumption
      clear_value y3
      refine Keeps.foldl _ _ ?_ (fun _ _ _ => ?_)
      · assumption
      · refine Keeps.step ?_ (State.finish_keeps ..) (by decide)
        assumption
    · assumption
  · assumption

theorem State.cadSwitchRun_keeps (p : Port) (ps : Bytes) (b : Nat) (s : State) : Keeps [.bus, .wins, .cfg, .cad, .gop, .chk, .basin, .integ, .slots, .ctr, .out, .free] s (State.cadSwitchRun p ps b s) := by
  unfold State.cadSwitchRun
  refine Keeps.ite _ ?_ ?_
  · exact Keeps.step (Keeps.refl _ _) (State.answerNow_keeps ..) (by decide)
  · exact Keeps.step (Keeps.step (Keeps.refl _ _) (State.switchUplink_keeps ..) (by decide)) (State.accept_keeps ..) (by decide)

theorem cadStatusOp_within : cadStatusOp.Within [.bus, .wins, .out] := by
  refine ⟨fun p ps b s => ?_, fun p ps s => ?_⟩
  · dsimp only [cadStatusOp, OpSpec.query]
    exact Keeps.step (Keeps.refl _ _) (State.answer_keeps ..) (by decide)
  · dsimp only [cadStatusOp, OpSpec.query]
    exact Keeps.refl _ _

theorem linkStatusOp_within : linkStatusOp.Within [.bus, .wins, .out] := by
  refine ⟨fun p ps b s => ?_, fun p ps s => ?_⟩
  · dsimp only [linkStatusOp, OpSpec.query]
    exact Keeps.step (Keeps.refl _ _) (State.answer_keeps ..) (by decide)
  · dsimp only [linkStatusOp, OpSpec.query]
    exact Keeps.refl _ _

theorem cadRejoinOp_within : cadRejoinOp.Within [.bus, .wins, .out] := by
  refine ⟨fun p ps b s => ?_, fun p ps s => ?_⟩
  · dsimp only [cadRejoinOp, OpSpec.query]
    exact Keeps.step (Keeps.refl _ _) (State.accept_keeps ..) (by decide)
  · dsimp only [cadRejoinOp, OpSpec.query]
    exact Keeps.refl _ _

theorem cadSwitchOp_within : cadSwitchOp.Within [.bus, .wins, .cfg, .cad, .gop, .chk, .basin, .integ, .slots, .ctr, .out, .free] := by
  refine ⟨fun p ps b s => ?_, fun p ps s => ?_⟩
  · dsimp only [cadSwitchOp, OpSpec.query]
    exact Keeps.step (Keeps.refl _ _) (State.cadSwitchRun_keeps ..) (by decide)
  · dsimp only [cadSwitchOp, OpSpec.query]
    exact Keeps.refl _ _

theorem execCadStatus_keeps (p : Port) (tag : BitVec 32) (params : Bytes) (s : State) : ∃ t, execCadStatus p tag params s = .next t ∧ Keeps [.bus, .wins, .cfg, .ctr, .out] s t :=
  ⟨_, rfl, State.submit_keeps (OpSpec.Within.mono cadStatusOp_within (by decide)) (by decide) ..⟩

theorem execLinkStatus_keeps (p : Port) (tag : BitVec 32) (params : Bytes) (s : State) : ∃ t, execLinkStatus p tag params s = .next t ∧ Keeps [.bus, .wins, .cfg, .ctr, .out] s t :=
  ⟨_, rfl, State.submit_keeps (OpSpec.Within.mono linkStatusOp_within (by decide)) (by decide) ..⟩

theorem execCadRejoin_keeps (p : Port) (tag : BitVec 32) (params : Bytes) (s : State) : ∃ t, execCadRejoin p tag params s = .next t ∧ Keeps [.bus, .wins, .cfg, .ctr, .out] s t :=
  ⟨_, rfl, State.submit_keeps (OpSpec.Within.mono cadRejoinOp_within (by decide)) (by decide) ..⟩

theorem execCadSwitch_keeps (p : Port) (tag : BitVec 32) (params : Bytes) (s : State) : ∃ t, execCadSwitch p tag params s = .next t ∧ Keeps [.bus, .wins, .cfg, .cad, .gop, .chk, .basin, .integ, .slots, .ctr, .out, .free] s t :=
  ⟨_, rfl, State.submit_keeps (OpSpec.Within.mono cadSwitchOp_within (by decide)) (by decide) ..⟩

theorem execBlockLock_keeps (port : Fin 18) (rxPower : Int) (s : State) : ∃ t, execBlockLock port rxPower s = .next t ∧ Keeps [.cad] s t := by
  unfold execBlockLock
  refine ⟨_, rfl, ?_⟩
  refine Keeps.ite _ ?_ ?_
  · exact Keeps.step (Keeps.refl _ _) (State.updPort_keeps ..) (by decide)
  · exact Keeps.refl _ _

theorem execCellAlignment_keeps (port : Fin 18) (s : State) : ∃ t, execCellAlignment port s = .next t ∧ Keeps [.cad] s t := by
  unfold execCellAlignment
  refine ⟨_, rfl, ?_⟩
  refine Keeps.ite _ ?_ ?_
  · exact Keeps.step (Keeps.refl _ _) (State.updPort_keeps ..) (by decide)
  · exact Keeps.refl _ _

theorem execLinkLoss_keeps (port : Fin 18) (s : State) : ∃ t, execLinkLoss port s = .next t ∧ Keeps [.bus, .wins, .cad, .gop, .integ, .ctr, .out] s t := by
  unfold execLinkLoss
  refine ⟨_, rfl, ?_⟩
  refine Keeps.ite _ ?_ ?_
  · exact Keeps.step (Keeps.refl _ _) (State.linkLost_keeps ..) (by decide)
  · exact Keeps.refl _ _

theorem execLinkIdent_keeps (port : Fin 18) (c : IdentCell) (s : State) : ∃ t, execLinkIdent port c s = .next t ∧ Keeps [.cad, .gop] s t := by
  unfold execLinkIdent
  refine ⟨_, rfl, ?_⟩
  refine Keeps.ite _ ?_ ?_
  · exact Keeps.step (Keeps.refl _ _) (State.identCell_keeps ..) (by decide)
  · exact Keeps.refl _ _

theorem execEchoCell_keeps (port : Fin 18) (t1 : Int) (t4 : Int) (turn : Nat) (s : State) : ∃ t, execEchoCell port t1 t4 turn s = .next t ∧ Keeps [.cad, .gop] s t := by
  unfold execEchoCell
  refine ⟨_, rfl, ?_⟩
  refine Keeps.ite _ ?_ ?_
  · exact Keeps.step (Keeps.refl _ _) (State.echo_keeps ..) (by decide)
  · exact Keeps.refl _ _

theorem execStampCell_keeps (port : Fin 18) (c : StampCell) (arrival : Nat) (s : State) : ∃ t, execStampCell port c arrival s = .next t ∧ Keeps [.cad] s t := by
  unfold execStampCell
  refine ⟨_, rfl, ?_⟩
  refine Keeps.ite _ ?_ ?_
  · exact Keeps.step (Keeps.refl _ _) (State.stampIn_keeps ..) (by decide)
  · exact Keeps.refl _ _

theorem execTimeSlot_keeps (port : Fin 18) (echo : EchoTimes) (s : State) : ∃ t, execTimeSlot port echo s = .next t ∧ Keeps [.cad, .out] s t := by
  unfold execTimeSlot
  refine ⟨_, rfl, ?_⟩
  refine Keeps.ite _ ?_ ?_
  · exact Keeps.step (Keeps.refl _ _) (State.timeSlot_keeps ..) (by decide)
  · exact Keeps.refl _ _

theorem execCellDiscarded_keeps (port : Fin 18) (badCrc : Bool) (s : State) : ∃ t, execCellDiscarded port badCrc s = .next t ∧ Keeps [.cad, .ctr] s t := by
  unfold execCellDiscarded
  refine ⟨_, rfl, ?_⟩
  refine Keeps.ite _ ?_ ?_
  · exact Keeps.step (Keeps.step (Keeps.refl _ _) (State.count_keeps ..) (by decide)) (State.updPort_keeps ..) (by decide)
  · exact Keeps.refl _ _

theorem execCodeLaneWordDiscard_keeps (slot : Fin 8) (s : State) : ∃ t, execCodeLaneWordDiscard slot s = .next t ∧ Keeps [.cad, .integ, .ctr] s t := by
  unfold execCodeLaneWordDiscard
  refine ⟨_, rfl, ?_⟩
  refine Keeps.ite _ ?_ ?_
  · exact Keeps.refl _ _
  · extract_lets +onlyGivenNames z0
    extract_lets +onlyGivenNames z1
    extract_lets +onlyGivenNames y2
    have h2 : Keeps [.cad, .integ, .ctr] s y2 := by
      unfold y2
      exact Keeps.set_cad _ (Keeps.refl _ _) (by decide)
    clear_value y2
    extract_lets +onlyGivenNames y3
    have h3 : Keeps [.cad, .integ, .ctr] s y3 := by
      unfold y3
      refine Keeps.step ?_ (State.count_keeps ..) (by decide)
      assumption
    clear_value y3
    refine Keeps.ite _ ?_ ?_
    · refine Keeps.step ?_ (State.noticeSlot_keeps ..) (by decide)
      assumption
    · assumption

theorem execHoldoverEntry_keeps (s : State) : ∃ t, execHoldoverEntry s = .next t ∧ Keeps [.cad] s t := by
  unfold execHoldoverEntry
  refine ⟨_, rfl, ?_⟩
  refine Keeps.ite _ ?_ ?_
  · exact Keeps.refl _ _
  · refine Keeps.ite _ ?_ ?_
    · exact Keeps.step (Keeps.refl _ _) (State.enterHoldover_keeps ..) (by decide)
    · refine Keeps.ite _ ?_ ?_
      · exact Keeps.step (Keeps.refl _ _) (State.enterHoldover_keeps ..) (by decide)
      · exact Keeps.refl _ _

theorem execHoldoverHold_keeps (s : State) : ∃ t, execHoldoverHold s = .next t ∧ Keeps [.cad, .integ, .ctr] s t := by
  unfold execHoldoverHold
  refine ⟨_, rfl, ?_⟩
  refine Keeps.ite _ ?_ ?_
  · exact Keeps.step (Keeps.set_cad _ (Keeps.refl _ _) (by decide)) (State.notice_keeps ..) (by decide)
  · exact Keeps.refl _ _

theorem execRelock_keeps (s : State) : ∃ t, execRelock s = .next t ∧ Keeps [.dev, .bus, .wins, .cfg, .cad, .gop, .chk, .basin, .integ, .slots, .ctr, .out, .free] s t := by
  unfold execRelock
  refine ⟨_, rfl, ?_⟩
  refine Keeps.ite _ ?_ ?_
  · exact Keeps.refl _ _
  · refine Keeps.ite _ ?_ ?_
    · exact Keeps.step (Keeps.refl _ _) (State.tryStep_keeps ..) (by decide)
    · refine Keeps.ite _ ?_ ?_
      · exact Keeps.step (Keeps.refl _ _) (State.enterLocked_keeps ..) (by decide)
      · exact Keeps.refl _ _

theorem execTimeStep_keeps (s : State) : ∃ t, execTimeStep s = .next t ∧ Keeps [.dev, .bus, .wins, .cfg, .cad, .gop, .chk, .basin, .integ, .slots, .ctr, .out, .free] s t := by
  unfold execTimeStep
  refine ⟨_, rfl, ?_⟩
  refine Keeps.ite _ ?_ ?_
  · exact Keeps.step (Keeps.refl _ _) (State.tryStep_keeps ..) (by decide)
  · exact Keeps.refl _ _

theorem execJoinLock_keeps (s : State) : ∃ t, execJoinLock s = .next t ∧ Keeps [.dev, .bus, .wins, .cfg, .cad, .gop, .chk, .basin, .integ, .slots, .ctr, .out, .free] s t := by
  unfold execJoinLock
  refine ⟨_, rfl, ?_⟩
  refine Keeps.ite _ ?_ ?_
  · exact Keeps.refl _ _
  · refine Keeps.ite _ ?_ ?_
    · exact Keeps.step (Keeps.refl _ _) (State.tryStep_keeps ..) (by decide)
    · refine Keeps.ite _ ?_ ?_
      · exact Keeps.step (Keeps.refl _ _) (State.enterLocked_keeps ..) (by decide)
      · exact Keeps.refl _ _

theorem execUplinkSwitch_keeps (s : State) : ∃ t, execUplinkSwitch s = .next t ∧ Keeps [.bus, .wins, .cfg, .cad, .gop, .chk, .basin, .integ, .slots, .ctr, .out, .free] s t := by
  unfold execUplinkSwitch
  refine ⟨_, rfl, ?_⟩
  refine Keeps.ite _ ?_ ?_
  · exact Keeps.step (Keeps.refl _ _) (State.switchUplink_keeps ..) (by decide)
  · exact Keeps.refl _ _

theorem execAdopt_keeps (port : Fin 18) (s : State) : ∃ t, execAdopt port s = .next t ∧ Keeps [.cad] s t := by
  unfold execAdopt
  refine ⟨_, rfl, ?_⟩
  refine Keeps.ite _ ?_ ?_
  · exact Keeps.step (Keeps.refl _ _) (State.updPort_keeps ..) (by decide)
  · exact Keeps.refl _ _
end Sys2Proof.Machine
end

