-- ==== Sys2Proof/Laws/KeepsSampling.lean ====
section
/-!
SUPPORT. What the operations of Machine/Sampling.lean touch, and that they keep the invariant.
-/

namespace Sys2Proof.Machine
theorem State.expectTiles_keeps (i : Fin 8) (f : Nat) (s : State) : Keeps [.integ] s (State.expectTiles i f s) := by
  unfold State.expectTiles
  refine Keeps.ite _ ?_ ?_
  · exact Keeps.refl _ _
  · extract_lets +onlyGivenNames z0
    exact Keeps.step (Keeps.refl _ _) (State.updIslot_keeps ..) (by decide)
end Sys2Proof.Machine
end

