-- ==== Sys2Proof/Laws/KeepsCheck.lean ====
section
/-!
SUPPORT. What the operations of Machine/Check.lean touch, and that they keep the invariant.
-/

namespace Sys2Proof.Machine
theorem State.nbDrop_keeps (i : Fin 8) (s : State) : Keeps [.ctr] s (State.nbDrop i s) := by
  unfold State.nbDrop
  exact Keeps.step (Keeps.refl _ _) (State.count_keeps ..) (by decide)

theorem State.nbClose_keeps (i : Fin 8) (s : State) : Keeps [.slots, .ctr] s (State.nbClose i s) := by
  unfold State.nbClose
  refine Keeps.ite _ ?_ ?_
  · exact Keeps.step (Keeps.refl _ _) (State.updSlot_keeps ..) (by decide)
  · exact Keeps.step (Keeps.step (Keeps.refl _ _) (State.updSlot_keeps ..) (by decide)) (State.count_keeps ..) (by decide)

theorem State.nbOpen_keeps (i : Fin 8) (s : State) : Keeps [.integ, .slots, .ctr] s (State.nbOpen i s) := by
  unfold State.nbOpen
  exact Keeps.step (Keeps.step (Keeps.refl _ _) (State.updSlot_keeps ..) (by decide)) (State.cancelLull_keeps ..) (by decide)

theorem State.announce_keeps (i : Fin 8) (off : Nat) (len : Nat) (s : State) : Keeps [.slots] s (State.announce i off len s) := by
  unfold State.announce
  refine Keeps.foldl _ _ ?_ (fun _ _ _ => ?_)
  · exact Keeps.refl _ _
  · extract_lets +onlyGivenNames z0
    extract_lets +onlyGivenNames z1
    refine Keeps.ite _ ?_ ?_
    · extract_lets +onlyGivenNames z2
      refine Keeps.step ?_ (State.updSlot_keeps ..) (by decide)
      assumption
    · assumption

theorem State.nbWrite_keeps (i : Fin 8) (page : Nat) (off : Nat) (data : Bytes) (s : State) : Keeps [.chk, .integ, .slots, .ctr] s (State.nbWrite i page off data s) := by
  unfold State.nbWrite
  extract_lets +onlyGivenNames z0
  extract_lets +onlyGivenNames z1
  refine Keeps.ite _ ?_ ?_
  · exact Keeps.refl _ _
  · refine Keeps.ite _ ?_ ?_
    · exact Keeps.step (Keeps.refl _ _) (State.nbDrop_keeps ..) (by decide)
    · refine Keeps.ite _ ?_ ?_
      · refine Keeps.step ?_ (State.announce_keeps ..) (by decide)
        unfold z1
        exact Keeps.set_chk _ (Keeps.refl _ _) (by decide) (Mem.wf_write _ _)
      · refine Keeps.ite _ ?_ ?_
        · refine Keeps.ite _ ?_ ?_
          · refine Keeps.step ?_ (State.nbOpen_keeps ..) (by decide)
            unfold z1
            exact Keeps.set_chk _ (Keeps.refl _ _) (by decide) (Mem.wf_write _ _)
          · exact Keeps.step (Keeps.refl _ _) (State.nbDrop_keeps ..) (by decide)
        · extract_lets +onlyGivenNames y2
          have h2 : Keeps [.chk, .integ, .slots, .ctr] s y2 := by
            unfold y2
            unfold z1
            exact Keeps.set_chk _ (Keeps.refl _ _) (by decide) (Mem.wf_write _ _)
          clear_value y2
          refine Keeps.ite _ ?_ ?_
          · refine Keeps.ite _ ?_ ?_
            · refine Keeps.step ?_ (State.nbOpen_keeps ..) (by decide)
              assumption
            · refine Keeps.step ?_ (State.nbClose_keeps ..) (by decide)
              assumption
          · refine Keeps.ite _ ?_ ?_
            · refine Keeps.step ?_ (State.nbClose_keeps ..) (by decide)
              assumption
            · assumption

theorem State.sealArea_keeps (a : Fin 64) (s : State) : Keeps [.chk] s (State.sealArea a s) := by
  unfold State.sealArea
  extract_lets +onlyGivenNames z0
  extract_lets +onlyGivenNames y1
  have h1 : Keeps [.chk] s y1 := by
    unfold y1
    exact Keeps.set_chk _ (Keeps.refl _ _) (by decide) (Mem.wf_erase _ _)
  clear_value y1
  refine Keeps.step ?_ (State.setArea_keeps ..) (by decide)
  assumption

theorem State.areaWrite_keeps (a : Fin 64) (off : Nat) (data : Bytes) (s : State) : Keeps [.chk, .slots, .ctr, .integ] s (State.areaWrite a off data s) := by
  unfold State.areaWrite
  extract_lets +onlyGivenNames x busy stop store hits
  have h1 : ∀ t lo hi, Keeps [.chk, .slots, .ctr, .integ] s t → Keeps [.chk, .slots, .ctr, .integ] s (store lo hi t) :=
    by
    intro t lo hi h
    dsimp only [store]
    split
    · exact Keeps.set_chk _ h (by decide) (Mem.wf_write _ _)
    · exact h
  clear_value store hits busy stop
  extract_lets +onlyGivenNames y1
  have h2 : Keeps [.chk, .slots, .ctr, .integ] s y1 := by
    unfold y1
    split
    · exact Keeps.step (Keeps.refl _ _) (State.count_keeps ..) (by decide)
    · exact Keeps.refl _ _
  clear_value y1
  extract_lets +onlyGivenNames y2 y3
  have h4 : Keeps [.chk, .slots, .ctr, .integ] s y2 := h1 _ 0x100 0x3E0000 (h1 _ 0 8 h2)
  clear_value y2
  have h5 : Keeps [.chk, .slots, .ctr, .integ] s y3 := by
    unfold y3
    split
    · split
      · exact Keeps.step h2 (State.count_keeps ..) (by decide)
      · exact h2
    · split
      · exact Keeps.step h4 (State.sealArea_keeps ..) (by decide)
      · exact h4
  clear_value y3
  split
  · exact Keeps.step h5 (State.nbWrite_keeps ..) (by decide)
  · exact h5

theorem State.bar4Access_keeps {l : List Part} (f : State → State) (s : State) (hf : Keeps l s (f s)) (hl : Part.ctr ∈ l) :
    Keeps l s (State.bar4Access f s) := by
  unfold State.bar4Access
  exact Keeps.ite _ (Keeps.refl _ _) (Keeps.ite _ (Keeps.step (Keeps.refl _ _) (State.count_keeps ..) (by intro x hx; simp at hx; exact hx ▸ hl)) hf)

theorem State.goldenRun_keeps (t : Tensor) (bs : List Nat) (acc : List (Nat × Bytes)) (x : List LineErr × State) :
    Keeps [.chk, .basin, .integ, .ctr, .free] x.2 (State.goldenRun t bs acc x).2.2.2 := by
  induction bs generalizing acc x with
  | nil => exact Keeps.refl _ _
  | cons b bs ih =>
    have h := State.readBlock_keeps t b x
    unfold State.goldenRun
    extract_lets +onlyGivenNames y s0 s1 s
    have hy : Keeps [.chk, .basin, .integ, .ctr, .free] x.2 y.2.2.2 := Keeps.step (Keeps.refl _ _) h (by decide)
    have hs : Keeps [.chk, .basin, .integ, .ctr, .free] x.2 s := Keeps.set_chk _ hy (by decide) (fun i => i)
    clear_value s
    split
    · exact Keeps.step hs (ih _ (y.2.2.1, s)) (fun _ hx => hx)
    · exact hs

theorem State.judgeGolden_keeps (a : Fin 64) (h : State.Header) (act : Option ActTable) (r : CheckRes) (x : List LineErr × State) :
    Keeps [.chk, .basin, .integ, .ctr, .free] x.2 (State.judgeGolden a h act r x).2 := by
  have hc : ∀ t, Keeps [.chk, .basin, .integ, .ctr, .free] x.2 t →
      Keeps [.chk, .basin, .integ, .ctr, .free] x.2 { t with chk := { t.chk with opsNow := t.chk.opsNow + 2 * h.m * h.n * h.k * h.batch } } :=
    fun t ht => Keeps.set_chk _ ht (by decide) (fun i => i)
  unfold State.judgeGolden
  extract_lets +onlyGivenNames count
  have hc' : ∀ t, Keeps [.chk, .basin, .integ, .ctr, .free] x.2 t → Keeps [.chk, .basin, .integ, .ctr, .free] x.2 (count t) := hc
  clear_value count
  split
  · exact hc' _ (Keeps.refl _ _)
  · split
    · exact Keeps.refl _ _
    · extract_lets +onlyGivenNames stop els y
      have hy : Keeps [.chk, .basin, .integ, .ctr, .free] x.2 y.2.2.2 :=
        Keeps.step (Keeps.step (Keeps.refl _ _) (State.basinTraffic_keeps ..) (by decide)) (State.goldenRun_keeps _ _ _ (x.1, x.2.basinTraffic)) (by decide)
      clear_value y stop els
      split
      · exact hy
      · split
        · exact hc' _ hy
        · extract_lets +onlyGivenNames nb scs z
          have hz : Keeps [.chk, .basin, .integ, .ctr, .free] x.2 z.2.2.2 := Keeps.step hy (State.goldenRun_keeps _ _ _ y.2.2) (by decide)
          clear_value z
          split
          · exact hz
          · exact hc' _ hz

theorem State.judgeBlocks_keeps (a : Fin 64) (h : State.Header) (act : Option ActTable) (r : CheckRes) (x : List LineErr × State) :
    Keeps [.chk, .basin, .integ, .ctr, .free] x.2 (State.judgeBlocks a h act r x).2 := by
  unfold State.judgeBlocks
  extract_lets +onlyGivenNames bs
  clear_value bs
  split
  · exact Keeps.refl _ _
  · split
    · exact Keeps.refl _ _
    · exact State.judgeGolden_keeps ..

theorem State.judgeRecord_keeps (a : Fin 64) (errs : List LineErr) (s : State) :
    Keeps [.chk, .basin, .integ, .ctr, .free] s (State.judgeRecord a errs s).2 := by
  unfold State.judgeRecord
  extract_lets +onlyGivenNames r h
  clear_value r h
  split
  · exact Keeps.refl _ _
  split
  · exact Keeps.refl _ _
  extract_lets +onlyGivenNames plain sel r1
  clear_value r1 plain sel
  split
  · exact Keeps.refl _ _
  split
  · exact Keeps.refl _ _
  extract_lets +onlyGivenNames dimm r2
  clear_value r2 dimm
  split
  · exact State.judgeBlocks_keeps _ _ _ _ (errs, s)
  split
  · exact Keeps.refl _ _
  extract_lets +onlyGivenNames x t0 t1 t
  have hx : Keeps [.chk, .basin, .integ, .ctr, .free] s x.2.2.2 :=
    Keeps.step (Keeps.step (Keeps.refl _ _) (State.basinTraffic_keeps ..) (by decide)) (State.readBytes_keeps _ _ (errs, s.basinTraffic)) (by decide)
  have ht : Keeps [.chk, .basin, .integ, .ctr, .free] s t := Keeps.set_chk _ hx (by decide) (fun i => i)
  clear_value t
  split
  · exact ht
  split
  · exact ht
  · exact Keeps.step ht (State.judgeBlocks_keeps _ _ _ _ (x.2.2.1, t)) (by decide)

theorem checkStatusOp_within : checkStatusOp.Within [.bus, .wins, .out, .free] := by
  refine ⟨fun p ps b s => ?_, fun p ps s => ?_⟩
  · dsimp only [checkStatusOp, OpSpec.query]
    exact Keeps.step (Keeps.step (Keeps.refl _ _) (State.answer_keeps ..) (by decide)) (State.drawn_keeps ..) (by decide)
  · dsimp only [checkStatusOp, OpSpec.query]
    exact Keeps.refl _ _

theorem checkResultsOp_within : checkResultsOp.Within [.bus, .wins, .out] := by
  refine ⟨fun p ps b s => ?_, fun p ps s => ?_⟩
  · dsimp only [checkResultsOp, OpSpec.query]
    exact Keeps.step (Keeps.refl _ _) (State.answer_keeps ..) (by decide)
  · dsimp only [checkResultsOp, OpSpec.query]
    exact Keeps.refl _ _

theorem checkControlOp_within : checkControlOp.Within [.bus, .wins, .chk, .integ, .ctr, .out] := by
  refine ⟨fun p ps b s => ?_, fun p ps s => ?_⟩
  · dsimp only [checkControlOp, OpSpec.query]
    refine Keeps.step ?_ (State.answerNow_keeps ..) (by decide)
    split
    · exact Keeps.set_chk _ (Keeps.refl _ _) (by decide) (fun i => i)
    · exact Keeps.set_chk _ (Keeps.refl _ _) (by decide) (fun i => i)
    · exact Keeps.step (Keeps.refl _ _) (State.endWaiting_keeps ..) (by decide)
  · dsimp only [checkControlOp, OpSpec.query]
    exact Keeps.refl _ _

theorem execBar4RecordWrite_keeps (area : Fin 64) (off : Nat) (data : Bytes) (s : State) : ∃ t, execBar4RecordWrite area off data s = .next t ∧ Keeps [.chk, .slots, .ctr, .integ] s t :=
  ⟨_, rfl, Keeps.ite _ (Keeps.refl _ _) (State.bar4Access_keeps _ _ (State.areaWrite_keeps ..) (by decide))⟩

theorem execBar4SealWrite_keeps (area : Fin 64) (data : Bytes) (s : State) : ∃ t, execBar4SealWrite area data s = .next t ∧ Keeps [.chk, .slots, .ctr, .integ] s t :=
  ⟨_, rfl, Keeps.ite _ (Keeps.refl _ _) (State.bar4Access_keeps _ _ (State.areaWrite_keeps ..) (by decide))⟩

theorem execNotebookWrite_keeps (slot page : Fin 8) (off : Nat) (data : Bytes) (s : State) : ∃ t, execNotebookWrite slot page off data s = .next t ∧ Keeps [.chk, .slots, .ctr, .integ] s t :=
  ⟨_, rfl, Keeps.ite _ (Keeps.refl _ _) (State.bar4Access_keeps _ _ (Keeps.step (Keeps.refl _ _) (State.nbWrite_keeps ..) (by decide)) (by decide))⟩

theorem execNotebookOpen_keeps (slot : Fin 8) (s : State) : ∃ t, execNotebookOpen slot s = .next t ∧ Keeps [.chk, .slots, .ctr, .integ] s t :=
  ⟨_, rfl, State.bar4Access_keeps _ _ (Keeps.step (Keeps.refl _ _) (State.nbWrite_keeps ..) (by decide)) (by decide)⟩

theorem execNotebookGenWrite_keeps (slot : Fin 8) (gen : BitVec 32) (s : State) : ∃ t, execNotebookGenWrite slot gen s = .next t ∧ Keeps [.chk, .slots, .ctr, .integ] s t :=
  ⟨_, rfl, State.bar4Access_keeps _ _ (Keeps.step (Keeps.refl _ _) (State.nbWrite_keeps ..) (by decide)) (by decide)⟩

theorem execCheckEngineStart_keeps (s : State) : ∃ t, execCheckEngineStart s = .next t ∧ Keeps [.dev, .chk] s t := by
  unfold execCheckEngineStart
  refine ⟨_, rfl, ?_⟩
  refine Keeps.ite _ ?_ ?_
  · exact Keeps.set_dev_chk _ _ (Keeps.refl _ _) (by decide) (fun i => i)
  · exact Keeps.refl _ _

theorem execCheckEngineStop_keeps (s : State) : ∃ t, execCheckEngineStop s = .next t ∧ Keeps [.dev, .chk] s t := by
  unfold execCheckEngineStop
  refine ⟨_, rfl, ?_⟩
  refine Keeps.ite _ ?_ ?_
  · exact Keeps.set_dev_chk _ _ (Keeps.refl _ _) (by decide) (fun i => i)
  · exact Keeps.refl _ _

theorem execCheckStart_keeps (area : Fin 64) (errs : List LineErr) (s : State) : ∃ t, execCheckStart area errs s = .next t ∧ Keeps [.dev, .chk, .basin, .integ, .ctr, .free] s t := by
  have h : Keeps [.dev, .chk, .basin, .integ, .ctr, .free] s (s.judgeRecord area errs).2 := Keeps.step (Keeps.refl _ _) (State.judgeRecord_keeps ..) (by decide)
  have hb : Keeps [.dev, .chk, .basin, .integ, .ctr, .free] s s.startBasin := Keeps.step (Keeps.refl _ _) (State.startBasin_keeps ..) (by decide)
  unfold execCheckStart
  generalize s.judgeRecord area errs = x at h
  refine ⟨_, rfl, Keeps.ite _ (Keeps.ite _ hb ?_) (Keeps.refl _ _)⟩
  exact Keeps.step h (State.setArea_keeps ..) (by decide)

theorem execCheckDone_keeps (area : Fin 64) (s : State) : ∃ t, execCheckDone area s = .next t ∧ Keeps [.chk, .integ, .ctr] s t := by
  unfold execCheckDone
  refine ⟨_, rfl, ?_⟩
  split
  · exact Keeps.step (Keeps.refl _ _) (State.endCheck_keeps ..) (by decide)
  · exact Keeps.refl _ _

theorem execCheckStatus_keeps (p : Port) (tag : BitVec 32) (params : Bytes) (s : State) : ∃ t, execCheckStatus p tag params s = .next t ∧ Keeps [.bus, .wins, .cfg, .ctr, .out, .free] s t :=
  ⟨_, rfl, State.submit_keeps (OpSpec.Within.mono checkStatusOp_within (by decide)) (by decide) ..⟩

theorem execCheckResults_keeps (p : Port) (tag : BitVec 32) (params : Bytes) (s : State) : ∃ t, execCheckResults p tag params s = .next t ∧ Keeps [.bus, .wins, .cfg, .ctr, .out] s t :=
  ⟨_, rfl, State.submit_keeps (OpSpec.Within.mono checkResultsOp_within (by decide)) (by decide) ..⟩

theorem execCheckControl_keeps (p : Port) (tag : BitVec 32) (params : Bytes) (s : State) : ∃ t, execCheckControl p tag params s = .next t ∧ Keeps [.bus, .wins, .cfg, .chk, .integ, .ctr, .out] s t :=
  ⟨_, rfl, State.submit_keeps (OpSpec.Within.mono checkControlOp_within (by decide)) (by decide) ..⟩
end Sys2Proof.Machine
end

