-- ==== Sys2Proof/Laws/KeepsPacks.lean ====
section
/-!
SUPPORT. What the operations of Machine/Packs.lean touch, and that they keep the invariant.
-/

namespace Sys2Proof.Machine
theorem State.writePackDir_keeps (es : List PackEntry) (s : State) : Keeps [.boot, .upd, .ctr] s (State.writePackDir es s) := by
  unfold State.writePackDir
  extract_lets +onlyGivenNames z0
  extract_lets +onlyGivenNames z1
  extract_lets +onlyGivenNames z2
  extract_lets +onlyGivenNames y3
  have h3 : Keeps [.boot, .upd, .ctr] s y3 := by
    unfold y3
    exact Keeps.step (Keeps.step (Keeps.refl _ _) (State.flashErase_keeps ..) (by decide)) (State.flashWrite_keeps ..) (by decide)
  clear_value y3
  refine Keeps.step ?_ (State.judgeDormancy_keeps ..) (by decide)
  refine Keeps.step ?_ (State.measurePacks_keeps ..) (by decide)
  assumption

theorem State.packGone_keeps (id : Nat) (s : State) : Keeps [.slots] s (State.packGone id s) := by
  unfold State.packGone
  exact Keeps.set_slots _ (Keeps.refl _ _) (by decide)

theorem State.listPack_keeps (first : Nat) (file : Bytes) (s : State) : Keeps [.slots, .boot, .upd, .ctr] s (State.listPack first file s) := by
  unfold State.listPack
  extract_lets +onlyGivenNames z0
  extract_lets +onlyGivenNames z1
  refine Keeps.ite _ ?_ ?_
  · exact Keeps.refl _ _
  · extract_lets +onlyGivenNames z2
    exact Keeps.step (Keeps.step (Keeps.refl _ _) (State.packGone_keeps ..) (by decide)) (State.writePackDir_keeps ..) (by decide)

theorem State.removePack_keeps (id : Nat) (s : State) : Keeps [.slots, .boot, .upd, .ctr] s (State.removePack id s) := by
  unfold State.removePack
  exact Keeps.step (Keeps.step (Keeps.refl _ _) (State.packGone_keeps ..) (by decide)) (State.writePackDir_keeps ..) (by decide)
end Sys2Proof.Machine
end

