-- ==== Sys2Proof/Laws/KeepsLedger.lean ====
section
/-!
SUPPORT. What the operations of Machine/Ledger.lean touch, and that they keep the invariant.
-/

namespace Sys2Proof.Machine
theorem State.updUnit_keeps (k : UnitKey) (f : UnitSt → UnitSt) (s : State) : Keeps [.integ] s (State.updUnit k f s) := by
  unfold State.updUnit
  exact Keeps.set_integ _ (Keeps.refl _ _) (by decide)

theorem State.ledgerPut_keeps (f : Nat → Bytes) (s : State) : Keeps [.integ, .boot] s (State.ledgerPut f s) := by
  unfold State.ledgerPut
  extract_lets +onlyGivenNames z0
  extract_lets +onlyGivenNames z1
  extract_lets +onlyGivenNames y2
  have h2 : Keeps [.integ, .boot] s y2 := by
    unfold y2
    exact Keeps.step (Keeps.refl _ _) (State.flashWrite_keeps ..) (by decide)
  clear_value y2
  extract_lets +onlyGivenNames z3
  extract_lets +onlyGivenNames y4
  have h4 : Keeps [.integ, .boot] s y4 := by
    unfold y4
    refine Keeps.ite _ ?_ ?_
    · refine Keeps.set_integ _ ?_ (by decide)
      assumption
    · exact Keeps.refl _ _
  clear_value y4
  extract_lets +onlyGivenNames y5
  have h5 : Keeps [.integ, .boot] s y5 := by
    unfold y5
    refine Keeps.step ?_ (State.flashWrite_keeps ..) (by decide)
    assumption
  clear_value y5
  refine Keeps.set_integ _ ?_ (by decide)
  assumption

theorem State.writeUnit_keeps (k : UnitKey) (s : State) : Keeps [.integ, .boot] s (State.writeUnit k s) := by
  unfold State.writeUnit
  extract_lets +onlyGivenNames z0
  extract_lets +onlyGivenNames y1
  have h1 : Keeps [.integ, .boot] s y1 := by
    unfold y1
    exact Keeps.step (Keeps.refl _ _) (State.ledgerPut_keeps ..) (by decide)
  clear_value y1
  refine Keeps.step ?_ (State.updUnit_keeps ..) (by decide)
  assumption

theorem State.judgeCompaction_keeps (s : State) : Keeps [.integ] s (State.judgeCompaction s) := by
  unfold State.judgeCompaction
  exact Keeps.set_integ _ (Keeps.refl _ _) (by decide)

theorem State.ledgerSnapshot_keeps (s : State) : Keeps [.integ, .boot] s (State.ledgerSnapshot s) := by
  unfold State.ledgerSnapshot
  extract_lets +onlyGivenNames y0
  have h0 : Keeps [.integ, .boot] s y0 := by
    unfold y0
    exact Keeps.step (Keeps.refl _ _) (State.ledgerPut_keeps ..) (by decide)
  clear_value y0
  extract_lets +onlyGivenNames z1
  extract_lets +onlyGivenNames y2
  have h2 : Keeps [.integ, .boot] s y2 := by
    unfold y2
    refine Keeps.foldl _ _ ?_ (fun _ _ _ => ?_)
    · assumption
    · refine Keeps.step ?_ (State.writeUnit_keeps ..) (by decide)
      assumption
  clear_value y2
  extract_lets +onlyGivenNames y3
  have h3 : Keeps [.integ, .boot] s y3 := by
    unfold y3
    refine Keeps.step ?_ (State.ledgerPut_keeps ..) (by decide)
    assumption
  clear_value y3
  refine Keeps.foldl _ _ ?_ (fun _ _ _ => ?_)
  · assumption
  · refine Keeps.ite _ ?_ ?_
    · refine Keeps.step ?_ (State.flashErase_keeps ..) (by decide)
      assumption
    · assumption

theorem State.replayEntry_keeps (s : State) (b : Bytes) : Keeps [.integ] s (State.replayEntry s b) := by
  unfold State.replayEntry
  refine Keeps.ite _ ?_ ?_
  · exact Keeps.refl _ _
  · extract_lets +onlyGivenNames z0
    extract_lets +onlyGivenNames z1
    extract_lets +onlyGivenNames y2
    have h2 : Keeps [.integ] s y2 := by
      unfold y2
      exact Keeps.step (Keeps.refl _ _) (State.updUnit_keeps ..) (by decide)
    clear_value y2
    refine Keeps.ite _ ?_ ?_
    · refine Keeps.step ?_ (State.updIslot_keeps ..) (by decide)
      assumption
    · assumption

theorem State.ledgerLoad_keeps (s : State) : Keeps [.integ] s (State.ledgerLoad s) := by
  unfold State.ledgerLoad
  extract_lets +onlyGivenNames z0
  extract_lets +onlyGivenNames z1
  extract_lets +onlyGivenNames z2
  extract_lets +onlyGivenNames z3
  extract_lets +onlyGivenNames z4
  extract_lets +onlyGivenNames z5
  extract_lets +onlyGivenNames z6
  extract_lets +onlyGivenNames y7
  have h7 : Keeps [.integ] s y7 := by
    unfold y7
    exact Keeps.set_integ _ (Keeps.refl _ _) (by decide)
  clear_value y7
  refine Keeps.step ?_ (State.judgeCompaction_keeps ..) (by decide)
  refine Keeps.foldl _ _ ?_ (fun _ _ _ => ?_)
  · assumption
  · refine Keeps.step ?_ (State.replayEntry_keeps ..) (by decide)
    assumption
end Sys2Proof.Machine
end

