-- ==== Sys2Proof/Laws/KeepsIntegrity.lean ====
section
/-!
SUPPORT. What the operations of Machine/Integrity.lean touch, and that they keep the invariant.
-/

namespace Sys2Proof.Machine
theorem State.setLadder_keeps (i : Fin 8) (k : Nat) (s : State) : Keeps [.integ] s (State.setLadder i k s) := by
  unfold State.setLadder
  exact Keeps.step (Keeps.step (Keeps.refl _ _) (State.updIslot_keeps ..) (by decide)) (State.updUnit_keeps ..) (by decide)

theorem State.writeMargin_keeps (i : Fin 8) (ack : Bool) (s : State) : Keeps [.casc, .integ, .ctr, .out] s (State.writeMargin i ack s) := by
  unfold State.writeMargin
  split
  · exact Keeps.refl _ _
  · split
    · exact Keeps.step (Keeps.refl _ _) (State.noticeSlot_keeps ..) (by decide)
    · refine Keeps.ite _ ?_ ?_
      · exact Keeps.refl _ _
      · extract_lets +onlyGivenNames z0
        extract_lets +onlyGivenNames z1
        extract_lets +onlyGivenNames y2
        have h2 : Keeps [.casc, .integ, .ctr, .out] s y2 := by
          unfold y2
          refine Keeps.ite _ ?_ ?_
          · exact Keeps.step (Keeps.refl _ _) (State.send_keeps ..) (by decide)
          · exact Keeps.refl _ _
        clear_value y2
        extract_lets +onlyGivenNames y3
        have h3 : Keeps [.casc, .integ, .ctr, .out] s y3 := by
          unfold y3
          refine Keeps.step ?_ (State.send_keeps ..) (by decide)
          assumption
        clear_value y3
        refine Keeps.ite _ ?_ ?_
        · refine Keeps.step ?_ (State.updRail_keeps ..) (by decide)
          assumption
        · refine Keeps.step ?_ (State.noticeSlot_keeps ..) (by decide)
          assumption

theorem State.integRefresh_keeps (s : State) : Keeps [.cad, .gop, .integ, .ctr, .out] s (State.integRefresh s) := by
  unfold State.integRefresh
  refine Keeps.foldl _ _ ?_ (fun _ _ _ => ?_)
  · exact Keeps.refl _ _
  · extract_lets +onlyGivenNames z0
    refine Keeps.ite _ ?_ ?_
    · assumption
    · extract_lets +onlyGivenNames y1
      have h1 : Keeps [.cad, .gop, .integ, .ctr, .out] s y1 := by
        unfold y1
        refine Keeps.step ?_ (State.updGrp_keeps ..) (by decide)
        assumption
      clear_value y1
      refine Keeps.ite _ ?_ ?_
      · assumption
      · refine Keeps.step ?_ (State.issueCadence_keeps ..) (by decide)
        assumption

theorem State.fenceUnit_keeps (i : Fin 8) (k : UnitKey) (s : State) : Keeps [.bus, .wins, .casc, .cad, .gop, .chk, .basin, .integ, .slots, .ctr, .out, .free] s (State.fenceUnit i k s) := by
  unfold State.fenceUnit
  extract_lets +onlyGivenNames y0
  have h0 : Keeps [.bus, .wins, .casc, .cad, .gop, .chk, .basin, .integ, .slots, .ctr, .out, .free] s y0 := by
    unfold y0
    exact Keeps.step (Keeps.refl _ _) (State.updUnit_keeps ..) (by decide)
  clear_value y0
  refine Keeps.ite _ ?_ ?_
  · extract_lets +onlyGivenNames z1
    extract_lets +onlyGivenNames y2
    have h2 : Keeps [.bus, .wins, .casc, .cad, .gop, .chk, .basin, .integ, .slots, .ctr, .out, .free] s y2 := by
      unfold y2
      refine Keeps.step ?_ (State.raise_keeps ..) (by decide)
      assumption
    clear_value y2
    refine Keeps.ite _ ?_ ?_
    · assumption
    · refine Keeps.step ?_ (State.quarantine_keeps ..) (by decide)
      assumption
  · extract_lets +onlyGivenNames y1
    have h1 : Keeps [.bus, .wins, .casc, .cad, .gop, .chk, .basin, .integ, .slots, .ctr, .out, .free] s y1 := by
      unfold y1
      refine Keeps.step ?_ (State.raise_keeps ..) (by decide)
      assumption
    clear_value y1
    extract_lets +onlyGivenNames y2
    have h2 : Keeps [.bus, .wins, .casc, .cad, .gop, .chk, .basin, .integ, .slots, .ctr, .out, .free] s y2 := by
      unfold y2
      refine Keeps.step ?_ (State.updIslot_keeps ..) (by decide)
      assumption
    clear_value y2
    refine Keeps.step ?_ (State.integRefresh_keeps ..) (by decide)
    assumption

theorem State.actUnit_keeps (i : Fin 8) (k : UnitKey) (s : State) : Keeps [.bus, .wins, .casc, .cad, .gop, .chk, .basin, .integ, .slots, .ctr, .out, .free] s (State.actUnit i k s) := by
  unfold State.actUnit
  extract_lets +onlyGivenNames z0
  refine Keeps.ite _ ?_ ?_
  · refine Keeps.ite _ ?_ ?_
    · exact Keeps.step (Keeps.refl _ _) (State.fenceUnit_keeps ..) (by decide)
    · exact Keeps.refl _ _
  · refine Keeps.ite _ ?_ ?_
    · refine Keeps.ite _ ?_ ?_
      · exact Keeps.step (Keeps.refl _ _) (State.fenceUnit_keeps ..) (by decide)
      · exact Keeps.refl _ _
    · refine Keeps.ite _ ?_ ?_
      · exact Keeps.step (Keeps.refl _ _) (State.updIslot_keeps ..) (by decide)
      · exact Keeps.refl _ _

theorem State.actItems_keeps (i : Fin 8) (ks : List UnitKey) (s : State) :
    Keeps [.bus, .wins, .casc, .cad, .gop, .chk, .basin, .integ, .slots, .ctr, .out, .free] s (State.actItems i ks s) := by
  induction ks generalizing s with
  | nil => exact Keeps.step (Keeps.refl _ _) (State.updIslot_keeps ..) (by decide)
  | cons k ks ih =>
    have h : Keeps [.bus, .wins, .casc, .cad, .gop, .chk, .basin, .integ, .slots, .ctr, .out, .free] s (s.actUnit i k) :=
      Keeps.step (Keeps.refl _ _) (State.actUnit_keeps ..) (by decide)
    unfold State.actItems
    exact Keeps.ite _ (Keeps.step h (State.updIslot_keeps ..) (by decide)) (Keeps.step h (ih _) (fun _ hx => hx))

theorem State.nextItem_keeps (i : Fin 8) (s : State) : Keeps [.bus, .wins, .casc, .cad, .gop, .chk, .basin, .integ, .slots, .ctr, .out, .free] s (State.nextItem i s) := by
  unfold State.nextItem
  refine Keeps.ite _ ?_ ?_
  · exact Keeps.refl _ _
  · exact Keeps.step (Keeps.refl _ _) (State.actItems_keeps ..) (by decide)

theorem State.chargeSample_keeps (k : UnitKey) (s : State) : Keeps [.integ] s (State.chargeSample k s) := by
  unfold State.chargeSample
  refine Keeps.ite _ ?_ ?_
  · exact Keeps.refl _ _
  · exact Keeps.step (Keeps.refl _ _) (State.updUnit_keeps ..) (by decide)

theorem State.chargeBad_keeps (e : Evidence) (s : State) : Keeps [.bus, .wins, .casc, .cad, .gop, .chk, .basin, .integ, .slots, .ctr, .out, .free] s (State.chargeBad e s) := by
  unfold State.chargeBad
  extract_lets +onlyGivenNames z0
  extract_lets +onlyGivenNames y1
  have h1 : Keeps [.bus, .wins, .casc, .cad, .gop, .chk, .basin, .integ, .slots, .ctr, .out, .free] s y1 := by
    unfold y1
    exact Keeps.step (Keeps.refl _ _) (State.updUnit_keeps ..) (by decide)
  clear_value y1
  extract_lets +onlyGivenNames y2
  have h2 : Keeps [.bus, .wins, .casc, .cad, .gop, .chk, .basin, .integ, .slots, .ctr, .out, .free] s y2 := by
    unfold y2
    refine Keeps.ite _ ?_ ?_
    · refine Keeps.step ?_ (State.noticeSlot_keeps ..) (by decide)
      refine Keeps.step ?_ (State.updUnit_keeps ..) (by decide)
      assumption
    · assumption
  clear_value y2
  extract_lets +onlyGivenNames y3
  have h3 : Keeps [.bus, .wins, .casc, .cad, .gop, .chk, .basin, .integ, .slots, .ctr, .out, .free] s y3 := by
    unfold y3
    refine Keeps.ite _ ?_ ?_
    · refine Keeps.step ?_ (State.noticeSlot_keeps ..) (by decide)
      refine Keeps.step ?_ (State.updUnit_keeps ..) (by decide)
      assumption
    · assumption
  clear_value y3
  extract_lets +onlyGivenNames y4
  have h4 : Keeps [.bus, .wins, .casc, .cad, .gop, .chk, .basin, .integ, .slots, .ctr, .out, .free] s y4 := by
    unfold y4
    refine Keeps.ite _ ?_ ?_
    · assumption
    · refine Keeps.step ?_ (State.updIslot_keeps ..) (by decide)
      assumption
  clear_value y4
  extract_lets +onlyGivenNames z5
  extract_lets +onlyGivenNames y6
  have h6 : Keeps [.bus, .wins, .casc, .cad, .gop, .chk, .basin, .integ, .slots, .ctr, .out, .free] s y6 := by
    unfold y6
    refine Keeps.step ?_ (State.raise_keeps ..) (by decide)
    assumption
  clear_value y6
  refine Keeps.ite _ ?_ ?_
  · refine Keeps.step ?_ (State.updIslot_keeps ..) (by decide)
    assumption
  · refine Keeps.step ?_ (State.actUnit_keeps ..) (by decide)
    assumption

theorem State.classify_keeps (e : Evidence) (s : State) : Keeps [.bus, .wins, .casc, .cad, .gop, .chk, .basin, .integ, .slots, .ctr, .out, .free] s (State.classify e s) := by
  unfold State.classify
  refine Keeps.ite _ ?_ ?_
  · exact Keeps.step (Keeps.refl _ _) (State.chargeSample_keeps ..) (by decide)
  · exact Keeps.step (Keeps.refl _ _) (State.chargeBad_keeps ..) (by decide)

theorem State.deviation_keeps (i : Fin 8) (s : State) : Keeps [.integ, .ctr] s (State.deviation i s) := by
  unfold State.deviation
  extract_lets +onlyGivenNames y0
  have h0 : Keeps [.integ, .ctr] s y0 := by
    unfold y0
    exact Keeps.step (Keeps.step (Keeps.refl _ _) (State.count_keeps ..) (by decide)) (State.updUnit_keeps ..) (by decide)
  clear_value y0
  extract_lets +onlyGivenNames z1
  extract_lets +onlyGivenNames z2
  extract_lets +onlyGivenNames z3
  extract_lets +onlyGivenNames y4
  have h4 : Keeps [.integ, .ctr] s y4 := by
    unfold y4
    refine Keeps.step ?_ (State.updIslot_keeps ..) (by decide)
    assumption
  clear_value y4
  refine Keeps.ite _ ?_ ?_
  · refine Keeps.step ?_ (State.pushEvidence_keeps ..) (by decide)
    assumption
  · assumption

theorem State.missSample_keeps (i : Fin 8) (e : Expected) (s : State) : Keeps [.integ, .ctr] s (State.missSample i e s) := by
  unfold State.missSample
  extract_lets +onlyGivenNames y0
  have h0 : Keeps [.integ, .ctr] s y0 := by
    unfold y0
    exact Keeps.step (Keeps.refl _ _) (State.count_keeps ..) (by decide)
  clear_value y0
  extract_lets +onlyGivenNames z1
  extract_lets +onlyGivenNames z2
  extract_lets +onlyGivenNames z3
  extract_lets +onlyGivenNames z4
  extract_lets +onlyGivenNames y5
  have h5 : Keeps [.integ, .ctr] s y5 := by
    unfold y5
    refine Keeps.step ?_ (State.updIslot_keeps ..) (by decide)
    assumption
  clear_value y5
  refine Keeps.ite _ ?_ ?_
  · refine Keeps.step ?_ (State.noticeSlot_keeps ..) (by decide)
    assumption
  · assumption

theorem State.orderLull_keeps (i : Fin 8) (s : State) : Keeps [.integ] s (State.orderLull i s) := by
  unfold State.orderLull
  split
  · exact Keeps.refl _ _
  · refine Keeps.ite _ ?_ ?_
    · exact Keeps.refl _ _
    · split
      · exact Keeps.refl _ _
      · exact Keeps.step (Keeps.refl _ _) (State.updIslot_keeps ..) (by decide)

theorem State.lullFrame_keeps (i : Fin 8) (s : State) : Keeps [.integ] s (State.lullFrame i s) := by
  unfold State.lullFrame
  extract_lets +onlyGivenNames z0
  extract_lets +onlyGivenNames z1
  extract_lets +onlyGivenNames z2
  extract_lets +onlyGivenNames z3
  exact Keeps.step (Keeps.refl _ _) (State.updIslot_keeps ..) (by decide)

theorem State.issueExpel_keeps (g : Nat) (slots : Nat) (s : State) : Keeps [.bus, .wins, .cad, .gop, .out] s (State.issueExpel g slots s) := by
  unfold State.issueExpel
  extract_lets +onlyGivenNames z0
  refine Keeps.ite _ ?_ ?_
  · exact Keeps.step (Keeps.refl _ _) (State.expelDecide_keeps ..) (by decide)
  · exact Keeps.step (Keeps.refl _ _) (State.sendOps_keeps ..) (by decide)

theorem State.actVote_keeps (o : LaneOp) (ws : List (BitVec 64)) (s : State) : Keeps [.bus, .wins, .cad, .gop, .integ, .ctr, .out] s (State.actVote o ws s) := by
  unfold State.actVote
  extract_lets +onlyGivenNames z0
  extract_lets +onlyGivenNames z1
  extract_lets +onlyGivenNames z2
  extract_lets +onlyGivenNames z3
  extract_lets +onlyGivenNames z4
  extract_lets +onlyGivenNames z5
  extract_lets +onlyGivenNames z6
  extract_lets +onlyGivenNames z7
  extract_lets +onlyGivenNames z8
  extract_lets +onlyGivenNames z9
  extract_lets +onlyGivenNames z10
  extract_lets +onlyGivenNames z11
  extract_lets +onlyGivenNames z12
  extract_lets +onlyGivenNames y13
  have h13 : Keeps [.bus, .wins, .cad, .gop, .integ, .ctr, .out] s y13 := by
    unfold y13
    refine Keeps.ite _ ?_ ?_
    · exact Keeps.step (Keeps.refl _ _) (State.count_keeps ..) (by decide)
    · exact Keeps.refl _ _
  clear_value y13
  extract_lets +onlyGivenNames y14
  have h14 : Keeps [.bus, .wins, .cad, .gop, .integ, .ctr, .out] s y14 := by
    unfold y14
    refine Keeps.ite _ ?_ ?_
    · refine Keeps.step ?_ (State.notice_keeps ..) (by decide)
      assumption
    · assumption
  clear_value y14
  extract_lets +onlyGivenNames y15
  have h15 : Keeps [.bus, .wins, .cad, .gop, .integ, .ctr, .out] s y15 := by
    unfold y15
    refine Keeps.ite _ ?_ ?_
    · refine Keeps.step ?_ (State.notice_keeps ..) (by decide)
      assumption
    · assumption
  clear_value y15
  extract_lets +onlyGivenNames y16
  have h16 : Keeps [.bus, .wins, .cad, .gop, .integ, .ctr, .out] s y16 := by
    unfold y16
    refine Keeps.ite _ ?_ ?_
    · refine Keeps.step ?_ (State.notice_keeps ..) (by decide)
      assumption
    · assumption
  clear_value y16
  extract_lets +onlyGivenNames y17
  have h17 : Keeps [.bus, .wins, .cad, .gop, .integ, .ctr, .out] s y17 := by
    unfold y17
    refine Keeps.ite _ ?_ ?_
    · refine Keeps.ite _ ?_ ?_
      · refine Keeps.step ?_ (State.count_keeps ..) (by decide)
        assumption
      · refine Keeps.step ?_ (State.notice_keeps ..) (by decide)
        assumption
    · assumption
  clear_value y17
  extract_lets +onlyGivenNames y18
  have h18 : Keeps [.bus, .wins, .cad, .gop, .integ, .ctr, .out] s y18 := by
    unfold y18
    refine Keeps.ite _ ?_ ?_
    · refine Keeps.foldl _ _ ?_ (fun _ _ _ => ?_)
      · assumption
      · refine Keeps.step ?_ (State.pushEvidence_keeps ..) (by decide)
        assumption
    · assumption
  clear_value y18
  extract_lets +onlyGivenNames y19
  have h19 : Keeps [.bus, .wins, .cad, .gop, .integ, .ctr, .out] s y19 := by
    unfold y19
    refine Keeps.ite _ ?_ ?_
    · refine Keeps.step ?_ (State.issueExpel_keeps ..) (by decide)
      assumption
    · assumption
  clear_value y19
  extract_lets +onlyGivenNames z20
  extract_lets +onlyGivenNames z21
  extract_lets +onlyGivenNames z22
  extract_lets +onlyGivenNames y23
  have h23 : Keeps [.bus, .wins, .cad, .gop, .integ, .ctr, .out] s y23 := by
    unfold y23
    refine Keeps.set_integ _ ?_ (by decide)
    assumption
  clear_value y23
  split
  · refine Keeps.ite _ ?_ ?_
    · assumption
    · refine Keeps.set_integ _ ?_ (by decide)
      assumption
  · assumption

theorem State.takeVote_keeps (o : LaneOp) (ws : List (BitVec 64)) (s : State) : Keeps [.bus, .wins, .cad, .gop, .integ, .ctr, .out] s (State.takeVote o ws s) := by
  unfold State.takeVote
  extract_lets +onlyGivenNames y0
  have h0 : Keeps [.bus, .wins, .cad, .gop, .integ, .ctr, .out] s y0 := by
    unfold y0
    refine Keeps.ite _ ?_ ?_
    · exact Keeps.step (Keeps.refl _ _) (State.actVote_keeps ..) (by decide)
    · exact Keeps.refl _ _
  clear_value y0
  extract_lets +onlyGivenNames y1
  have h1 : Keeps [.bus, .wins, .cad, .gop, .integ, .ctr, .out] s y1 := by
    unfold y1
    refine Keeps.step ?_ (State.updLane_keeps ..) (by decide)
    assumption
  clear_value y1
  refine Keeps.set_gop _ ?_ (by decide)
  assumption

theorem State.sendTrickle_keeps (c : TrickleCell) (s : State) : Keeps [.cad, .out] s (State.sendTrickle c s) := by
  unfold State.sendTrickle
  refine Keeps.foldl _ _ ?_ (fun _ _ _ => ?_)
  · exact Keeps.refl _ _
  · refine Keeps.step ?_ (State.sendCell_keeps ..) (by decide)
    assumption

theorem State.sendFile_keeps (file : Bytes) (s : State) : Keeps [.cad, .out] s (State.sendFile file s) := by
  unfold State.sendFile
  refine Keeps.foldl _ _ ?_ (fun _ _ _ => ?_)
  · exact Keeps.refl _ _
  · refine Keeps.step ?_ (State.sendTrickle_keeps ..) (by decide)
    assumption

theorem State.installRx_keeps (s : State) : Keeps [.integ, .slots, .boot, .upd, .ctr] s (State.installRx s) := by
  unfold State.installRx
  split
  · exact Keeps.refl _ _
  · extract_lets +onlyGivenNames z0
    extract_lets +onlyGivenNames z1
    extract_lets +onlyGivenNames y2
    have h2 : Keeps [.integ, .slots, .boot, .upd, .ctr] s y2 := by
      unfold y2
      exact Keeps.set_integ _ (Keeps.refl _ _) (by decide)
    clear_value y2
    refine Keeps.ite _ ?_ ?_
    · assumption
    · split
      · assumption
      · refine Keeps.step ?_ (State.listPack_keeps ..) (by decide)
        refine Keeps.step ?_ (State.flashWrite_keeps ..) (by decide)
        refine Keeps.step ?_ (State.flashErase_keeps ..) (by decide)
        assumption

theorem State.judgeRx_keeps (x : PackRx) (s : State) : Keeps [.integ, .slots, .boot, .upd, .ctr] s (State.judgeRx x s) := by
  unfold State.judgeRx
  extract_lets +onlyGivenNames z0
  extract_lets +onlyGivenNames z1
  refine Keeps.ite _ ?_ ?_
  · extract_lets +onlyGivenNames z2
    extract_lets +onlyGivenNames y3
    have h3 : Keeps [.integ, .slots, .boot, .upd, .ctr] s y3 := by
      unfold y3
      exact Keeps.set_integ _ (Keeps.refl _ _) (by decide)
    clear_value y3
    refine Keeps.ite _ ?_ ?_
    · assumption
    · refine Keeps.step ?_ (State.installRx_keeps ..) (by decide)
      assumption
  · exact Keeps.set_integ _ (Keeps.refl _ _) (by decide)

theorem State.takeChunk_keeps (c : TrickleCell) (s : State) : Keeps [.integ, .slots, .boot, .upd, .ctr] s (State.takeChunk c s) := by
  unfold State.takeChunk
  extract_lets +onlyGivenNames z0
  extract_lets +onlyGivenNames z1
  extract_lets +onlyGivenNames z2
  extract_lets +onlyGivenNames z3
  extract_lets +onlyGivenNames z4
  extract_lets +onlyGivenNames y5
  have h5 : Keeps [.integ, .slots, .boot, .upd, .ctr] s y5 := by
    unfold y5
    refine Keeps.ite _ ?_ ?_
    · exact Keeps.step (Keeps.refl _ _) (State.count_keeps ..) (by decide)
    · exact Keeps.refl _ _
  clear_value y5
  extract_lets +onlyGivenNames z6
  refine Keeps.ite _ ?_ ?_
  · assumption
  · extract_lets +onlyGivenNames z7
    refine Keeps.ite _ ?_ ?_
    · refine Keeps.step ?_ (State.judgeRx_keeps ..) (by decide)
      assumption
    · refine Keeps.set_integ _ ?_ (by decide)
      assumption

theorem State.clearUnit_keeps (k : UnitKey) (s : State) : Keeps [.cad, .gop, .integ, .boot, .ctr, .out] s (State.clearUnit k s) := by
  unfold State.clearUnit
  refine Keeps.ite _ ?_ ?_
  · exact Keeps.refl _ _
  · exact Keeps.step (Keeps.step (Keeps.step (Keeps.refl _ _) (State.updUnit_keeps ..) (by decide)) (State.writeUnit_keeps ..) (by decide)) (State.integRefresh_keeps ..) (by decide)

theorem State.remapUnit_keeps (k : UnitKey) (s : State) : Keeps [.cad, .gop, .integ, .boot, .ctr, .out] s (State.remapUnit k s) := by
  unfold State.remapUnit
  exact Keeps.step (Keeps.step (Keeps.step (Keeps.refl _ _) (State.updUnit_keeps ..) (by decide)) (State.writeUnit_keeps ..) (by decide)) (State.integRefresh_keeps ..) (by decide)

theorem integStatusOp_within : integStatusOp.Within [.bus, .wins, .out] := by
  refine ⟨fun p ps b s => ?_, fun p ps s => ?_⟩
  · dsimp only [integStatusOp, OpSpec.query]
    exact Keeps.step (Keeps.refl _ _) (State.answer_keeps ..) (by decide)
  · dsimp only [integStatusOp, OpSpec.query]
    exact Keeps.refl _ _

theorem unitReadOp_within : unitReadOp.Within [.bus, .wins, .out] := by
  refine ⟨fun p ps b s => ?_, fun p ps s => ?_⟩
  · dsimp only [unitReadOp, OpSpec.query]
    exact Keeps.step (Keeps.refl _ _) (State.answer_keeps ..) (by decide)
  · dsimp only [unitReadOp, OpSpec.query]
    exact Keeps.refl _ _

theorem unitReleaseOp_within : unitReleaseOp.Within [.bus, .wins, .cad, .gop, .integ, .boot, .ctr, .out] := by
  refine ⟨fun p ps b s => ?_, fun p ps s => ?_⟩
  · dsimp only [unitReleaseOp, OpSpec.query]
    refine Keeps.step ?_ (State.answer_keeps ..) (by decide)
    refine Keeps.ite _ ?_ ?_
    · exact Keeps.step (Keeps.refl _ _) (State.remapUnit_keeps ..) (by decide)
    · exact Keeps.step (Keeps.refl _ _) (State.clearUnit_keeps ..) (by decide)
  · dsimp only [unitReleaseOp, OpSpec.query]
    exact Keeps.refl _ _

theorem lullStatusOp_within : lullStatusOp.Within [.bus, .wins, .out] := by
  refine ⟨fun p ps b s => ?_, fun p ps s => ?_⟩
  · dsimp only [lullStatusOp, OpSpec.query]
    exact Keeps.step (Keeps.refl _ _) (State.answer_keeps ..) (by decide)
  · dsimp only [lullStatusOp, OpSpec.query]
    exact Keeps.refl _ _

theorem voteLogOp_within : voteLogOp.Within [.bus, .wins, .out] := by
  refine ⟨fun p ps b s => ?_, fun p ps s => ?_⟩
  · dsimp only [voteLogOp, OpSpec.query]
    exact Keeps.step (Keeps.refl _ _) (State.answer_keeps ..) (by decide)
  · dsimp only [voteLogOp, OpSpec.query]
    exact Keeps.refl _ _

theorem packSendOp_within : packSendOp.Within [.bus, .wins, .cad, .out] := by
  refine ⟨fun p ps b s => ?_, fun p ps s => ?_⟩
  · dsimp only [packSendOp, OpSpec.query]
    refine Keeps.step ?_ (State.answer_keeps ..) (by decide)
    split
    · refine Keeps.foldl _ _ ?_ (fun _ _ _ => ?_)
      · exact Keeps.refl _ _
      · refine Keeps.step ?_ (State.sendFile_keeps ..) (by decide)
        assumption
    · exact Keeps.refl _ _
  · dsimp only [packSendOp, OpSpec.query]
    exact Keeps.refl _ _

theorem packStatusOp_within : packStatusOp.Within [.bus, .wins, .out] := by
  refine ⟨fun p ps b s => ?_, fun p ps s => ?_⟩
  · dsimp only [packStatusOp, OpSpec.query]
    exact Keeps.step (Keeps.refl _ _) (State.answer_keeps ..) (by decide)
  · dsimp only [packStatusOp, OpSpec.query]
    exact Keeps.refl _ _

theorem execIntegStatus_keeps (p : Port) (tag : BitVec 32) (params : Bytes) (s : State) : ∃ t, execIntegStatus p tag params s = .next t ∧ Keeps [.bus, .wins, .cfg, .ctr, .out] s t :=
  ⟨_, rfl, State.submit_keeps (OpSpec.Within.mono integStatusOp_within (by decide)) (by decide) ..⟩

theorem execUnitRead_keeps (p : Port) (tag : BitVec 32) (params : Bytes) (s : State) : ∃ t, execUnitRead p tag params s = .next t ∧ Keeps [.bus, .wins, .cfg, .ctr, .out] s t :=
  ⟨_, rfl, State.submit_keeps (OpSpec.Within.mono unitReadOp_within (by decide)) (by decide) ..⟩

theorem execUnitRelease_keeps (p : Port) (tag : BitVec 32) (params : Bytes) (s : State) : ∃ t, execUnitRelease p tag params s = .next t ∧ Keeps [.bus, .wins, .cfg, .cad, .gop, .integ, .boot, .ctr, .out] s t :=
  ⟨_, rfl, State.submit_keeps (OpSpec.Within.mono unitReleaseOp_within (by decide)) (by decide) ..⟩

theorem execLullStatus_keeps (p : Port) (tag : BitVec 32) (params : Bytes) (s : State) : ∃ t, execLullStatus p tag params s = .next t ∧ Keeps [.bus, .wins, .cfg, .ctr, .out] s t :=
  ⟨_, rfl, State.submit_keeps (OpSpec.Within.mono lullStatusOp_within (by decide)) (by decide) ..⟩

theorem execVoteLog_keeps (p : Port) (tag : BitVec 32) (params : Bytes) (s : State) : ∃ t, execVoteLog p tag params s = .next t ∧ Keeps [.bus, .wins, .cfg, .ctr, .out] s t :=
  ⟨_, rfl, State.submit_keeps (OpSpec.Within.mono voteLogOp_within (by decide)) (by decide) ..⟩

theorem execPackSend_keeps (p : Port) (tag : BitVec 32) (params : Bytes) (s : State) : ∃ t, execPackSend p tag params s = .next t ∧ Keeps [.bus, .wins, .cfg, .cad, .ctr, .out] s t :=
  ⟨_, rfl, State.submit_keeps (OpSpec.Within.mono packSendOp_within (by decide)) (by decide) ..⟩

theorem execPackStatus_keeps (p : Port) (tag : BitVec 32) (params : Bytes) (s : State) : ∃ t, execPackStatus p tag params s = .next t ∧ Keeps [.bus, .wins, .cfg, .ctr, .out] s t :=
  ⟨_, rfl, State.submit_keeps (OpSpec.Within.mono packStatusOp_within (by decide)) (by decide) ..⟩

theorem execEvidenceClassify_keeps (s : State) : ∃ t, execEvidenceClassify s = .next t ∧ Keeps [.bus, .wins, .casc, .cad, .gop, .chk, .basin, .integ, .slots, .ctr, .out, .free] s t := by
  unfold execEvidenceClassify
  refine ⟨_, rfl, ?_⟩
  refine Keeps.ite _ ?_ ?_
  · split
    · exact Keeps.step (Keeps.set_integ _ (Keeps.refl _ _) (by decide)) (State.classify_keeps ..) (by decide)
    · exact Keeps.refl _ _
  · exact Keeps.refl _ _

theorem execMissingSample_keeps (slot : Fin 8) (layer : Nat) (tile : Nat) (step : Nat) (s : State) : ∃ t, execMissingSample slot layer tile step s = .next t ∧ Keeps [.integ, .ctr] s t := by
  unfold execMissingSample
  refine ⟨_, rfl, ?_⟩
  split
  · refine Keeps.ite _ ?_ ?_
    · exact Keeps.step (Keeps.refl _ _) (State.missSample_keeps ..) (by decide)
    · exact Keeps.refl _ _
  · exact Keeps.refl _ _

theorem execMarginStepWrite_keeps (slot : Fin 8) (ack : Bool) (s : State) : ∃ t, execMarginStepWrite slot ack s = .next t ∧ Keeps [.bus, .wins, .casc, .cad, .gop, .chk, .basin, .integ, .slots, .ctr, .out, .free] s t := by
  unfold execMarginStepWrite
  refine ⟨_, rfl, ?_⟩
  split
  · refine Keeps.ite _ ?_ ?_
    · extract_lets +onlyGivenNames y0
      have h0 : Keeps [.bus, .wins, .casc, .cad, .gop, .chk, .basin, .integ, .slots, .ctr, .out, .free] s y0 := by
        unfold y0
        exact Keeps.step (Keeps.refl _ _) (State.updIslot_keeps ..) (by decide)
      clear_value y0
      extract_lets +onlyGivenNames y1
      have h1 : Keeps [.bus, .wins, .casc, .cad, .gop, .chk, .basin, .integ, .slots, .ctr, .out, .free] s y1 := by
        unfold y1
        refine Keeps.ite _ ?_ ?_
        · refine Keeps.step ?_ (State.actUnit_keeps ..) (by decide)
          assumption
        · refine Keeps.step ?_ (State.writeMargin_keeps ..) (by decide)
          refine Keeps.step ?_ (State.setLadder_keeps ..) (by decide)
          assumption
      clear_value y1
      refine Keeps.step ?_ (State.nextItem_keeps ..) (by decide)
      assumption
    · exact Keeps.refl _ _
  · exact Keeps.refl _ _

theorem execLadderRelax_keeps (slot : Fin 8) (s : State) : ∃ t, execLadderRelax slot s = .next t ∧ Keeps [.casc, .integ, .ctr, .out] s t := by
  unfold execLadderRelax
  extract_lets +onlyGivenNames z0
  extract_lets +onlyGivenNames z1
  refine ⟨_, rfl, ?_⟩
  refine Keeps.ite _ ?_ ?_
  · extract_lets +onlyGivenNames y2
    have h2 : Keeps [.casc, .integ, .ctr, .out] s y2 := by
      unfold y2
      exact Keeps.step (Keeps.step (Keeps.refl _ _) (State.setLadder_keeps ..) (by decide)) (State.updIslot_keeps ..) (by decide)
    clear_value y2
    refine Keeps.ite _ ?_ ?_
    · refine Keeps.step ?_ (State.writeMargin_keeps ..) (by decide)
      assumption
    · assumption
  · exact Keeps.refl _ _

theorem execLullTestOrder_keeps (slot : Fin 8) (s : State) : ∃ t, execLullTestOrder slot s = .next t ∧ Keeps [.integ] s t := by
  unfold execLullTestOrder
  refine ⟨_, rfl, ?_⟩
  refine Keeps.ite _ ?_ ?_
  · exact Keeps.step (Keeps.refl _ _) (State.orderLull_keeps ..) (by decide)
  · exact Keeps.refl _ _

theorem execLullVoidTimeout_keeps (slot : Fin 8) (s : State) : ∃ t, execLullVoidTimeout slot s = .next t ∧ Keeps [.integ, .ctr] s t := by
  unfold execLullVoidTimeout
  refine ⟨_, rfl, ?_⟩
  refine Keeps.ite _ ?_ ?_
  · exact Keeps.step (Keeps.refl _ _) (State.lullEnds_keeps ..) (by decide)
  · exact Keeps.refl _ _

theorem execVoteResult_keeps (group : Fin 256) (seq : BitVec 4) (s : State) : ∃ t, execVoteResult group seq s = .next t ∧ Keeps [.bus, .wins, .cad, .gop, .integ, .ctr, .out] s t := by
  unfold execVoteResult
  refine ⟨_, rfl, ?_⟩
  split
  · split
    · refine Keeps.ite _ ?_ ?_
      · exact Keeps.step (Keeps.refl _ _) (State.takeVote_keeps ..) (by decide)
      · exact Keeps.refl _ _
    · exact Keeps.refl _ _
  · exact Keeps.refl _ _

theorem execVoteOverdue_keeps (group : Fin 256) (layer : Nat) (s : State) : ∃ t, execVoteOverdue group layer s = .next t ∧ Keeps [.integ, .ctr] s t := by
  unfold execVoteOverdue
  extract_lets +onlyGivenNames z0
  extract_lets +onlyGivenNames z1
  refine ⟨_, rfl, ?_⟩
  refine Keeps.ite _ ?_ ?_
  · exact Keeps.step (Keeps.set_integ _ (Keeps.refl _ _) (by decide)) (State.notice_keeps ..) (by decide)
  · exact Keeps.refl _ _

theorem execLedgerWrite_keeps (key : UnitKey) (s : State) : ∃ t, execLedgerWrite key s = .next t ∧ Keeps [.integ, .boot] s t := by
  unfold execLedgerWrite
  refine ⟨_, rfl, ?_⟩
  split
  · refine Keeps.ite _ ?_ ?_
    · exact Keeps.refl _ _
    · refine Keeps.ite _ ?_ ?_
      · exact Keeps.step (Keeps.step (Keeps.refl _ _) (State.ledgerSnapshot_keeps ..) (by decide)) (State.judgeCompaction_keeps ..) (by decide)
      · refine Keeps.ite _ ?_ ?_
        · exact Keeps.step (Keeps.step (Keeps.refl _ _) (State.writeUnit_keeps ..) (by decide)) (State.judgeCompaction_keeps ..) (by decide)
        · exact Keeps.refl _ _
  · exact Keeps.refl _ _

theorem execTrickleCell_keeps (port : Fin 18) (c : TrickleCell) (s : State) : ∃ t, execTrickleCell port c s = .next t ∧ Keeps [.cad, .integ, .slots, .boot, .upd, .ctr, .out] s t := by
  unfold execTrickleCell
  refine ⟨_, rfl, ?_⟩
  refine Keeps.ite _ ?_ ?_
  · extract_lets +onlyGivenNames y0
    have h0 : Keeps [.cad, .integ, .slots, .boot, .upd, .ctr, .out] s y0 := by
      unfold y0
      exact Keeps.step (Keeps.refl _ _) (State.sendTrickle_keeps ..) (by decide)
    clear_value y0
    refine Keeps.ite _ ?_ ?_
    · refine Keeps.step ?_ (State.takeChunk_keeps ..) (by decide)
      assumption
    · assumption
  · exact Keeps.refl _ _

theorem execPackRxTimeout_keeps (s : State) : ∃ t, execPackRxTimeout s = .next t ∧ Keeps [.integ, .ctr] s t := by
  unfold execPackRxTimeout
  refine ⟨_, rfl, ?_⟩
  split
  · refine Keeps.ite _ ?_ ?_
    · exact Keeps.step (Keeps.set_integ _ (Keeps.refl _ _) (by decide)) (State.count_keeps ..) (by decide)
    · exact Keeps.refl _ _
  · exact Keeps.refl _ _

theorem execPackInstall_keeps (s : State) : ∃ t, execPackInstall s = .next t ∧ Keeps [.integ, .slots, .boot, .upd, .ctr] s t := by
  unfold execPackInstall
  refine ⟨_, rfl, ?_⟩
  split
  · refine Keeps.ite _ ?_ ?_
    · exact Keeps.step (Keeps.refl _ _) (State.installRx_keeps ..) (by decide)
    · exact Keeps.refl _ _
  · exact Keeps.refl _ _
end Sys2Proof.Machine
end

