-- ==== Sys2Proof/Laws/KeepsSlots.lean ====
section
/-!
SUPPORT. What the operations of Machine/Slots.lean touch, and that they keep the invariant.
-/

namespace Sys2Proof.Machine
theorem State.slotSend_keeps (i : Fin 8) (type : Nat) (body : Bytes) (ok : Bool) (s : State) : Keeps [.integ, .slots, .ctr, .out] s (State.slotSend i type body ok s) := by
  unfold State.slotSend
  extract_lets +onlyGivenNames z0
  extract_lets +onlyGivenNames y1
  have h1 : Keeps [.integ, .slots, .ctr, .out] s y1 := by
    unfold y1
    exact Keeps.step (Keeps.refl _ _) (State.updSlot_keeps ..) (by decide)
  clear_value y1
  extract_lets +onlyGivenNames z2
  refine Keeps.ite _ ?_ ?_
  · refine Keeps.step ?_ (State.send_keeps ..) (by decide)
    assumption
  · refine Keeps.step ?_ (State.noticeSlot_keeps ..) (by decide)
    refine Keeps.step ?_ (State.sends_keeps ..) (by decide)
    assumption

theorem State.setAddress_keeps (i : Fin 8) (s : State) : Keeps [.out] s (State.setAddress i s) := by
  unfold State.setAddress
  refine Keeps.ite _ ?_ ?_
  · exact Keeps.refl _ _
  · exact Keeps.step (Keeps.refl _ _) (State.send_keeps ..) (by decide)

theorem State.releaseReset_keeps (i : Fin 8) (s : State) : Keeps [.slots, .out] s (State.releaseReset i s) := by
  unfold State.releaseReset
  refine Keeps.ite _ ?_ ?_
  · exact Keeps.refl _ _
  · exact Keeps.step (Keeps.step (Keeps.refl _ _) (State.updSlot_keeps ..) (by decide)) (State.setAddress_keeps ..) (by decide)

theorem State.pulseReset_keeps (us : Nat) (i : Fin 8) (s : State) : Keeps [.slots] s (State.pulseReset us i s) := by
  unfold State.pulseReset
  refine Keeps.ite _ ?_ ?_
  · exact Keeps.refl _ _
  · exact Keeps.step (Keeps.refl _ _) (State.updSlot_keeps ..) (by decide)

theorem State.resetSettle_keeps (s : State) : Keeps [.bus, .wins, .out] s (State.resetSettle s) := by
  unfold State.resetSettle
  refine Keeps.foldl _ _ ?_ (fun _ _ _ => ?_)
  · exact Keeps.refl _ _
  · extract_lets +onlyGivenNames z0
    refine Keeps.ite _ ?_ ?_
    · refine Keeps.step ?_ (State.finish_keeps ..) (by decide)
      assumption
    · assumption

theorem State.identify_keeps (i : Fin 8) (r : IdentReply) (s : State) : Keeps [.integ, .slots] s (State.identify i r s) := by
  unfold State.identify
  extract_lets +onlyGivenNames z0
  extract_lets +onlyGivenNames z1
  extract_lets +onlyGivenNames y2
  have h2 : Keeps [.integ, .slots] s y2 := by
    unfold y2
    exact Keeps.step (Keeps.refl _ _) (State.updSlot_keeps ..) (by decide)
  clear_value y2
  refine Keeps.ite _ ?_ ?_
  · refine Keeps.step ?_ (State.setLadder_keeps ..) (by decide)
    assumption
  · assumption

theorem State.removeCard_keeps (i : Fin 8) (s : State) : Keeps [.bus, .wins, .casc, .cool, .cad, .gop, .chk, .basin, .integ, .slots, .ctr, .out, .free] s (State.removeCard i s) := by
  unfold State.removeCard
  extract_lets +onlyGivenNames z0
  extract_lets +onlyGivenNames y1
  have h1 : Keeps [.bus, .wins, .casc, .cool, .cad, .gop, .chk, .basin, .integ, .slots, .ctr, .out, .free] s y1 := by
    unfold y1
    exact Keeps.step (Keeps.refl _ _) (State.updSlot_keeps ..) (by decide)
  clear_value y1
  extract_lets +onlyGivenNames y2
  have h2 : Keeps [.bus, .wins, .casc, .cool, .cad, .gop, .chk, .basin, .integ, .slots, .ctr, .out, .free] s y2 := by
    unfold y2
    refine Keeps.ite _ ?_ ?_
    · refine Keeps.step ?_ (State.raise_keeps ..) (by decide)
      assumption
    · assumption
  clear_value y2
  extract_lets +onlyGivenNames y3
  have h3 : Keeps [.bus, .wins, .casc, .cool, .cad, .gop, .chk, .basin, .integ, .slots, .ctr, .out, .free] s y3 := by
    unfold y3
    refine Keeps.foldl _ _ ?_ (fun _ _ _ => ?_)
    · assumption
    · split
      · refine Keeps.step ?_ (State.finish_keeps ..) (by decide)
        assumption
  clear_value y3
  extract_lets +onlyGivenNames y4
  have h4 : Keeps [.bus, .wins, .casc, .cool, .cad, .gop, .chk, .basin, .integ, .slots, .ctr, .out, .free] s y4 := by
    unfold y4
    refine Keeps.foldl _ _ ?_ (fun _ _ _ => ?_)
    · assumption
    · refine Keeps.ite _ ?_ ?_
      · refine Keeps.step ?_ (State.finish_keeps ..) (by decide)
        assumption
      · assumption
  clear_value y4
  extract_lets +onlyGivenNames y5
  have h5 : Keeps [.bus, .wins, .casc, .cool, .cad, .gop, .chk, .basin, .integ, .slots, .ctr, .out, .free] s y5 := by
    unfold y5
    refine Keeps.foldl _ _ ?_ (fun _ _ _ => ?_)
    · assumption
    · refine Keeps.ite _ ?_ ?_
      · refine Keeps.step ?_ (State.finish_keeps ..) (by decide)
        assumption
      · assumption
  clear_value y5
  extract_lets +onlyGivenNames z6
  extract_lets +onlyGivenNames y7
  have h7 : Keeps [.bus, .wins, .casc, .cool, .cad, .gop, .chk, .basin, .integ, .slots, .ctr, .out, .free] s y7 := by
    unfold y7
    refine Keeps.set_cool _ ?_ (by decide)
    assumption
  clear_value y7
  refine Keeps.step ?_ (State.slotDown_keeps ..) (by decide)
  refine Keeps.step ?_ (State.unpowerSlot_keeps ..) (by decide)
  assumption

theorem State.sendPlan_keeps (i : Fin 8) (instant : Nat) (ok : Bool) (s : State) : Keeps [.chk, .integ, .slots, .ctr, .out] s (State.sendPlan i instant ok s) := by
  unfold State.sendPlan
  extract_lets +onlyGivenNames z0
  extract_lets +onlyGivenNames z1
  extract_lets +onlyGivenNames z2
  extract_lets +onlyGivenNames z3
  extract_lets +onlyGivenNames y4
  have h4 : Keeps [.chk, .integ, .slots, .ctr, .out] s y4 :=
    Keeps.set_chk _ (Keeps.refl _ _) (by decide) (fun i => Mem.wf_write _ _ (Mem.wf_write _ _ i))
  have h5 : Keeps [.chk, .integ, .slots, .ctr, .out] s (y4.updSlot i (fun x => { x with planGen := z1, planDue := none })) :=
    Keeps.step h4 (State.updSlot_keeps ..) (by decide)
  exact Keeps.ite _ (Keeps.step h5 (State.slotSend_keeps ..) (by decide)) h5

theorem State.sendChunk_keeps (i : Fin 8) (ok : Bool) (s : State) : Keeps [.integ, .slots, .ctr, .out] s (State.sendChunk i ok s) := by
  unfold State.sendChunk
  split
  · exact Keeps.refl _ _
  · extract_lets +onlyGivenNames z0
    extract_lets +onlyGivenNames y1
    have h1 : Keeps [.integ, .slots, .ctr, .out] s y1 := by
      unfold y1
      refine Keeps.ite _ ?_ ?_
      · exact Keeps.refl _ _
      · refine Keeps.ite _ ?_ ?_
        · exact Keeps.step (Keeps.refl _ _) (State.updSlot_keeps ..) (by decide)
        · exact Keeps.step (Keeps.step (Keeps.refl _ _) (State.updSlot_keeps ..) (by decide)) (State.noticeSlot_keeps ..) (by decide)
    clear_value y1
    extract_lets +onlyGivenNames z2
    refine Keeps.ite _ ?_ ?_
    · assumption
    · extract_lets +onlyGivenNames z3
      extract_lets +onlyGivenNames y4
      have h4 : Keeps [.integ, .slots, .ctr, .out] s y4 := by
        unfold y4
        refine Keeps.step ?_ (State.slotSend_keeps ..) (by decide)
        assumption
      clear_value y4
      refine Keeps.ite _ ?_ ?_
      · refine Keeps.step ?_ (State.updSlot_keeps ..) (by decide)
        assumption
      · assumption

theorem State.quarantineNow_keeps (c : Nat) (i : Fin 8) (s : State) : Keeps [.bus, .wins, .casc, .cad, .gop, .chk, .basin, .integ, .slots, .ctr, .out, .free] s (State.quarantineNow c i s) := by
  unfold State.quarantineNow
  extract_lets +onlyGivenNames z0
  extract_lets +onlyGivenNames z1
  extract_lets +onlyGivenNames y2
  have h2 : Keeps [.bus, .wins, .casc, .cad, .gop, .chk, .basin, .integ, .slots, .ctr, .out, .free] s y2 := by
    unfold y2
    refine Keeps.ite _ ?_ ?_
    · exact Keeps.step (Keeps.refl _ _) (State.supersede_keeps ..) (by decide)
    · exact Keeps.refl _ _
  clear_value y2
  extract_lets +onlyGivenNames y3
  have h3 : Keeps [.bus, .wins, .casc, .cad, .gop, .chk, .basin, .integ, .slots, .ctr, .out, .free] s y3 := by
    unfold y3
    refine Keeps.step ?_ (State.quarantine_keeps ..) (by decide)
    assumption
  clear_value y3
  refine Keeps.ite _ ?_ ?_
  · refine Keeps.step ?_ (State.logEntry_keeps ..) (by decide)
    assumption
  · assumption

theorem State.releaseSlot_keeps (clear : Bool) (i : Fin 8) (s : State) : Keeps [.bus, .wins, .cad, .gop, .chk, .basin, .integ, .slots, .boot, .ctr, .out, .free] s (State.releaseSlot clear i s) := by
  unfold State.releaseSlot
  split
  · extract_lets +onlyGivenNames y0
    have h0 : Keeps [.bus, .wins, .cad, .gop, .chk, .basin, .integ, .slots, .boot, .ctr, .out, .free] s y0 := by
      unfold y0
      refine Keeps.ite _ ?_ ?_
      · exact Keeps.step (Keeps.refl _ _) (State.clearUnit_keeps ..) (by decide)
      · exact Keeps.refl _ _
    clear_value y0
    extract_lets +onlyGivenNames y1
    have h1 : Keeps [.bus, .wins, .cad, .gop, .chk, .basin, .integ, .slots, .boot, .ctr, .out, .free] s y1 := by
      unfold y1
      refine Keeps.step ?_ (State.updSlot_keeps ..) (by decide)
      assumption
    clear_value y1
    refine Keeps.ite _ ?_ ?_
    · refine Keeps.step ?_ (State.updSlot_keeps ..) (by decide)
      refine Keeps.step ?_ (State.setSlot_keeps ..) (by decide)
      assumption
    · refine Keeps.step ?_ (State.setSlot_keeps ..) (by decide)
      assumption
  · exact Keeps.step (Keeps.refl _ _) (State.setSlot_keeps ..) (by decide)
  · exact Keeps.refl _ _

theorem State.slotPowerOn_keeps (p : Port) (ps : Bytes) (b : Nat) (s : State) : Keeps [.bus, .wins, .casc, .cad, .gop, .chk, .basin, .integ, .slots, .ctr, .out, .free] s (State.slotPowerOn p ps b s) := by
  unfold State.slotPowerOn
  extract_lets +onlyGivenNames y0
  have h0 : Keeps [.bus, .wins, .casc, .cad, .gop, .chk, .basin, .integ, .slots, .ctr, .out, .free] s y0 := by
    unfold y0
    refine Keeps.foldl _ _ ?_ (fun _ _ _ => ?_)
    · exact Keeps.refl _ _
    · refine Keeps.step ?_ (State.updSlot_keeps ..) (by decide)
      assumption
  clear_value y0
  refine Keeps.ite _ ?_ ?_
  · refine Keeps.step ?_ (State.answerNow_keeps ..) (by decide)
    assumption
  · extract_lets +onlyGivenNames y1
    have h1 : Keeps [.bus, .wins, .casc, .cad, .gop, .chk, .basin, .integ, .slots, .ctr, .out, .free] s y1 := by
      unfold y1
      refine Keeps.step ?_ (State.accept_keeps ..) (by decide)
      assumption
    clear_value y1
    extract_lets +onlyGivenNames y2
    have h2 : Keeps [.bus, .wins, .casc, .cad, .gop, .chk, .basin, .integ, .slots, .ctr, .out, .free] s y2 := by
      unfold y2
      refine Keeps.foldl _ _ ?_ (fun _ _ _ => ?_)
      · assumption
      · refine Keeps.step ?_ (State.slotUp_keeps ..) (by decide)
        assumption
    clear_value y2
    refine Keeps.ite _ ?_ ?_
    · refine Keeps.step ?_ (State.finish_keeps ..) (by decide)
      assumption
    · assumption

theorem State.slotPowerOff_keeps (p : Port) (ps : Bytes) (b : Nat) (s : State) : Keeps [.bus, .wins, .casc, .cad, .gop, .chk, .basin, .integ, .slots, .ctr, .out, .free] s (State.slotPowerOff p ps b s) := by
  unfold State.slotPowerOff
  extract_lets +onlyGivenNames y0
  have h0 : Keeps [.bus, .wins, .casc, .cad, .gop, .chk, .basin, .integ, .slots, .ctr, .out, .free] s y0 := by
    unfold y0
    exact Keeps.step (Keeps.refl _ _) (State.accept_keeps ..) (by decide)
  clear_value y0
  extract_lets +onlyGivenNames y1
  have h1 : Keeps [.bus, .wins, .casc, .cad, .gop, .chk, .basin, .integ, .slots, .ctr, .out, .free] s y1 := by
    unfold y1
    refine Keeps.foldl _ _ ?_ (fun _ _ _ => ?_)
    · assumption
    · refine Keeps.step ?_ (State.updSlot_keeps ..) (by decide)
      assumption
  clear_value y1
  extract_lets +onlyGivenNames y2
  have h2 : Keeps [.bus, .wins, .casc, .cad, .gop, .chk, .basin, .integ, .slots, .ctr, .out, .free] s y2 := by
    unfold y2
    refine Keeps.foldl _ _ ?_ (fun _ _ _ => ?_)
    · assumption
    · extract_lets +onlyGivenNames y3
      have h3 : Keeps [.bus, .wins, .casc, .cad, .gop, .chk, .basin, .integ, .slots, .ctr, .out, .free] s y3 := by
        unfold y3
        split
        · refine Keeps.step ?_ (State.setSlot_keeps ..) (by decide)
          assumption
        · refine Keeps.step ?_ (State.setSlot_keeps ..) (by decide)
          assumption
        · refine Keeps.step ?_ (State.setSlot_keeps ..) (by decide)
          assumption
        · assumption
      clear_value y3
      refine Keeps.step ?_ (State.slotDown_keeps ..) (by decide)
      assumption
  clear_value y2
  refine Keeps.step ?_ (State.slotOffSettle_keeps ..) (by decide)
  assumption

theorem slotStatusOp_within : slotStatusOp.Within [.bus, .wins, .out] := by
  refine ⟨fun p ps b s => ?_, fun p ps s => ?_⟩
  · dsimp only [slotStatusOp, OpSpec.query]
    exact Keeps.step (Keeps.refl _ _) (State.answer_keeps ..) (by decide)
  · dsimp only [slotStatusOp, OpSpec.query]
    exact Keeps.refl _ _

theorem slotPowerOp_within : slotPowerOp.Within [.bus, .wins, .casc, .cad, .gop, .chk, .basin, .integ, .slots, .ctr, .out, .free] := by
  refine ⟨fun p ps b s => ?_, fun p ps s => ?_⟩
  · dsimp only [slotPowerOp, OpSpec.query]
    refine Keeps.ite _ ?_ ?_
    · exact Keeps.step (Keeps.refl _ _) (State.slotPowerOn_keeps ..) (by decide)
    · exact Keeps.step (Keeps.refl _ _) (State.slotPowerOff_keeps ..) (by decide)
  · dsimp only [slotPowerOp, OpSpec.query]
    exact Keeps.refl _ _

theorem slotResetOp_within : slotResetOp.Within [.bus, .wins, .cad, .gop, .chk, .basin, .integ, .slots, .ctr, .out, .free] := by
  refine ⟨fun p ps b s => ?_, fun p ps s => ?_⟩
  · dsimp only [slotResetOp, OpSpec.query]
    refine Keeps.step ?_ (State.resetSettle_keeps ..) (by decide)
    refine Keeps.foldl _ _ ?_ (fun _ _ _ => ?_)
    · exact Keeps.step (Keeps.refl _ _) (State.accept_keeps ..) (by decide)
    · refine Keeps.step ?_ (State.pulseReset_keeps ..) (by decide)
      refine Keeps.step ?_ (State.holdSlot_keeps ..) (by decide)
      assumption
  · dsimp only [slotResetOp, OpSpec.query]
    exact Keeps.refl _ _

theorem slotRunOp_within : slotRunOp.Within [.bus, .wins, .slots, .out] := by
  refine ⟨fun p ps b s => ?_, fun p ps s => ?_⟩
  · dsimp only [slotRunOp, OpSpec.query]
    refine Keeps.foldl _ _ ?_ (fun _ _ _ => ?_)
    · exact Keeps.step (Keeps.refl _ _) (State.accept_keeps ..) (by decide)
    · refine Keeps.step ?_ (State.updSlot_keeps ..) (by decide)
      assumption
  · dsimp only [slotRunOp, OpSpec.query]
    exact Keeps.refl _ _

theorem slotHoldOp_within : slotHoldOp.Within [.bus, .wins, .out] := by
  refine ⟨fun p ps b s => ?_, fun p ps s => ?_⟩
  · dsimp only [slotHoldOp, OpSpec.query]
    exact Keeps.step (Keeps.refl _ _) (State.accept_keeps ..) (by decide)
  · dsimp only [slotHoldOp, OpSpec.query]
    exact Keeps.refl _ _

theorem slotQuarantineOp_within : slotQuarantineOp.Within [.bus, .wins, .casc, .cad, .gop, .chk, .basin, .integ, .slots, .ctr, .out, .free] := by
  refine ⟨fun p ps b s => ?_, fun p ps s => ?_⟩
  · dsimp only [slotQuarantineOp, OpSpec.query]
    refine Keeps.step ?_ (State.answer_keeps ..) (by decide)
    refine Keeps.foldl _ _ ?_ (fun _ _ _ => ?_)
    · exact Keeps.refl _ _
    · refine Keeps.step ?_ (State.quarantineNow_keeps ..) (by decide)
      assumption
  · dsimp only [slotQuarantineOp, OpSpec.query]
    exact Keeps.refl _ _

theorem slotReleaseOp_within : slotReleaseOp.Within [.bus, .wins, .cad, .gop, .chk, .basin, .integ, .slots, .boot, .ctr, .out, .free] := by
  refine ⟨fun p ps b s => ?_, fun p ps s => ?_⟩
  · dsimp only [slotReleaseOp, OpSpec.query]
    refine Keeps.step ?_ (State.answer_keeps ..) (by decide)
    refine Keeps.foldl _ _ ?_ (fun _ _ _ => ?_)
    · exact Keeps.refl _ _
    · refine Keeps.step ?_ (State.releaseSlot_keeps ..) (by decide)
      assumption
  · dsimp only [slotReleaseOp, OpSpec.query]
    exact Keeps.refl _ _

theorem execSlotStatus_keeps (p : Port) (tag : BitVec 32) (params : Bytes) (s : State) : ∃ t, execSlotStatus p tag params s = .next t ∧ Keeps [.bus, .wins, .cfg, .ctr, .out] s t :=
  ⟨_, rfl, State.submit_keeps (OpSpec.Within.mono slotStatusOp_within (by decide)) (by decide) ..⟩

theorem execSlotPower_keeps (p : Port) (tag : BitVec 32) (params : Bytes) (s : State) : ∃ t, execSlotPower p tag params s = .next t ∧ Keeps [.bus, .wins, .cfg, .casc, .cad, .gop, .chk, .basin, .integ, .slots, .ctr, .out, .free] s t :=
  ⟨_, rfl, State.submit_keeps (OpSpec.Within.mono slotPowerOp_within (by decide)) (by decide) ..⟩

theorem execSlotReset_keeps (p : Port) (tag : BitVec 32) (params : Bytes) (s : State) : ∃ t, execSlotReset p tag params s = .next t ∧ Keeps [.bus, .wins, .cfg, .cad, .gop, .chk, .basin, .integ, .slots, .ctr, .out, .free] s t :=
  ⟨_, rfl, State.submit_keeps (OpSpec.Within.mono slotResetOp_within (by decide)) (by decide) ..⟩

theorem execSlotRun_keeps (p : Port) (tag : BitVec 32) (params : Bytes) (s : State) : ∃ t, execSlotRun p tag params s = .next t ∧ Keeps [.bus, .wins, .cfg, .slots, .ctr, .out] s t :=
  ⟨_, rfl, State.submit_keeps (OpSpec.Within.mono slotRunOp_within (by decide)) (by decide) ..⟩

theorem execSlotHold_keeps (p : Port) (tag : BitVec 32) (params : Bytes) (s : State) : ∃ t, execSlotHold p tag params s = .next t ∧ Keeps [.bus, .wins, .cfg, .ctr, .out] s t :=
  ⟨_, rfl, State.submit_keeps (OpSpec.Within.mono slotHoldOp_within (by decide)) (by decide) ..⟩

theorem execSlotQuarantine_keeps (p : Port) (tag : BitVec 32) (params : Bytes) (s : State) : ∃ t, execSlotQuarantine p tag params s = .next t ∧ Keeps [.bus, .wins, .cfg, .casc, .cad, .gop, .chk, .basin, .integ, .slots, .ctr, .out, .free] s t :=
  ⟨_, rfl, State.submit_keeps (OpSpec.Within.mono slotQuarantineOp_within (by decide)) (by decide) ..⟩

theorem execSlotRelease_keeps (p : Port) (tag : BitVec 32) (params : Bytes) (s : State) : ∃ t, execSlotRelease p tag params s = .next t ∧ Keeps [.bus, .wins, .cfg, .cad, .gop, .chk, .basin, .integ, .slots, .boot, .ctr, .out, .free] s t :=
  ⟨_, rfl, State.submit_keeps (OpSpec.Within.mono slotReleaseOp_within (by decide)) (by decide) ..⟩

theorem execSlotPresent_keeps (slot : Fin 8) (s : State) : ∃ t, execSlotPresent slot s = .next t ∧ Keeps [.bus, .wins, .cad, .gop, .chk, .basin, .integ, .slots, .ctr, .out, .free] s t := by
  unfold execSlotPresent
  extract_lets +onlyGivenNames y0
  have h0 : Keeps [.bus, .wins, .cad, .gop, .chk, .basin, .integ, .slots, .ctr, .out, .free] s y0 := by
    unfold y0
    exact Keeps.step (Keeps.refl _ _) (State.updSlot_keeps ..) (by decide)
  clear_value y0
  refine ⟨_, rfl, ?_⟩
  refine Keeps.ite _ ?_ ?_
  · exact Keeps.refl _ _
  · refine Keeps.ite _ ?_ ?_
    · refine Keeps.step ?_ (State.setSlot_keeps ..) (by decide)
      assumption
    · assumption

theorem execSlotAbsent_keeps (slot : Fin 8) (s : State) : ∃ t, execSlotAbsent slot s = .next t ∧ Keeps [.bus, .wins, .casc, .cool, .cad, .gop, .chk, .basin, .integ, .slots, .ctr, .out, .free] s t := by
  unfold execSlotAbsent
  refine ⟨_, rfl, ?_⟩
  refine Keeps.ite _ ?_ ?_
  · exact Keeps.step (Keeps.refl _ _) (State.removeCard_keeps ..) (by decide)
  · exact Keeps.refl _ _

theorem execSlotResetRelease_keeps (slot : Fin 8) (s : State) : ∃ t, execSlotResetRelease slot s = .next t ∧ Keeps [.slots, .out] s t := by
  unfold execSlotResetRelease
  exact ⟨_, rfl, Keeps.step (Keeps.refl _ _) (State.releaseReset_keeps ..) (by decide)⟩

theorem execResetPulseEnd_keeps (slot : Fin 8) (s : State) : ∃ t, execResetPulseEnd slot s = .next t ∧ Keeps [.bus, .wins, .slots, .out] s t := by
  unfold execResetPulseEnd
  refine ⟨_, rfl, ?_⟩
  split
  · refine Keeps.ite _ ?_ ?_
    · exact Keeps.step (Keeps.step (Keeps.step (Keeps.refl _ _) (State.updSlot_keeps ..) (by decide)) (State.releaseReset_keeps ..) (by decide)) (State.resetSettle_keeps ..) (by decide)
    · exact Keeps.refl _ _
  · exact Keeps.step (Keeps.refl _ _) (State.resetSettle_keeps ..) (by decide)

theorem execSlotIdentPoll_keeps (slot : Fin 8) (reply : Option IdentReply) (s : State) : ∃ t, execSlotIdentPoll slot reply s = .next t ∧ Keeps [.integ, .slots, .ctr, .out] s t := by
  unfold execSlotIdentPoll
  refine ⟨_, rfl, ?_⟩
  split
  · refine Keeps.ite _ ?_ ?_
    · extract_lets +onlyGivenNames y0
      have h0 : Keeps [.integ, .slots, .ctr, .out] s y0 := by
        unfold y0
        exact Keeps.step (Keeps.step (Keeps.refl _ _) (State.setAddress_keeps ..) (by decide)) (State.slotSend_keeps ..) (by decide)
      clear_value y0
      split
      · refine Keeps.step ?_ (State.identify_keeps ..) (by decide)
        assumption
      · refine Keeps.step ?_ (State.updSlot_keeps ..) (by decide)
        assumption
    · exact Keeps.refl _ _
  · exact Keeps.refl _ _

theorem execSlotBootTimeout_keeps (slot : Fin 8) (s : State) : ∃ t, execSlotBootTimeout slot s = .next t ∧ Keeps [.bus, .wins, .casc, .cad, .gop, .chk, .basin, .integ, .slots, .ctr, .out, .free] s t := by
  unfold execSlotBootTimeout
  extract_lets +onlyGivenNames z0
  extract_lets +onlyGivenNames z1
  refine ⟨_, rfl, ?_⟩
  refine Keeps.ite _ ?_ ?_
  · exact Keeps.step (Keeps.step (Keeps.step (Keeps.refl _ _) (State.noticeSlot_keeps ..) (by decide)) (State.setSlot_keeps ..) (by decide)) (State.slotDown_keeps ..) (by decide)
  · exact Keeps.refl _ _

theorem execSlotAlert_keeps (slot : Fin 8) (reply : Option StatusReply) (s : State) : ∃ t, execSlotAlert slot reply s = .next t ∧ Keeps [.integ, .slots, .ctr, .out] s t := by
  unfold execSlotAlert
  refine ⟨_, rfl, ?_⟩
  refine Keeps.ite _ ?_ ?_
  · extract_lets +onlyGivenNames y0
    have h0 : Keeps [.integ, .slots, .ctr, .out] s y0 := by
      unfold y0
      exact Keeps.step (Keeps.refl _ _) (State.slotSend_keeps ..) (by decide)
    clear_value y0
    split
    · refine Keeps.step ?_ (State.count_keeps ..) (by decide)
      refine Keeps.step ?_ (State.updSlot_keeps ..) (by decide)
      assumption
    · refine Keeps.step ?_ (State.updSlot_keeps ..) (by decide)
      assumption
  · exact Keeps.refl _ _

theorem execPlan_keeps (slot : Fin 8) (ack : Bool) (s : State) : ∃ t, execPlan slot ack s = .next t ∧ Keeps [.chk, .integ, .slots, .ctr, .out] s t := by
  unfold execPlan
  refine ⟨_, rfl, ?_⟩
  split
  · refine Keeps.ite _ ?_ ?_
    · exact Keeps.step (Keeps.refl _ _) (State.sendPlan_keeps ..) (by decide)
    · exact Keeps.refl _ _
  · exact Keeps.refl _ _

theorem execFence_keeps (slot : Fin 8) (kind : Bool) (index : BitVec 16) (ack : Bool) (s : State) : ∃ t, execFence slot kind index ack s = .next t ∧ Keeps [.bus, .wins, .casc, .cad, .gop, .chk, .basin, .integ, .slots, .ctr, .out, .free] s t := by
  unfold execFence
  extract_lets +onlyGivenNames z0
  refine ⟨_, rfl, ?_⟩
  refine Keeps.ite _ ?_ ?_
  · extract_lets +onlyGivenNames y1
    have h1 : Keeps [.bus, .wins, .casc, .cad, .gop, .chk, .basin, .integ, .slots, .ctr, .out, .free] s y1 := by
      unfold y1
      exact Keeps.step (Keeps.refl _ _) (State.slotSend_keeps ..) (by decide)
    clear_value y1
    refine Keeps.ite _ ?_ ?_
    · refine Keeps.step ?_ (State.nextItem_keeps ..) (by decide)
      refine Keeps.step ?_ (State.updIslot_keeps ..) (by decide)
      assumption
    · refine Keeps.step ?_ (State.updIslot_keeps ..) (by decide)
      refine Keeps.step ?_ (State.quarantineNow_keeps ..) (by decide)
      assumption
  · exact Keeps.refl _ _

theorem execLullOrder_keeps (slot : Fin 8) (ack : Bool) (s : State) : ∃ t, execLullOrder slot ack s = .next t ∧ Keeps [.integ, .slots, .ctr, .out] s t := by
  unfold execLullOrder
  extract_lets +onlyGivenNames z0
  refine ⟨_, rfl, ?_⟩
  refine Keeps.ite _ ?_ ?_
  · refine Keeps.ite _ ?_ ?_
    · exact Keeps.step (Keeps.refl _ _) (State.lullEnds_keeps ..) (by decide)
    · extract_lets +onlyGivenNames z1
      extract_lets +onlyGivenNames y2
      have h2 : Keeps [.integ, .slots, .ctr, .out] s y2 := by
        unfold y2
        exact Keeps.step (Keeps.refl _ _) (State.slotSend_keeps ..) (by decide)
      clear_value y2
      refine Keeps.ite _ ?_ ?_
      · refine Keeps.step ?_ (State.updIslot_keeps ..) (by decide)
        assumption
      · refine Keeps.step ?_ (State.lullEnds_keeps ..) (by decide)
        assumption
  · exact Keeps.refl _ _

theorem execPackChunk_keeps (slot : Fin 8) (ack : Bool) (s : State) : ∃ t, execPackChunk slot ack s = .next t ∧ Keeps [.integ, .slots, .ctr, .out] s t := by
  unfold execPackChunk
  refine ⟨_, rfl, ?_⟩
  refine Keeps.ite _ ?_ ?_
  · exact Keeps.step (Keeps.refl _ _) (State.sendChunk_keeps ..) (by decide)
  · exact Keeps.refl _ _

theorem execSlotPowerOnBaseRead_keeps (slot : Fin 8) (reply : Option (Byte × BitVec 16)) (s : State) : ∃ t, execSlotPowerOnBaseRead slot reply s = .next t ∧ Keeps [.slots] s t := by
  unfold execSlotPowerOnBaseRead
  refine ⟨_, rfl, ?_⟩
  refine Keeps.ite _ ?_ ?_
  · exact Keeps.step (Keeps.refl _ _) (State.updSlot_keeps ..) (by decide)
  · exact Keeps.refl _ _
end Sys2Proof.Machine
end

