-- ==== Sys2Proof/Laws/KeepsApply.lean ====
section
/-!
SUPPORT. What the operations of Machine/Apply.lean touch, and that they keep the invariant.
-/

namespace Sys2Proof.Machine
theorem State.leaveGroups_keeps (ks : List Key) (s : State) : Keeps [.cad, .gop, .ctr, .out] s (State.leaveGroups ks s) := by
  unfold State.leaveGroups
  refine Keeps.foldl _ _ ?_ (fun _ _ _ => ?_)
  · exact Keeps.refl _ _
  · refine Keeps.ite _ ?_ ?_
    · refine Keeps.step ?_ (State.memberLost_keeps ..) (by decide)
      assumption
    · assumption

theorem State.applyFeeds_keeps (ks : List Key) (s : State) : Keeps [.weir] s (State.applyFeeds ks s) := by
  unfold State.applyFeeds
  refine Keeps.foldl _ _ ?_ (fun _ _ _ => ?_)
  · exact Keeps.refl _ _
  · refine Keeps.step ?_ (State.updFeed_keeps ..) (by decide)
    assumption

theorem State.applyCooling_keeps (ks : List Key) (s : State) : Keeps [.weir, .cool] s (State.applyCooling ks s) := by
  unfold State.applyCooling
  extract_lets +onlyGivenNames y0
  have h0 : Keeps [.weir, .cool] s y0 := by
    unfold y0
    refine Keeps.foldl _ _ ?_ (fun _ _ _ => ?_)
    · exact Keeps.refl _ _
    · refine Keeps.step ?_ (State.chanGone_keeps ..) (by decide)
      assumption
  clear_value y0
  refine Keeps.ite _ ?_ ?_
  · refine Keeps.step ?_ (State.driveAll_keeps ..) (by decide)
    assumption
  · assumption

theorem State.applyPort_keeps (old : State) (again : Bool) (s : State) (p : Fin 18) : Keeps [.cad, .gop] s (State.applyPort old again s p) := by
  unfold State.applyPort
  extract_lets +onlyGivenNames z0
  extract_lets +onlyGivenNames z1
  refine Keeps.ite _ ?_ ?_
  · exact Keeps.step (Keeps.refl _ _) (State.updPort_keeps ..) (by decide)
  · refine Keeps.ite _ ?_ ?_
    · exact Keeps.step (Keeps.step (Keeps.step (Keeps.refl _ _) (State.updPort_keeps ..) (by decide)) (State.setRx_keeps ..) (by decide)) (State.childGone_keeps ..) (by decide)
    · refine Keeps.ite _ ?_ ?_
      · exact Keeps.step (Keeps.step (Keeps.refl _ _) (State.updPort_keeps ..) (by decide)) (State.childGone_keeps ..) (by decide)
      · refine Keeps.ite _ ?_ ?_
        · exact Keeps.step (Keeps.refl _ _) (State.updPort_keeps ..) (by decide)
        · exact Keeps.refl _ _

theorem State.applyNode_keeps (ks : List Key) (s : State) (old : State) : Keeps [.bus, .wins, .cad, .gop, .ctr, .out] s (State.applyNode ks s old) := by
  unfold State.applyNode
  refine Keeps.ite _ ?_ ?_
  · exact Keeps.refl _ _
  · extract_lets +onlyGivenNames z0
    extract_lets +onlyGivenNames y1
    have h1 : Keeps [.bus, .wins, .cad, .gop, .ctr, .out] s y1 := by
      unfold y1
      refine Keeps.foldl _ _ ?_ (fun _ _ _ => ?_)
      · exact Keeps.refl _ _
      · refine Keeps.step ?_ (State.applyPort_keeps ..) (by decide)
        assumption
    clear_value y1
    extract_lets +onlyGivenNames z2
    extract_lets +onlyGivenNames z3
    extract_lets +onlyGivenNames y4
    have h4 : Keeps [.bus, .wins, .cad, .gop, .ctr, .out] s y4 := by
      unfold y4
      refine Keeps.set_gop _ ?_ (by decide)
      assumption
    clear_value y4
    refine Keeps.ite _ ?_ ?_
    · assumption
    · refine Keeps.ite _ ?_ ?_
      · refine Keeps.ite _ ?_ ?_
        · assumption
        · extract_lets +onlyGivenNames z5
          extract_lets +onlyGivenNames y6
          have h6 : Keeps [.bus, .wins, .cad, .gop, .ctr, .out] s y6 := by
            unfold y6
            refine Keeps.set_cad _ ?_ (by decide)
            assumption
          clear_value y6
          extract_lets +onlyGivenNames y7
          have h7 : Keeps [.bus, .wins, .cad, .gop, .ctr, .out] s y7 := by
            unfold y7
            refine Keeps.step ?_ (State.uplinkCommandsFail_keeps ..) (by decide)
            assumption
          clear_value y7
          refine Keeps.ite _ ?_ ?_
          · refine Keeps.step ?_ (State.count_keeps ..) (by decide)
            assumption
          · assumption
      · extract_lets +onlyGivenNames y5
        have h5 : Keeps [.bus, .wins, .cad, .gop, .ctr, .out] s y5 := by
          unfold y5
          refine Keeps.foldl _ _ ?_ (fun _ _ _ => ?_)
          · assumption
          · refine Keeps.step ?_ (State.finish_keeps ..) (by decide)
            assumption
        clear_value y5
        refine Keeps.set_cad _ ?_ (by decide)
        assumption

theorem State.applyMembers_keeps (ks : List Key) (s : State) (old : State) : Keeps [.gop, .slots] s (State.applyMembers ks s old) := by
  unfold State.applyMembers
  refine Keeps.ite _ ?_ ?_
  · exact Keeps.refl _ _
  · extract_lets +onlyGivenNames z0
    extract_lets +onlyGivenNames y1
    have h1 : Keeps [.gop, .slots] s y1 := by
      unfold y1
      refine Keeps.foldl _ _ ?_ (fun _ _ _ => ?_)
      · exact Keeps.refl _ _
      · refine Keeps.step ?_ (State.updSlot_keeps ..) (by decide)
        assumption
    clear_value y1
    extract_lets +onlyGivenNames z2
    extract_lets +onlyGivenNames y3
    have h3 : Keeps [.gop, .slots] s y3 := by
      unfold y3
      refine Keeps.foldl _ _ ?_ (fun _ _ _ => ?_)
      · assumption
      · refine Keeps.step ?_ (State.updGrp_keeps ..) (by decide)
        assumption
    clear_value y3
    extract_lets +onlyGivenNames z4
    extract_lets +onlyGivenNames z5
    refine Keeps.foldl _ _ ?_ (fun _ _ _ => ?_)
    · assumption
    · refine Keeps.step ?_ (State.updGrp_keeps ..) (by decide)
      assumption

theorem State.applyPlans_keeps (ks : List Key) (instant : Nat) (s : State) : Keeps [.integ] s (State.applyPlans ks instant s) := by
  unfold State.applyPlans
  refine Keeps.foldl _ _ ?_ (fun _ _ _ => ?_)
  · exact Keeps.refl _ _
  · refine Keeps.set_integ _ ?_ (by decide)
    assumption

theorem State.applyLayers_keeps (l : List (Key × Nat)) (ks : List Key) (s : State) : Keeps [.bus, .wins, .chk, .basin, .integ, .ctr, .out] s (State.applyLayers l ks s) := by
  unfold State.applyLayers
  refine Keeps.ite _ ?_ ?_
  · exact Keeps.refl _ _
  · extract_lets +onlyGivenNames z0
    extract_lets +onlyGivenNames y1
    have h1 : Keeps [.bus, .wins, .chk, .basin, .integ, .ctr, .out] s y1 := by
      unfold y1
      refine Keeps.step ?_ (State.endJobs_keeps ..) (by decide)
      refine Keeps.foldl _ _ ?_ (fun _ _ _ => ?_)
      · exact Keeps.refl _ _
      · refine Keeps.step ?_ (State.layerChanged_keeps ..) (by decide)
        assumption
    clear_value y1
    refine Keeps.set_chk_integ _ _ ?_ (by decide) (fun i => i)
    assumption

theorem State.applyValues_keeps (l : List (Key × Nat)) (instant : Nat) (s : State) : Keeps [.bus, .wins, .cfg, .weir, .cool, .cad, .gop, .chk, .basin, .integ, .slots, .ctr, .out] s (State.applyValues l instant s) := by
  unfold State.applyValues
  extract_lets +onlyGivenNames z0
  extract_lets +onlyGivenNames y1
  have h1 : Keeps [.bus, .wins, .cfg, .weir, .cool, .cad, .gop, .chk, .basin, .integ, .slots, .ctr, .out] s y1 := by
    unfold y1
    exact Keeps.step (Keeps.refl _ _) (State.leaveGroups_keeps ..) (by decide)
  clear_value y1
  extract_lets +onlyGivenNames z2
  extract_lets +onlyGivenNames y3
  have h3 : Keeps [.bus, .wins, .cfg, .weir, .cool, .cad, .gop, .chk, .basin, .integ, .slots, .ctr, .out] s y3 := by
    unfold y3
    refine Keeps.set_cfg _ ?_ (by decide)
    assumption
  clear_value y3
  extract_lets +onlyGivenNames y4
  have h4 : Keeps [.bus, .wins, .cfg, .weir, .cool, .cad, .gop, .chk, .basin, .integ, .slots, .ctr, .out] s y4 := by
    unfold y4
    refine Keeps.step ?_ (State.applyNode_keeps ..) (by decide)
    refine Keeps.step ?_ (State.applyCooling_keeps ..) (by decide)
    refine Keeps.step ?_ (State.applyFeeds_keeps ..) (by decide)
    assumption
  clear_value y4
  refine Keeps.step ?_ (State.applyLayers_keeps ..) (by decide)
  refine Keeps.step ?_ (State.applyPlans_keeps ..) (by decide)
  refine Keeps.step ?_ (State.applyMembers_keeps ..) (by decide)
  assumption

theorem State.commitNow_keeps (s : State) : Keeps [.bus, .wins, .cfg, .weir, .cool, .cad, .gop, .chk, .basin, .integ, .slots, .ctr, .out] s (State.commitNow s) := by
  unfold State.commitNow
  split
  · exact Keeps.refl _ _
  · extract_lets +onlyGivenNames z0
    extract_lets +onlyGivenNames y1
    have h1 : Keeps [.bus, .wins, .cfg, .weir, .cool, .cad, .gop, .chk, .basin, .integ, .slots, .ctr, .out] s y1 := by
      unfold y1
      exact Keeps.step (Keeps.refl _ _) (State.applyValues_keeps ..) (by decide)
    clear_value y1
    extract_lets +onlyGivenNames z2
    extract_lets +onlyGivenNames z3
    extract_lets +onlyGivenNames y4
    have h4 : Keeps [.bus, .wins, .cfg, .weir, .cool, .cad, .gop, .chk, .basin, .integ, .slots, .ctr, .out] s y4 := by
      unfold y4
      refine Keeps.set_cfg _ ?_ (by decide)
      assumption
    clear_value y4
    refine Keeps.step ?_ (State.finish_keeps ..) (by decide)
    assumption

theorem State.endTakeover_keeps (ports : List Port) (s : State) : Keeps [.cool] s (State.endTakeover ports s) := by
  unfold State.endTakeover
  refine Keeps.foldl _ _ ?_ (fun _ _ _ => ?_)
  · exact Keeps.refl _ _
  · extract_lets +onlyGivenNames z0
    refine Keeps.set_cool _ ?_ (by decide)
    assumption

theorem State.liveNow_keeps (b : Nat) (s : State) : Keeps [.bus, .wins, .cfg, .weir, .cool, .cad, .gop, .chk, .basin, .integ, .slots, .ctr, .out] s (State.liveNow b s) := by
  unfold State.liveNow
  extract_lets +onlyGivenNames z0
  extract_lets +onlyGivenNames z1
  extract_lets +onlyGivenNames z2
  extract_lets +onlyGivenNames z3
  refine Keeps.ite _ ?_ ?_
  · exact Keeps.refl _ _
  · extract_lets +onlyGivenNames z4
    extract_lets +onlyGivenNames y5
    have h5 : Keeps [.bus, .wins, .cfg, .weir, .cool, .cad, .gop, .chk, .basin, .integ, .slots, .ctr, .out] s y5 := by
      unfold y5
      exact Keeps.set_cfg _ (Keeps.refl _ _) (by decide)
    clear_value y5
    extract_lets +onlyGivenNames y6
    have h6 : Keeps [.bus, .wins, .cfg, .weir, .cool, .cad, .gop, .chk, .basin, .integ, .slots, .ctr, .out] s y6 := by
      unfold y6
      refine Keeps.step ?_ (State.applyValues_keeps ..) (by decide)
      assumption
    clear_value y6
    extract_lets +onlyGivenNames y7
    have h7 : Keeps [.bus, .wins, .cfg, .weir, .cool, .cad, .gop, .chk, .basin, .integ, .slots, .ctr, .out] s y7 := by
      unfold y7
      refine Keeps.step ?_ (State.endTakeover_keeps ..) (by decide)
      assumption
    clear_value y7
    extract_lets +onlyGivenNames y8
    have h8 : Keeps [.bus, .wins, .cfg, .weir, .cool, .cad, .gop, .chk, .basin, .integ, .slots, .ctr, .out] s y8 := by
      unfold y8
      refine Keeps.ite _ ?_ ?_
      · assumption
      · refine Keeps.step ?_ (State.driveAll_keeps ..) (by decide)
        assumption
    clear_value y8
    extract_lets +onlyGivenNames y9
    have h9 : Keeps [.bus, .wins, .cfg, .weir, .cool, .cad, .gop, .chk, .basin, .integ, .slots, .ctr, .out] s y9 := by
      unfold y9
      refine Keeps.foldl _ _ ?_ (fun _ _ _ => ?_)
      · assumption
      · refine Keeps.step ?_ (State.finish_keeps ..) (by decide)
        assumption
    clear_value y9
    refine Keeps.foldl _ _ ?_ (fun _ _ _ => ?_)
    · assumption
    · refine Keeps.step ?_ (State.finish_keeps ..) (by decide)
      assumption
end Sys2Proof.Machine
end

