-- ==== Sys2Proof/Laws/KeepsFrame.lean ====
section
/-!
SUPPORT. What the operations of Machine/Frame.lean touch, and that they keep the invariant.
-/

namespace Sys2Proof.Machine
theorem State.extendRuns_keeps (f : Nat) (s : State) : Keeps [.slots] s (State.extendRuns f s) := by
  unfold State.extendRuns
  refine Keeps.ite _ ?_ ?_
  · exact Keeps.refl _ _
  · refine Keeps.foldl _ _ ?_ (fun _ _ _ => ?_)
    · exact Keeps.refl _ _
    · refine Keeps.ite _ ?_ ?_
      · refine Keeps.step ?_ (State.updSlot_keeps ..) (by decide)
        assumption
      · assumption

theorem State.judgeDraw_keeps (pout : List (Nat × Nat)) (f : Nat) (s : State) (i : Fin 8) : Keeps [.integ, .slots, .ctr] s (State.judgeDraw pout f s i) := by
  unfold State.judgeDraw
  extract_lets +onlyGivenNames z0
  split
  · extract_lets +onlyGivenNames z1
    extract_lets +onlyGivenNames z2
    extract_lets +onlyGivenNames y3
    have h3 : Keeps [.integ, .slots, .ctr] s y3 := by
      unfold y3
      exact Keeps.step (Keeps.refl _ _) (State.updSlot_keeps ..) (by decide)
    clear_value y3
    refine Keeps.ite _ ?_ ?_
    · refine Keeps.step ?_ (State.deviation_keeps ..) (by decide)
      assumption
    · assumption
  · exact Keeps.step (Keeps.refl _ _) (State.updSlot_keeps ..) (by decide)

theorem State.frameEnds_keeps (pout : List (Nat × Nat)) (f : Nat) (s : State) : Keeps [.integ, .slots, .ctr] s (State.frameEnds pout f s) := by
  unfold State.frameEnds
  extract_lets +onlyGivenNames y0
  have h0 : Keeps [.integ, .slots, .ctr] s y0 := by
    unfold y0
    refine Keeps.foldl _ _ ?_ (fun _ _ _ => ?_)
    · exact Keeps.refl _ _
    · refine Keeps.ite _ ?_ ?_
      · refine Keeps.step ?_ (State.count_keeps ..) (by decide)
        assumption
      · assumption
  clear_value y0
  extract_lets +onlyGivenNames y1
  have h1 : Keeps [.integ, .slots, .ctr] s y1 := by
    unfold y1
    refine Keeps.foldl _ _ ?_ (fun _ _ _ => ?_)
    · assumption
    · refine Keeps.step ?_ (State.judgeDraw_keeps ..) (by decide)
      assumption
  clear_value y1
  refine Keeps.foldl _ _ ?_ (fun _ _ _ => ?_)
  · assumption
  · refine Keeps.step ?_ (State.expectTiles_keeps ..) (by decide)
    assumption

theorem State.takeSnapshot_keeps (o : EpochOp) (s : State) : Keeps [.bus, .wins, .gop, .out] s (State.takeSnapshot o s) := by
  unfold State.takeSnapshot
  extract_lets +onlyGivenNames z0
  extract_lets +onlyGivenNames z1
  exact Keeps.step (Keeps.step (Keeps.set_gop _ (Keeps.refl _ _) (by decide)) (State.dropOp_keeps ..) (by decide)) (State.endOp_keeps ..) (by decide)

theorem State.commitOp_keeps (o : EpochOp) (s : State) : Keeps [.bus, .wins, .cfg, .weir, .cool, .cad, .gop, .chk, .basin, .integ, .slots, .ctr, .out] s (State.commitOp o s) := by
  unfold State.commitOp
  extract_lets +onlyGivenNames y0
  have h0 : Keeps [.bus, .wins, .cfg, .weir, .cool, .cad, .gop, .chk, .basin, .integ, .slots, .ctr, .out] s y0 := by
    unfold y0
    refine Keeps.ite _ ?_ ?_
    · exact Keeps.step (Keeps.refl _ _) (State.commitNow_keeps ..) (by decide)
    · exact Keeps.refl _ _
  clear_value y0
  refine Keeps.step ?_ (State.dropOp_keeps ..) (by decide)
  assumption

theorem State.cadenceOp_keeps (o : EpochOp) (s : State) : Keeps [.bus, .wins, .gop, .out] s (State.cadenceOp o s) := by
  unfold State.cadenceOp
  extract_lets +onlyGivenNames z0
  extract_lets +onlyGivenNames z1
  extract_lets +onlyGivenNames y2
  have h2 : Keeps [.bus, .wins, .gop, .out] s y2 := by
    unfold y2
    refine Keeps.ite _ ?_ ?_
    · exact Keeps.refl _ _
    · exact Keeps.step (Keeps.refl _ _) (State.updGrp_keeps ..) (by decide)
  clear_value y2
  extract_lets +onlyGivenNames y3
  have h3 : Keeps [.bus, .wins, .gop, .out] s y3 := by
    unfold y3
    refine Keeps.ite _ ?_ ?_
    · refine Keeps.step ?_ (State.updGrp_keeps ..) (by decide)
      assumption
    · exact Keeps.step (Keeps.refl _ _) (State.updGrp_keeps ..) (by decide)
  clear_value y3
  refine Keeps.step ?_ (State.endOp_keeps ..) (by decide)
  refine Keeps.step ?_ (State.dropOp_keeps ..) (by decide)
  assumption

theorem State.resetOp_keeps (o : EpochOp) (s : State) : Keeps [.bus, .wins, .cad, .gop, .chk, .basin, .integ, .slots, .ctr, .out, .free] s (State.resetOp o s) := by
  unfold State.resetOp
  extract_lets +onlyGivenNames y0
  have h0 : Keeps [.bus, .wins, .cad, .gop, .chk, .basin, .integ, .slots, .ctr, .out, .free] s y0 := by
    unfold y0
    refine Keeps.foldl _ _ ?_ (fun _ _ _ => ?_)
    · exact Keeps.refl _ _
    · split
      · refine Keeps.step ?_ (State.pulseReset_keeps ..) (by decide)
        refine Keeps.step ?_ (State.holdSlot_keeps ..) (by decide)
        assumption
      · refine Keeps.step ?_ (State.pulseReset_keeps ..) (by decide)
        assumption
      · refine Keeps.step ?_ (State.pulseReset_keeps ..) (by decide)
        assumption
      · assumption
  clear_value y0
  refine Keeps.step ?_ (State.endOp_keeps ..) (by decide)
  refine Keeps.step ?_ (State.dropOp_keeps ..) (by decide)
  assumption

theorem State.holdOp_keeps (o : EpochOp) (s : State) : Keeps [.bus, .wins, .cad, .gop, .chk, .basin, .integ, .slots, .ctr, .out, .free] s (State.holdOp o s) := by
  unfold State.holdOp
  exact Keeps.step (Keeps.step (Keeps.refl _ _) (State.dropOp_keeps ..) (by decide)) (State.holdGroup_keeps ..) (by decide)

theorem State.undecidedNow_keeps (b : Nat) (s : State) : Keeps [.bus, .wins, .cfg, .cad, .gop, .chk, .basin, .integ, .slots, .ctr, .out, .free] s (State.undecidedNow b s) := by
  unfold State.undecidedNow
  refine Keeps.foldl _ _ ?_ (fun _ _ _ => ?_)
  · exact Keeps.refl _ _
  · refine Keeps.step ?_ (State.noDecision_keeps ..) (by decide)
    assumption

theorem State.firstOrders_keeps (b : Nat) (s : State) : Keeps [.bus, .wins, .cfg, .weir, .cool, .cad, .gop, .chk, .basin, .integ, .slots, .ctr, .out] s (State.firstOrders b s) := by
  unfold State.firstOrders
  extract_lets +onlyGivenNames y0
  have h0 : Keeps [.bus, .wins, .cfg, .weir, .cool, .cad, .gop, .chk, .basin, .integ, .slots, .ctr, .out] s y0 := by
    unfold y0
    refine Keeps.foldl _ _ ?_ (fun _ _ _ => ?_)
    · exact Keeps.refl _ _
    · refine Keeps.step ?_ (State.takeSnapshot_keeps ..) (by decide)
      assumption
  clear_value y0
  refine Keeps.foldl _ _ ?_ (fun _ _ _ => ?_)
  · assumption
  · refine Keeps.step ?_ (State.commitOp_keeps ..) (by decide)
    assumption

theorem State.lastOrders_keeps (b : Nat) (s : State) : Keeps [.bus, .wins, .cad, .gop, .chk, .basin, .integ, .slots, .ctr, .out, .free] s (State.lastOrders b s) := by
  unfold State.lastOrders
  extract_lets +onlyGivenNames z0
  extract_lets +onlyGivenNames y1
  have h1 : Keeps [.bus, .wins, .cad, .gop, .chk, .basin, .integ, .slots, .ctr, .out, .free] s y1 := by
    unfold y1
    refine Keeps.foldl _ _ ?_ (fun _ _ _ => ?_)
    · exact Keeps.refl _ _
    · refine Keeps.step ?_ (State.holdOp_keeps ..) (by decide)
      assumption
  clear_value y1
  extract_lets +onlyGivenNames y2
  have h2 : Keeps [.bus, .wins, .cad, .gop, .chk, .basin, .integ, .slots, .ctr, .out, .free] s y2 := by
    unfold y2
    refine Keeps.foldl _ _ ?_ (fun _ _ _ => ?_)
    · assumption
    · refine Keeps.step ?_ (State.cadenceOp_keeps ..) (by decide)
      assumption
  clear_value y2
  refine Keeps.foldl _ _ ?_ (fun _ _ _ => ?_)
  · assumption
  · refine Keeps.step ?_ (State.resetOp_keeps ..) (by decide)
    assumption

theorem State.throttleEnds_keeps (frame : Bool) (b : Nat) (s : State) : Keeps [.gop] s (State.throttleEnds frame b s) := by
  unfold State.throttleEnds
  extract_lets +onlyGivenNames z0
  extract_lets +onlyGivenNames z1
  refine Keeps.ite _ ?_ ?_
  · exact Keeps.step (Keeps.refl _ _) (State.releaseThrottle_keeps ..) (by decide)
  · exact Keeps.set_gop _ (Keeps.refl _ _) (by decide)

theorem State.epochNow_keeps (b : Nat) (s : State) : Keeps [.bus, .wins, .cfg, .weir, .cool, .cad, .gop, .chk, .basin, .integ, .slots, .ctr, .out, .free] s (State.epochNow b s) := by
  unfold State.epochNow
  exact Keeps.step (Keeps.step (Keeps.step (Keeps.step (Keeps.refl _ _) (State.undecidedNow_keeps ..) (by decide)) (State.firstOrders_keeps ..) (by decide)) (State.lastOrders_keeps ..) (by decide)) (State.throttleEnds_keeps ..) (by decide)

theorem State.commitDue_keeps (b : Nat) (s : State) : Keeps [.bus, .wins, .cfg, .weir, .cool, .cad, .gop, .chk, .basin, .integ, .slots, .ctr, .out] s (State.commitDue b s) := by
  unfold State.commitDue
  split
  · refine Keeps.ite _ ?_ ?_
    · exact Keeps.step (Keeps.refl _ _) (State.commitNow_keeps ..) (by decide)
    · exact Keeps.refl _ _
  · exact Keeps.refl _ _

theorem State.localSteps_keeps (s : State) : Keeps [.gop] s (State.localSteps s) := by
  unfold State.localSteps
  refine Keeps.foldl _ _ ?_ (fun _ _ _ => ?_)
  · exact Keeps.refl _ _
  · refine Keeps.ite _ ?_ ?_
    · refine Keeps.step ?_ (State.updGrp_keeps ..) (by decide)
      assumption
    · assumption

theorem State.causesApplied_keeps (s : State) : Keeps [.weir, .cool] s (State.causesApplied s) := by
  unfold State.causesApplied
  extract_lets +onlyGivenNames y0
  have h0 : Keeps [.weir, .cool] s y0 := by
    unfold y0
    exact Keeps.step (Keeps.refl _ _) (State.coolApplied_keeps ..) (by decide)
  clear_value y0
  refine Keeps.ite _ ?_ ?_
  · assumption
  · refine Keeps.set_weir _ ?_ (by decide)
    assumption

theorem State.frameLimits_keeps (k : Nat) (s : State) : Keeps [.weir] s (State.frameLimits k s) := by
  unfold State.frameLimits
  refine Keeps.ite _ ?_ ?_
  · exact Keeps.refl _ _
  · refine Keeps.foldl _ _ ?_ (fun _ _ _ => ?_)
    · exact Keeps.refl _ _
    · refine Keeps.step ?_ (State.updFeed_keeps ..) (by decide)
      assumption

theorem State.holdsDue_keeps (b : Nat) (s : State) : Keeps [.bus, .wins, .cad, .gop, .chk, .basin, .integ, .slots, .ctr, .out, .free] s (State.holdsDue b s) := by
  unfold State.holdsDue
  refine Keeps.foldl _ _ ?_ (fun _ _ _ => ?_)
  · exact Keeps.refl _ _
  · extract_lets +onlyGivenNames y0
    have h0 : Keeps [.bus, .wins, .cad, .gop, .chk, .basin, .integ, .slots, .ctr, .out, .free] s y0 := by
      unfold y0
      refine Keeps.foldl _ _ ?_ (fun _ _ _ => ?_)
      · assumption
      · refine Keeps.step ?_ (State.holdSlot_keeps ..) (by decide)
        assumption
    clear_value y0
    refine Keeps.step ?_ (State.finish_keeps ..) (by decide)
    assumption

theorem State.runSlot_keeps (held : List Nat) (s : State) (i : Fin 8) : Keeps [.bus, .wins, .casc, .cad, .gop, .chk, .basin, .integ, .slots, .ctr, .out, .free] s (State.runSlot held s i) := by
  unfold State.runSlot
  refine Keeps.ite _ ?_ ?_
  · extract_lets +onlyGivenNames y0
    have h0 : Keeps [.bus, .wins, .casc, .cad, .gop, .chk, .basin, .integ, .slots, .ctr, .out, .free] s y0 := by
      unfold y0
      exact Keeps.step (Keeps.step (Keeps.refl _ _) (State.setSlot_keeps ..) (by decide)) (State.updGrp_keeps ..) (by decide)
    clear_value y0
    refine Keeps.ite _ ?_ ?_
    · refine Keeps.step ?_ (State.writeMargin_keeps ..) (by decide)
      assumption
    · assumption
  · exact Keeps.step (Keeps.refl _ _) (State.updSlot_keeps ..) (by decide)

theorem State.runsDue_keeps (held : List Nat) (b : Nat) (s : State) : Keeps [.bus, .wins, .casc, .cad, .gop, .chk, .basin, .integ, .slots, .ctr, .out, .free] s (State.runsDue held b s) := by
  unfold State.runsDue
  refine Keeps.foldl _ _ ?_ (fun _ _ _ => ?_)
  · exact Keeps.refl _ _
  · extract_lets +onlyGivenNames z0
    extract_lets +onlyGivenNames z1
    refine Keeps.ite _ ?_ ?_
    · assumption
    · extract_lets +onlyGivenNames y2
      have h2 : Keeps [.bus, .wins, .casc, .cad, .gop, .chk, .basin, .integ, .slots, .ctr, .out, .free] s y2 := by
        unfold y2
        refine Keeps.foldl _ _ ?_ (fun _ _ _ => ?_)
        · assumption
        · refine Keeps.step ?_ (State.runSlot_keeps ..) (by decide)
          assumption
      clear_value y2
      refine Keeps.step ?_ (State.finish_keeps ..) (by decide)
      assumption

theorem State.frameCounts_keeps (s : State) : Keeps [.chk, .basin, .ctr] s (State.frameCounts s) := by
  unfold State.frameCounts
  exact Keeps.set_chk_basin_ctr _ _ _ (Keeps.refl _ _) (by decide) (fun i => i) (fun i => i) (fun i => i) (fun i => i)

theorem State.fullBoundary_keeps (held : List Nat) (b : Nat) (s : State) : Keeps [.bus, .wins, .casc, .cad, .gop, .chk, .basin, .integ, .slots, .ctr, .out, .free] s (State.fullBoundary held b s) := by
  unfold State.fullBoundary
  extract_lets +onlyGivenNames y0
  have h0 : Keeps [.bus, .wins, .casc, .cad, .gop, .chk, .basin, .integ, .slots, .ctr, .out, .free] s y0 := by
    unfold y0
    refine Keeps.foldl _ _ ?_ (fun _ _ _ => ?_)
    · exact Keeps.refl _ _
    · refine Keeps.step ?_ (State.expelNow_keeps ..) (by decide)
      assumption
  clear_value y0
  extract_lets +onlyGivenNames y1
  have h1 : Keeps [.bus, .wins, .casc, .cad, .gop, .chk, .basin, .integ, .slots, .ctr, .out, .free] s y1 := by
    unfold y1
    refine Keeps.step ?_ (State.portsBoundary_keeps ..) (by decide)
    refine Keeps.step ?_ (State.cadenceHolds_keeps ..) (by decide)
    assumption
  clear_value y1
  extract_lets +onlyGivenNames y2
  have h2 : Keeps [.bus, .wins, .casc, .cad, .gop, .chk, .basin, .integ, .slots, .ctr, .out, .free] s y2 := by
    unfold y2
    refine Keeps.ite _ ?_ ?_
    · refine Keeps.step ?_ (State.runsDue_keeps ..) (by decide)
      refine Keeps.step ?_ (State.holdsDue_keeps ..) (by decide)
      assumption
    · assumption
  clear_value y2
  refine Keeps.foldl _ _ ?_ (fun _ _ _ => ?_)
  · refine Keeps.step ?_ (State.integRefresh_keeps ..) (by decide)
    assumption
  · refine Keeps.step ?_ (State.nextItem_keeps ..) (by decide)
    assumption

theorem State.frameSent_keeps (b : Nat) (s : State) : Keeps [.cad, .out] s (State.frameSent b s) := by
  unfold State.frameSent
  refine Keeps.ite _ ?_ ?_
  · exact Keeps.refl _ _
  · exact Keeps.step (Keeps.refl _ _) (State.frameWords_keeps ..) (by decide)

theorem State.frameStarts_keeps (pout : List (Nat × Nat)) (b : Nat) (s : State) : Keeps [.dev, .bus, .wins, .cfg, .weir, .casc, .cool, .cad, .gop, .chk, .basin, .integ, .slots, .ctr, .out, .free] s (State.frameStarts pout b s) := by
  unfold State.frameStarts
  extract_lets +onlyGivenNames y0
  have h0 : Keeps [.dev, .bus, .wins, .cfg, .weir, .casc, .cool, .cad, .gop, .chk, .basin, .integ, .slots, .ctr, .out, .free] s y0 := by
    unfold y0
    exact Keeps.step (Keeps.step (Keeps.refl _ _) (State.extendRuns_keeps ..) (by decide)) (State.frameEnds_keeps ..) (by decide)
  clear_value y0
  extract_lets +onlyGivenNames z1
  extract_lets +onlyGivenNames y2
  have h2 : Keeps [.dev, .bus, .wins, .cfg, .weir, .casc, .cool, .cad, .gop, .chk, .basin, .integ, .slots, .ctr, .out, .free] s y2 := by
    unfold y2
    refine Keeps.set_dev _ ?_ (by decide)
    assumption
  clear_value y2
  extract_lets +onlyGivenNames y3
  have h3 : Keeps [.dev, .bus, .wins, .cfg, .weir, .casc, .cool, .cad, .gop, .chk, .basin, .integ, .slots, .ctr, .out, .free] s y3 := by
    unfold y3
    refine Keeps.foldl _ _ ?_ (fun _ _ _ => ?_)
    · assumption
    · refine Keeps.step ?_ (State.lullFrame_keeps ..) (by decide)
      assumption
  clear_value y3
  extract_lets +onlyGivenNames z4
  extract_lets +onlyGivenNames y5
  have h5 : Keeps [.dev, .bus, .wins, .cfg, .weir, .casc, .cool, .cad, .gop, .chk, .basin, .integ, .slots, .ctr, .out, .free] s y5 := by
    unfold y5
    refine Keeps.step ?_ (State.liveNow_keeps ..) (by decide)
    refine Keeps.step ?_ (State.commitDue_keeps ..) (by decide)
    refine Keeps.step ?_ (State.firstOrders_keeps ..) (by decide)
    refine Keeps.step ?_ (State.undecidedNow_keeps ..) (by decide)
    assumption
  clear_value y5
  extract_lets +onlyGivenNames y6
  have h6 : Keeps [.dev, .bus, .wins, .cfg, .weir, .casc, .cool, .cad, .gop, .chk, .basin, .integ, .slots, .ctr, .out, .free] s y6 := by
    unfold y6
    refine Keeps.step ?_ (State.throttleEnds_keeps ..) (by decide)
    refine Keeps.step ?_ (State.localSteps_keeps ..) (by decide)
    refine Keeps.step ?_ (State.lastOrders_keeps ..) (by decide)
    assumption
  clear_value y6
  extract_lets +onlyGivenNames y7
  have h7 : Keeps [.dev, .bus, .wins, .cfg, .weir, .casc, .cool, .cad, .gop, .chk, .basin, .integ, .slots, .ctr, .out, .free] s y7 := by
    unfold y7
    refine Keeps.ite _ ?_ ?_
    · refine Keeps.step ?_ (State.fullBoundary_keeps ..) (by decide)
      assumption
    · assumption
  clear_value y7
  extract_lets +onlyGivenNames y8
  have h8 : Keeps [.dev, .bus, .wins, .cfg, .weir, .casc, .cool, .cad, .gop, .chk, .basin, .integ, .slots, .ctr, .out, .free] s y8 := by
    unfold y8
    refine Keeps.step ?_ (State.frameCounts_keeps ..) (by decide)
    refine Keeps.step ?_ (State.frameLimits_keeps ..) (by decide)
    refine Keeps.step ?_ (State.causesApplied_keeps ..) (by decide)
    assumption
  clear_value y8
  refine Keeps.ite _ ?_ ?_
  · refine Keeps.step ?_ (State.frameSent_keeps ..) (by decide)
    assumption
  · assumption

theorem execFrameBoundary_keeps (pout : List (Nat × Nat)) (s : State) : ∃ t, execFrameBoundary pout s = .next t ∧ Keeps [.dev, .bus, .wins, .cfg, .weir, .casc, .cool, .cad, .gop, .chk, .basin, .integ, .slots, .ctr, .out, .free] s t := by
  unfold execFrameBoundary
  refine ⟨_, rfl, ?_⟩
  refine Keeps.ite _ ?_ ?_
  · split
    · exact Keeps.step (Keeps.refl _ _) (State.frameStarts_keeps ..) (by decide)
    · exact Keeps.refl _ _
  · exact Keeps.refl _ _

theorem execEpochEffect_keeps (epoch : Nat) (s : State) : ∃ t, execEpochEffect epoch s = .next t ∧ Keeps [.bus, .wins, .cfg, .weir, .cool, .cad, .gop, .chk, .basin, .integ, .slots, .ctr, .out, .free] s t := by
  unfold execEpochEffect
  refine ⟨_, rfl, ?_⟩
  refine Keeps.ite _ ?_ ?_
  · exact Keeps.step (Keeps.refl _ _) (State.epochNow_keeps ..) (by decide)
  · exact Keeps.refl _ _

theorem execThrottleHoldbackEnd_keeps (s : State) : ∃ t, execThrottleHoldbackEnd s = .next t ∧ Keeps [.cad, .gop, .integ, .ctr, .out] s t := by
  unfold execThrottleHoldbackEnd
  extract_lets +onlyGivenNames z0
  extract_lets +onlyGivenNames z1
  refine ⟨_, rfl, ?_⟩
  refine Keeps.ite _ ?_ ?_
  · refine Keeps.ite _ ?_ ?_
    · exact Keeps.step (Keeps.refl _ _) (State.assertThrottle_keeps ..) (by decide)
    · exact Keeps.set_gop _ (Keeps.refl _ _) (by decide)
  · exact Keeps.refl _ _
end Sys2Proof.Machine
end

