-- ==== Sys2Proof/Laws/KeepsUpdate.lean ====
section
/-!
SUPPORT. What the operations of Machine/Update.lean touch, and that they keep the invariant.
-/

namespace Sys2Proof.Machine
theorem State.dropWork_keeps (p : Port) (s : State) : Keeps [.gop, .basin, .slots, .upd] s (State.dropWork p s) := by
  unfold State.dropWork
  extract_lets +onlyGivenNames z0
  extract_lets +onlyGivenNames z1
  extract_lets +onlyGivenNames y2
  have h2 : Keeps [.gop, .basin, .slots, .upd] s y2 := by
    unfold y2
    refine Keeps.ite _ ?_ ?_
    · refine Keeps.foldl _ _ ?_ (fun _ _ _ => ?_)
      · exact Keeps.refl _ _
      · refine Keeps.step ?_ (State.updSlot_keeps ..) (by decide)
        assumption
    · refine Keeps.ite _ ?_ ?_
      · exact Keeps.set_upd _ (Keeps.refl _ _) (by decide) (fun i => i)
      · exact Keeps.refl _ _
  clear_value y2
  refine Keeps.set_gop_basin _ _ ?_ (by decide) (fun i => i)
  assumption

theorem State.abandonWork_keeps (s : State) (p : Port) : Keeps [.bus, .wins, .cfg, .gop, .basin, .slots, .upd, .ctr, .out] s (State.abandonWork s p) := by
  unfold State.abandonWork
  refine Keeps.ite _ ?_ ?_
  · exact Keeps.refl _ _
  · refine Keeps.ite _ ?_ ?_
    · exact Keeps.step (Keeps.refl _ _) (State.failCommit_keeps ..) (by decide)
    · exact Keeps.step (Keeps.step (Keeps.refl _ _) (State.dropWork_keeps ..) (by decide)) (State.abandon_keeps ..) (by decide)

theorem State.takeUpper_keeps (img : Bytes) (s : State) : Keeps [.chk, .integ, .boot, .ctr] s (State.takeUpper img s) := by
  unfold State.takeUpper
  extract_lets +onlyGivenNames z0
  extract_lets +onlyGivenNames y1
  have h1 : Keeps [.chk, .integ, .boot, .ctr] s y1 := by
    unfold y1
    refine Keeps.foldl _ _ ?_ (fun _ _ _ => ?_)
    · exact Keeps.refl _ _
    · refine Keeps.step ?_ (State.placeCore_keeps ..) (by decide)
      assumption
  clear_value y1
  extract_lets +onlyGivenNames z2
  extract_lets +onlyGivenNames y3
  have h3 : Keeps [.chk, .integ, .boot, .ctr] s y3 := by
    unfold y3
    refine Keeps.set_boot _ ?_ (by decide) (fun i => i) (fun i => i) (fun i => i)
    assumption
  clear_value y3
  extract_lets +onlyGivenNames y4
  have h4 : Keeps [.chk, .integ, .boot, .ctr] s y4 := by
    unfold y4
    refine Keeps.foldl _ _ ?_ (fun _ _ _ => ?_)
    · assumption
    · refine Keeps.step ?_ (State.releaseCore_keeps ..) (by decide)
      refine Keeps.step ?_ (State.updCore_keeps ..) (by decide)
      assumption
  clear_value y4
  refine Keeps.step ?_ (State.logEntry_keeps ..) (by decide)
  assumption

theorem State.takeUcode_keeps (h : ImgHeader) (body : Bytes) (img : Bytes) (s : State) : Keeps [.chk, .boot] s (State.takeUcode h body img s) := by
  unfold State.takeUcode
  exact Keeps.set_chk_boot _ _ (Keeps.refl _ _) (by decide) (fun i => i) (fun i => i) (fun i => i) (fun i => i)

theorem State.loadUcode_keeps (s : State) : Keeps [.chk, .integ, .boot, .ctr] s (State.loadUcode s) := by
  unfold State.loadUcode
  split
  · refine Keeps.ite _ ?_ ?_
    · exact Keeps.step (Keeps.refl _ _) (State.takeUcode_keeps ..) (by decide)
    · exact Keeps.step (Keeps.refl _ _) (State.notice_keeps ..) (by decide)
  · exact Keeps.step (Keeps.refl _ _) (State.notice_keeps ..) (by decide)

theorem State.takeLater_keeps (s : State) : Keeps [.cfg, .gop, .slots] s (State.takeLater s) := by
  unfold State.takeLater
  extract_lets +onlyGivenNames z0
  extract_lets +onlyGivenNames z1
  extract_lets +onlyGivenNames y2
  have h2 : Keeps [.cfg, .gop, .slots] s y2 := by
    unfold y2
    exact Keeps.refl _ _
  clear_value y2
  extract_lets +onlyGivenNames z3
  extract_lets +onlyGivenNames y4
  have h4 : Keeps [.cfg, .gop, .slots] s y4 := by
    unfold y4
    exact Keeps.set_cfg _ (Keeps.refl _ _) (by decide)
  clear_value y4
  refine Keeps.step ?_ (State.applyMembers_keeps ..) (by decide)
  assumption

theorem State.startCadence_keeps (s : State) : Keeps [.cad, .ctr] s (State.startCadence s) := by
  unfold State.startCadence
  extract_lets +onlyGivenNames z0
  extract_lets +onlyGivenNames z1
  extract_lets +onlyGivenNames z2
  extract_lets +onlyGivenNames y3
  have h3 : Keeps [.cad, .ctr] s y3 := by
    unfold y3
    exact Keeps.set_cad _ (Keeps.refl _ _) (by decide)
  clear_value y3
  refine Keeps.ite _ ?_ ?_
  · refine Keeps.step ?_ (State.count_keeps ..) (by decide)
    assumption
  · assumption

theorem State.enterFull_keeps (img : Bytes) (s : State) : Keeps [.dev, .bus, .sess, .cfg, .cad, .gop, .chk, .basin, .integ, .slots, .boot, .upd, .ctr, .out] s (State.enterFull img s) := by
  unfold State.enterFull
  extract_lets +onlyGivenNames y0
  have h0 : Keeps [.dev, .bus, .sess, .cfg, .cad, .gop, .chk, .basin, .integ, .slots, .boot, .upd, .ctr, .out] s y0 := by
    unfold y0
    exact Keeps.step (Keeps.step (Keeps.step (Keeps.refl _ _) (State.takeUpper_keeps ..) (by decide)) (State.loadUcode_keeps ..) (by decide)) (State.logEntry_keeps ..) (by decide)
  clear_value y0
  extract_lets +onlyGivenNames z1
  extract_lets +onlyGivenNames y2
  have h2 : Keeps [.dev, .bus, .sess, .cfg, .cad, .gop, .chk, .basin, .integ, .slots, .boot, .upd, .ctr, .out] s y2 := by
    unfold y2
    refine Keeps.set_dev _ ?_ (by decide)
    assumption
  clear_value y2
  extract_lets +onlyGivenNames y3
  have h3 : Keeps [.dev, .bus, .sess, .cfg, .cad, .gop, .chk, .basin, .integ, .slots, .boot, .upd, .ctr, .out] s y3 := by
    unfold y3
    refine Keeps.step ?_ (State.startCadence_keeps ..) (by decide)
    refine Keeps.step ?_ (State.takeLater_keeps ..) (by decide)
    assumption
  clear_value y3
  extract_lets +onlyGivenNames y4
  have h4 : Keeps [.dev, .bus, .sess, .cfg, .cad, .gop, .chk, .basin, .integ, .slots, .boot, .upd, .ctr, .out] s y4 := by
    unfold y4
    refine Keeps.foldl _ _ ?_ (fun _ _ _ => ?_)
    · assumption
    · refine Keeps.step ?_ (State.nbClear_keeps ..) (by decide)
      assumption
  clear_value y4
  extract_lets +onlyGivenNames z5
  extract_lets +onlyGivenNames z6
  extract_lets +onlyGivenNames y7
  have h7 : Keeps [.dev, .bus, .sess, .cfg, .cad, .gop, .chk, .basin, .integ, .slots, .boot, .upd, .ctr, .out] s y7 := by
    unfold y7
    refine Keeps.set_chk_basin _ _ ?_ (by decide) (fun i => i) (fun i => i)
    assumption
  clear_value y7
  extract_lets +onlyGivenNames y8
  have h8 : Keeps [.dev, .bus, .sess, .cfg, .cad, .gop, .chk, .basin, .integ, .slots, .boot, .upd, .ctr, .out] s y8 := by
    unfold y8
    refine Keeps.step ?_ (State.mapChanged_keeps ..) (by decide)
    refine Keeps.step ?_ (State.ledgerLoad_keeps ..) (by decide)
    assumption
  clear_value y8
  refine Keeps.step ?_ (State.integRefresh_keeps ..) (by decide)
  refine Keeps.step ?_ (State.judgeDormancy_keeps ..) (by decide)
  assumption

theorem State.upperLoaded_keeps (p : Port) (copyError : Bool) (stage0Lost : Bool) (s : State) : Keeps [.dev, .bus, .wins, .sess, .cfg, .cad, .gop, .chk, .basin, .integ, .slots, .boot, .upd, .ctr, .out] s (State.upperLoaded p copyError stage0Lost s) := by
  unfold State.upperLoaded
  extract_lets +onlyGivenNames z0
  extract_lets +onlyGivenNames z1
  extract_lets +onlyGivenNames z2
  split
  · extract_lets +onlyGivenNames z3
    extract_lets +onlyGivenNames y4
    have h4 : Keeps [.dev, .bus, .wins, .sess, .cfg, .cad, .gop, .chk, .basin, .integ, .slots, .boot, .upd, .ctr, .out] s y4 := by
      unfold y4
      exact Keeps.set_basin _ (Keeps.refl _ _) (by decide) (fun i => i)
    clear_value y4
    refine Keeps.step ?_ (State.finish_keeps ..) (by decide)
    refine Keeps.step ?_ (State.logEntry_keeps ..) (by decide)
    assumption
  · extract_lets +onlyGivenNames y3
    have h3 : Keeps [.dev, .bus, .wins, .sess, .cfg, .cad, .gop, .chk, .basin, .integ, .slots, .boot, .upd, .ctr, .out] s y3 := by
      unfold y3
      exact Keeps.step (Keeps.refl _ _) (State.enterFull_keeps ..) (by decide)
    clear_value y3
    refine Keeps.step ?_ (State.finish_keeps ..) (by decide)
    assumption

theorem State.noteWhy_keeps (w : State.Why) (s : State) : Keeps [.integ, .upd, .ctr] s (State.noteWhy w s) := by
  unfold State.noteWhy
  exact Keeps.step (Keeps.set_upd _ (Keeps.refl _ _) (by decide) (by exact fun i => i)) (State.notice_keeps ..) (by decide)

theorem State.fwBeginRun_keeps (p : Port) (ps : Bytes) (b : Nat) (s : State) :
    Keeps [.bus, .wins, .integ, .slots, .boot, .upd, .ctr, .out] s (State.fwBeginRun p ps b s) := by
  unfold State.fwBeginRun
  simp only
  refine Keeps.ite _ (Keeps.step (Keeps.step (Keeps.refl _ _) (State.removePack_keeps ..) (by decide)) (State.answer_keeps ..) (by decide)) ?_
  have h : ∀ t u (n : Nat), Keeps [.bus, .wins, .integ, .slots, .boot, .upd, .ctr, .out] s t →
      Keeps [.bus, .wins, .integ, .slots, .boot, .upd, .ctr, .out] s { t with upd := { t.upd with session := some u, nextId := n } } :=
    fun t u n ht => Keeps.set_upd _ ht (by decide) (fun i => i)
  split
  · exact Keeps.step (Keeps.step (Keeps.refl _ _) (State.noteWhy_keeps ..) (by decide)) (State.answer_keeps ..) (by decide)
  · exact Keeps.step (h _ _ _ (Keeps.ite _ (Keeps.refl _ _) (Keeps.step (Keeps.refl _ _) (State.flashErase_keeps ..) (by decide))))
      (State.answer_keeps ..) (by decide)

theorem State.eraseFor_keeps (a : Nat) (n : Nat) (s : State) : Keeps [.boot] s (State.eraseFor a n s) := by
  unfold State.eraseFor
  refine Keeps.foldl _ _ ?_ (fun _ _ _ => ?_)
  · exact Keeps.refl _ _
  · extract_lets +onlyGivenNames z0
    refine Keeps.ite _ ?_ ?_
    · refine Keeps.step ?_ (State.flashErase_keeps ..) (by decide)
      assumption
    · assumption

theorem State.endSession_keeps (w : Option State.Why) (s : State) : Keeps [.integ, .upd, .ctr] s (State.endSession w s) := by
  unfold State.endSession
  extract_lets +onlyGivenNames z0
  extract_lets +onlyGivenNames y1
  have h1 : Keeps [.integ, .upd, .ctr] s y1 := by
    unfold y1
    exact Keeps.set_upd _ (Keeps.refl _ _) (by decide) (fun i => i)
  clear_value y1
  split
  · refine Keeps.step ?_ (State.noteWhy_keeps ..) (by decide)
    assumption
  · assumption

theorem State.fwBlockRun_keeps (p : Port) (ps : Bytes) (b : Nat) (s : State) : Keeps [.bus, .wins, .integ, .boot, .upd, .ctr, .out] s (State.fwBlockRun p ps b s) := by
  unfold State.fwBlockRun
  split
  · exact Keeps.refl _ _
  · extract_lets +onlyGivenNames z0
    extract_lets +onlyGivenNames z1
    refine Keeps.ite _ ?_ ?_
    · exact Keeps.step (Keeps.refl _ _) (State.answer_keeps ..) (by decide)
    · split
      · exact Keeps.step (Keeps.step (Keeps.refl _ _) (State.endSession_keeps ..) (by decide)) (State.answer_keeps ..) (by decide)
      · extract_lets +onlyGivenNames z2
        extract_lets +onlyGivenNames y3
        have h3 : Keeps [.bus, .wins, .integ, .boot, .upd, .ctr, .out] s y3 := by
          unfold y3
          exact Keeps.step (Keeps.step (Keeps.refl _ _) (State.eraseFor_keeps ..) (by decide)) (State.flashWrite_keeps ..) (by decide)
        clear_value y3
        extract_lets +onlyGivenNames z4
        extract_lets +onlyGivenNames y5
        have h5 : Keeps [.bus, .wins, .integ, .boot, .upd, .ctr, .out] s y5 := by
          unfold y5
          refine Keeps.set_upd _ ?_ (by decide) (fun i => i)
          assumption
        clear_value y5
        refine Keeps.step ?_ (State.answer_keeps ..) (by decide)
        assumption

theorem State.stageSet_keeps (u : UpdSession) (s : State) : Keeps [.boot] s (State.stageSet u s) := by
  unfold State.stageSet
  extract_lets +onlyGivenNames z0
  extract_lets +onlyGivenNames z1
  extract_lets +onlyGivenNames y2
  have h2 : Keeps [.boot] s y2 := by
    unfold y2
    refine Keeps.foldl _ _ ?_ (fun _ _ _ => ?_)
    · exact Keeps.refl _ _
    · refine Keeps.step ?_ (State.flashWrite_keeps ..) (by decide)
      refine Keeps.step ?_ (State.eraseFor_keeps ..) (by decide)
      assumption
  clear_value y2
  extract_lets +onlyGivenNames z3
  extract_lets +onlyGivenNames y4
  have h4 : Keeps [.boot] s y4 := by
    unfold y4
    refine Keeps.step ?_ (State.flashWrite_keeps ..) (by decide)
    assumption
  clear_value y4
  refine Keeps.step ?_ (State.flashWrite_keeps ..) (by decide)
  refine Keeps.step ?_ (State.flashWrite_keeps ..) (by decide)
  assumption

theorem State.endOk_keeps (p : Port) (u : UpdSession) (s : State) : Keeps [.bus, .wins, .integ, .slots, .boot, .upd, .ctr, .out] s (State.endOk p u s) := by
  unfold State.endOk
  extract_lets +onlyGivenNames z0
  extract_lets +onlyGivenNames y1
  have h1 : Keeps [.bus, .wins, .integ, .slots, .boot, .upd, .ctr, .out] s y1 := by
    unfold y1
    refine Keeps.ite _ ?_ ?_
    · exact Keeps.step (Keeps.refl _ _) (State.listPack_keeps ..) (by decide)
    · exact Keeps.step (Keeps.refl _ _) (State.stageSet_keeps ..) (by decide)
  clear_value y1
  extract_lets +onlyGivenNames y2
  have h2 : Keeps [.bus, .wins, .integ, .slots, .boot, .upd, .ctr, .out] s y2 := by
    unfold y2
    refine Keeps.step ?_ (State.finish_keeps ..) (by decide)
    refine Keeps.step ?_ (State.endSession_keeps ..) (by decide)
    assumption
  clear_value y2
  refine Keeps.ite _ ?_ ?_
  · refine Keeps.step ?_ (State.installRx_keeps ..) (by decide)
    assumption
  · assumption

theorem State.endFail_keeps (p : Port) (u : UpdSession) (w : State.Why) (s : State) : Keeps [.bus, .wins, .integ, .upd, .ctr, .out] s (State.endFail p u w s) := by
  unfold State.endFail
  extract_lets +onlyGivenNames z0
  exact Keeps.step (Keeps.step (Keeps.refl _ _) (State.endSession_keeps ..) (by decide)) (State.finish_keeps ..) (by decide)

theorem State.handoverRefused_keeps (ps : Bytes) (s : State) : Keeps [.integ, .upd, .ctr] s (State.handoverRefused ps s) := by
  unfold State.handoverRefused
  refine Keeps.ite _ ?_ ?_
  · exact Keeps.refl _ _
  · split
    · exact Keeps.step (Keeps.refl _ _) (State.noteWhy_keeps ..) (by decide)
    · refine Keeps.ite _ ?_ ?_
      · exact Keeps.step (Keeps.refl _ _) (State.noteWhy_keeps ..) (by decide)
      · exact Keeps.refl _ _

theorem State.handoverFails_keeps (h : Handover) (w : State.Why) (s : State) : Keeps [.bus, .wins, .basin, .integ, .upd, .ctr, .out] s (State.handoverFails h w s) := by
  unfold State.handoverFails
  extract_lets +onlyGivenNames z0
  extract_lets +onlyGivenNames z1
  extract_lets +onlyGivenNames z2
  extract_lets +onlyGivenNames y3
  have h3 : Keeps [.bus, .wins, .basin, .integ, .upd, .ctr, .out] s y3 := by
    unfold y3
    exact Keeps.set_basin_upd _ _ (Keeps.refl _ _) (by decide) (fun i => i) (fun i => i)
  clear_value y3
  refine Keeps.step ?_ (State.finish_keeps ..) (by decide)
  refine Keeps.step ?_ (State.noteWhy_keeps ..) (by decide)
  assumption

theorem State.rebuildCore_keeps (s : State) (k : Fin 8) : Keeps [.bus, .wins, .cfg, .gop, .basin, .integ, .slots, .upd, .ctr, .out] s (State.rebuildCore s k) := by
  unfold State.rebuildCore
  refine Keeps.step ?_ (State.notice_keeps ..) (by decide)
  refine Keeps.foldl _ _ ?_ (fun _ _ _ => ?_)
  · exact Keeps.refl _ _
  · refine Keeps.step ?_ (State.abandonWork_keeps ..) (by decide)
    assumption

theorem State.handoverRuns_keeps (h : Handover) (badCopies : Nat) (complete : BitVec 6) (s : State) : Keeps [.dev, .bus, .wins, .sess, .cfg, .cad, .gop, .chk, .basin, .integ, .slots, .boot, .upd, .ctr, .out, .free] s (State.handoverRuns h badCopies complete s) := by
  unfold State.handoverRuns
  split
  · exact Keeps.step (Keeps.refl _ _) (State.handoverFails_keeps ..) (by decide)
  · extract_lets +onlyGivenNames z0
    extract_lets +onlyGivenNames z1
    extract_lets +onlyGivenNames z2
    extract_lets +onlyGivenNames y3
    have h3 : Keeps [.dev, .bus, .wins, .sess, .cfg, .cad, .gop, .chk, .basin, .integ, .slots, .boot, .upd, .ctr, .out, .free] s y3 := by
      unfold y3
      exact Keeps.set_upd _ (Keeps.refl _ _) (by decide) (fun _ => Mem.wf_cells ..)
    clear_value y3
    refine Keeps.ite _ ?_ ?_
    · refine Keeps.step ?_ (State.leaveFull_keeps ..) (by decide)
      refine Keeps.step ?_ (State.handoverFails_keeps ..) (by decide)
      assumption
    · extract_lets +onlyGivenNames y4
      have h4 : Keeps [.dev, .bus, .wins, .sess, .cfg, .cad, .gop, .chk, .basin, .integ, .slots, .boot, .upd, .ctr, .out, .free] s y4 := by
        unfold y4
        refine Keeps.step ?_ (State.takeUpper_keeps ..) (by decide)
        assumption
      clear_value y4
      extract_lets +onlyGivenNames y5
      have h5 : Keeps [.dev, .bus, .wins, .sess, .cfg, .cad, .gop, .chk, .basin, .integ, .slots, .boot, .upd, .ctr, .out, .free] s y5 := by
        unfold y5
        refine Keeps.foldl _ _ ?_ (fun _ _ _ => ?_)
        · assumption
        · refine Keeps.step ?_ (State.rebuildCore_keeps ..) (by decide)
          assumption
      clear_value y5
      extract_lets +onlyGivenNames z6
      extract_lets +onlyGivenNames z7
      extract_lets +onlyGivenNames y8
      have h8 : Keeps [.dev, .bus, .wins, .sess, .cfg, .cad, .gop, .chk, .basin, .integ, .slots, .boot, .upd, .ctr, .out, .free] s y8 := by
        unfold y8
        refine Keeps.set_basin_upd _ _ ?_ (by decide) (fun i => i) (fun i => i)
        assumption
      clear_value y8
      extract_lets +onlyGivenNames y9
      have h9 : Keeps [.dev, .bus, .wins, .sess, .cfg, .cad, .gop, .chk, .basin, .integ, .slots, .boot, .upd, .ctr, .out, .free] s y9 := by
        unfold y9
        refine Keeps.step ?_ (State.count_keeps ..) (by decide)
        refine Keeps.step ?_ (State.judgeDormancy_keeps ..) (by decide)
        refine Keeps.step ?_ (State.mapChanged_keeps ..) (by decide)
        assumption
      clear_value y9
      refine Keeps.step ?_ (State.finish_keeps ..) (by decide)
      refine Keeps.step ?_ (State.endJobs_keeps ..) (by decide)
      assumption

theorem State.restartCore_keeps (p : Port) (k : Fin 8) (b : Nat) (s : State) : Keeps [.bus, .wins, .cfg, .cool, .gop, .chk, .basin, .integ, .slots, .boot, .upd, .rst, .ctr, .out] s (State.restartCore p k b s) := by
  unfold State.restartCore
  extract_lets +onlyGivenNames y0
  have h0 : Keeps [.bus, .wins, .cfg, .cool, .gop, .chk, .basin, .integ, .slots, .boot, .upd, .rst, .ctr, .out] s y0 := by
    unfold y0
    exact Keeps.step (Keeps.refl _ _) (State.accept_keeps ..) (by decide)
  clear_value y0
  extract_lets +onlyGivenNames y1
  have h1 : Keeps [.bus, .wins, .cfg, .cool, .gop, .chk, .basin, .integ, .slots, .boot, .upd, .rst, .ctr, .out] s y1 := by
    unfold y1
    refine Keeps.step ?_ (State.coreRecord_keeps ..) (by decide)
    refine Keeps.step ?_ (State.logEntry_keeps ..) (by decide)
    refine Keeps.step ?_ (State.addCause_keeps ..) (by decide)
    assumption
  clear_value y1
  extract_lets +onlyGivenNames z2
  extract_lets +onlyGivenNames z3
  extract_lets +onlyGivenNames y4
  have h4 : Keeps [.bus, .wins, .cfg, .cool, .gop, .chk, .basin, .integ, .slots, .boot, .upd, .rst, .ctr, .out] s y4 := by
    unfold y4
    refine Keeps.ite _ ?_ ?_
    · refine Keeps.step ?_ (State.releaseCore_keeps ..) (by decide)
      refine Keeps.step ?_ (State.updCore_keeps ..) (by decide)
      assumption
    · refine Keeps.step ?_ (State.notice_keeps ..) (by decide)
      refine Keeps.step ?_ (State.updCore_keeps ..) (by decide)
      refine Keeps.step ?_ (State.coreRestart_keeps ..) (by decide)
      assumption
  clear_value y4
  extract_lets +onlyGivenNames y5
  have h5 : Keeps [.bus, .wins, .cfg, .cool, .gop, .chk, .basin, .integ, .slots, .boot, .upd, .rst, .ctr, .out] s y5 := by
    unfold y5
    refine Keeps.foldl _ _ ?_ (fun _ _ _ => ?_)
    · assumption
    · refine Keeps.step ?_ (State.abandonWork_keeps ..) (by decide)
      assumption
  clear_value y5
  extract_lets +onlyGivenNames z6
  extract_lets +onlyGivenNames y7
  have h7 : Keeps [.bus, .wins, .cfg, .cool, .gop, .chk, .basin, .integ, .slots, .boot, .upd, .rst, .ctr, .out] s y7 := by
    unfold y7
    refine Keeps.ite _ ?_ ?_
    · refine Keeps.set_upd _ ?_ (by decide) (fun i => i)
      assumption
    · assumption
  clear_value y7
  refine Keeps.step ?_ (State.finish_keeps ..) (by decide)
  assumption

theorem State.boundReached_keeps (p : Port) (s : State) : Keeps [.bus, .wins, .cfg, .gop, .basin, .slots, .upd, .ctr, .out] s (State.boundReached p s) := by
  unfold State.boundReached
  extract_lets +onlyGivenNames z0
  refine Keeps.ite _ ?_ ?_
  · exact Keeps.step (Keeps.refl _ _) (State.abandonWork_keeps ..) (by decide)
  · refine Keeps.ite _ ?_ ?_
    · exact Keeps.step (Keeps.refl _ _) (State.finish_keeps ..) (by decide)
    · refine Keeps.ite _ ?_ ?_
      · exact Keeps.step (Keeps.refl _ _) (State.finish_keeps ..) (by decide)
      · exact Keeps.refl _ _

theorem State.pllFails_keeps (pll : Pll) (s : State) : Keeps Part.all s (State.pllFails pll s) := by
  unfold State.pllFails
  extract_lets +onlyGivenNames y0
  have h0 : Keeps Part.all s y0 := by
    unfold y0
    exact Keeps.step (Keeps.refl _ _) (State.setPll_keeps ..) (by decide)
  clear_value y0
  split
  · refine Keeps.step ?_ (State.clockFailure_keeps ..) (by decide)
    assumption
  · refine Keeps.step ?_ (State.clockFailure_keeps ..) (by decide)
    assumption
  · assumption
  · extract_lets +onlyGivenNames z1
    extract_lets +onlyGivenNames y2
    have h2 : Keeps Part.all s y2 := by
      unfold y2
      refine Keeps.set_chk _ ?_ (by decide) (fun i => i)
      assumption
    clear_value y2
    refine Keeps.step ?_ (State.engineFails_keeps ..) (by decide)
    assumption
  · extract_lets +onlyGivenNames z1
    extract_lets +onlyGivenNames y2
    have h2 : Keeps Part.all s y2 := by
      unfold y2
      refine Keeps.step ?_ (State.engineFails_keeps ..) (by decide)
      refine Keeps.set_basin _ ?_ (by decide) (fun i => i)
      assumption
    clear_value y2
    extract_lets +onlyGivenNames z3
    extract_lets +onlyGivenNames y4
    have h4 : Keeps Part.all s y4 := by
      unfold y4
      refine Keeps.foldl _ _ ?_ (fun _ _ _ => ?_)
      · assumption
      · refine Keeps.step ?_ (State.sealFails_keeps ..) (by decide)
        assumption
    clear_value y4
    refine Keeps.foldl _ _ ?_ (fun _ _ _ => ?_)
    · assumption
    · refine Keeps.step ?_ (State.finish_keeps ..) (by decide)
      assumption

theorem upperLoadOp_within : upperLoadOp.Within [.bus, .wins, .basin, .out] := by
  refine ⟨fun p ps b s => ?_, fun p ps s => ?_⟩
  · dsimp only [upperLoadOp, OpSpec.query]
    exact Keeps.step (Keeps.set_basin _ (Keeps.refl _ _) (by decide) (by exact fun i => i)) (State.accept_keeps ..) (by decide)
  · dsimp only [upperLoadOp, OpSpec.query]
    exact Keeps.refl _ _

theorem upperHaltOp_within : upperHaltOp.Within [.dev, .bus, .wins, .sess, .cfg, .cad, .gop, .chk, .basin, .integ, .slots, .boot, .upd, .ctr, .out, .free] := by
  refine ⟨fun p ps b s => ?_, fun p ps s => ?_⟩
  · dsimp only [upperHaltOp, OpSpec.query]
    exact Keeps.step (Keeps.step (Keeps.refl _ _) (State.answer_keeps ..) (by decide)) (State.leaveFull_keeps ..) (by decide)
  · dsimp only [upperHaltOp, OpSpec.query]
    exact Keeps.refl _ _

theorem fwBeginOp_within : fwBeginOp.Within [.bus, .wins, .integ, .slots, .boot, .upd, .ctr, .out] := by
  refine ⟨fun p ps b s => ?_, fun p ps s => ?_⟩
  · dsimp only [fwBeginOp, OpSpec.query]
    exact Keeps.step (Keeps.refl _ _) (State.fwBeginRun_keeps ..) (by decide)
  · dsimp only [fwBeginOp, OpSpec.query]
    exact Keeps.refl _ _

theorem fwBlockOp_within : fwBlockOp.Within [.bus, .wins, .integ, .boot, .upd, .ctr, .out] := by
  refine ⟨fun p ps b s => ?_, fun p ps s => ?_⟩
  · dsimp only [fwBlockOp, OpSpec.query]
    exact Keeps.step (Keeps.refl _ _) (State.fwBlockRun_keeps ..) (by decide)
  · dsimp only [fwBlockOp, OpSpec.query]
    exact Keeps.refl _ _

theorem fwEndOp_within : fwEndOp.Within [.bus, .wins, .upd, .out] := by
  refine ⟨fun p ps b s => ?_, fun p ps s => ?_⟩
  · dsimp only [fwEndOp, OpSpec.query]
    exact Keeps.step (Keeps.set_upd _ (Keeps.refl _ _) (by decide) (by exact fun i => i)) (State.accept_keeps ..) (by decide)
  · dsimp only [fwEndOp, OpSpec.query]
    exact Keeps.refl _ _

theorem fwHandoverOp_within : fwHandoverOp.Within [.bus, .wins, .basin, .integ, .upd, .ctr, .out] := by
  refine ⟨fun p ps b s => ?_, fun p ps s => ?_⟩
  · dsimp only [fwHandoverOp, OpSpec.query]
    exact Keeps.step (Keeps.set_basin_upd _ _ (Keeps.refl _ _) (by decide) (by exact fun i => i) (by exact fun i => i)) (State.accept_keeps ..) (by decide)
  · dsimp only [fwHandoverOp, OpSpec.query]
    exact Keeps.step (Keeps.refl _ _) (State.handoverRefused_keeps ..) (by decide)

theorem fwRestartCoreOp_within : fwRestartCoreOp.Within [.bus, .wins, .cfg, .cool, .gop, .chk, .basin, .integ, .slots, .boot, .upd, .rst, .ctr, .out] := by
  refine ⟨fun p ps b s => ?_, fun p ps s => ?_⟩
  · dsimp only [fwRestartCoreOp, OpSpec.query]
    exact Keeps.step (Keeps.refl _ _) (State.restartCore_keeps ..) (by decide)
  · dsimp only [fwRestartCoreOp, OpSpec.query]
    exact Keeps.refl _ _

theorem fwStatusOp_within : fwStatusOp.Within [.bus, .wins, .out] := by
  refine ⟨fun p ps b s => ?_, fun p ps s => ?_⟩
  · dsimp only [fwStatusOp, OpSpec.query]
    exact Keeps.step (Keeps.refl _ _) (State.answer_keeps ..) (by decide)
  · dsimp only [fwStatusOp, OpSpec.query]
    exact Keeps.refl _ _

theorem execUpperLoad_keeps (p : Port) (tag : BitVec 32) (params : Bytes) (s : State) : ∃ t, execUpperLoad p tag params s = .next t ∧ Keeps [.bus, .wins, .cfg, .basin, .ctr, .out] s t :=
  ⟨_, rfl, State.submit_keeps (OpSpec.Within.mono upperLoadOp_within (by decide)) (by decide) ..⟩

theorem execUpperHalt_keeps (p : Port) (tag : BitVec 32) (params : Bytes) (s : State) : ∃ t, execUpperHalt p tag params s = .next t ∧ Keeps [.dev, .bus, .wins, .sess, .cfg, .cad, .gop, .chk, .basin, .integ, .slots, .boot, .upd, .ctr, .out, .free] s t :=
  ⟨_, rfl, State.submit_keeps (OpSpec.Within.mono upperHaltOp_within (by decide)) (by decide) ..⟩

theorem execFwBegin_keeps (p : Port) (tag : BitVec 32) (params : Bytes) (s : State) : ∃ t, execFwBegin p tag params s = .next t ∧ Keeps [.bus, .wins, .cfg, .integ, .slots, .boot, .upd, .ctr, .out] s t :=
  ⟨_, rfl, State.submit_keeps (OpSpec.Within.mono fwBeginOp_within (by decide)) (by decide) ..⟩

theorem execFwBlock_keeps (p : Port) (tag : BitVec 32) (params : Bytes) (s : State) : ∃ t, execFwBlock p tag params s = .next t ∧ Keeps [.bus, .wins, .cfg, .integ, .boot, .upd, .ctr, .out] s t :=
  ⟨_, rfl, State.submit_keeps (OpSpec.Within.mono fwBlockOp_within (by decide)) (by decide) ..⟩

theorem execFwEnd_keeps (p : Port) (tag : BitVec 32) (params : Bytes) (s : State) : ∃ t, execFwEnd p tag params s = .next t ∧ Keeps [.bus, .wins, .cfg, .upd, .ctr, .out] s t :=
  ⟨_, rfl, State.submit_keeps (OpSpec.Within.mono fwEndOp_within (by decide)) (by decide) ..⟩

theorem execFwHandover_keeps (p : Port) (tag : BitVec 32) (params : Bytes) (s : State) : ∃ t, execFwHandover p tag params s = .next t ∧ Keeps [.bus, .wins, .cfg, .basin, .integ, .upd, .ctr, .out] s t :=
  ⟨_, rfl, State.submit_keeps (OpSpec.Within.mono fwHandoverOp_within (by decide)) (by decide) ..⟩

theorem execFwRestartCore_keeps (p : Port) (tag : BitVec 32) (params : Bytes) (s : State) : ∃ t, execFwRestartCore p tag params s = .next t ∧ Keeps [.bus, .wins, .cfg, .cool, .gop, .chk, .basin, .integ, .slots, .boot, .upd, .rst, .ctr, .out] s t :=
  ⟨_, rfl, State.submit_keeps (OpSpec.Within.mono fwRestartCoreOp_within (by decide)) (by decide) ..⟩

theorem execFwStatus_keeps (p : Port) (tag : BitVec 32) (params : Bytes) (s : State) : ∃ t, execFwStatus p tag params s = .next t ∧ Keeps [.bus, .wins, .cfg, .ctr, .out] s t :=
  ⟨_, rfl, State.submit_keeps (OpSpec.Within.mono fwStatusOp_within (by decide)) (by decide) ..⟩

theorem execUpperLoadComplete_keeps (copyError : Bool) (stage0Lost : Bool) (s : State) : ∃ t, execUpperLoadComplete copyError stage0Lost s = .next t ∧ Keeps [.dev, .bus, .wins, .sess, .cfg, .cad, .gop, .chk, .basin, .integ, .slots, .boot, .upd, .ctr, .out] s t := by
  unfold execUpperLoadComplete
  refine ⟨_, rfl, ?_⟩
  split
  · exact Keeps.step (Keeps.refl _ _) (State.upperLoaded_keeps ..) (by decide)
  · exact Keeps.refl _ _

theorem execFwEndComplete_keeps (flashOk : Bool) (s : State) : ∃ t, execFwEndComplete flashOk s = .next t ∧ Keeps [.bus, .wins, .integ, .slots, .boot, .upd, .ctr, .out] s t := by
  unfold execFwEndComplete
  refine ⟨_, rfl, ?_⟩
  split
  · refine Keeps.ite _ ?_ ?_
    · exact Keeps.refl _ _
    · split
      · exact Keeps.step (Keeps.refl _ _) (State.endFail_keeps ..) (by decide)
      · refine Keeps.ite _ ?_ ?_
        · exact Keeps.set_upd _ (Keeps.refl _ _) (by decide) (fun i => i)
        · exact Keeps.step (Keeps.refl _ _) (State.endOk_keeps ..) (by decide)
  · exact Keeps.refl _ _

theorem execLiveUcodeLoad_keeps (s : State) : ∃ t, execLiveUcodeLoad s = .next t ∧ Keeps [.bus, .wins, .chk, .integ, .slots, .boot, .upd, .ctr, .out] s t := by
  unfold execLiveUcodeLoad
  refine ⟨_, rfl, ?_⟩
  split
  · refine Keeps.ite _ ?_ ?_
    · exact Keeps.refl _ _
    · extract_lets +onlyGivenNames z0
      extract_lets +onlyGivenNames z1
      extract_lets +onlyGivenNames z2
      extract_lets +onlyGivenNames y3
      have h3 : Keeps [.bus, .wins, .chk, .integ, .slots, .boot, .upd, .ctr, .out] s y3 := by
        unfold y3
        exact Keeps.set_upd _ (Keeps.refl _ _) (by decide) (fun i => i)
      clear_value y3
      refine Keeps.ite _ ?_ ?_
      · extract_lets +onlyGivenNames y4
        have h4 : Keeps [.bus, .wins, .chk, .integ, .slots, .boot, .upd, .ctr, .out] s y4 := by
          unfold y4
          refine Keeps.step ?_ (State.takeUcode_keeps ..) (by decide)
          assumption
        clear_value y4
        refine Keeps.step ?_ (State.endOk_keeps ..) (by decide)
        refine Keeps.set_upd _ ?_ (by decide) (fun i => i)
        assumption
      · refine Keeps.step ?_ (State.endFail_keeps ..) (by decide)
        assumption
  · exact Keeps.refl _ _

theorem execHandoverVerifyDone_keeps (s : State) : ∃ t, execHandoverVerifyDone s = .next t ∧ Keeps [.bus, .wins, .basin, .integ, .upd, .ctr, .out] s t := by
  unfold execHandoverVerifyDone
  refine ⟨_, rfl, ?_⟩
  split
  · refine Keeps.ite _ ?_ ?_
    · exact Keeps.refl _ _
    · split
      · exact Keeps.step (Keeps.refl _ _) (State.handoverFails_keeps ..) (by decide)
      · exact Keeps.refl _ _
  · exact Keeps.refl _ _

theorem execHandoverPause_keeps (badCopies : Nat) (sections : BitVec 6) (s : State) : ∃ t, execHandoverPause badCopies sections s = .next t ∧ Keeps [.dev, .bus, .wins, .sess, .cfg, .cad, .gop, .chk, .basin, .integ, .slots, .boot, .upd, .ctr, .out, .free] s t := by
  unfold execHandoverPause
  refine ⟨_, rfl, ?_⟩
  split
  · refine Keeps.ite _ ?_ ?_
    · exact Keeps.step (Keeps.refl _ _) (State.handoverRuns_keeps ..) (by decide)
    · exact Keeps.refl _ _
  · exact Keeps.refl _ _

theorem execBoundExpiry_keeps (p : Port) (s : State) : ∃ t, execBoundExpiry p s = .next t ∧ Keeps [.bus, .wins, .cfg, .gop, .basin, .slots, .upd, .ctr, .out] s t := by
  unfold execBoundExpiry
  refine ⟨_, rfl, ?_⟩
  refine Keeps.ite _ ?_ ?_
  · exact Keeps.step (Keeps.refl _ _) (State.boundReached_keeps ..) (by decide)
  · exact Keeps.refl _ _

theorem execPllLocked_keeps (pll : Pll) (s : State) : ∃ t, execPllLocked pll s = .next t ∧ Keeps [.dev, .chk] s t := by
  unfold execPllLocked
  refine ⟨_, rfl, ?_⟩
  split
  · extract_lets +onlyGivenNames y0
    have h0 : Keeps [.dev, .chk] s y0 := by
      unfold y0
      exact Keeps.step (Keeps.refl _ _) (State.setPll_keeps ..) (by decide)
    clear_value y0
    split
    · refine Keeps.ite _ ?_ ?_
      · refine Keeps.set_chk _ ?_ (by decide) (fun i => i)
        assumption
      · assumption
    · assumption
  · extract_lets +onlyGivenNames y0
    have h0 : Keeps [.dev, .chk] s y0 := by
      unfold y0
      exact Keeps.step (Keeps.refl _ _) (State.setPll_keeps ..) (by decide)
    clear_value y0
    split
    · refine Keeps.ite _ ?_ ?_
      · refine Keeps.set_chk _ ?_ (by decide) (fun i => i)
        assumption
      · assumption
    · assumption
  · exact Keeps.refl _ _

theorem execPllLockTimeout_keeps (pll : Pll) (s : State) : ∃ t, execPllLockTimeout pll s = .next t ∧ Keeps Part.all s t := by
  unfold execPllLockTimeout
  refine ⟨_, rfl, ?_⟩
  split
  · exact Keeps.step (Keeps.step (Keeps.refl _ _) (State.setPll_keeps ..) (by decide)) (State.count_keeps ..) (by decide)
  · exact Keeps.step (Keeps.step (Keeps.refl _ _) (State.count_keeps ..) (by decide)) (State.pllFails_keeps ..) (by decide)
  · exact Keeps.refl _ _
end Sys2Proof.Machine
end

