-- ==== Sys2Proof/Laws/KeepsWindow.lean ====
section
/-!
SUPPORT. What the operations of Machine/Window.lean touch, and that they keep the invariant.
-/

namespace Sys2Proof.Machine
theorem opTable_within : ∀ o ∈ opTable, o.Within Part.all := by
  unfold opTable
  repeat' (first | refine List.forall_mem_append.2 ⟨?_, ?_⟩ | refine List.forall_mem_cons.2 ⟨?_, ?_⟩ | exact List.forall_mem_nil _)
  · exact helloOp_within.mono (fun x _ => Part.mem_all x)
  · exact leaseRenewOp_within.mono (fun x _ => Part.mem_all x)
  · exact identifyOp_within.mono (fun x _ => Part.mem_all x)
  · exact leaseReleaseOp_within.mono (fun x _ => Part.mem_all x)
  · exact counterReadOp_within.mono (fun x _ => Part.mem_all x)
  · exact logReadOp_within.mono (fun x _ => Part.mem_all x)
  · exact sensorReadOp_within.mono (fun x _ => Part.mem_all x)
  · exact draftOpenOp_within.mono (fun x _ => Part.mem_all x)
  · exact draftSetOp_within.mono (fun x _ => Part.mem_all x)
  · exact draftGetOp_within.mono (fun x _ => Part.mem_all x)
  · exact draftCheckOp_within.mono (fun x _ => Part.mem_all x)
  · exact draftCommitOp_within.mono (fun x _ => Part.mem_all x)
  · exact draftAbortOp_within.mono (fun x _ => Part.mem_all x)
  · exact settingsSaveOp_within.mono (fun x _ => Part.mem_all x)
  · exact liveSetOp_within.mono (fun x _ => Part.mem_all x)
  · exact liveGetOp_within.mono (fun x _ => Part.mem_all x)
  · exact weirOnOp_within.mono (fun x _ => Part.mem_all x)
  · exact weirOffOp_within.mono (fun x _ => Part.mem_all x)
  · exact weirClearOp_within.mono (fun x _ => Part.mem_all x)
  · exact weirStatusOp_within.mono (fun x _ => Part.mem_all x)
  · exact cascadeStatusOp_within.mono (fun x _ => Part.mem_all x)
  · exact railFlagClearOp_within.mono (fun x _ => Part.mem_all x)
  · exact coolStatusOp_within.mono (fun x _ => Part.mem_all x)
  · exact fanSetOp_within.mono (fun x _ => Part.mem_all x)
  · exact thermStatusOp_within.mono (fun x _ => Part.mem_all x)
  · exact tripClearOp_within.mono (fun x _ => Part.mem_all x)
  · exact leakClearOp_within.mono (fun x _ => Part.mem_all x)
  · exact cadStatusOp_within.mono (fun x _ => Part.mem_all x)
  · exact linkStatusOp_within.mono (fun x _ => Part.mem_all x)
  · exact cadRejoinOp_within.mono (fun x _ => Part.mem_all x)
  · exact cadSwitchOp_within.mono (fun x _ => Part.mem_all x)
  · exact groupStatusOp_within.mono (fun x _ => Part.mem_all x)
  · exact cadRequestOp_within.mono (fun x _ => Part.mem_all x)
  · exact resetAtOp_within.mono (fun x _ => Part.mem_all x)
  · exact snapshotAtOp_within.mono (fun x _ => Part.mem_all x)
  · exact snapshotReadOp_within.mono (fun x _ => Part.mem_all x)
  · exact expelOp_within.mono (fun x _ => Part.mem_all x)
  · exact checkStatusOp_within.mono (fun x _ => Part.mem_all x)
  · exact checkResultsOp_within.mono (fun x _ => Part.mem_all x)
  · exact checkControlOp_within.mono (fun x _ => Part.mem_all x)
  · exact integStatusOp_within.mono (fun x _ => Part.mem_all x)
  · exact unitReadOp_within.mono (fun x _ => Part.mem_all x)
  · exact unitReleaseOp_within.mono (fun x _ => Part.mem_all x)
  · exact lullStatusOp_within.mono (fun x _ => Part.mem_all x)
  · exact voteLogOp_within.mono (fun x _ => Part.mem_all x)
  · exact packSendOp_within.mono (fun x _ => Part.mem_all x)
  · exact packStatusOp_within.mono (fun x _ => Part.mem_all x)
  · exact basinStatusOp_within.mono (fun x _ => Part.mem_all x)
  · exact basinHoldOp_within.mono (fun x _ => Part.mem_all x)
  · exact basinSealOp_within.mono (fun x _ => Part.mem_all x)
  · exact basinUnsealOp_within.mono (fun x _ => Part.mem_all x)
  · exact basinVerifyOp_within.mono (fun x _ => Part.mem_all x)
  · exact modelDigestOp_within.mono (fun x _ => Part.mem_all x)
  · exact basinPushOp_within.mono (fun x _ => Part.mem_all x)
  · exact poisonListOp_within.mono (fun x _ => Part.mem_all x)
  · exact slotStatusOp_within.mono (fun x _ => Part.mem_all x)
  · exact slotPowerOp_within.mono (fun x _ => Part.mem_all x)
  · exact slotResetOp_within.mono (fun x _ => Part.mem_all x)
  · exact slotRunOp_within.mono (fun x _ => Part.mem_all x)
  · exact slotHoldOp_within.mono (fun x _ => Part.mem_all x)
  · exact slotQuarantineOp_within.mono (fun x _ => Part.mem_all x)
  · exact slotReleaseOp_within.mono (fun x _ => Part.mem_all x)
  · exact fwBeginOp_within.mono (fun x _ => Part.mem_all x)
  · exact fwBlockOp_within.mono (fun x _ => Part.mem_all x)
  · exact fwEndOp_within.mono (fun x _ => Part.mem_all x)
  · exact fwHandoverOp_within.mono (fun x _ => Part.mem_all x)
  · exact fwRestartCoreOp_within.mono (fun x _ => Part.mem_all x)
  · exact fwStatusOp_within.mono (fun x _ => Part.mem_all x)
  · exact resetStatusOp_within.mono (fun x _ => Part.mem_all x)
  · exact resetRequestOp_within.mono (fun x _ => Part.mem_all x)
  · exact calmEnterOp_within.mono (fun x _ => Part.mem_all x)
  · exact rtcReadOp_within.mono (fun x _ => Part.mem_all x)
  · exact rtcWriteOp_within.mono (fun x _ => Part.mem_all x)
  · exact bkpReadOp_within.mono (fun x _ => Part.mem_all x)
  · exact bkpWriteOp_within.mono (fun x _ => Part.mem_all x)
  · exact bootStatusOp_within.mono (fun x _ => Part.mem_all x)
  · exact upperLoadOp_within.mono (fun x _ => Part.mem_all x)
  · exact upperHaltOp_within.mono (fun x _ => Part.mem_all x)
  · exact keyStatusOp_within.mono (fun x _ => Part.mem_all x)
  · exact keyProgramOp_within.mono (fun x _ => Part.mem_all x)
  · exact keyRevokeOp_within.mono (fun x _ => Part.mem_all x)

theorem opOf_within (n : Nat) (o : OpSpec) (h : o ∈ opOf n) : o.Within Part.all := opTable_within o (List.mem_of_find?_eq_some h)

theorem State.writeOpcode_keeps (w : Fin 8) (v : BitVec 32) (s : State) : Keeps Part.all s (State.writeOpcode w v s) := by
  unfold State.writeOpcode
  refine Keeps.ite _ (Keeps.refl _ _) (Keeps.ite _ (Keeps.step (Keeps.refl _ _) (State.count_keeps ..) (by decide)) ?_)
  have h : Keeps Part.all s (s.updWin w (fun x => { x with opcode := v.setWidth 16, orphan := false })) :=
    Keeps.step (Keeps.refl _ _) (State.updWin_keeps _ _ _ (fun i => i)) (by decide)
  refine Keeps.ite _ (Keeps.step h (State.goWith_keeps (l := Part.all) (fun o ho => opOf_within _ o ho) (by decide) ..) (fun _ hx => hx)) h

theorem execGo_keeps (w : Fin 8) (opcode : BitVec 16) (s : State) : ∃ t, execGo w opcode s = .next t ∧ Keeps Part.all s t :=
  ⟨_, rfl, Keeps.ite _ (State.writeOpcode_keeps ..) (Keeps.refl _ _)⟩

theorem execSidebandCommand_keeps (opcode : BitVec 16) (tag : BitVec 32) (plen : Nat) (params : Bytes) (s : State) :
    ∃ t, execSidebandCommand opcode tag plen params s = .next t ∧ Keeps Part.all s t := by
  refine ⟨_, rfl, State.submitSideband_keeps _ (fun o ho => ?_) (by decide) ..⟩
  simp only [Option.mem_def, Option.map_eq_some_iff] at ho
  obtain ⟨o', h, rfl⟩ := ho
  have hw := opOf_within _ o' h
  split
  · exact hw
  · exact ⟨hw.1, fun _ _ _ => Keeps.refl _ _⟩
end Sys2Proof.Machine
end

