-- ==== Sys2Proof/Laws/KeepsRegisters.lean ====
section
/-!
SUPPORT. What the operations of Machine/Registers.lean touch, and that they keep the invariant.
-/

namespace Sys2Proof.Machine
theorem State.msixFlush_keeps (s : State) : Keeps [.bus, .out] s (State.msixFlush s) := by
  unfold State.msixFlush
  refine Keeps.foldl _ _ ?_ (fun _ _ _ => ?_)
  · exact Keeps.refl _ _
  · refine Keeps.ite _ ?_ ?_
    · refine Keeps.step ?_ (State.msix_keeps ..) (by decide)
      refine Keeps.set_bus _ ?_ (by decide) (fun i => i)
      assumption
    · assumption

theorem State.clearSummary_keeps (k : Fin 8) (v : BitVec 32) (same : BitVec 32) (s : State) : Keeps [.ctr] s (State.clearSummary k v same s) := by
  unfold State.clearSummary
  exact Keeps.set_ctr _ (Keeps.refl _ _) (by decide) (fun i => i) (fun i => i)

theorem State.writeDev_keeps (off : Nat) (v : BitVec 32) (s : State) : Keeps [.bus, .boot, .rst, .ctr] s (State.writeDev off v s) := by
  unfold State.writeDev
  split
  · refine Keeps.ite _ ?_ ?_
    · exact Keeps.set_bus _ (Keeps.refl _ _) (by decide) (fun i => i)
    · exact Keeps.refl _ _
  · exact Keeps.set_rst _ (Keeps.refl _ _) (by decide)
  · exact Keeps.refl _ _
  · refine Keeps.ite _ ?_ ?_
    · exact Keeps.set_boot _ (Keeps.refl _ _) (by decide) (fun i => i) (fun i => i) (fun i => i)
    · exact Keeps.refl _ _
  · refine Keeps.ite _ ?_ ?_
    · exact Keeps.set_boot _ (Keeps.refl _ _) (by decide) (fun i => i) (fun i => i) (fun i => i)
    · exact Keeps.refl _ _
  · refine Keeps.ite _ ?_ ?_
    · exact Keeps.step (Keeps.refl _ _) (State.clearSummary_keeps ..) (by decide)
    · refine Keeps.ite _ ?_ ?_
      · exact Keeps.refl _ _
      · exact Keeps.step (Keeps.refl _ _) (State.count_keeps ..) (by decide)

theorem State.writeWin_keeps (w : Fin 8) (off : Nat) (v : BitVec 32) (s : State) : Keeps Part.all s (State.writeWin w off v s) := by
  unfold State.writeWin
  refine Keeps.ite _ ?_ ?_
  · exact Keeps.step (Keeps.refl _ _) (State.count_keeps ..) (by decide)
  · refine Keeps.ite _ ?_ ?_
    · exact Keeps.refl _ _
    · refine Keeps.ite _ ?_ ?_
      · exact Keeps.step (Keeps.refl _ _) (State.count_keeps ..) (by decide)
      · split
        · exact Keeps.step (Keeps.refl _ _) (State.writeOpcode_keeps ..) (by decide)
        · exact Keeps.step (Keeps.refl _ _) (State.updWin_keeps _ _ _ (fun i => i)) (by decide)
        · exact Keeps.step (Keeps.refl _ _) (State.updWin_keeps _ _ _ (fun i => i)) (by decide)
        · extract_lets +onlyGivenNames z0
          exact Keeps.step (Keeps.refl _ _) (State.updWin_keeps _ _ _ (fun i => i)) (by decide)
        · exact Keeps.step (Keeps.refl _ _) (State.updWin_keeps _ _ _ (Mem.wf_write _ _)) (by decide)

theorem State.writeMsix_keeps (off : Nat) (v : BitVec 32) (s : State) : Keeps [.bus, .out] s (State.writeMsix off v s) := by
  unfold State.writeMsix
  extract_lets +onlyGivenNames z0
  exact Keeps.step (Keeps.set_bus _ (Keeps.refl _ _) (by decide) (Mem.wf_write _ _)) (State.msixFlush_keeps ..) (by decide)

theorem State.writeConfig_keeps (off : Nat) (v : BitVec 32) (s : State) : Keeps [.bus, .out] s (State.writeConfig off v s) := by
  unfold State.writeConfig
  extract_lets +onlyGivenNames z0
  extract_lets +onlyGivenNames y1
  have h1 : Keeps [.bus, .out] s y1 := by
    unfold y1
    exact Keeps.set_bus _ (Keeps.refl _ _) (by decide) (fun i => i)
  clear_value y1
  refine Keeps.ite _ ?_ ?_
  · refine Keeps.set_bus _ ?_ (by decide) (fun i => i)
    assumption
  · refine Keeps.ite _ ?_ ?_
    · refine Keeps.step ?_ (State.msixFlush_keeps ..) (by decide)
      refine Keeps.set_bus _ ?_ (by decide) (fun i => i)
      assumption
    · assumption

theorem State.writeReg_keeps (sp : Space) (off : Nat) (v : BitVec 32) (s : State) : Keeps Part.all s (State.writeReg sp off v s) := by
  unfold State.writeReg
  extract_lets +onlyGivenNames z0
  refine Keeps.ite _ ?_ ?_
  · exact Keeps.refl _ _
  · split
    · exact Keeps.step (Keeps.refl _ _) (State.writeConfig_keeps ..) (by decide)
    · refine Keeps.ite _ ?_ ?_
      · exact Keeps.refl _ _
      · refine Keeps.ite _ ?_ ?_
        · exact Keeps.step (Keeps.refl _ _) (State.writeDev_keeps ..) (by decide)
        · exact Keeps.step (Keeps.refl _ _) (State.count_keeps ..) (by decide)
    · refine Keeps.ite _ ?_ ?_
      · exact Keeps.refl _ _
      · refine Keeps.ite _ ?_ ?_
        · exact Keeps.step (Keeps.refl _ _) (State.count_keeps ..) (by decide)
        · refine Keeps.ite _ ?_ ?_
          · exact Keeps.set_boot _ (Keeps.refl _ _) (by decide) (fun i => i) (Mem.wf_write _ _) (fun i => i)
          · exact Keeps.step (Keeps.refl _ _) (State.writeWin_keeps ..) (by decide)
    · refine Keeps.ite _ ?_ ?_
      · exact Keeps.refl _ _
      · refine Keeps.ite _ ?_ ?_
        · exact Keeps.step (Keeps.refl _ _) (State.writeMsix_keeps ..) (by decide)
        · exact Keeps.step (Keeps.refl _ _) (State.count_keeps ..) (by decide)

theorem State.readData_keeps (bs : Bytes) (s : State) : Keeps [.bus] s (State.readData bs s) := by
  unfold State.readData
  exact Keeps.set_bus _ (Keeps.refl _ _) (by decide) (fun i => i)

theorem State.readCt_keeps (wide : Bool) (s : State) : Keeps [.bus] s (State.readCt wide s) := by
  unfold State.readCt
  extract_lets +onlyGivenNames z0
  extract_lets +onlyGivenNames z1
  extract_lets +onlyGivenNames y2
  have h2 : Keeps [.bus] s y2 := by
    unfold y2
    exact Keeps.set_bus _ (Keeps.refl _ _) (by decide) (fun i => i)
  clear_value y2
  refine Keeps.step ?_ (State.readData_keeps ..) (by decide)
  assumption

theorem State.readLt_keeps (wide : Bool) (s : State) : Keeps [.bus] s (State.readLt wide s) := by
  unfold State.readLt
  extract_lets +onlyGivenNames z0
  extract_lets +onlyGivenNames z1
  extract_lets +onlyGivenNames y2
  have h2 : Keeps [.bus] s y2 := by
    unfold y2
    exact Keeps.set_bus _ (Keeps.refl _ _) (by decide) (fun i => i)
  clear_value y2
  refine Keeps.step ?_ (State.readData_keeps ..) (by decide)
  assumption

theorem State.unmapped_keeps (bar : Bar) (off : Nat) (write : Bool) (s : State) : Keeps [.bus, .ctr] s (State.unmapped bar off write s) := by
  unfold State.unmapped
  split
  · refine Keeps.ite _ ?_ ?_
    · exact Keeps.refl _ _
    · refine Keeps.ite _ ?_ ?_
      · exact Keeps.step (Keeps.refl _ _) (State.count_keeps ..) (by decide)
      · exact Keeps.step (Keeps.refl _ _) (State.readData_keeps ..) (by decide)
  · refine Keeps.ite _ ?_ ?_
    · exact Keeps.refl _ _
    · refine Keeps.ite _ ?_ ?_
      · refine Keeps.ite _ ?_ ?_
        · exact Keeps.step (Keeps.refl _ _) (State.count_keeps ..) (by decide)
        · exact Keeps.step (Keeps.refl _ _) (State.readData_keeps ..) (by decide)
      · refine Keeps.ite _ ?_ ?_
        · exact Keeps.refl _ _
        · refine Keeps.ite _ ?_ ?_
          · exact Keeps.step (Keeps.refl _ _) (State.count_keeps ..) (by decide)
          · exact Keeps.step (Keeps.refl _ _) (State.readData_keeps ..) (by decide)
  · refine Keeps.ite _ ?_ ?_
    · exact Keeps.refl _ _
    · refine Keeps.ite _ ?_ ?_
      · exact Keeps.step (Keeps.refl _ _) (State.count_keeps ..) (by decide)
      · exact Keeps.step (Keeps.refl _ _) (State.readData_keeps ..) (by decide)

theorem execRegisterWrite_keeps (sp : Space) (off : Nat) (v : BitVec 32) (s : State) : ∃ t, execRegisterWrite sp off v s = .next t ∧ Keeps Part.all s t := by
  unfold execRegisterWrite
  exact ⟨_, rfl, Keeps.step (Keeps.refl _ _) (State.writeReg_keeps ..) (by decide)⟩

theorem execChgSummaryClear_keeps (k : Fin 8) (v : BitVec 32) (same : BitVec 32) (s : State) : ∃ t, execChgSummaryClear k v same s = .next t ∧ Keeps [.ctr] s t := by
  unfold execChgSummaryClear
  refine ⟨_, rfl, ?_⟩
  refine Keeps.ite _ ?_ ?_
  · exact Keeps.step (Keeps.refl _ _) (State.clearSummary_keeps ..) (by decide)
  · exact Keeps.refl _ _

theorem execCtLoRead_keeps (wide : Bool) (s : State) : ∃ t, execCtLoRead wide s = .next t ∧ Keeps [.bus] s t := by
  unfold execCtLoRead
  refine ⟨_, rfl, ?_⟩
  refine Keeps.ite _ ?_ ?_
  · exact Keeps.step (Keeps.refl _ _) (State.readCt_keeps ..) (by decide)
  · exact Keeps.refl _ _

theorem execLtLoRead_keeps (wide : Bool) (s : State) : ∃ t, execLtLoRead wide s = .next t ∧ Keeps [.bus] s t := by
  unfold execLtLoRead
  refine ⟨_, rfl, ?_⟩
  refine Keeps.ite _ ?_ ?_
  · exact Keeps.step (Keeps.refl _ _) (State.readLt_keeps ..) (by decide)
  · exact Keeps.refl _ _

theorem execBarUnmappedAccess_keeps (bar : Bar) (off : Nat) (write : Bool) (s : State) : ∃ t, execBarUnmappedAccess bar off write s = .next t ∧ Keeps [.bus, .ctr] s t := by
  unfold execBarUnmappedAccess
  exact ⟨_, rfl, Keeps.step (Keeps.refl _ _) (State.unmapped_keeps ..) (by decide)⟩
end Sys2Proof.Machine
end

