-- ==== Sys2Proof/Laws/KeepsIdle.lean ====
section
/-!
SUPPORT. What the operations of Machine/Idle.lean touch, and that they keep the invariant.
-/

namespace Sys2Proof.Machine
theorem State.rtcTick_keeps (s : State) : Keeps [.rst] s (State.rtcTick s) := by
  unfold State.rtcTick
  extract_lets +onlyGivenNames z0
  exact Keeps.set_rst _ (Keeps.refl _ _) (by decide)

theorem State.feedTick_keeps (powered : Bool) (s : State) : Keeps [.weir] s (State.feedTick powered s) := by
  unfold State.feedTick
  exact Keeps.set_weir _ (Keeps.refl _ _) (by decide)

theorem State.rateTick_keeps (s : State) : Keeps [.chk] s (State.rateTick s) := by
  unfold State.rateTick
  refine Keeps.ite _ ?_ ?_
  · exact Keeps.set_chk _ (Keeps.refl _ _) (by decide) (fun i => i)
  · exact Keeps.refl _ _

theorem State.throttleCap_keeps (s : State) : Keeps [.gop] s (State.throttleCap s) := by
  unfold State.throttleCap
  refine Keeps.ite _ ?_ ?_
  · exact Keeps.step (Keeps.refl _ _) (State.releaseThrottle_keeps ..) (by decide)
  · exact Keeps.refl _ _

theorem State.tick_keeps (s : State) : Keeps [.dev, .weir, .gop, .chk, .rst] s (State.tick s) := by
  unfold State.tick
  split
  · exact Keeps.step (Keeps.step (Keeps.refl _ _) (State.rtcTick_keeps ..) (by decide)) (State.feedTick_keeps ..) (by decide)
  · exact Keeps.step (Keeps.step (Keeps.refl _ _) (State.rtcTick_keeps ..) (by decide)) (State.feedTick_keeps ..) (by decide)
  · exact Keeps.step (Keeps.step (Keeps.refl _ _) (State.rtcTick_keeps ..) (by decide)) (State.feedTick_keeps ..) (by decide)
  · extract_lets +onlyGivenNames z0
    extract_lets +onlyGivenNames y1
    have h1 : Keeps [.dev, .weir, .gop, .chk, .rst] s y1 := by
      unfold y1
      exact Keeps.set_dev _ (Keeps.refl _ _) (by decide)
    clear_value y1
    extract_lets +onlyGivenNames y2
    have h2 : Keeps [.dev, .weir, .gop, .chk, .rst] s y2 := by
      unfold y2
      refine Keeps.step ?_ (State.throttleCap_keeps ..) (by decide)
      refine Keeps.step ?_ (State.rateTick_keeps ..) (by decide)
      refine Keeps.step ?_ (State.feedTick_keeps ..) (by decide)
      refine Keeps.step ?_ (State.rtcTick_keeps ..) (by decide)
      assumption
    clear_value y2
    refine Keeps.step ?_ (State.tryRamp_keeps ..) (by decide)
    refine Keeps.step ?_ (State.tryRamp_keeps ..) (by decide)
    assumption
end Sys2Proof.Machine
end

