-- ==== Sys2Proof/Laws/KeepsExec.lean ====
section
/-!
SUPPORT. What every command does to the queue and the invariant.
-/

namespace Sys2Proof.Machine

theorem Keeps.all {l : List Part} {s t : State} (h : Keeps l s t) : Keeps Part.all s t := (Keeps.refl _ _).step h (fun x _ => Part.mem_all x)

theorem Keeps.next_all {l : List Part} {s : State} {x : Host.Outcome State Fault Refusal} (h : ∃ t, x = .next t ∧ Keeps l s t) :
    ∃ t, x = .next t ∧ Keeps Part.all s t := h.imp fun _ h => ⟨h.1, h.2.all⟩

/-- Every command answers a next state, leaves the queue and keeps the invariant. -/
theorem exec_keeps (i : Instr) (s : State) : ∃ t, exec i s = .next t ∧ Keeps Part.all s t := by
  cases i with
  | hello a0 a1 a2 => exact Keeps.next_all (execHello_keeps a0 a1 a2 s)
  | leaseRenew a0 a1 a2 => exact Keeps.next_all (execLeaseRenew_keeps a0 a1 a2 s)
  | identify a0 a1 a2 => exact Keeps.next_all (execIdentify_keeps a0 a1 a2 s)
  | leaseRelease a0 a1 a2 => exact Keeps.next_all (execLeaseRelease_keeps a0 a1 a2 s)
  | counterRead a0 a1 a2 => exact Keeps.next_all (execCounterRead_keeps a0 a1 a2 s)
  | logRead a0 a1 a2 => exact Keeps.next_all (execLogRead_keeps a0 a1 a2 s)
  | sensorRead a0 a1 a2 => exact Keeps.next_all (execSensorRead_keeps a0 a1 a2 s)
  | draftOpen a0 a1 a2 => exact Keeps.next_all (execDraftOpen_keeps a0 a1 a2 s)
  | draftSet a0 a1 a2 => exact Keeps.next_all (execDraftSet_keeps a0 a1 a2 s)
  | draftGet a0 a1 a2 => exact Keeps.next_all (execDraftGet_keeps a0 a1 a2 s)
  | draftCheck a0 a1 a2 => exact Keeps.next_all (execDraftCheck_keeps a0 a1 a2 s)
  | draftCommit a0 a1 a2 => exact Keeps.next_all (execDraftCommit_keeps a0 a1 a2 s)
  | draftAbort a0 a1 a2 => exact Keeps.next_all (execDraftAbort_keeps a0 a1 a2 s)
  | settingsSave a0 a1 a2 => exact Keeps.next_all (execSettingsSave_keeps a0 a1 a2 s)
  | liveSet a0 a1 a2 => exact Keeps.next_all (execLiveSet_keeps a0 a1 a2 s)
  | liveGet a0 a1 a2 => exact Keeps.next_all (execLiveGet_keeps a0 a1 a2 s)
  | weirOn a0 a1 a2 => exact Keeps.next_all (execWeirOn_keeps a0 a1 a2 s)
  | weirOff a0 a1 a2 => exact Keeps.next_all (execWeirOff_keeps a0 a1 a2 s)
  | weirClear a0 a1 a2 => exact Keeps.next_all (execWeirClear_keeps a0 a1 a2 s)
  | weirStatus a0 a1 a2 => exact Keeps.next_all (execWeirStatus_keeps a0 a1 a2 s)
  | cascadeStatus a0 a1 a2 => exact Keeps.next_all (execCascadeStatus_keeps a0 a1 a2 s)
  | railFlagClear a0 a1 a2 => exact Keeps.next_all (execRailFlagClear_keeps a0 a1 a2 s)
  | coolStatus a0 a1 a2 => exact Keeps.next_all (execCoolStatus_keeps a0 a1 a2 s)
  | fanSet a0 a1 a2 => exact Keeps.next_all (execFanSet_keeps a0 a1 a2 s)
  | thermStatus a0 a1 a2 => exact Keeps.next_all (execThermStatus_keeps a0 a1 a2 s)
  | tripClear a0 a1 a2 => exact Keeps.next_all (execTripClear_keeps a0 a1 a2 s)
  | leakClear a0 a1 a2 => exact Keeps.next_all (execLeakClear_keeps a0 a1 a2 s)
  | cadStatus a0 a1 a2 => exact Keeps.next_all (execCadStatus_keeps a0 a1 a2 s)
  | linkStatus a0 a1 a2 => exact Keeps.next_all (execLinkStatus_keeps a0 a1 a2 s)
  | cadRejoin a0 a1 a2 => exact Keeps.next_all (execCadRejoin_keeps a0 a1 a2 s)
  | cadSwitch a0 a1 a2 => exact Keeps.next_all (execCadSwitch_keeps a0 a1 a2 s)
  | groupStatus a0 a1 a2 => exact Keeps.next_all (execGroupStatus_keeps a0 a1 a2 s)
  | cadRequest a0 a1 a2 => exact Keeps.next_all (execCadRequest_keeps a0 a1 a2 s)
  | resetAt a0 a1 a2 => exact Keeps.next_all (execResetAt_keeps a0 a1 a2 s)
  | snapshotAt a0 a1 a2 => exact Keeps.next_all (execSnapshotAt_keeps a0 a1 a2 s)
  | snapshotRead a0 a1 a2 => exact Keeps.next_all (execSnapshotRead_keeps a0 a1 a2 s)
  | expel a0 a1 a2 => exact Keeps.next_all (execExpel_keeps a0 a1 a2 s)
  | checkStatus a0 a1 a2 => exact Keeps.next_all (execCheckStatus_keeps a0 a1 a2 s)
  | checkResults a0 a1 a2 => exact Keeps.next_all (execCheckResults_keeps a0 a1 a2 s)
  | checkControl a0 a1 a2 => exact Keeps.next_all (execCheckControl_keeps a0 a1 a2 s)
  | integStatus a0 a1 a2 => exact Keeps.next_all (execIntegStatus_keeps a0 a1 a2 s)
  | unitRead a0 a1 a2 => exact Keeps.next_all (execUnitRead_keeps a0 a1 a2 s)
  | unitRelease a0 a1 a2 => exact Keeps.next_all (execUnitRelease_keeps a0 a1 a2 s)
  | lullStatus a0 a1 a2 => exact Keeps.next_all (execLullStatus_keeps a0 a1 a2 s)
  | voteLog a0 a1 a2 => exact Keeps.next_all (execVoteLog_keeps a0 a1 a2 s)
  | packSend a0 a1 a2 => exact Keeps.next_all (execPackSend_keeps a0 a1 a2 s)
  | packStatus a0 a1 a2 => exact Keeps.next_all (execPackStatus_keeps a0 a1 a2 s)
  | basinStatus a0 a1 a2 => exact Keeps.next_all (execBasinStatus_keeps a0 a1 a2 s)
  | basinHold a0 a1 a2 => exact Keeps.next_all (execBasinHold_keeps a0 a1 a2 s)
  | basinSeal a0 a1 a2 => exact Keeps.next_all (execBasinSeal_keeps a0 a1 a2 s)
  | basinUnseal a0 a1 a2 => exact Keeps.next_all (execBasinUnseal_keeps a0 a1 a2 s)
  | basinVerify a0 a1 a2 => exact Keeps.next_all (execBasinVerify_keeps a0 a1 a2 s)
  | modelDigest a0 a1 a2 => exact Keeps.next_all (execModelDigest_keeps a0 a1 a2 s)
  | basinPush a0 a1 a2 => exact Keeps.next_all (execBasinPush_keeps a0 a1 a2 s)
  | poisonList a0 a1 a2 => exact Keeps.next_all (execPoisonList_keeps a0 a1 a2 s)
  | slotStatus a0 a1 a2 => exact Keeps.next_all (execSlotStatus_keeps a0 a1 a2 s)
  | slotPower a0 a1 a2 => exact Keeps.next_all (execSlotPower_keeps a0 a1 a2 s)
  | slotReset a0 a1 a2 => exact Keeps.next_all (execSlotReset_keeps a0 a1 a2 s)
  | slotRun a0 a1 a2 => exact Keeps.next_all (execSlotRun_keeps a0 a1 a2 s)
  | slotHold a0 a1 a2 => exact Keeps.next_all (execSlotHold_keeps a0 a1 a2 s)
  | slotQuarantine a0 a1 a2 => exact Keeps.next_all (execSlotQuarantine_keeps a0 a1 a2 s)
  | slotRelease a0 a1 a2 => exact Keeps.next_all (execSlotRelease_keeps a0 a1 a2 s)
  | bootStatus a0 a1 a2 => exact Keeps.next_all (execBootStatus_keeps a0 a1 a2 s)
  | upperLoad a0 a1 a2 => exact Keeps.next_all (execUpperLoad_keeps a0 a1 a2 s)
  | upperHalt a0 a1 a2 => exact Keeps.next_all (execUpperHalt_keeps a0 a1 a2 s)
  | keyStatus a0 a1 a2 => exact Keeps.next_all (execKeyStatus_keeps a0 a1 a2 s)
  | keyProgram a0 a1 a2 => exact Keeps.next_all (execKeyProgram_keeps a0 a1 a2 s)
  | keyRevoke a0 a1 a2 => exact Keeps.next_all (execKeyRevoke_keeps a0 a1 a2 s)
  | fwBegin a0 a1 a2 => exact Keeps.next_all (execFwBegin_keeps a0 a1 a2 s)
  | fwBlock a0 a1 a2 => exact Keeps.next_all (execFwBlock_keeps a0 a1 a2 s)
  | fwEnd a0 a1 a2 => exact Keeps.next_all (execFwEnd_keeps a0 a1 a2 s)
  | fwHandover a0 a1 a2 => exact Keeps.next_all (execFwHandover_keeps a0 a1 a2 s)
  | fwRestartCore a0 a1 a2 => exact Keeps.next_all (execFwRestartCore_keeps a0 a1 a2 s)
  | fwStatus a0 a1 a2 => exact Keeps.next_all (execFwStatus_keeps a0 a1 a2 s)
  | resetStatus a0 a1 a2 => exact Keeps.next_all (execResetStatus_keeps a0 a1 a2 s)
  | resetRequest a0 a1 a2 => exact Keeps.next_all (execResetRequest_keeps a0 a1 a2 s)
  | calmEnter a0 a1 a2 => exact Keeps.next_all (execCalmEnter_keeps a0 a1 a2 s)
  | rtcRead a0 a1 a2 => exact Keeps.next_all (execRtcRead_keeps a0 a1 a2 s)
  | rtcWrite a0 a1 a2 => exact Keeps.next_all (execRtcWrite_keeps a0 a1 a2 s)
  | bkpRead a0 a1 a2 => exact Keeps.next_all (execBkpRead_keeps a0 a1 a2 s)
  | bkpWrite a0 a1 a2 => exact Keeps.next_all (execBkpWrite_keeps a0 a1 a2 s)
  | go a0 a1 => exact Keeps.next_all (execGo_keeps a0 a1 s)
  | registerWrite a0 a1 a2 => exact Keeps.next_all (execRegisterWrite_keeps a0 a1 a2 s)
  | chgSummaryClear a0 a1 a2 => exact Keeps.next_all (execChgSummaryClear_keeps a0 a1 a2 s)
  | ctLoRead a0 => exact Keeps.next_all (execCtLoRead_keeps a0 s)
  | ltLoRead a0 => exact Keeps.next_all (execLtLoRead_keeps a0 s)
  | rcvCopy => exact Keeps.next_all (execRcvCopy_keeps s)
  | rcvCheckAndBoot => exact Keeps.next_all (execRcvCheckAndBoot_keeps s)
  | rcvI3cCopy a0 a1 a2 a3 => exact Keeps.next_all (execRcvI3cCopy_keeps a0 a1 a2 a3 s)
  | rcvI3cCheckAndBoot a0 a1 a2 a3 => exact Keeps.next_all (execRcvI3cCheckAndBoot_keeps a0 a1 a2 a3 s)
  | rcvI3cStateRead => exact Keeps.next_all (execRcvI3cStateRead_keeps s)
  | relK1 => exact Keeps.next_all (execRelK1_keeps s)
  | relU a0 => exact Keeps.next_all (execRelU_keeps a0 s)
  | haltU a0 => exact Keeps.next_all (execHaltU_keeps a0 s)
  | watchdogService a0 a1 => exact Keeps.next_all (execWatchdogService_keeps a0 a1 s)
  | watchdogTimeoutSet a0 a1 => exact Keeps.next_all (execWatchdogTimeoutSet_keeps a0 a1 s)
  | sidebandCommand a0 a1 a2 a3 => exact Keeps.next_all (execSidebandCommand_keeps a0 a1 a2 a3 s)
  | sidebandStatusQuery => exact Keeps.next_all (execSidebandStatusQuery_keeps s)
  | sidebandCompletionNotice => exact Keeps.next_all (execSidebandCompletionNotice_keeps s)
  | mctpControl a0 a1 => exact Keeps.next_all (execMctpControl_keeps a0 a1 s)
  | mctpOtherMessage a0 a1 => exact Keeps.next_all (execMctpOtherMessage_keeps a0 a1 s)
  | i3cEntdaa a0 => exact Keeps.next_all (execI3cEntdaa_keeps a0 s)
  | i3cSetdasa a0 a1 => exact Keeps.next_all (execI3cSetdasa_keeps a0 a1 s)
  | getTid => exact Keeps.next_all (execGetTid_keeps s)
  | getPldmVersion a0 => exact Keeps.next_all (execGetPldmVersion_keeps a0 s)
  | getPldmTypes => exact Keeps.next_all (execGetPldmTypes_keeps s)
  | getPldmCommands a0 => exact Keeps.next_all (execGetPldmCommands_keeps a0 s)
  | getPdrRepositoryInfo => exact Keeps.next_all (execGetPdrRepositoryInfo_keeps s)
  | getPdr a0 => exact Keeps.next_all (execGetPdr_keeps a0 s)
  | getSensorReading a0 => exact Keeps.next_all (execGetSensorReading_keeps a0 s)
  | getVersion => exact Keeps.next_all (execGetVersion_keeps s)
  | getCapabilities a0 => exact Keeps.next_all (execGetCapabilities_keeps a0 s)
  | negotiateAlgorithms a0 => exact Keeps.next_all (execNegotiateAlgorithms_keeps a0 s)
  | getDigests => exact Keeps.next_all (execGetDigests_keeps s)
  | getCertificate a0 a1 a2 => exact Keeps.next_all (execGetCertificate_keeps a0 a1 a2 s)
  | challenge a0 a1 a2 => exact Keeps.next_all (execChallenge_keeps a0 a1 a2 s)
  | getMeasurements a0 a1 a2 => exact Keeps.next_all (execGetMeasurements_keeps a0 a1 a2 s)
  | keyExchange a0 => exact Keeps.next_all (execKeyExchange_keeps a0 s)
  | pskExchange a0 => exact Keeps.next_all (execPskExchange_keeps a0 s)
  | perstAssert => exact Keeps.next_all (execPerstAssert_keeps s)
  | perstRelease => exact Keeps.next_all (execPerstRelease_keeps s)
  | functionLevelReset => exact Keeps.next_all (execFunctionLevelReset_keeps s)
  | pcieLinkLoss => exact Keeps.next_all (execPcieLinkLoss_keeps s)
  | bar2Write a0 a1 a2 => exact Keeps.next_all (execBar2Write_keeps a0 a1 a2 s)
  | bar2Read a0 a1 a2 => exact Keeps.next_all (execBar2Read_keeps a0 a1 a2 s)
  | barUnmappedAccess a0 a1 a2 => exact Keeps.next_all (execBarUnmappedAccess_keeps a0 a1 a2 s)
  | bar4RecordWrite a0 a1 a2 => exact Keeps.next_all (execBar4RecordWrite_keeps a0 a1 a2 s)
  | bar4SealWrite a0 a1 => exact Keeps.next_all (execBar4SealWrite_keeps a0 a1 s)
  | notebookWrite a0 a1 a2 a3 => exact Keeps.next_all (execNotebookWrite_keeps a0 a1 a2 a3 s)
  | notebookOpen a0 => exact Keeps.next_all (execNotebookOpen_keeps a0 s)
  | notebookGenWrite a0 a1 => exact Keeps.next_all (execNotebookGenWrite_keeps a0 a1 s)
  | powerOnReset a0 => exact Keeps.next_all (execPowerOnReset_keeps a0 s)
  | brownOut a0 a1 => exact Keeps.next_all (execBrownOut_keeps a0 a1 s)
  | pinReset a0 => exact Keeps.next_all (execPinReset_keeps a0 s)
  | optionLoadingDone a0 a1 a2 a3 => exact Keeps.next_all (execOptionLoadingDone_keeps a0 a1 a2 a3 s)
  | optionFaultRetry => exact Keeps.next_all (execOptionFaultRetry_keeps s)
  | referenceCheck a0 => exact Keeps.next_all (execReferenceCheck_keeps a0 s)
  | tmcRstNRelease a0 => exact Keeps.next_all (execTmcRstNRelease_keeps a0 s)
  | protectionsArmed => exact Keeps.next_all (execProtectionsArmed_keeps s)
  | romEntry => exact Keeps.next_all (execRomEntry_keeps s)
  | romFailRetry => exact Keeps.next_all (execRomFailRetry_keeps s)
  | keeperImageStart a0 a1 => exact Keeps.next_all (execKeeperImageStart_keeps a0 a1 s)
  | bankConfirm => exact Keeps.next_all (execBankConfirm_keeps s)
  | clockFailure => exact Keeps.next_all (execClockFailure_keeps s)
  | clockRecovered => exact Keeps.next_all (execClockRecovered_keeps s)
  | pllLocked a0 => exact Keeps.next_all (execPllLocked_keeps a0 s)
  | pllLockTimeout a0 => exact Keeps.next_all (execPllLockTimeout_keeps a0 s)
  | keeperWatchdogFire a0 a1 => exact Keeps.next_all (execKeeperWatchdogFire_keeps a0 a1 s)
  | escalationWindowClose => exact Keeps.next_all (execEscalationWindowClose_keeps s)
  | upperWatchdogFire a0 a1 => exact Keeps.next_all (execUpperWatchdogFire_keeps a0 a1 s)
  | keeperLockup a0 => exact Keeps.next_all (execKeeperLockup_keeps a0 s)
  | upperLockup a0 a1 => exact Keeps.next_all (execUpperLockup_keeps a0 a1 s)
  | protectionFault a0 a1 a2 a3 => exact Keeps.next_all (execProtectionFault_keeps a0 a1 a2 a3 s)
  | softwareResetRequest a0 a1 a2 => exact Keeps.next_all (execSoftwareResetRequest_keeps a0 a1 a2 s)
  | debugResetRequest a0 a1 => exact Keeps.next_all (execDebugResetRequest_keeps a0 a1 s)
  | resetRequestDue => exact Keeps.next_all (execResetRequestDue_keeps s)
  | rtcAlarm => exact Keeps.next_all (execRtcAlarm_keeps s)
  | calmReached => exact Keeps.next_all (execCalmReached_keeps s)
  | keeperResume => exact Keeps.next_all (execKeeperResume_keeps s)
  | leaseExpiry => exact Keeps.next_all (execLeaseExpiry_keeps s)
  | fanHoldEnd => exact Keeps.next_all (execFanHoldEnd_keeps s)
  | sidebandDraftIdle => exact Keeps.next_all (execSidebandDraftIdle_keeps s)
  | feedInWindow a0 a1 => exact Keeps.next_all (execFeedInWindow_keeps a0 a1 s)
  | feedOutOfWindow a0 a1 a2 => exact Keeps.next_all (execFeedOutOfWindow_keeps a0 a1 a2 s)
  | feedPowerGood a0 a1 a2 => exact Keeps.next_all (execFeedPowerGood_keeps a0 a1 a2 s)
  | rampTimeout a0 => exact Keeps.next_all (execRampTimeout_keeps a0 s)
  | currentLimitReached a0 a1 => exact Keeps.next_all (execCurrentLimitReached_keeps a0 a1 s)
  | faultTimerClear a0 => exact Keeps.next_all (execFaultTimerClear_keeps a0 s)
  | faultTimerExpiry a0 => exact Keeps.next_all (execFaultTimerExpiry_keeps a0 s)
  | soaTrip a0 => exact Keeps.next_all (execSoaTrip_keeps a0 s)
  | fastTrip a0 => exact Keeps.next_all (execFastTrip_keeps a0 s)
  | feedLoss a0 a1 => exact Keeps.next_all (execFeedLoss_keeps a0 a1 s)
  | cooldownEnd a0 => exact Keeps.next_all (execCooldownEnd_keeps a0 s)
  | retryCountReset a0 => exact Keeps.next_all (execRetryCountReset_keeps a0 s)
  | holdupExpiry => exact Keeps.next_all (execHoldupExpiry_keeps s)
  | minOffEnd a0 => exact Keeps.next_all (execMinOffEnd_keeps a0 s)
  | powerWindowClose a0 a1 a2 => exact Keeps.next_all (execPowerWindowClose_keeps a0 a1 a2 s)
  | shareImbalance => exact Keeps.next_all (execShareImbalance_keeps s)
  | upSequenceStart => exact Keeps.next_all (execUpSequenceStart_keeps s)
  | casInLow => exact Keeps.next_all (execCasInLow_keeps s)
  | stageUpDelayExpiry a0 a1 => exact Keeps.next_all (execStageUpDelayExpiry_keeps a0 a1 s)
  | railPowerGood a0 a1 => exact Keeps.next_all (execRailPowerGood_keeps a0 a1 s)
  | pgTimeout a0 a1 => exact Keeps.next_all (execPgTimeout_keeps a0 a1 s)
  | railLeavesWindow a0 a1 a2 a3 => exact Keeps.next_all (execRailLeavesWindow_keeps a0 a1 a2 a3 s)
  | stageDownDelayExpiry a0 a1 => exact Keeps.next_all (execStageDownDelayExpiry_keeps a0 a1 s)
  | railDischarged a0 a1 => exact Keeps.next_all (execRailDischarged_keeps a0 a1 s)
  | dscTimeout a0 => exact Keeps.next_all (execDscTimeout_keeps a0 s)
  | downSequenceTimeout a0 => exact Keeps.next_all (execDownSequenceTimeout_keeps a0 s)
  | busLost => exact Keeps.next_all (execBusLost_keeps s)
  | seqTransaction a0 => exact Keeps.next_all (execSeqTransaction_keeps a0 s)
  | seqUpFrame => exact Keeps.next_all (execSeqUpFrame_keeps s)
  | seqDownFrame => exact Keeps.next_all (execSeqDownFrame_keeps s)
  | seqBusFrame a0 => exact Keeps.next_all (execSeqBusFrame_keeps a0 s)
  | seqPoll a0 a1 => exact Keeps.next_all (execSeqPoll_keeps a0 a1 s)
  | seqSilent => exact Keeps.next_all (execSeqSilent_keeps s)
  | slotUpSequence a0 => exact Keeps.next_all (execSlotUpSequence_keeps a0 s)
  | ioutLimitWrite a0 a1 => exact Keeps.next_all (execIoutLimitWrite_keeps a0 a1 s)
  | tempConversion a0 => exact Keeps.next_all (execTempConversion_keeps a0 s)
  | tripHoldEnd a0 => exact Keeps.next_all (execTripHoldEnd_keeps a0 s)
  | gustQuiet => exact Keeps.next_all (execGustQuiet_keeps s)
  | fanEngineEval a0 => exact Keeps.next_all (execFanEngineEval_keeps a0 s)
  | spinUpStep a0 a1 => exact Keeps.next_all (execSpinUpStep_keeps a0 a1 s)
  | tachNoEdge a0 => exact Keeps.next_all (execTachNoEdge_keeps a0 s)
  | outputSlow a0 => exact Keeps.next_all (execOutputSlow_keeps a0 s)
  | outputRestored a0 => exact Keeps.next_all (execOutputRestored_keeps a0 s)
  | ceilingOverTimer => exact Keeps.next_all (execCeilingOverTimer_keeps s)
  | ceilingReturn => exact Keeps.next_all (execCeilingReturn_keeps s)
  | ceilingUnderTimer => exact Keeps.next_all (execCeilingUnderTimer_keeps s)
  | flowMeasure a0 a1 => exact Keeps.next_all (execFlowMeasure_keeps a0 a1 s)
  | flowLow a0 => exact Keeps.next_all (execFlowLow_keeps a0 s)
  | flowRecover a0 => exact Keeps.next_all (execFlowRecover_keeps a0 s)
  | leakMeasure a0 => exact Keeps.next_all (execLeakMeasure_keeps a0 s)
  | leakWet a0 => exact Keeps.next_all (execLeakWet_keeps a0 s)
  | ropeDry a0 => exact Keeps.next_all (execRopeDry_keeps a0 s)
  | leakPumpStop => exact Keeps.next_all (execLeakPumpStop_keeps s)
  | frameBoundary a0 => exact Keeps.next_all (execFrameBoundary_keeps a0 s)
  | throttleHoldbackEnd => exact Keeps.next_all (execThrottleHoldbackEnd_keeps s)
  | armWord a0 a1 a2 a3 => exact Keeps.next_all (execArmWord_keeps a0 a1 a2 a3 s)
  | barrier a0 a1 => exact Keeps.next_all (execBarrier_keeps a0 a1 s)
  | broadcast a0 a1 a2 => exact Keeps.next_all (execBroadcast_keeps a0 a1 a2 s)
  | reduce a0 a1 a2 a3 => exact Keeps.next_all (execReduce_keeps a0 a1 a2 a3 s)
  | vote a0 a1 a2 => exact Keeps.next_all (execVote_keeps a0 a1 a2 s)
  | laneOpTimeout a0 a1 => exact Keeps.next_all (execLaneOpTimeout_keeps a0 a1 s)
  | laneOpResult a0 a1 => exact Keeps.next_all (execLaneOpResult_keeps a0 a1 s)
  | blockLock a0 a1 => exact Keeps.next_all (execBlockLock_keeps a0 a1 s)
  | cellAlignment a0 => exact Keeps.next_all (execCellAlignment_keeps a0 s)
  | linkLoss a0 => exact Keeps.next_all (execLinkLoss_keeps a0 s)
  | linkIdent a0 a1 => exact Keeps.next_all (execLinkIdent_keeps a0 a1 s)
  | echoCell a0 a1 a2 a3 => exact Keeps.next_all (execEchoCell_keeps a0 a1 a2 a3 s)
  | stampCell a0 a1 a2 => exact Keeps.next_all (execStampCell_keeps a0 a1 a2 s)
  | timeSlot a0 a1 => exact Keeps.next_all (execTimeSlot_keeps a0 a1 s)
  | opCell a0 a1 a2 => exact Keeps.next_all (execOpCell_keeps a0 a1 a2 s)
  | trickleCell a0 a1 => exact Keeps.next_all (execTrickleCell_keeps a0 a1 s)
  | packRxTimeout => exact Keeps.next_all (execPackRxTimeout_keeps s)
  | packInstall => exact Keeps.next_all (execPackInstall_keeps s)
  | holdoverEntry => exact Keeps.next_all (execHoldoverEntry_keeps s)
  | holdoverHold => exact Keeps.next_all (execHoldoverHold_keeps s)
  | relock => exact Keeps.next_all (execRelock_keeps s)
  | timeStep => exact Keeps.next_all (execTimeStep_keeps s)
  | joinLock => exact Keeps.next_all (execJoinLock_keeps s)
  | uplinkSwitch => exact Keeps.next_all (execUplinkSwitch_keeps s)
  | adopt a0 => exact Keeps.next_all (execAdopt_keeps a0 s)
  | reachReport => exact Keeps.next_all (execReachReport_keeps s)
  | reachRecord a0 a1 => exact Keeps.next_all (execReachRecord_keeps a0 a1 s)
  | epochProposal a0 a1 a2 a3 a4 => exact Keeps.next_all (execEpochProposal_keeps a0 a1 a2 a3 a4 s)
  | armReduceStart a0 a1 a2 => exact Keeps.next_all (execArmReduceStart_keeps a0 a1 a2 s)
  | decide a0 a1 a2 a3 a4 => exact Keeps.next_all (execDecide_keeps a0 a1 a2 a3 a4 s)
  | epochEffect a0 => exact Keeps.next_all (execEpochEffect_keeps a0 s)
  | epochNoDecision a0 a1 a2 => exact Keeps.next_all (execEpochNoDecision_keeps a0 a1 a2 s)
  | expelDecision a0 a1 a2 => exact Keeps.next_all (execExpelDecision_keeps a0 a1 a2 s)
  | expelEffect a0 a1 a2 => exact Keeps.next_all (execExpelEffect_keeps a0 a1 a2 s)
  | checkEngineStart => exact Keeps.next_all (execCheckEngineStart_keeps s)
  | checkEngineStop => exact Keeps.next_all (execCheckEngineStop_keeps s)
  | checkStart a0 a1 => exact Keeps.next_all (execCheckStart_keeps a0 a1 s)
  | checkDone a0 => exact Keeps.next_all (execCheckDone_keeps a0 s)
  | evidenceClassify => exact Keeps.next_all (execEvidenceClassify_keeps s)
  | missingSample a0 a1 a2 a3 => exact Keeps.next_all (execMissingSample_keeps a0 a1 a2 a3 s)
  | marginStepWrite a0 a1 => exact Keeps.next_all (execMarginStepWrite_keeps a0 a1 s)
  | ladderRelax a0 => exact Keeps.next_all (execLadderRelax_keeps a0 s)
  | lullTestOrder a0 => exact Keeps.next_all (execLullTestOrder_keeps a0 s)
  | lullVoidTimeout a0 => exact Keeps.next_all (execLullVoidTimeout_keeps a0 s)
  | voteResult a0 a1 => exact Keeps.next_all (execVoteResult_keeps a0 a1 s)
  | voteOverdue a0 a1 => exact Keeps.next_all (execVoteOverdue_keeps a0 a1 s)
  | ledgerWrite a0 => exact Keeps.next_all (execLedgerWrite_keeps a0 s)
  | basinSelfRefresh => exact Keeps.next_all (execBasinSelfRefresh_keeps s)
  | basinUsable => exact Keeps.next_all (execBasinUsable_keeps s)
  | tierUsable a0 a1 a2 => exact Keeps.next_all (execTierUsable_keeps a0 a1 a2 s)
  | scrubRead a0 => exact Keeps.next_all (execScrubRead_keeps a0 s)
  | scrubCatchUp => exact Keeps.next_all (execScrubCatchUp_keeps s)
  | digestDone a0 a1 => exact Keeps.next_all (execDigestDone_keeps a0 a1 s)
  | slotPresent a0 => exact Keeps.next_all (execSlotPresent_keeps a0 s)
  | slotAbsent a0 => exact Keeps.next_all (execSlotAbsent_keeps a0 s)
  | slotResetRelease a0 => exact Keeps.next_all (execSlotResetRelease_keeps a0 s)
  | slotIdentPoll a0 a1 => exact Keeps.next_all (execSlotIdentPoll_keeps a0 a1 s)
  | slotBootTimeout a0 => exact Keeps.next_all (execSlotBootTimeout_keeps a0 s)
  | slotAlert a0 a1 => exact Keeps.next_all (execSlotAlert_keeps a0 a1 s)
  | plan a0 a1 => exact Keeps.next_all (execPlan_keeps a0 a1 s)
  | fence a0 a1 a2 a3 => exact Keeps.next_all (execFence_keeps a0 a1 a2 a3 s)
  | lullOrder a0 a1 => exact Keeps.next_all (execLullOrder_keeps a0 a1 s)
  | packChunk a0 a1 => exact Keeps.next_all (execPackChunk_keeps a0 a1 s)
  | slotPowerOnBaseRead a0 a1 => exact Keeps.next_all (execSlotPowerOnBaseRead_keeps a0 a1 s)
  | handoverPause a0 a1 => exact Keeps.next_all (execHandoverPause_keeps a0 a1 s)
  | liveUcodeLoad => exact Keeps.next_all (execLiveUcodeLoad_keeps s)
  | sidebandWakeTransfer => exact Keeps.next_all (execSidebandWakeTransfer_keeps s)
  | feedInputReturn a0 a1 => exact Keeps.next_all (execFeedInputReturn_keeps a0 a1 s)
  | railRoseInShutdown a0 => exact Keeps.next_all (execRailRoseInShutdown_keeps a0 s)
  | codeLaneWordDiscard a0 => exact Keeps.next_all (execCodeLaneWordDiscard_keeps a0 s)
  | cellDiscarded a0 a1 => exact Keeps.next_all (execCellDiscarded_keeps a0 a1 s)
  | resetPulseEnd a0 => exact Keeps.next_all (execResetPulseEnd_keeps a0 s)
  | upperLoadComplete a0 a1 => exact Keeps.next_all (execUpperLoadComplete_keeps a0 a1 s)
  | settingsSaveComplete a0 => exact Keeps.next_all (execSettingsSaveComplete_keeps a0 s)
  | fwEndComplete a0 => exact Keeps.next_all (execFwEndComplete_keeps a0 s)
  | pushComplete a0 a1 => exact Keeps.next_all (execPushComplete_keeps a0 a1 s)
  | handoverVerifyDone => exact Keeps.next_all (execHandoverVerifyDone_keeps s)
  | boundExpiry a0 => exact Keeps.next_all (execBoundExpiry_keeps a0 s)

end Sys2Proof.Machine
end

