-- ==== Sys2Proof/Laws/Rows.lean ====
section
/-!
SUPPORT. What the opcode rows have in common: each is a submission of its opcode.
-/

namespace Sys2Proof.Machine

/-- An opcode row submits its opcode. -/
theorem opcodeRows_submit : ∀ r ∈ opcodeRows, ∀ (s : State) (p : Port) (tag : BitVec 32) (ps : Bytes),
    exec (r.2 p tag ps) s = .next (s.submit r.1 p tag ps) := by
  unfold opcodeRows opcodeRows0 opcodeRows1 opcodeRows2 opcodeRows3 opcodeRows4 opcodeRows5 opcodeRows6 opcodeRows7 opcodeRows8
  repeat' (first | refine List.forall_mem_append.2 ⟨?_, ?_⟩ | refine List.forall_mem_cons.2 ⟨?_, ?_⟩ | exact List.forall_mem_nil _)
  all_goals exact fun _ _ _ _ => rfl

/-- What a refusal leaves beside the window: nothing, but for FW_HANDOVER. -/
theorem opcodeRows_refused : ∀ r ∈ opcodeRows, r.1.opcode ≠ 0x0804 → ∀ (p : Port) (ps : Bytes) (s : State), r.1.refused p ps s = s := by
  unfold opcodeRows opcodeRows0 opcodeRows1 opcodeRows2 opcodeRows3 opcodeRows4 opcodeRows5 opcodeRows6 opcodeRows7 opcodeRows8
  repeat' (first | refine List.forall_mem_append.2 ⟨?_, ?_⟩ | refine List.forall_mem_cons.2 ⟨?_, ?_⟩ | exact List.forall_mem_nil _)
  all_goals first | exact fun _ _ _ _ => rfl | exact fun h => absurd rfl h

/-- No refusal changes the windows or the tick beside the refused window itself. -/
theorem opcodeRows_refused_wins : ∀ r ∈ opcodeRows, ∀ (p : Port) (ps : Bytes) (s : State),
    (r.1.refused p ps s).wins = s.wins ∧ (r.1.refused p ps s).lt = s.lt := by
  unfold opcodeRows opcodeRows0 opcodeRows1 opcodeRows2 opcodeRows3 opcodeRows4 opcodeRows5 opcodeRows6 opcodeRows7 opcodeRows8
  repeat' (first | refine List.forall_mem_append.2 ⟨?_, ?_⟩ | refine List.forall_mem_cons.2 ⟨?_, ?_⟩ | exact List.forall_mem_nil _)
  all_goals first | exact fun _ _ _ => ⟨rfl, rfl⟩ | skip
  intro p ps s
  have h : fwHandoverOp.refused p ps s = s.handoverRefused ps := rfl
  rw [h]
  have k := State.handoverRefused_keeps ps s
  exact ⟨k.wins (by decide), congrArg DevSt.lt (k.dev (by decide))⟩

end Sys2Proof.Machine
end

