-- ==== Sys2Proof/Laws/Completes.lean ====
section
/-!
SUPPORT. How a completion is shown: the outcome of a guarded row, and the frame that its `Keeps` lemma gives.
-/

namespace Sys2Proof.Machine

theorem go_if {c : Prop} [Decidable c] {u v : State} (h : c) : go (if c then u else v) = .next u := by rw [if_pos h]; rfl

theorem go_else {c : Prop} [Decidable c] {u v : State} (h : ¬c) : go (if c then u else v) = .next v := by rw [if_neg h]; rfl

theorem go_else_if {c d : Prop} [Decidable c] [Decidable d] {u v w : State} (h : ¬c) (k : d) : go (if c then u else if d then v else w) = .next v := by
  rw [if_neg h, if_pos k]; rfl

theorem SameBut.mono {l m : List Part} {s t : State} (h : SameBut l s t) (hm : ∀ x ∈ l, x ∈ m) : SameBut m s t := by
  obtain ⟨h1, h2, h3, h4, h5, h6, h7, h8, h9, h10, h11, h12, h13, h14, h15, h16, h17, h18, h19, h20, h21⟩ := h
  constructor
  case pending => exact h21
  all_goals intro hx
  · exact h1 (fun c => hx (hm _ c))
  · exact h2 (fun c => hx (hm _ c))
  · exact h3 (fun c => hx (hm _ c))
  · exact h4 (fun c => hx (hm _ c))
  · exact h5 (fun c => hx (hm _ c))
  · exact h6 (fun c => hx (hm _ c))
  · exact h7 (fun c => hx (hm _ c))
  · exact h8 (fun c => hx (hm _ c))
  · exact h9 (fun c => hx (hm _ c))
  · exact h10 (fun c => hx (hm _ c))
  · exact h11 (fun c => hx (hm _ c))
  · exact h12 (fun c => hx (hm _ c))
  · exact h13 (fun c => hx (hm _ c))
  · exact h14 (fun c => hx (hm _ c))
  · exact h15 (fun c => hx (hm _ c))
  · exact h16 (fun c => hx (hm _ c))
  · exact h17 (fun c => hx (hm _ c))
  · exact h18 (fun c => hx (hm _ c))
  · exact h19 (fun c => hx (hm _ c))
  · exact h20 (fun c => hx (hm _ c))

/-- A finished command of a window that a Function Level Reset has not orphaned. -/
theorem State.finish_finished {s : State} {p : Port} (c : Code) (r : Bytes) (h : (s.win p).orphan = false) : Finished s (s.finish p c r) p c r := by
  unfold Finished
  rw [State.finish_win_self]
  unfold endWin
  rw [if_neg (by rw [h]; decide)]

/-- A completion from the outcome of the row, its frame, and what holds of the outcome. -/
theorem Completes.of_next {i : Instr} {s u : State} {l : List Part} {P : State → Prop} (e : exec i s = .next u)
    (k : ∃ t, exec i s = .next t ∧ Keeps l s t) (p : P u) : Completes i s l P := by
  obtain ⟨t, h, k⟩ := k
  rw [e] at h
  cases h
  exact ⟨u, e, k.toSameBut, p⟩

/-- The same, with a wider frame than the row's own. -/
theorem Completes.of_next_mono {i : Instr} {s u : State} {l m : List Part} {P : State → Prop} (e : exec i s = .next u)
    (k : ∃ t, exec i s = .next t ∧ Keeps l s t) (hm : ∀ x ∈ l, x ∈ m) (p : P u) : Completes i s m P :=
  .of_next e (k.imp fun _ h => ⟨h.1, (Keeps.refl _ _).step h.2 hm⟩) p

/-- A completion that changes no more than the operation it comes to. -/
theorem Completes.of_keeps {i : Instr} {s u : State} {l : List Part} {P : State → Prop} (e : exec i s = .next u) (k : Keeps l s u) (p : P u) :
    Completes i s l P := ⟨u, e, k.toSameBut, p⟩

theorem State.count_counted (c : Nat) (s : State) : Counted c s (s.count c) := count_ctrVal_self s c

end Sys2Proof.Machine
end

