-- ==== Sys2Proof/Laws/SessionEnd.lean ====
section
/-!
SUPPORT. What the end of the host session leaves: the session, its holds and pauses, its Draft, and the windows that keep their commands (R116).
-/

namespace Sys2Proof.Machine

namespace State

variable {s : State} {e : SessEnd}

theorem hostLeaves_sess : (s.hostLeaves e).sess =
    { s.sess with
      host := none
      absent := if e = SessEnd.expiry || e = SessEnd.reset then true else s.sess.absent
      fanHold := if e = SessEnd.hello then none else some (s.lt + 10000000) } := rfl

theorem abandon_win_ne {p q : Port} (h : q ≠ p) : (s.abandon p).win q = s.win q := finish_win_ne _ _ _ h

/-- A window whose command does not end with the session keeps it. -/
theorem endCommands_win {q : Port} (h : q = 7 ∨ endsWithSession (s.win q) = false) : s.endCommands.win q = s.win q := by
  have key : ∀ (l : List (Fin 8)) (t : State), t.win q = s.win q →
      (l.foldl (fun (t : State) p => if p ≠ 7 && endsWithSession (t.win p) then t.abandon p else t) t).win q = s.win q := by
    intro l
    induction l with
    | nil => intro t ht; exact ht
    | cons p l ih =>
      intro t ht
      refine ih _ ?_
      simp only
      split
      · rename_i hp
        have : q ≠ p := by
          rintro rfl
          rw [ht] at hp
          rcases h with h | h <;> simp [h] at hp
        rw [abandon_win_ne this, ht]
      · exact ht
  exact key _ _ rfl

theorem endHost_some (h : s.sess.host.isSome = true) : s.endHost e =
    ((((((s.hostLeaves e).endNotice e).endCommands).dropDraft .host).dropUpdate .host).dropHolds .host).driveAll false := by
  unfold endHost
  rw [if_neg]
  cases hs : s.sess.host <;> simp [hs] at h ⊢

/-- The parts of the state that the later operations of a session's end do not touch. -/
theorem endHost_sess (h : s.sess.host.isSome = true) : (s.endHost e).sess = (s.hostLeaves e).sess := by
  rw [endHost_some h]
  exact ((driveAll_keeps ..).sess (by decide)).trans (((dropHolds_keeps ..).sess (by decide)).trans (((dropUpdate_keeps ..).sess (by decide)).trans
    (((dropDraft_keeps ..).sess (by decide)).trans (((endCommands_keeps ..).sess (by decide)).trans ((endNotice_keeps ..).sess (by decide))))))

theorem endHost_holds (h : s.sess.host.isSome = true) :
    (s.endHost e).basin = { s.basin with holds := s.basin.holds.filter (fun x => x ≠ .host) } ∧
    (s.endHost e).chk = { s.chk with paused := s.chk.paused.filter (fun x => x ≠ .host) } := by
  have hb : (((((s.hostLeaves e).endNotice e).endCommands).dropDraft .host).dropUpdate .host).basin = s.basin :=
    ((dropUpdate_keeps ..).basin (by decide)).trans (((dropDraft_keeps ..).basin (by decide)).trans (((endCommands_keeps ..).basin (by decide)).trans
      ((endNotice_keeps ..).basin (by decide))))
  have hc : (((((s.hostLeaves e).endNotice e).endCommands).dropDraft .host).dropUpdate .host).chk = s.chk :=
    ((dropUpdate_keeps ..).chk (by decide)).trans (((dropDraft_keeps ..).chk (by decide)).trans (((endCommands_keeps ..).chk (by decide)).trans
      ((endNotice_keeps ..).chk (by decide))))
  rw [endHost_some h]
  refine ⟨((driveAll_keeps ..).basin (by decide)).trans ?_, ((driveAll_keeps ..).chk (by decide)).trans ?_⟩
  · unfold dropHolds; simp only [hb]
  · unfold dropHolds; simp only [hc]

theorem endHost_win {q : Port} (h : q = 7 ∨ endsWithSession (s.win q) = false) : (s.endHost e).win q = s.win q := by
  by_cases hs : s.sess.host.isSome = true
  · rw [endHost_some hs]
    have h1 : ((s.hostLeaves e).endNotice e).wins = s.wins := (endNotice_keeps ..).wins (by decide)
    have h2 : ((s.hostLeaves e).endNotice e).win q = s.win q := by unfold win; rw [h1]
    have h3 : (((s.hostLeaves e).endNotice e).endCommands).win q = s.win q := by rw [endCommands_win (by rw [h2]; exact h), h2]
    rw [← h3]
    unfold win
    rw [(driveAll_keeps ..).wins (by decide), (dropHolds_keeps ..).wins (by decide), (dropUpdate_keeps ..).wins (by decide),
      (dropDraft_keeps ..).wins (by decide)]
  · unfold endHost
    rw [if_pos]
    cases hh : s.sess.host <;> simp [hh] at hs ⊢

/-- An open Draft of the session outlives it only while its commit is accepted. -/
theorem dropDraft_owner (o : Owner) {d : Draft} (h : (s.dropDraft o).cfg.draft = some d) : ownerOfPort d.owner ≠ o ∨ s.cfg.commit.isSome = true := by
  unfold dropDraft at h
  cases hd : s.cfg.draft with
  | none => simp [hd] at h
  | some x =>
    rw [hd] at h
    simp only at h
    split at h
    · simp [setDraft] at h
    · rename_i hn
      rw [hd] at h
      cases h
      cases hc : s.cfg.commit <;> simp [hc] at hn ⊢
      exact hn

theorem finish_cfg (p : Port) (c : Code) (r : Bytes) (t : State) : (t.finish p c r).cfg = t.cfg := by rw [finish_eq]

theorem abandon_commit (p : Port) (t : State) : (t.abandon p).cfg.commit = t.cfg.commit := by
  have h := finish_cfg p .abandoned [] { t with cfg := { t.cfg with live := t.cfg.live.filter (fun w => w.port ≠ p) } }
  show (State.finish p .abandoned [] _).cfg.commit = _
  rw [h]

theorem endCommands_commit : s.endCommands.cfg.commit = s.cfg.commit := by
  have key : ∀ (l : List (Fin 8)) (t : State), t.cfg.commit = s.cfg.commit →
      (l.foldl (fun (t : State) p => if p ≠ 7 && endsWithSession (t.win p) then t.abandon p else t) t).cfg.commit = s.cfg.commit := by
    intro l
    induction l with
    | nil => intro t ht; exact ht
    | cons p l ih =>
      intro t ht
      refine ih _ ?_
      simp only
      split
      · exact (abandon_commit p t).trans ht
      · exact ht
  unfold endCommands
  generalize List.finRange 8 = l
  exact key l s rfl

theorem endCommands_ctrVal {c : Nat} (hc : c ≠ 0x0006) : s.endCommands.ctrVal c = s.ctrVal c := by
  have key : ∀ (l : List (Fin 8)) (t : State), t.ctrVal c = s.ctrVal c →
      (l.foldl (fun (t : State) p => if p ≠ 7 && endsWithSession (t.win p) then t.abandon p else t) t).ctrVal c = s.ctrVal c := by
    intro l
    induction l with
    | nil => intro t ht; exact ht
    | cons p l ih =>
      intro t ht
      refine ih _ ?_
      simp only
      split
      · unfold abandon
        simp only
        rw [count_ctrVal_ne _ hc, ← ht]
        unfold ctrVal
        rw [finish_eq]
      · exact ht
  unfold endCommands
  generalize List.finRange 8 = l
  exact key l s rfl

theorem endHost_ctr (h : s.sess.host.isSome = true) (c : Nat) (hc : c ≠ 0x0006) :
    (s.endHost e).ctrVal c = ((s.hostLeaves e).endNotice e).ctrVal c := by
  rw [endHost_some h]
  have k : ∀ u : State, ((((u.dropDraft .host).dropUpdate .host).dropHolds .host).driveAll false).ctrVal c = u.ctrVal c := by
    intro u
    unfold ctrVal
    rw [(driveAll_keeps ..).ctr (by decide), (dropHolds_keeps ..).ctr (by decide), (dropUpdate_keeps ..).ctr (by decide), (dropDraft_keeps ..).ctr (by decide)]
  rw [k, endCommands_ctrVal hc]

/-- A Draft that is open after the end of the host session is the sideband's, or its commit is accepted. -/
theorem endHost_draft (h : s.sess.host.isSome = true) {d : Draft} (hd : (s.endHost e).cfg.draft = some d) : d.owner = 7 ∨ s.cfg.commit.isSome = true := by
  rw [endHost_some h] at hd
  rw [(driveAll_keeps ..).cfg (by decide), (dropHolds_keeps ..).cfg (by decide), (dropUpdate_keeps ..).cfg (by decide)] at hd
  rcases dropDraft_owner _ hd with h1 | h1
  · left
    by_contra h7
    exact h1 (if_neg h7)
  · right
    rw [endCommands_commit, (endNotice_keeps ..).cfg (by decide)] at h1
    exact h1

/-- A session that opens leaves a window whose command does not end with the old session. -/
theorem openSession_win {p : Port} {ps : Bytes} (h : endsWithSession (s.win p) = false) : (s.openSession p ps).win p = s.win p := by
  have hn : ∀ map, (s.newSession p map).win p = s.win p := by
    intro map
    unfold newSession
    extract_lets y _ z
    have hy : y.win p = s.win p := by
      unfold y; split
      · unfold win; rw [(endSideband_keeps ..).wins (by decide)]
      · exact endHost_win (.inr h)
    split <;> exact hy
  have hr : ∀ map, (s.remap p map).win p = s.win p := by intro map; unfold win; rw [(remap_keeps ..).wins (by decide)]
  unfold openSession
  extract_lets neg y
  have hy : y.win p = s.win p := by unfold y; split <;> [exact hr _; exact hn _]
  split <;> exact hy

theorem endHost_hello_nextId : (s.endHost .hello).sess.nextId = s.sess.nextId ∧ (s.endHost .hello).sess.sideband = s.sess.sideband := by
  by_cases h : s.sess.host.isSome = true
  · rw [endHost_sess h]; exact ⟨rfl, rfl⟩
  · unfold endHost; rw [if_pos (by cases hh : s.sess.host <;> simp [hh] at h ⊢)]; exact ⟨rfl, rfl⟩

theorem endSideband_sess : s.endSideband.sess = { s.sess with sideband := none } := by
  unfold endSideband
  split
  · rename_i h
    cases hs : s.sess; rw [hs] at h; cases h; rfl
  · rw [(dropHolds_keeps ..).sess (by decide), (dropUpdate_keeps ..).sess (by decide), (dropDraft_keeps ..).sess (by decide)]

/-- The session part after a session opens on a window: the new host session, its lease, and the sideband's as it was. -/
theorem openSession_new {p : Port} {ps : Bytes} (hr : s.renews p ps = false) :
    (s.openSession p ps).sessionOf p = some { id := s.freshId, map := ps.num 0x10 32 &&& s.devMap } ∧
      (p ≠ 7 → (s.openSession p ps).sess.absent = false ∧ (s.openSession p ps).sess.fanHold = none ∧
        (s.openSession p ps).sess.sideband = s.sess.sideband) ∧
      (p = 7 → (s.openSession p ps).sess.host = s.sess.host) := by
  unfold openSession newSession
  rw [hr]
  by_cases h7 : p = 7
  · subst h7
    simp [sessionOf, setSession, endSideband_sess, freshId]
  · have hf : (s.endHost .hello).freshId = s.freshId := by unfold freshId; rw [endHost_hello_nextId.1]
    simp [sessionOf, setSession, renewLease, h7, hf, endHost_hello_nextId.2]

theorem openSession_renew {p : Port} {ps : Bytes} {x : Session} (hx : s.sessionOf p = some x) (hr : s.renews p ps = true) :
    (s.openSession p ps).sessionOf p = some { x with map := ps.num 0x10 32 &&& s.devMap } ∧
      (p ≠ 7 → (s.openSession p ps).sess.sideband = s.sess.sideband) ∧ (p = 7 → (s.openSession p ps).sess.host = s.sess.host) := by
  unfold openSession remap
  rw [hr, hx]
  by_cases h7 : p = 7 <;> simp [sessionOf, setSession, renewLease, h7]

end State

end Sys2Proof.Machine
end

