-- ==== Sys2Proof/Laws/Folds.lean ====
section
/-!
SUPPORT. Folds over numbered things: what a fold of updates leaves at each index.
-/

namespace Sys2Proof

variable {α : Type} {n : Nat}

/-- A fold that at each step changes one entry of a family, by a rule of that entry alone while `I` holds. -/
theorem foldl_entry {σ : Type} (get : σ → Fin n → α) (f : σ → Fin n → σ) (g : Fin n → α → α) (I : σ → Prop)
    (h : ∀ s i, I s → I (f s i) ∧ ∀ j, get (f s i) j = if j = i then g i (get s i) else get s j)
    (l : List (Fin n)) (hl : l.Nodup) (s : σ) (hs : I s) :
    I (l.foldl f s) ∧ ∀ j, get (l.foldl f s) j = if j ∈ l then g j (get s j) else get s j := by
  induction l generalizing s with
  | nil => exact ⟨hs, fun j => by simp⟩
  | cons i l ih =>
    have hi := List.nodup_cons.mp hl
    have k := ih hi.2 (f s i) (h s i hs).1
    refine ⟨k.1, fun j => (k.2 j).trans ?_⟩
    rw [(h s i hs).2 j]
    by_cases e : j = i
    · subst e
      simp [hi.1]
    · simp [e]

/-- A fold keeps what each of its steps keeps. -/
theorem foldl_inv {σ ι : Type} (I : σ → Prop) (f : σ → ι → σ) (l : List ι) (h : ∀ s i, I s → I (f s i)) (s : σ) (hs : I s) : I (l.foldl f s) := by
  induction l generalizing s with
  | nil => exact hs
  | cons i l ih => exact ih _ (h s i hs)

namespace Machine

/-- An increment survives an operation that leaves the counters. -/
theorem Counted.congr {c : Nat} {s t u : State} (h : Counted c s t) (e : u.ctr.vals = t.ctr.vals) : Counted c s u := by
  unfold Counted State.ctrVal at *
  rw [e]; exact h

theorem State.raise_one (c : Nat) (sc : State.Scope) (s : State) : s.raise c 1 sc =
    if s.absorbs 1 sc then s.count c else (s.count c).logEntry 9 0x00B c ((s.count c).ctrVal c % 2 ^ 32) := by
  unfold State.raise
  cases sc <;> simp

/-- A notice takes one increment of its counter. -/
theorem State.raise_one_counted (c : Nat) (sc : State.Scope) (s : State) : Counted c s (s.raise c 1 sc) := by
  rw [State.raise_one]
  split
  · exact State.count_counted c s
  · exact (State.count_counted c s).congr rfl

theorem State.notice_counted (c : Nat) (s : State) : Counted c s (s.notice c) := raise_one_counted ..

theorem State.noticeSlot_counted (c : Nat) (i : Fin 8) (s : State) : Counted c s (s.noticeSlot c i) := raise_one_counted ..

/-- An increment after operations that leave the counters. -/
theorem Counted.after {c : Nat} {s t u : State} (h : Counted c t u) (e : t.ctr.vals = s.ctr.vals) : Counted c s u := by
  unfold Counted State.ctrVal at *
  rw [← e]; exact h

end Machine

end Sys2Proof
end

