-- ==== Sys2Proof/Laws/Inner.lean ====
section
/-!
SUPPORT. Fields inside a part of the state that an operation on that part leaves: the duties touch the outputs alone, a push's end the
pending-bit array alone.
-/

namespace Sys2Proof

/-- A number below 256^k comes back from its k bytes. -/
theorem leNat_natLE {k n : Nat} (h : n < 256 ^ k) : leNat (natLE k n) = n := by
  induction k generalizing n with
  | zero => simp [natLE, leNat]; omega
  | succ k ih =>
    have hk : n / 256 < 256 ^ k := by
      rw [Nat.pow_succ] at h
      exact Nat.div_lt_of_lt_mul (by omega)
    simp only [natLE, leNat, ih hk, byte, BitVec.toNat_ofNat]
    omega

theorem Mem.read_take {d : Byte} {m : Mem} {a k n : Nat} (h : k ≤ n) : Mem.read d m a k = (Mem.read d m a n).take k := by
  unfold Mem.read
  rw [← List.map_take, List.take_range, Nat.min_eq_left h]

theorem Mem.read_write_apart {d : Byte} {m : Mem} {a b k : Nat} {bs : Bytes} (h : b + k ≤ a ∨ a + bs.length ≤ b) :
    Mem.read d (Mem.write d m a bs) b k = Mem.read d m b k := by
  unfold Mem.read
  refine List.map_congr_left (fun i hi => ?_)
  have := List.mem_range.mp hi
  exact Mem.get_write_ne (by omega)

namespace Machine

namespace State

/-! ### BAR 2 -/

theorem linesOf_ne_nil (off : Nat) {len : Nat} (h : 0 < len) : linesOf off len ≠ [] := by
  unfold linesOf
  intro e
  have := congrArg List.length e
  simp at this
  omega

/-- An access within one line touches that line. -/
theorem linesOf_one {off len : Nat} (h0 : 0 < len) (h : off % 64 + len ≤ 64) : linesOf off len = [off / 64 * 64] := by
  unfold linesOf
  have : (off + len + 63) / 64 - off / 64 = 1 := by omega
  rw [this]
  simp [List.range_succ]

/-- A read of lines that are served, not poisoned and without errors. -/
theorem bar2Fetch_clean {s : State} {off len : Nat} (h : ∀ l ∈ linesOf off len, (s.placeOf l).served = true ∧ l ∉ s.basin.poison) :
    s.bar2Fetch off len [] = { s with bus := { s.bus with rd := Mem.read 0 s.basin.mem off len, rdPoison := false } } := by
  have hf : (linesOf off len).foldl (fun (x : List Nat × List LineErr × State) l =>
      if (x.2.2.placeOf l).served then
        let y := readLine l x.2
        (if y.1 then x.1 ++ [l] else x.1, y.2)
      else x) ([], [], s) = ([], [], s) := by
    have key : ∀ L : List Nat, (∀ l ∈ L, (s.placeOf l).served = true ∧ l ∉ s.basin.poison) →
        L.foldl (fun (x : List Nat × List LineErr × State) l =>
          if (x.2.2.placeOf l).served then
            let y := readLine l x.2
            (if y.1 then x.1 ++ [l] else x.1, y.2)
          else x) ([], [], s) = ([], [], s) := by
      intro L
      induction L with
      | nil => intro _; rfl
      | cons l L ih =>
        intro hL
        have hl := hL l (List.mem_cons_self ..)
        rw [List.foldl_cons]
        have e : readLine l (([] : List LineErr), s) = (false, [], s) := by
          unfold readLine; simp [hl.2]
        simp only [hl.1, if_true, e, Bool.false_eq_true, if_false]
        exact ih (fun x hx => hL x (List.mem_cons_of_mem _ hx))
    exact key _ h
  unfold bar2Fetch
  simp only [hf, if_true]
  have hd : (List.range len).map (fun i =>
      match s.placeOf ((off + i) / 64 * 64) with
      | .notReady => (0xFF : Byte)
      | .unmapped => 0
      | .reserved => 0
      | .store | .staging => if ([] : List Nat).contains ((off + i) / 64 * 64) then Config.poisonByte s.free (off + i) else Mem.get 0 s.basin.mem (off + i)) =
      Mem.read 0 s.basin.mem off len := by
    unfold Mem.read
    refine List.map_congr_left (fun i hi => ?_)
    have hi := List.mem_range.mp hi
    have hm : (off + i) / 64 * 64 ∈ linesOf off len := by
      unfold linesOf
      refine List.mem_map.mpr ⟨(off + i) / 64 - off / 64, List.mem_range.mpr (by omega), by omega⟩
    have hs := (h _ hm).1
    cases hp : s.placeOf ((off + i) / 64 * 64) <;> rw [hp] at hs <;> first | rfl | cases hs
  exact congrArg (fun r : Bytes => ({ s with bus := { s.bus with rd := r, rdPoison := false } } : State)) hd

/-! ### Duties and pushes -/

theorem driveOut_cool (b : Bool) (o : Fin 20) (s : State) : (s.driveOut b o).cool = { s.cool with outs := (s.driveOut b o).cool.outs } := by
  unfold driveOut
  extract_lets x
  split
  extract_lets d'
  split
  · rfl
  · split
    · split <;> rfl
    · split
      · rfl
      · rfl

/-- The duties change the outputs alone. -/
theorem driveAll_cool (b : Bool) (s : State) : (s.driveAll b).cool = { s.cool with outs := (s.driveAll b).cool.outs } := by
  unfold driveAll
  generalize List.finRange 20 = l
  refine foldl_inv (fun t : State => t.cool = { s.cool with outs := t.cool.outs }) _ l (fun t o h => ?_) s rfl
  rw [driveOut_cool, h]

/-- The function's command register and MSI-X enable stay through the end of a push. -/
theorem pushCut_bus (p : Port) (r : Nat) (s : State) : (s.pushCut p r).bus = { s.bus with pba := (s.pushCut p r).bus.pba } := by
  unfold pushCut
  extract_lets ps
  split
  · rw [finish_eq]
  · extract_lets x _
    rw [finish_eq]
    have : x.2.bus = s.bus := (pushBlocks_keeps ..).bus (by decide)
    simp only [this]
    rfl

theorem pushLinkDown_bus (s : State) : s.pushLinkDown.bus.mse = s.bus.mse ∧ s.pushLinkDown.bus.bme = s.bus.bme ∧
    s.pushLinkDown.bus.msixEn = s.bus.msixEn ∧ s.pushLinkDown.bus.perst = s.bus.perst := by
  unfold pushLinkDown
  generalize s.acceptedOn 0x0607 = l
  refine foldl_inv (fun t : State => t.bus.mse = s.bus.mse ∧ t.bus.bme = s.bus.bme ∧ t.bus.msixEn = s.bus.msixEn ∧ t.bus.perst = s.bus.perst) _ l
    (fun t p h => ?_) s ⟨rfl, rfl, rfl, rfl⟩
  rw [pushCut_bus]; exact h

theorem abandon_bus (p : Port) (s : State) : (s.abandon p).bus = { s.bus with pba := (s.abandon p).bus.pba } := by
  unfold abandon
  extract_lets _ y
  show (y.finish p .abandoned []).bus = { y.bus with pba := (y.finish p .abandoned []).bus.pba }
  rw [finish_eq]

/-- The end of the host session leaves the bus but for the pending-bit array. -/
theorem endHost_bus (e : SessEnd) (s : State) : (s.endHost e).bus = { s.bus with pba := (s.endHost e).bus.pba } := by
  by_cases h : s.sess.host.isSome = true
  · rw [endHost_some h]
    have k : ∀ u : State, ((((u.dropDraft .host).dropUpdate .host).dropHolds .host).driveAll false).bus = u.bus := fun u =>
      ((driveAll_keeps ..).bus (by decide)).trans (((dropHolds_keeps ..).bus (by decide)).trans (((dropUpdate_keeps ..).bus (by decide)).trans
        ((dropDraft_keeps ..).bus (by decide))))
    have n : ((s.hostLeaves e).endNotice e).bus = s.bus := (endNotice_keeps ..).bus (by decide)
    rw [k, ← n]
    unfold endCommands
    generalize (s.hostLeaves e).endNotice e = u
    generalize List.finRange 8 = l
    refine foldl_inv (fun t : State => t.bus = { u.bus with pba := t.bus.pba }) _ l (fun t p h => ?_) u rfl
    split
    · rw [abandon_bus, h]
    · exact h
  · unfold endHost
    rw [if_pos (by cases hh : s.sess.host <;> simp [hh] at h ⊢)]

end State

end Machine

end Sys2Proof
end

