-- ==== Sys2Proof/Laws/Resets.lean ====
section
/-!
SUPPORT. What a system reset leaves (R587, R591, R592, R599).
-/

namespace Sys2Proof.Machine

namespace State

variable {s : State} {b : Nat}

theorem leaveFull_of_not_full (h : s.dev.st ≠ .full) : s.leaveFull = s := by
  unfold leaveFull isFull
  rw [if_pos (by simpa using h)]

/-- Leaving Full: what comes before keeps the device, the power path, the boot state and more; then Keeper, with the upper cores held (R62, R66). -/
theorem leaveFull_full (h : s.dev.st = .full) : ∃ y : State, Keeps [.bus, .wins, .sess, .cfg, .cad, .gop, .chk, .basin, .integ, .slots, .upd, .ctr, .out, .free] s y ∧
    s.leaveFull.dev = { s.dev with
      st := .keeper, frame := s.dev.lt / 1024, plls := Vec.tab 5 (fun i => if i.1 = 0 then s.dev.plls.get i else .stopped) } ∧
    s.leaveFull.cad = resetCad ∧
    s.leaveFull.cfg = { y.cfg with eff := y.cfg.eff.filter (fun c => c.1.obj ≠ 0x50 && c.1.obj ≠ 0x51 && c.1.obj ≠ 0x60) } ∧
    s.leaveFull.boot = { s.boot with
      upper := none, upperHo := 0, upperCompat := [], ucodeCompat := [], meas := s.boot.meas.set 1 (zeros 32)
      cores := Vec.mapIdx s.boot.cores (fun k c => if 2 ≤ k.1 then { c with run := false, mapLocked := false, sectionsOk := false } else c) } := by
  unfold State.leaveFull
  split
  · rename_i h0; simp [isFull, h] at h0
  · rename_i h0
    clear h0
    extract_lets +onlyGivenNames z0
    extract_lets +onlyGivenNames z1
    extract_lets +onlyGivenNames y2
    have h2 : Keeps [.bus, .wins, .sess, .cfg, .cad, .gop, .chk, .basin, .integ, .slots, .upd, .ctr, .out, .free] s y2 := by
      unfold y2
      split
      · exact Keeps.step (Keeps.set_upd _ (Keeps.refl _ _) (by decide) (by exact fun i => i)) (State.finish_keeps ..) (by decide)
      · exact Keeps.refl _ _
    clear_value y2
    extract_lets +onlyGivenNames y3
    have h3 : Keeps [.bus, .wins, .sess, .cfg, .cad, .gop, .chk, .basin, .integ, .slots, .upd, .ctr, .out, .free] s y3 := by
      unfold y3
      refine Keeps.foldl _ _ ?_ (fun _ _ _ => ?_)
      · assumption
      · refine Keeps.step ?_ (State.holdSlot_keeps ..) (by decide)
        assumption
    clear_value y3
    extract_lets +onlyGivenNames y4
    have h4 : Keeps [.bus, .wins, .sess, .cfg, .cad, .gop, .chk, .basin, .integ, .slots, .upd, .ctr, .out, .free] s y4 := by
      unfold y4
      refine Keeps.step ?_ (State.commitOnLeave_keeps ..) (by decide)
      assumption
    clear_value y4
    extract_lets +onlyGivenNames y5
    have h5 : Keeps [.bus, .wins, .sess, .cfg, .cad, .gop, .chk, .basin, .integ, .slots, .upd, .ctr, .out, .free] s y5 := by
      unfold y5
      refine Keeps.foldl _ _ ?_ (fun _ _ _ => ?_)
      · assumption
      · refine Keeps.ite _ ?_ ?_
        · refine Keeps.step ?_ (State.abandon_keeps ..) (by decide)
          assumption
        · assumption
    clear_value y5
    extract_lets +onlyGivenNames z6
    extract_lets +onlyGivenNames y7
    have h7 : Keeps [.bus, .wins, .sess, .cfg, .cad, .gop, .chk, .basin, .integ, .slots, .upd, .ctr, .out, .free] s y7 := by
      unfold y7
      split
      · refine Keeps.ite _ ?_ ?_
        · refine Keeps.set_cfg _ ?_ (by decide)
          assumption
        · assumption
      · assumption
    clear_value y7
    extract_lets +onlyGivenNames y8
    have h8 : Keeps [.bus, .wins, .sess, .cfg, .cad, .gop, .chk, .basin, .integ, .slots, .upd, .ctr, .out, .free] s y8 := by
      unfold y8
      refine Keeps.step ?_ (State.basinClear_keeps ..) (by decide)
      refine Keeps.step ?_ (State.integLeave_keeps ..) (by decide)
      refine Keeps.step ?_ (State.chkLeave_keeps ..) (by decide)
      assumption
    clear_value y8
    extract_lets +onlyGivenNames z9
    extract_lets +onlyGivenNames y10
    have h10 : Keeps [.bus, .wins, .sess, .cfg, .cad, .gop, .chk, .basin, .integ, .slots, .upd, .ctr, .out, .free] s y10 := by
      unfold y10
      split
      · refine Keeps.ite _ ?_ ?_
        · refine Keeps.set_upd _ ?_ (by decide) (fun i => i)
          assumption
        · assumption
      · assumption
    clear_value y10
    extract_lets z11 z12 z13 z14 z15 z16 y17
    refine ⟨y10, h10, ?_, ?_, ?_, ?_⟩
    · rw [(State.mapChanged_keeps y17).dev (by decide)]
      show ({ y10.dev with st := .keeper, frame := y10.dev.lt / 1024, plls := Vec.tab 5 (fun i => if i.1 = 0 then y10.dev.plls.get i else .stopped) } : DevSt) = _
      rw [h10.dev (by decide)]
    · rw [(State.mapChanged_keeps y17).cad (by decide)]
    · rw [(State.mapChanged_keeps y17).cfg (by decide)]
    · rw [(State.mapChanged_keeps y17).boot (by decide)]
      show ({ y10.boot with
        upper := none, upperHo := 0, upperCompat := [], ucodeCompat := [], meas := y10.boot.meas.set 1 (zeros 32)
        cores := Vec.mapIdx y10.boot.cores (fun k c => if 2 ≤ k.1 then { c with run := false, mapLocked := false, sectionsOk := false } else c) } : BootSt) = _
      rw [h10.boot (by decide)]

/-- Leaving Full changes no more of the device than its state, its frame and its PLLs, and of the upper cores and what they ran. -/
theorem leaveFull_dev (s : State) : s.leaveFull.dev.phase = s.dev.phase ∧ s.leaveFull.dev.lt = s.dev.lt := by
  by_cases h : s.dev.st = .full
  · obtain ⟨_, _, e, _⟩ := leaveFull_full h
    rw [e]; exact ⟨rfl, rfl⟩
  · rw [leaveFull_of_not_full h]; exact ⟨rfl, rfl⟩

theorem leaveFull_phase (s : State) : s.leaveFull.dev.phase = s.dev.phase ∧ s.leaveFull.dev.lt = s.dev.lt := leaveFull_dev s

/-- A reset's first acts, in order. -/
theorem resetBegin_eq (b : Nat) (s : State) : s.resetBegin b =
    (let u := ((s.addCause b).notice (0x0830 + b)).leaveFull.haltCores
     { u with
       dev := { u.dev with rstLow := true }
       rst := { u.rst with last := b, window := none, rstSince := u.lt, reqTick := none } }) := rfl

theorem resetBegin_rst (b : Nat) (s : State) : (s.resetBegin b).rst =
    { s.rst with cause := setBit s.rst.cause b true, last := b, window := none, rstSince := s.lt, reqTick := none } := by
  rw [resetBegin_eq]
  set v := (s.addCause b).notice (0x0830 + b) with hv
  have h0 : v.rst = { s.rst with cause := setBit s.rst.cause b true } := ((notice_keeps ..).rst (by decide)).trans rfl
  have h1 : v.leaveFull.rst = v.rst := (leaveFull_keeps ..).rst (by decide)
  have hl : v.leaveFull.haltCores.lt = s.lt := by
    show v.leaveFull.dev.lt = s.dev.lt
    rw [(leaveFull_phase v).2]
    exact congrArg DevSt.lt (((notice_keeps ..).dev (by decide)).trans rfl)
  show ({ v.leaveFull.rst with last := b, window := none, rstSince := v.leaveFull.haltCores.lt, reqTick := none } : RstSt) = _
  rw [h1, h0, hl]

theorem resetBegin_keeps' (b : Nat) (s : State) :
    (s.resetBegin b).dev.rstLow = true ∧ (s.resetBegin b).dev.phase = s.dev.phase ∧ (s.resetBegin b).lt = s.lt ∧
    (∀ k, (s.resetBegin b).coreRuns k = false) ∧ (s.resetBegin b).casc = s.casc ∧ (s.resetBegin b).weir = s.weir ∧
    (s.dev.st ≠ .full → (s.resetBegin b).boot.flash = s.boot.flash ∧ (s.resetBegin b).boot.keys = s.boot.keys ∧ Counted (0x0830 + b) s (s.resetBegin b)) := by
  refine ⟨rfl, ?_, ?_, ?_, (resetBegin_keeps b s).casc (by decide), (resetBegin_keeps b s).weir (by decide), ?_⟩ <;> rw [resetBegin_eq]
  all_goals
    set v := (s.addCause b).notice (0x0830 + b) with hv
    have hd : v.dev = s.dev := ((notice_keeps ..).dev (by decide)).trans rfl
    have hb : v.boot = s.boot := ((notice_keeps ..).boot (by decide)).trans rfl
  · show v.leaveFull.dev.phase = _
    rw [(leaveFull_phase v).1, hd]
  · show v.leaveFull.dev.lt = _
    rw [(leaveFull_phase v).2, hd]; rfl
  · intro k
    show ((Vec.mapIdx v.leaveFull.boot.cores (fun _ c => { c with run := false })).get k).run = false
    rw [Vec.get_mapIdx]
  · intro hf
    have h1 : v.leaveFull = v := leaveFull_of_not_full (by rw [hd]; exact hf)
    rw [h1]
    refine ⟨?_, ?_, ?_⟩
    · show v.boot.flash = _
      rw [hb]
    · show v.boot.keys = _
      rw [hb]
    · have : Counted (0x0830 + b) (s.addCause b) v := notice_counted ..
      exact (this.congr rfl).after rfl

theorem shutdownEnd_rst (h : s.rst.stretch = none) : ∃ v, s.shutdownEnd.rst = { s.rst with bkp := v } := by
  unfold shutdownEnd
  split
  · exact ⟨_, rfl⟩
  · rename_i named _
    extract_lets y0 y1 y2 y3
    have hf : ∀ (t : State) (f : Feed), (∃ v, t.rst = { s.rst with bkp := v }) → ∃ v, (t.feedAllOff named f).rst = { s.rst with bkp := v } := by
      rintro t f ⟨v, hv⟩
      unfold feedAllOff
      extract_lets x
      split
      · refine ⟨Vec.upd v 0 (fun x => setBit x f.1 false), ?_⟩
        show ({ t.rst with bkp := Vec.upd t.rst.bkp 0 (fun x => setBit x f.1 false) } : RstSt) = _
        rw [hv]
      · split <;> exact ⟨v, hv⟩
    have h0 : ∃ v, y0.rst = { s.rst with bkp := v } := by
      unfold y0
      exact foldl_inv (fun t : State => ∃ v, t.rst = { s.rst with bkp := v }) _ _ (fun t f => hf t f) s ⟨_, rfl⟩
    have h3 : y3.rst = y0.rst := by
      unfold y3
      exact foldl_inv (fun t : State => t.rst = y0.rst) _ _ (fun t p ht => ((finish_keeps ..).rst (by decide)).trans ht) y2 rfl
    obtain ⟨v, hv⟩ := h0
    rw [if_neg (by rw [h3, hv, h]; decide)]
    exact ⟨v, h3.trans hv⟩

theorem startDown_st (h : s.casc.st = .up ∨ s.casc.st = .on) : s.startDown.casc.st = .down := by
  unfold startDown
  rw [if_neg (by rcases h with h | h <;> rw [h] <;> decide)]
  extract_lets top _ y
  exact congrArg CascSt.st ((slotsOff_keeps y).casc (by decide))

theorem systemClear_cores (k : Fin 8) : s.systemClear.coreRuns k = false := by
  show ((Vec.mapIdx s.boot.cores (fun _ c => { resetCore with wdFires := c.wdFires })).get k).run = false
  rw [Vec.get_mapIdx]; rfl

/-- A system reset that acts. -/
theorem systemReset_taken (b : Nat) (h : s.resettable = true) : ResetTaken b s (s.systemReset b) := by
  unfold resettable optionsIn at h
  simp only [Bool.and_eq_true, decide_eq_true_eq] at h
  obtain ⟨⟨⟨h1, h2⟩, h3⟩, hs⟩ := h
  have hs' : s.rst.stretch = none := by cases hx : s.rst.stretch <;> simp [hx] at hs ⊢
  have e : s.systemReset b = (if (s.resetBegin b).casc.st ≠ .allOff then
        ({ s.resetBegin b with rst := { (s.resetBegin b).rst with stretch := some (s.resetBegin b).lt } } : State).orderlyShutdown .reset 0
      else if (List.finRange 2).any (fun f => ((s.resetBegin b).feed f).st = .on || ((s.resetBegin b).feed f).st = .ramp) then
        ((s.resetBegin b).orderlyShutdown .reset 0).systemClear
      else (s.resetBegin b).systemClear) := by
    unfold systemReset
    split
    · rename_i h; exact absurd h h1
    · rename_i h; exact absurd h h2
    · rename_i h; exact absurd h h3
    · rw [if_neg (by rw [hs']; decide)]
  have r := resetBegin_rst b s
  obtain ⟨k1, k2, k3, k4, k5, k6, k7⟩ := resetBegin_keeps' b s
  have hfeed : ∀ f, (s.resetBegin b).feed f = s.feed f := fun f => by unfold feed; rw [k6]
  by_cases hc : s.casc.st = .allOff
  · have hc' : ¬ (s.resetBegin b).casc.st ≠ .allOff := by rw [k5]; simpa using hc
    by_cases hf : (List.finRange 2).any (fun f => (s.feed f).st = .on || (s.feed f).st = .ramp) = true
    · have hidle : s.powerIdle = false := by unfold powerIdle; rw [hf]; simp
      rw [e, if_neg hc', if_pos (by simp only [hfeed]; exact hf)]
      have ho : (s.resetBegin b).orderlyShutdown .reset 0 = State.shutdownEnd { s.resetBegin b with weir := { (s.resetBegin b).weir with
          holdup := none, shutdown := (match (s.resetBegin b).weir.shutdown with | none => some (ShutCause.reset, 0) | some (c', m) => some (c', m ||| 0)) } } := by
        unfold orderlyShutdown
        simp only
        rw [show (s.resetBegin b).casc.st = SeqState.allOff by rw [k5, hc]]
        all_goals rfl
      obtain ⟨v, hv⟩ := shutdownEnd_rst (s := { s.resetBegin b with weir := { (s.resetBegin b).weir with
          holdup := none, shutdown := (match (s.resetBegin b).weir.shutdown with | none => some (ShutCause.reset, 0) | some (c', m) => some (c', m ||| 0)) } })
        (by show (s.resetBegin b).rst.stretch = none; rw [r]; exact hs')
      have hv' : ((s.resetBegin b).orderlyShutdown .reset 0).rst = { (s.resetBegin b).rst with bkp := v } := by rw [ho, hv]
      refine ⟨?_, ?_, ⟨rfl, rfl⟩, rfl, fun k => systemClear_cores k, ?_, ?_, ?_⟩
      · show ((s.resetBegin b).orderlyShutdown .reset 0).rst.cause = _
        rw [hv', r]
      · show ((s.resetBegin b).orderlyShutdown .reset 0).rst.last = _
        rw [hv', r]
      · intro hi; rw [hidle] at hi; cases hi
      · intro hi; rw [hidle] at hi; cases hi
      · intro hi; exact absurd hc hi
    · rw [e, if_neg hc', if_neg (by simp only [hfeed]; exact hf)]
      refine ⟨?_, ?_, ⟨rfl, rfl⟩, rfl, fun k => systemClear_cores k, fun _ => ⟨rfl, rfl, rfl, rfl, rfl, rfl⟩, fun _ hn => ?_, fun hi => absurd hc hi⟩
      · show (s.resetBegin b).rst.cause = _
        rw [r]
      · show (s.resetBegin b).rst.last = _
        rw [r]
      · exact ⟨(k7 hn).1, (k7 hn).2.1, (k7 hn).2.2.congr rfl⟩
  · have hc' : (s.resetBegin b).casc.st ≠ .allOff := by rw [k5]; exact hc
    rw [e, if_pos hc']
    set u : State := { s.resetBegin b with rst := { (s.resetBegin b).rst with stretch := some (s.resetBegin b).lt } } with hu
    have key : (u.orderlyShutdown .reset 0).casc.st = .down ∧ (u.orderlyShutdown .reset 0).rst = u.rst ∧ (u.orderlyShutdown .reset 0).dev = u.dev ∧
        (u.orderlyShutdown .reset 0).boot = u.boot := by
      set y : State := { u with weir := { u.weir with
          holdup := none, shutdown := (match u.weir.shutdown with | none => some (ShutCause.reset, 0) | some (c', m) => some (c', m ||| 0)) } } with hyd
      have eo : u.orderlyShutdown .reset 0 = (match y.casc.st with | .allOff => y.shutdownEnd | .up | .on => y.startDown | .down => y) := rfl
      have hy : y.casc.st = s.casc.st := by show (s.resetBegin b).casc.st = _; rw [k5]
      rw [eo]
      cases hz : s.casc.st with
      | allOff => exact absurd hz hc
      | up =>
        rw [hy, hz]
        exact ⟨startDown_st (.inl (hy.trans hz)), (startDown_keeps y).rst (by decide), (startDown_keeps y).dev (by decide), (startDown_keeps y).boot (by decide)⟩
      | on =>
        rw [hy, hz]
        exact ⟨startDown_st (.inr (hy.trans hz)), (startDown_keeps y).rst (by decide), (startDown_keeps y).dev (by decide), (startDown_keeps y).boot (by decide)⟩
      | down =>
        rw [hy, hz]
        exact ⟨hy.trans hz, rfl, rfl, rfl⟩
    obtain ⟨q1, q2, q3, q4⟩ := key
    have hni : s.powerIdle = false := by unfold powerIdle; simp [hc]
    refine ⟨?_, ?_, ?_, ?_, ?_, ?_, ?_, ?_⟩
    · rw [q2]; show (s.resetBegin b).rst.cause = _; rw [r]
    · rw [q2]; show (s.resetBegin b).rst.last = _; rw [r]
    · rw [q2]; show (s.resetBegin b).rst.window = none ∧ (s.resetBegin b).rst.reqTick = none; rw [r]; exact ⟨rfl, rfl⟩
    · rw [q3]; exact k1
    · intro k; unfold coreRuns; rw [q4]; exact k4 k
    · intro hi; rw [hni] at hi; cases hi
    · intro hi; rw [hni] at hi; cases hi
    · intro _; exact ⟨q1, by rw [q2]; exact congrArg some k3, by rw [q3]; exact k2⟩

/-! ### Core resets -/

theorem raise_one_ctrVal_ne {c c' : Nat} (h : c' ≠ c) (sc : Scope) (s : State) : (s.raise c 1 sc).ctrVal c' = s.ctrVal c' := by
  rw [raise_one]
  split
  · exact count_ctrVal_ne _ h
  · exact count_ctrVal_ne _ h

theorem notice_ctrVal_ne {c c' : Nat} (h : c' ≠ c) (s : State) : (s.notice c).ctrVal c' = s.ctrVal c' := raise_one_ctrVal_ne h ..

theorem coreRestart_core (k j : Fin 8) (s : State) :
    (s.coreRestart k).core j = if j = k then wdFresh s.lt (s.core k) else s.core j := by
  have h : (s.coreRestart k).boot.cores = Vec.upd s.boot.cores k (wdFresh s.lt) := by
    have a : ∀ (y : State), (if k.1 < 2 then { y with boot := { y.boot with confirmFrom := y.lt } } else y).boot.cores = y.boot.cores := by
      intro y; split <;> rfl
    unfold coreRestart
    simp only
    split <;> exact a _
  unfold core
  rw [h]
  by_cases e : j = k
  · rw [e, if_pos rfl]; exact Vec.get_upd_self ..
  · rw [if_neg e]; exact Vec.get_upd_ne _ _ e

theorem coreRestart_same (k : Fin 8) (s : State) : (s.coreRestart k).rst = s.rst ∧ (s.coreRestart k).ctr = s.ctr ∧ (s.coreRestart k).dev = s.dev :=
  ⟨(coreRestart_keeps ..).rst (by decide), (coreRestart_keeps ..).ctr (by decide), (coreRestart_keeps ..).dev (by decide)⟩

/-- The record, the cause and the log of a core reset. -/
def coreNoted (k : Fin 8) (watchdog : Bool) (pc addr : Nat) (s : State) : State :=
  ((s.addCause (coreBit k watchdog)).logEntry 9 0x006 k.1 (coreBit k watchdog)).coreRecord k (coreBit k watchdog) pc addr

theorem coreNoted_facts (k : Fin 8) (wd : Bool) (pc addr : Nat) (s : State) :
    (s.coreNoted k wd pc addr).rst = { s.rst with
      cause := setBit s.rst.cause (coreBit k wd) true
      records := (s.rst.records ++ [(k.1, coreBit k wd, s.lt, pc, addr, (s.core k).wdMs)]).drop
        ((s.rst.records ++ [(k.1, coreBit k wd, s.lt, pc, addr, (s.core k).wdMs)]).length - 16) } ∧
    (s.coreNoted k wd pc addr).boot = s.boot ∧ (s.coreNoted k wd pc addr).dev = s.dev ∧
    (s.coreNoted k wd pc addr).ctr.vals = s.ctr.vals ∧ Keeps [.rst, .ctr] s (s.coreNoted k wd pc addr) :=
  ⟨rfl, rfl, rfl, rfl, (((Keeps.refl _ _).step (addCause_keeps ..) (by decide)).step (logEntry_keeps ..) (by decide)).step (coreRecord_keeps ..) (by decide)⟩

/-- A core reset whose text check passes. -/
theorem coreReset_passes {k : Fin 8} {wd : Bool} {pc addr sys : Nat} {s : State} (hs : s.rst.stretch = none) (hr : (s.core k).run = true) :
    s.coreReset k wd true pc addr sys =
      (if k.1 < 2 then (s.coreNoted k wd pc addr).notice 0x0838 else s.coreNoted k wd pc addr).coreRestart k := by
  unfold coreReset
  rw [if_neg (by rw [hs, hr]; decide)]
  rfl

/-- What a core reset whose text check passes leaves. -/
theorem coreReset_facts {k : Fin 8} {wd : Bool} {pc addr sys : Nat} {s : State} (hs : s.rst.stretch = none) (hr : (s.core k).run = true) :
    (∀ j, (s.coreReset k wd true pc addr sys).core j = if j = k then wdFresh s.lt (s.core k) else s.core j) ∧
    (s.coreReset k wd true pc addr sys).rst = (s.coreNoted k wd pc addr).rst ∧
    (∀ c, c ≠ 0x0838 → (s.coreReset k wd true pc addr sys).ctrVal c = s.ctrVal c) ∧
    (k.1 < 2 → Counted 0x0838 s (s.coreReset k wd true pc addr sys)) ∧
    Keeps [.cool, .integ, .boot, .rst, .ctr] s (s.coreReset k wd true pc addr sys) := by
  rw [coreReset_passes hs hr]
  have n := coreNoted_facts k wd pc addr s
  by_cases h2 : k.1 < 2
  · rw [if_pos h2]
    set u := (s.coreNoted k wd pc addr).notice 0x0838 with hu
    have ub : u.boot = s.boot := ((notice_keeps ..).boot (by decide)).trans n.2.1
    have ud : u.dev = s.dev := ((notice_keeps ..).dev (by decide)).trans n.2.2.1
    have r := coreRestart_same k u
    refine ⟨fun j => ?_, ?_, ?_, ?_, ?_⟩
    · rw [coreRestart_core]
      have : ∀ j, u.core j = s.core j := fun j => by unfold core; rw [ub]
      rw [this, this, show u.lt = s.lt by unfold lt; rw [ud]]
    · rw [r.1]; exact (notice_keeps ..).rst (by decide)
    · intro c hc
      show Assoc.get 0 (u.coreRestart k).ctr.vals c = _
      rw [r.2.1]
      show u.ctrVal c = _
      rw [hu, notice_ctrVal_ne hc]
      show Assoc.get 0 (s.coreNoted k wd pc addr).ctr.vals c = _
      rw [n.2.2.2.1]; rfl
    · intro _
      exact ((notice_counted 0x838 _).congr (congrArg CtrSt.vals r.2.1)).after n.2.2.2.1
    · exact (((Keeps.refl _ _).step n.2.2.2.2 (by decide)).step (notice_keeps ..) (by decide)).step (coreRestart_keeps ..) (by decide)
  · rw [if_neg h2]
    have r := coreRestart_same k (s.coreNoted k wd pc addr)
    refine ⟨fun j => ?_, r.1, ?_, fun h => absurd h h2, ?_⟩
    · rw [coreRestart_core]; rfl
    · intro c _
      show Assoc.get 0 ((s.coreNoted k wd pc addr).coreRestart k).ctr.vals c = _
      rw [r.2.1, n.2.2.2.1]; rfl
    · exact ((Keeps.refl _ _).step n.2.2.2.2 (by decide)).step (coreRestart_keeps ..) (by decide)

/-- A watchdog's fire, before the reset that it asks for. -/
theorem wdFire_facts (k : Fin 8) (s : State) :
    (∀ j, (s.wdFire k).core j = if j = k then { s.core k with
      wdFires := min 255 ((s.core k).wdFires + 1)
      wdRecent := (s.core k).wdRecent.filter (fun t => s.lt < t + 60000000) ++ [s.lt] } else s.core j) ∧
    (s.wdFire k).rst = s.rst ∧ (s.wdFire k).dev = s.dev ∧ Counted (0x0818 + k.1) s (s.wdFire k) := by
  unfold wdFire
  set u := s.updCore k (fun c => { c with
    wdFires := min 255 (c.wdFires + 1)
    wdRecent := c.wdRecent.filter (fun t => s.lt < t + 60000000) ++ [s.lt] }) with hu
  refine ⟨fun j => ?_, (notice_keeps ..).rst (by decide), (notice_keeps ..).dev (by decide), (notice_counted _ u).after rfl⟩
  have : (u.notice (0x0818 + k.1)).boot = u.boot := (notice_keeps ..).boot (by decide)
  unfold core
  rw [this]
  by_cases e : j = k
  · rw [e, if_pos rfl]; exact Vec.get_upd_self ..
  · rw [if_neg e]; exact Vec.get_upd_ne _ _ e

/-! ### The keeper image starts -/

theorem keeperLoad_facts (be pp : Nat) (s : State) :
    (s.keeperLoad be pp).dev = { s.dev with st := .keeper, phase := .running } ∧ (s.keeperLoad be pp).cfg.loaded = true ∧
    (s.keeperLoad be pp).boot.tBe = be ∧ (s.keeperLoad be pp).boot.tPp = pp ∧ (s.keeperLoad be pp).boot.confirmFrom = s.lt ∧
    (s.keeperLoad be pp).boot.cores = s.boot.cores := by
  have a : ∀ u : State, u.loadStore.cfg.loaded = true := by intro u; unfold loadStore; split <;> rfl
  have m : ∀ u : State, (u.measureStore).measurePacks.boot = { u.boot with meas := (u.measureStore).measurePacks.boot.meas } := by
    intro u; unfold measurePacks measureStore; split <;> rfl
  have k := loadStore_keeps { s with dev := { s.dev with st := .keeper, phase := .running } }
  have n : ∀ u : State, Keeps [.boot] u (u.measureStore).measurePacks := fun u =>
    ((Keeps.refl _ _).step (measureStore_keeps u) (by decide)).step (measurePacks_keeps ..) (by decide)
  unfold keeperLoad
  simp only
  generalize hu : State.loadStore { s with dev := { s.dev with st := .keeper, phase := .running } } = u at k
  have kl : u.lt = s.lt := (congrArg DevSt.lt (k.dev (by decide))).trans rfl
  have kd := k.dev (by decide)
  have kb := k.boot (by decide)
  have kf : u.cfg.loaded = true := by rw [← hu]; exact a _
  generalize hv : ({ u with boot := { u.boot with tBe := be, tPp := pp, released := true, confirmFrom := u.lt } } : State) = v
  have vb : v.boot = { u.boot with tBe := be, tPp := pp, released := true, confirmFrom := u.lt } := by rw [← hv]
  have vd : v.dev = u.dev := by rw [← hv]
  have vc : v.cfg = u.cfg := by rw [← hv]
  have nv := n v
  have mv := m v
  refine ⟨?_, ?_, ?_, ?_, ?_, ?_⟩
  · exact (nv.dev (by decide)).trans (vd.trans kd)
  · show (v.measureStore.measurePacks).cfg.loaded = true
    rw [nv.cfg (by decide), vc]; exact kf
  · show (v.measureStore.measurePacks).boot.tBe = be
    rw [mv, vb]
  · show (v.measureStore.measurePacks).boot.tPp = pp
    rw [mv, vb]
  · show (v.measureStore.measurePacks).boot.confirmFrom = s.lt
    rw [mv, vb]; exact kl
  · show (v.measureStore.measurePacks).boot.cores = s.boot.cores
    rw [mv, vb, kb]

theorem releaseK1_facts (s : State) :
    s.releaseK1.boot = { s.boot with cores := s.releaseK1.boot.cores } ∧ s.releaseK1.dev = s.dev ∧ s.releaseK1.cfg = s.cfg ∧
    ((s.core 1).sectionsOk = true → (s.core 1).stopped = false → s.releaseK1.coreRuns 1 = true) := by
  refine ⟨?_, (releaseK1_keeps s).dev (by decide), (releaseK1_keeps s).cfg (by decide), ?_⟩
  · unfold releaseK1
    simp only
    generalize hu : s.updCore 1 (fun c => { c with mapLocked := true }) = u
    have ub : u.boot = { s.boot with cores := u.boot.cores } := by rw [← hu]; rfl
    split
    · unfold releaseCore
      rw [if_neg (by decide)]
      show ({ u.boot with cores := _ } : BootSt) = _
      rw [ub]
      rfl
    · rw [(notice_keeps ..).boot (by decide)]; exact ub
  · intro h1 h2
    have hc : (s.updCore 1 (fun c => { c with mapLocked := true })).core 1 = { s.core 1 with mapLocked := true } := Vec.get_upd_self ..
    have hr : (s.updCore 1 (fun c => { c with mapLocked := true })).releasable 1 = true := by
      unfold releasable; rw [hc]; simp [h1, h2]
    unfold releaseK1
    simp only
    rw [if_pos hr]
    unfold releaseCore
    simp only
    rw [if_neg (by decide)]
    unfold coreRuns
    show ((Vec.upd (s.updCore 1 _).boot.cores 1 _).get 1).run = true
    rw [Vec.get_upd_self]

theorem keeperStart_facts (be pp : Nat) (s : State) :
    (s.keeperStart be pp).dev = { s.dev with st := .keeper, phase := .running } ∧ (s.keeperStart be pp).cfg.loaded = true ∧
    (s.keeperStart be pp).cool.applied = true ∧ (s.keeperStart be pp).cool.fullHold = false ∧
    (s.keeperStart be pp).boot.tBe = be ∧ (s.keeperStart be pp).boot.tPp = pp ∧ (s.keeperStart be pp).boot.confirmFrom = s.lt ∧
    ((s.core 1).sectionsOk = true → (s.core 1).stopped = false → (s.keeperStart be pp).coreRuns 1 = true) := by
  have l := keeperLoad_facts be pp s
  generalize hu : s.keeperLoad be pp = u at l
  have r := releaseK1_facts u
  generalize hv : u.releaseK1 = v at r
  have f := keeperFans_keeps v
  have fc : v.keeperFans.cool.applied = true ∧ v.keeperFans.cool.fullHold = false := by
    unfold keeperFans
    rw [driveAll_cool]
    exact ⟨rfl, rfl⟩
  generalize hw : v.keeperFans = w at f fc
  have z : ∀ x : State, (x.dev = w.dev ∧ x.cfg = w.cfg ∧ x.boot = w.boot ∧ x.cool = w.cool) →
      ∀ i, ((x.feedStart i).dev = w.dev ∧ (x.feedStart i).cfg = w.cfg ∧ (x.feedStart i).boot = w.boot ∧ (x.feedStart i).cool = w.cool) := by
    intro x hx i
    have k := feedStart_keeps x i
    rw [k.dev (by decide), k.cfg (by decide), k.boot (by decide), k.cool (by decide)]
    exact hx
  have e : s.keeperStart be pp = (List.finRange 2).foldl feedStart w := by unfold keeperStart; rw [hu, hv, hw]
  have q := foldl_inv (fun x : State => x.dev = w.dev ∧ x.cfg = w.cfg ∧ x.boot = w.boot ∧ x.cool = w.cool) feedStart (List.finRange 2) (fun x i h => z x h i) w
    ⟨rfl, rfl, rfl, rfl⟩
  rw [← e] at q
  obtain ⟨q1, q2, q3, q4⟩ := q
  have wb : w.boot = v.boot := f.boot (by decide)
  refine ⟨?_, ?_, ?_, ?_, ?_, ?_, ?_, ?_⟩
  · rw [q1, f.dev (by decide), r.2.1, l.1]
  · rw [q2, f.cfg (by decide), r.2.2.1]; exact l.2.1
  · rw [q4]; exact fc.1
  · rw [q4]; exact fc.2
  · rw [q3, wb, r.1]; exact l.2.2.1
  · rw [q3, wb, r.1]; exact l.2.2.2.1
  · rw [q3, wb, r.1]; exact l.2.2.2.2.1
  · intro h1 h2
    have hc : u.core 1 = s.core 1 := by unfold core; rw [l.2.2.2.2.2]
    have := r.2.2.2 (by rw [hc]; exact h1) (by rw [hc]; exact h2)
    unfold coreRuns at this ⊢
    rw [q3, wb]; exact this

end State

end Sys2Proof.Machine
end

