-- ==== Sys2Proof/Laws/Feeds.lean ====
section
/-!
SUPPORT. The feeds of the Weir: what a ramp, a trip and a loss leave of each feed (R177 to R187, R194 to R197).
-/

namespace Sys2Proof.Machine

namespace State

variable {s : State} {f g : Feed}

@[simp] theorem updFeed_feed_self (k : FeedSt → FeedSt) : (s.updFeed f k).feed f = k (s.feed f) := Vec.get_upd_self ..

theorem updFeed_feed_ne (k : FeedSt → FeedSt) (h : g ≠ f) : (s.updFeed f k).feed g = s.feed g := Vec.get_upd_ne _ _ h

theorem startRamp_feed : (s.startRamp f).feed f = s.ramping f (s.feed f) := Vec.get_upd_self ..

theorem tryRamp_ramps (h : (s.feed f).st = .off) (hw : (s.feed f).wasOn = true) (hi : (s.feed f).inWin = true) (hs : (s.feed f).settled = true)
    (hm : s.mayRamp f = true) : (s.tryRamp f).feed f = s.ramping f (s.feed f) := by
  unfold tryRamp
  rw [if_pos (by rw [h, hw, hi, hs, hm]; rfl)]
  exact startRamp_feed

theorem tryRamp_stays (h : (s.feed f).wasOn = false ∨ (s.feed f).inWin = false ∨ (s.feed f).settled = false ∨ (s.feed f).st ≠ .off) : s.tryRamp f = s := by
  unfold tryRamp
  rw [if_neg]
  rcases h with h | h | h | h <;> simp [h]

theorem feed_of_weir {t : State} (h : t.weir = s.weir) : t.feed f = s.feed f := by unfold feed; rw [h]

/-- A feed's trip (R183 to R187). -/
theorem tripFeed_feed (c : TripCause) (h : (s.feed f).st = .ramp ∨ (s.feed f).st = .on) :
    (s.tripFeed f c).feed f =
      (if (s.feed f).retries < s.fld 0x11 f.1 0xB then
        { gateLow .cooldown (s.feed f) with
          trip := c, lastTrip := some s.lt, retries := (s.feed f).retries + 1, latched := false, cooldown := 1000000 * s.fld 0x11 f.1 0xA }
      else { gateLow .latched (s.feed f) with trip := c, lastTrip := some s.lt, latched := true, cooldown := 0 }) ∧
    (∀ g, g ≠ f → (s.tripFeed f c).feed g = s.feed g) ∧
    (s.dev.st ≠ .full → Counted (tripCounter f c) s (s.tripFeed f c)) ∧
    (s.dev.st ≠ .full → ¬ (s.feed f).retries < s.fld 0x11 f.1 0xB → Counted (0x0026 + 8 * f.1) s (s.tripFeed f c)) := by
  have hst : ¬ ((s.feed f).st ≠ .ramp ∧ (s.feed f).st ≠ .on) := by rcases h with h | h <;> simp [h]
  have hn := notice_keeps (tripCounter f c) s
  have hnw := hn.weir (by decide)
  have hnc := hn.cfg (by decide)
  have hnl : (s.notice (tripCounter f c)).lt = s.lt := congrArg DevSt.lt (hn.dev (by decide))
  have hct : tripCounter f c ≠ 0x0026 + 8 * f.1 := by
    unfold tripCounter; have := f.isLt; cases c <;> simp [TripCause.num] <;> omega
  have tail : ∀ u : State, ((u.weirOnFail f (some (f, c))).weirOffFull).weir = u.weir ∧
      (u.dev.st ≠ .full → ((u.weirOnFail f (some (f, c))).weirOffFull).ctr = u.ctr) := by
    intro u
    have w := weirOnFail_keeps f (some (f, c)) u
    refine ⟨((weirOffFull_keeps ..).weir (by decide)).trans (w.weir (by decide)), fun hf => ?_⟩
    unfold weirOffFull
    split
    · rw [leaveFull_of_not_full (by rw [w.dev (by decide)]; exact hf)]; exact w.ctr (by decide)
    · exact w.ctr (by decide)
  by_cases hr : (s.feed f).retries < s.fld 0x11 f.1 0xB
  · set u : State := (s.notice (tripCounter f c)).updFeed f (fun y => { gateLow .cooldown y with
        trip := c, lastTrip := some s.lt, retries := y.retries + 1, latched := false, cooldown := 1000000 * s.fld 0x11 f.1 0xA }) with hu
    have e : s.tripFeed f c = (u.weirOnFail f (some (f, c))).weirOffFull := by
      have hr' : (s.feed f).retries < State.fld (s.notice (tripCounter f c)) 0x11 f.1 0xB := by unfold fld cfgVal; rw [hnc]; exact hr
      unfold tripFeed
      simp only
      rw [if_neg (by simpa using hst)]
      simp only [hr', decide_true, if_true, Bool.not_true]
      rw [hnl, show State.fld (s.notice (tripCounter f c)) 0x11 f.1 0xA = s.fld 0x11 f.1 0xA by unfold fld cfgVal; rw [hnc]]
    have t := tail u
    rw [← e] at t
    refine ⟨?_, ?_, ?_, fun _ h => absurd hr h⟩
    · rw [feed_of_weir t.1, if_pos hr, hu, updFeed_feed_self, feed_of_weir hnw]
    · intro g hg
      rw [feed_of_weir t.1, hu, updFeed_feed_ne _ hg, feed_of_weir hnw]
    · intro hf
      exact (notice_counted (tripCounter f c) s).congr (congrArg CtrSt.vals (t.2 (by rw [hu]; show (s.notice _).dev.st ≠ _; rw [hn.dev (by decide)]; exact hf)))
  · set v : State := (s.notice (tripCounter f c)).updFeed f (fun y => { gateLow .latched y with
        trip := c, lastTrip := some s.lt, latched := true, cooldown := 0 }) with hv
    set u : State := v.notice (0x0026 + 8 * f.1) with hu
    have e : s.tripFeed f c = (u.weirOnFail f (some (f, c))).weirOffFull := by
      have hr' : ¬ (s.feed f).retries < State.fld (s.notice (tripCounter f c)) 0x11 f.1 0xB := by unfold fld cfgVal; rw [hnc]; exact hr
      unfold tripFeed
      simp only
      rw [if_neg (by simpa using hst)]
      simp only [hr', decide_false, Bool.false_eq_true, if_false, Bool.not_false]
      rw [hnl]
      rfl
    have t := tail u
    rw [← e] at t
    have uw : u.weir = v.weir := (notice_keeps ..).weir (by decide)
    have ud : u.dev = s.dev := ((notice_keeps ..).dev (by decide)).trans (hn.dev (by decide))
    refine ⟨?_, ?_, ?_, ?_⟩
    · rw [feed_of_weir (t.1.trans uw), if_neg hr, hv, updFeed_feed_self, feed_of_weir hnw]
    · intro g hg
      rw [feed_of_weir (t.1.trans uw), hv, updFeed_feed_ne _ hg, feed_of_weir hnw]
    · intro hf
      have q := congrArg CtrSt.vals (t.2 (by rw [ud]; exact hf))
      have : u.ctrVal (tripCounter f c) = (s.notice (tripCounter f c)).ctrVal (tripCounter f c) := by rw [hu, notice_ctrVal_ne hct]; rfl
      unfold Counted ctrVal at *
      rw [q]
      exact this.trans (notice_counted (tripCounter f c) s)
    · intro hf _
      have q := congrArg CtrSt.vals (t.2 (by rw [ud]; exact hf))
      have k : Counted (0x0026 + 8 * f.1) v u := notice_counted ..
      have : v.ctrVal (0x0026 + 8 * f.1) = s.ctrVal (0x0026 + 8 * f.1) := notice_ctrVal_ne (Ne.symm hct) s
      unfold Counted at *
      rw [← this]
      unfold ctrVal at *
      rw [q]; exact k

theorem emergency_weir : s.emergency.weir = s.weir := (emergency_keeps s).weir (by decide)

/-- The survivor of a feed's loss takes its ceiling (R194). -/
theorem surviveLoss_feed (p : Nat) (g : Feed) : (s.surviveLoss f p).feed g =
    if g = otherFeed f ∧ (s.feed g).st = .on then { s.feed g with limit := s.ceilingMa g } else s.feed g := by
  unfold surviveLoss
  by_cases h : (s.feed (otherFeed f)).st = .on
  · simp only
    rw [if_neg (by simpa using h)]
    have base : ∀ g, (s.updFeed (otherFeed f) (fun x => { x with limit := s.ceilingMa (otherFeed f) })).feed g =
        if g = otherFeed f ∧ (s.feed g).st = .on then { s.feed g with limit := s.ceilingMa g } else s.feed g := by
      intro g
      by_cases hg : g = otherFeed f
      · subst hg; rw [updFeed_feed_self, if_pos ⟨rfl, h⟩]
      · rw [updFeed_feed_ne _ hg, if_neg (by simp [hg])]
    split
    · exact base g
    · rw [feed_of_weir (emergency_weir), ← base g]
      refine feed_of_weir ?_
      refine foldl_inv (fun t : State => t.weir = (s.updFeed (otherFeed f) (fun x => { x with limit := s.ceilingMa (otherFeed f) })).weir) _ _
        (fun t x ht => ((updGrp_keeps ..).weir (by decide)).trans ht) _ ((notice_keeps ..).weir (by decide))
  · simp only
    rw [if_pos (by simpa using h), if_neg]
    rintro ⟨rfl, h'⟩
    exact h h'

theorem other_ne (f : Feed) : otherFeed f ≠ f := by revert f; decide
theorem eq_other {f g : Feed} (h : g ≠ f) : g = otherFeed f := by revert h; revert f g; decide

/-- A feed in ON is lost: its gate low, the survivor at its ceiling (R194). -/
theorem loseFeed_feed (st : FeedState) (p : Nat) :
    (s.loseFeed f st p).feed f = { gateLow st (s.feed f) with lost := true, settled := false } ∧
    ∀ g, g ≠ f → (s.loseFeed f st p).feed g = if (s.feed g).st = .on then { s.feed g with limit := s.ceilingMa g } else s.feed g := by
  unfold loseFeed
  set u : State := State.notice (0x0025 + 8 * f.1) (s.updFeed f (fun x => { gateLow st x with lost := true, settled := false })) with hu
  have uw : u.weir = (s.updFeed f (fun x => { gateLow st x with lost := true, settled := false })).weir := (notice_keeps ..).weir (by decide)
  have uc : ∀ g, u.ceilingMa g = s.ceilingMa g := by
    intro g; unfold ceilingMa fld cfgVal; rw [show u.cfg = s.cfg from (notice_keeps ..).cfg (by decide)]
  refine ⟨?_, fun g hg => ?_⟩
  · rw [surviveLoss_feed, if_neg (fun h => other_ne f h.1.symm), feed_of_weir uw, updFeed_feed_self]
  · rw [surviveLoss_feed, feed_of_weir uw, updFeed_feed_ne _ hg, uc]
    rw [← eq_other hg]
    simp

/-- A ramping feed at power-good (R178). -/
theorem feedGood_facts (f : Feed) (v : Nat) (i : Int) (s : State) : (s.feedGood f v i).weir.onTick = s.lt ∧
    ((s.feedGood f v i).feed f).st = .on ∧ ((s.feedGood f v i).feed f).vout = v ∧ ((s.feedGood f v i).feed f).i = i ∧
    ((s.feedGood f v i).feed f).onSince = s.lt ∧ ((s.feedGood f v i).feed f).lost = false ∧
    ((s.feedGood f v i).feed f).fast = 100 * s.fld 0x11 f.1 6 ∧ ∀ g, g ≠ f → (s.feedGood f v i).feed g = s.feed g := by
  have tail : ∀ (c : State) (b : Bool), (if b then c.withdrawLoss else c).weirOnSettle.weir = c.weir := by
    intro c b
    rw [(weirOnSettle_keeps ..).weir (by decide)]
    cases b
    · rfl
    · exact (withdrawLoss_keeps ..).weir (by decide)
  obtain ⟨b, l, hb, hf, ho, hl, hq⟩ : ∃ (b : State) (l : Nat),
      s.feedGood f v i = (if (s.feed f).lost then (b.updFeed f (fun x => { x with limit := l, fast := 100 * s.fld 0x11 f.1 6 })).withdrawLoss
        else b.updFeed f (fun x => { x with limit := l, fast := 100 * s.fld 0x11 f.1 6 })).weirOnSettle ∧
      b.feed f = { s.feed f with st := .on, vout := v, i := i, onSince := s.lt, avgVout := none, lost := false, inLimit := false, faultStart := none } ∧
      (∀ g, g ≠ f → b.feed g = s.feed g) ∧ b.weir.onTick = s.lt ∧ True :=
    ⟨{ s.updFeed f (fun x => { x with st := .on, vout := v, i := i, onSince := s.lt, avgVout := none, lost := false, inLimit := false, faultStart := none }) with
        weir := { (s.updFeed f (fun x => { x with st := .on, vout := v, i := i, onSince := s.lt, avgVout := none, lost := false, inLimit := false, faultStart := none })).weir with onTick := s.lt } },
      _, rfl, updFeed_feed_self _, fun g hg => updFeed_feed_ne _ hg, rfl, trivial⟩
  generalize hc : b.updFeed f (fun x => { x with limit := l, fast := 100 * s.fld 0x11 f.1 6 }) = c at hb
  have e : (s.feedGood f v i).weir = c.weir := by rw [hb]; exact tail c _
  have cf : c.feed f = { b.feed f with limit := l, fast := 100 * s.fld 0x11 f.1 6 } := by rw [← hc]; exact updFeed_feed_self _
  have co : c.weir.onTick = b.weir.onTick := by rw [← hc]; rfl
  have cg : ∀ g, g ≠ f → c.feed g = b.feed g := by intro g hg; rw [← hc]; exact updFeed_feed_ne _ hg
  refine ⟨by rw [e, co, hl], ?_, ?_, ?_, ?_, ?_, ?_, fun g hg => by rw [feed_of_weir e, cg g hg, ho g hg]⟩ <;> rw [feed_of_weir e, cf, hf]

/-- What a closed power window leaves (R200 to R202). -/
theorem windowClose_facts (p : Nat) (a b : FeedMeas) (s : State) (hb : s.weir.budgetStep = s.weir.budgetApplied) :
    (s.windowClose p a b).weir.pMw = p ∧ (s.windowClose p a b).weir.winTick = s.lt - 10000 ∧
    ((s.windowClose p a b).feed 0).vin = a.vin ∧ ((s.windowClose p a b).feed 1).vin = b.vin ∧
    (1000 * s.fld 0x10 0 1 < p → s.weir.overRun = 2 → s.weir.budgetStep < 15 → (s.windowClose p a b).weir.budgetStep = s.weir.budgetStep + 1) ∧
    (p ≤ 1000 * s.fld 0x10 0 1 → s.weir.budgetStep = 0 → (s.windowClose p a b).weir.budgetStep = 0 ∧ (s.windowClose p a b).weir.overRun = 0) ∧
    (0 < s.weir.budgetStep → s.weir.budgetStep ≤ 15 → 100 * p * (17 - s.weir.budgetStep) ≤ 95 * (1000 * s.fld 0x10 0 1) * (16 - s.weir.budgetStep) →
      p ≤ 1000 * s.fld 0x10 0 1 → s.weir.underRun = 99 → (s.windowClose p a b).weir.budgetStep = s.weir.budgetStep - 1) := by
  have same : ∀ (u : State) (n q : Nat) (g : Feed), State.feed { u with weir := { u.weir with winTick := n, pMw := q } } g = u.feed g := fun _ _ _ _ => rfl
  obtain ⟨v, e, v1, v2, v3, v4, v5, v6, f0, f1⟩ : ∃ v : State, (s.windowClose p a b = 
      if v.weir.budgetStep ≠ v.weir.budgetApplied then v
      else
        let o := if 1000 * v.fld 0x10 0 1 < p then v.weir.overRun + 1 else 0
        let u := if 0 < v.weir.budgetStep && 100 * p * (17 - v.weir.budgetStep) ≤ 95 * (1000 * v.fld 0x10 0 1) * (16 - v.weir.budgetStep) then v.weir.underRun + 1 else 0
        if 3 ≤ o && v.weir.budgetStep < 15 then
          (State.notice 0x0031 { v with weir := { v.weir with budgetStep := v.weir.budgetStep + 1, overRun := 0, underRun := 0 } }).requestsChanged
        else if 100 ≤ u then
          (State.count 0x0032 { v with weir := { v.weir with budgetStep := v.weir.budgetStep - 1, overRun := min o 2, underRun := 0 } }).requestsChanged
        else { v with weir := { v.weir with overRun := min o 2, underRun := u } }) ∧
      v.fld 0x10 0 1 = s.fld 0x10 0 1 ∧ v.weir.budgetStep = s.weir.budgetStep ∧ v.weir.budgetApplied = s.weir.budgetApplied ∧
      v.weir.overRun = s.weir.overRun ∧ v.weir.underRun = s.weir.underRun ∧ (v.weir.pMw = p ∧ v.weir.winTick = s.lt - 10000) ∧
      (v.feed 0).vin = a.vin ∧ (v.feed 1).vin = b.vin := by
    refine ⟨_, rfl, rfl, rfl, rfl, rfl, rfl, ⟨rfl, rfl⟩, ?_, ?_⟩
    · rw [same, updFeed_feed_ne _ (by decide), updFeed_feed_self]
    · rw [same, updFeed_feed_self]
  generalize s.windowClose p a b = t at e
  rw [if_neg (by rw [v2, v3]; simpa using hb)] at e
  simp only [v1, v2, v4, v5] at e
  have nw : ∀ x : State, (State.notice 0x0031 x).requestsChanged.weir = x.weir := fun x =>
    ((State.requestsChanged_keeps ..).weir (by decide)).trans ((State.notice_keeps ..).weir (by decide))
  have cw : ∀ x : State, (State.count 0x0032 x).requestsChanged.weir = x.weir := fun x => (State.requestsChanged_keeps ..).weir (by decide)
  generalize s.fld 0x10 0 1 = bud at *
  generalize hst : s.weir.budgetStep = st at *
  generalize s.weir.overRun = ov at *
  generalize s.weir.underRun = un at *
  generalize ho : (if 1000 * bud < p then ov + 1 else 0) = o at e
  generalize hu : (if (decide (0 < st) && decide (100 * p * (17 - st) ≤ 95 * (1000 * bud) * (16 - st))) = true then un + 1 else 0) = u at e
  have k : ∃ n m l : Nat, t.weir = { v.weir with budgetStep := n, overRun := m, underRun := l } ∧
      ((3 ≤ o ∧ st < 15) → n = st + 1) ∧ (¬ (3 ≤ o ∧ st < 15) → 100 ≤ u → n = st - 1) ∧ (¬ (3 ≤ o ∧ st < 15) → ¬ 100 ≤ u → n = st ∧ m = min o 2) := by
    by_cases c1 : 3 ≤ o ∧ st < 15
    · rw [if_pos (by simpa using c1)] at e
      exact ⟨st + 1, 0, 0, by rw [e, nw], fun _ => rfl, fun h => absurd c1 h, fun h => absurd c1 h⟩
    · rw [if_neg (by simpa using c1)] at e
      by_cases c2 : 100 ≤ u
      · rw [if_pos c2] at e
        exact ⟨st - 1, min o 2, 0, by rw [e, cw], fun h => absurd h c1, fun _ _ => rfl, fun _ h => absurd c2 h⟩
      · rw [if_neg c2] at e
        exact ⟨st, min o 2, u, by rw [e, ← v2], fun h => absurd h c1, fun _ h => absurd h c2, fun _ _ => ⟨rfl, rfl⟩⟩
  obtain ⟨n, m, l, hw, k1, k2, k3⟩ := k
  have hf : ∀ g, t.feed g = v.feed g := by intro g; unfold feed; rw [hw]
  refine ⟨by rw [hw]; exact v6.1, by rw [hw]; exact v6.2, by rw [hf]; exact f0, by rw [hf]; exact f1, ?_, ?_, ?_⟩
  · intro h1 h2 h3
    rw [hw]; exact k1 ⟨by rw [← ho, if_pos h1]; omega, h3⟩
  · intro h1 h2
    have o0 : o = 0 := by rw [← ho, if_neg (by omega)]
    have u0 : u = 0 := by rw [← hu, if_neg (by rw [h2]; simp)]
    have := k3 (by omega) (by omega)
    rw [hw]; exact ⟨this.1.trans h2, by rw [this.2, o0]; rfl⟩
  · intro h1 h2 h3 h4 h5
    have o0 : o = 0 := by rw [← ho, if_neg (by omega)]
    have u0 : u = 100 := by rw [← hu, if_pos (by simp only [Bool.and_eq_true, decide_eq_true_eq]; exact ⟨h1, h3⟩), h5]
    rw [hw]; exact k2 (by omega) (by omega)
end State

end Sys2Proof.Machine
end

