-- ==== Sys2Proof/Laws/Sequences.lean ====
section
/-!
SUPPORT. The rails of the Cascade: what switching, a failure and the course of a sequence leave of each rail (R215 to R234).
-/

namespace Sys2Proof.Machine

namespace State

variable {s t : State} {n m : Fin 64} {q : Seq}

@[simp] theorem updRail_rail_self (k : RailSt → RailSt) : (s.updRail n k).rail n = k (s.rail n) := Vec.get_upd_self ..

theorem updRail_rail_ne (k : RailSt → RailSt) (h : m ≠ n) : (s.updRail n k).rail m = s.rail m := Vec.get_upd_ne _ _ h

theorem updRail_rail (k : RailSt → RailSt) : (s.updRail n k).rail m = if m = n then k (s.rail m) else s.rail m := Vec.get_upd ..

theorem rail_of_rails (h : t.casc.rails = s.casc.rails) : t.rail n = s.rail n := by unfold rail; rw [h]

theorem rail_of_casc (h : t.casc = s.casc) : t.rail n = s.rail n := rail_of_rails (congrArg CascSt.rails h)

theorem fld_of_cfg (h : t.cfg = s.cfg) (a b c : Nat) : t.fld a b c = s.fld a b c := by unfold fld cfgVal; rw [h]

theorem lt_of_dev (h : t.dev = s.dev) : t.lt = s.lt := congrArg DevSt.lt h

/-! ### Rails switched (R215) -/

theorem onRail_congr (hc : t.cfg = s.cfg) (hd : t.dev = s.dev) (nack : BitVec 64) : t.onRail nack n = s.onRail nack n := by
  unfold onRail drivesEna drivesPmbus hasEna driveOf; rw [fld_of_cfg hc, fld_of_cfg hc, lt_of_dev hd]

theorem offRail_congr (hc : t.cfg = s.cfg) (hd : t.dev = s.dev) (nack : BitVec 64) : t.offRail nack n = s.offRail nack n := by
  unfold offRail hasDsc; rw [fld_of_cfg hc, lt_of_dev hd]

theorem turnOn_rail (nack : BitVec 64) : (s.turnOn nack n).rail m = if m = n then s.onRail nack n (s.rail n) else s.rail m := by
  have key : ∀ u : State, u.casc = s.casc → u.dev = s.dev → u.cfg = s.cfg →
      (u.updRail n (fun r => { r with
        phase := if r.pg then .good else .rising
        ena := u.drivesEna n && u.hasEna n
        pmbus := u.drivesPmbus n && !nack.getLsbD n.1
        dsc := false, discharged := false, early := false, rose := false, evTick := u.lt })).rail m =
      if m = n then s.onRail nack n (s.rail n) else s.rail m := by
    intro u h1 h2 h3
    rw [updRail_rail, rail_of_casc h1, ← onRail_congr h3 h2]
    by_cases h : m = n
    · subst h; rw [if_pos rfl, if_pos rfl]; rfl
    · rw [if_neg h, if_neg h]
  unfold turnOn
  simp only
  split
  · have k := pmbusOperation_keeps n 0x80 (nack.getLsbD n.1) s
    exact key _ (k.casc (by decide)) (k.dev (by decide)) (k.cfg (by decide))
  · exact key s rfl rfl rfl

theorem turnOff_rail (nack : BitVec 64) : (s.turnOff nack n).rail m = if m = n then s.offRail nack n (s.rail n) else s.rail m := by
  have key : ∀ u : State, u.casc = s.casc → u.dev = s.dev → u.cfg = s.cfg →
      (u.updRail n (fun r => { r with
        phase := if r.discharged then .off else .falling
        ena := false
        pmbus := r.pmbus && nack.getLsbD n.1
        dsc := u.hasDsc n && !r.discharged
        pg := false, evTick := u.lt })).rail m = if m = n then s.offRail nack n (s.rail n) else s.rail m := by
    intro u h1 h2 h3
    rw [updRail_rail, rail_of_casc h1, ← offRail_congr h3 h2]
    by_cases h : m = n
    · subst h; rw [if_pos rfl, if_pos rfl]; rfl
    · rw [if_neg h, if_neg h]
  unfold turnOff
  simp only
  split
  · have k := pmbusOperation_keeps n 0x00 (nack.getLsbD n.1) s
    exact key _ (k.casc (by decide)) (k.dev (by decide)) (k.cfg (by decide))
  · exact key s rfl rfl rfl

/-- Switching a list of rails switches each of them and no other. -/
theorem foldl_rails (f : State → Fin 64 → State) (g : State → Fin 64 → RailSt → RailSt)
    (hf : ∀ u k, (f u k).dev = u.dev ∧ (f u k).cfg = u.cfg ∧ ∀ j, (f u k).rail j = if j = k then g u k (u.rail k) else u.rail j)
    (hg : ∀ u v k, u.dev = v.dev → u.cfg = v.cfg → g u k = g v k) (l : List (Fin 64)) (hl : l.Nodup) (s : State) (j : Fin 64) :
    (l.foldl f s).rail j = if j ∈ l then g s j (s.rail j) else s.rail j := by
  refine (foldl_entry (fun u j => State.rail u j) f (g s) (fun u => u.dev = s.dev ∧ u.cfg = s.cfg) ?_ l hl s ⟨rfl, rfl⟩).2 j
  intro u k hu
  have h := hf u k
  refine ⟨⟨h.1.trans hu.1, h.2.1.trans hu.2⟩, fun j => ?_⟩
  show (f u k).rail j = _
  rw [h.2.2 j, hg u s k hu.1 hu.2]

theorem turnOns_rail (nack : BitVec 64) (l : List (Fin 64)) (hl : l.Nodup) :
    (l.foldl (State.turnOn nack) s).rail m = if m ∈ l then s.onRail nack m (s.rail m) else s.rail m :=
  foldl_rails _ (fun u k => u.onRail nack k)
    (fun u k => ⟨(turnOn_keeps ..).dev (by decide), (turnOn_keeps ..).cfg (by decide), fun _ => turnOn_rail nack⟩)
    (fun _ _ _ h1 h2 => onRail_congr h2 h1 nack) l hl s m

theorem turnOffs_rail (nack : BitVec 64) (l : List (Fin 64)) (hl : l.Nodup) :
    (l.foldl (State.turnOff nack) s).rail m = if m ∈ l then s.offRail nack m (s.rail m) else s.rail m :=
  foldl_rails _ (fun u k => u.offRail nack k)
    (fun u k => ⟨(turnOff_keeps ..).dev (by decide), (turnOff_keeps ..).cfg (by decide), fun _ => turnOff_rail nack⟩)
    (fun _ _ _ h1 h2 => offRail_congr h2 h1 nack) l hl s m

/-! ### Sequences -/

@[simp] theorem setSeq_rails (q : Seq) (r : Option SeqRun) : (s.setSeq q r).casc.rails = s.casc.rails := by cases q <;> rfl

@[simp] theorem setSeq_seqOf (q : Seq) (r : Option SeqRun) : (s.setSeq q r).seqOf q = r := by
  cases q with
  | none => rfl
  | some i => exact Vec.get_upd_self ..

theorem slotSeqEnd_casc (i : Fin 8) (up : Bool) : (s.slotSeqEnd i up).casc = (s.setSeq (some i) none).casc := by
  unfold slotSeqEnd
  simp only
  split
  · exact (arrive_keeps ..).casc (by decide)
  · refine ((slotOffSettle_keeps ..).casc (by decide)).trans ?_
    split
    · rfl
    · split
      · rfl
      · exact (setSlot_keeps ..).casc (by decide)

theorem slotDown_rails (i : Fin 8) : (s.slotDown i).casc.rails = s.casc.rails := by
  unfold slotDown
  extract_lets _ u
  have hu : u.casc.rails = s.casc.rails := rfl
  clear_value u
  repeat' split
  all_goals first
    | exact hu
    | (rw [slotSeqEnd_casc, setSeq_rails]; exact hu)

theorem quarantine_rails (i : Fin 8) (c : Nat) (n : Option (Fin 64)) : (s.quarantine i c n).casc.rails = s.casc.rails := by
  unfold quarantine
  extract_lets x fresh worse a b
  have ha : a.casc = s.casc := by
    unfold a
    split
    · exact ((count_keeps ..).casc (by decide)).trans ((setSlot_keeps ..).casc (by decide))
    · rfl
  have hb : b.casc = s.casc := by
    unfold b
    split
    · exact ha
    · exact ha
  split
  · rw [slotDown_rails]
    exact congrArg CascSt.rails hb
  · exact congrArg CascSt.rails hb

theorem railFailed_rails (c : Nat) (n : Fin 64) : (s.railFailed c n).casc.rails = s.casc.rails := by
  unfold railFailed
  split
  · exact congrArg CascSt.rails ((notice_keeps ..).casc (by decide))
  · extract_lets o a b
    refine foldl_inv (fun t : State => t.casc.rails = s.casc.rails) _ _ ?_ _ ?_
    · intro t i ht
      simp only
      rw [quarantine_rails]
      refine Eq.trans (b := t.casc.rails) ?_ ht
      split <;> rfl
    · unfold b
      split
      · rfl
      · rfl

theorem advance_up_rails {r : SeqRun} (h : s.seqOf q = some r) (hu : r.up = true) : (s.advance q).casc.rails = s.casc.rails := by
  have key : ∀ u : State, (if r.up then u.arrive else u).casc.rails = u.casc.rails := by
    intro u; rw [if_pos hu]; exact congrArg CascSt.rails ((arrive_keeps ..).casc (by decide))
  by_cases hw : r.phase ≠ .wait ∨ s.stageDone q r = false
  · have : s.advance q = s := by
      unfold advance
      simp only [h]
      rw [if_pos (by simpa using hw)]
    rw [this]
  · have hw' : ¬ ((r.phase ≠ .wait || !s.stageDone q r) = true) := by simpa using hw
    cases hn : s.nextStage q r with
    | some k =>
      have e : s.advance q = (if r.up then (if q.isNone then { s.setSeq q (some { r with stage := k, phase := .delay, since := s.lt }) with
          casc := { (s.setSeq q (some { r with stage := k, phase := .delay, since := s.lt })).casc with stage := k } }
          else s.setSeq q (some { r with stage := k, phase := .delay, since := s.lt })).arrive else
          (if q.isNone then { s.setSeq q (some { r with stage := k, phase := .delay, since := s.lt }) with
          casc := { (s.setSeq q (some { r with stage := k, phase := .delay, since := s.lt })).casc with stage := k } }
          else s.setSeq q (some { r with stage := k, phase := .delay, since := s.lt }))) := by
        unfold advance
        simp only [h]
        rw [if_neg hw', hn]
      rw [e, key]
      cases q <;> rfl
    | none =>
      cases q with
      | some i =>
        have e : s.advance (some i) = s.slotSeqEnd i r.up := by
          unfold advance
          simp only [h]
          rw [if_neg hw', hn]
        rw [e, slotSeqEnd_casc, setSeq_rails]
      | none =>
        have e : s.advance none = arrive { s with casc := { s.casc with tray := none, st := .on, casOut := true, upDone := s.lt } } := by
          unfold advance
          simp only [h]
          rw [if_neg hw', hn]
          simp only [hu, if_true]
        rw [e, (arrive_keeps ..).casc (by decide)]

theorem advance_slot_rails (i : Fin 8) : (s.advance (some i)).casc.rails = s.casc.rails ∧ (s.advance (some i)).casc.tray = s.casc.tray ∧
    (s.advance (some i)).casc.st = s.casc.st := by
  unfold advance
  split
  · exact ⟨rfl, rfl, rfl⟩
  · rename_i r h
    split
    · exact ⟨rfl, rfl, rfl⟩
    · split
      · simp only [Option.isNone_some, Bool.false_eq_true, if_false]
        split
        · rw [(arrive_keeps ..).casc (by decide)]; exact ⟨rfl, rfl, rfl⟩
        · exact ⟨rfl, rfl, rfl⟩
      · simp only
        rw [slotSeqEnd_casc]; exact ⟨rfl, rfl, rfl⟩

/-- No tray down-sequence runs. -/
def noFall (s : State) : Prop := ∀ r, s.casc.tray = some r → r.up = true

theorem advanceAll_rails (h : s.noFall) : s.advanceAll.casc.rails = s.casc.rails := by
  unfold advanceAll
  have h0 : (s.advance none).casc.rails = s.casc.rails := by
    cases hr : s.seqOf none with
    | none => unfold advance; rw [hr]
    | some r => exact advance_up_rails hr (h r hr)
  refine foldl_inv (fun t : State => t.casc.rails = s.casc.rails) _ _ (fun t i ht => (advance_slot_rails i).1.trans ht) _ h0

/-- A sequence waits while a rail of its stage has not arrived. -/
theorem advance_waits {r : SeqRun} (h : s.seqOf q = some r) (hd : s.stageDone q r = false) : s.advance q = s := by
  unfold advance
  simp only [h]
  rw [if_pos (by rw [hd]; simp)]

/-! ### The end of a down-sequence (R198, R232) -/

/-- The end of an orderly shutdown that no reset stretches. -/
theorem shutdownEnd_narrow (h : s.rst.stretch = none) : Keeps [.bus, .wins, .weir, .rst, .out] s s.shutdownEnd := by
  unfold shutdownEnd
  split
  · exact Keeps.refl _ _
  · rename_i named _
    have hs : ∀ u : State, u.rst.stretch = none → (if u.rst.stretch.isSome then u.systemClear else u) = u := by
      intro u hu; rw [if_neg (by rw [hu]; decide)]
    extract_lets y0 _ y1 y2
    have h0 : y0.rst.stretch = none := by
      unfold y0
      refine foldl_inv (fun t : State => t.rst.stretch = none) _ _ ?_ s h
      intro t f ht
      unfold feedAllOff
      extract_lets x
      split
      · exact ht
      · split <;> exact ht
    have k0 : Keeps [.bus, .wins, .weir, .rst, .out] s y0 := by
      unfold y0
      exact Keeps.foldl _ _ (Keeps.refl _ _) (fun t f k => Keeps.step k (feedAllOff_keeps ..) (by decide))
    have k1 : Keeps [.bus, .wins, .weir, .rst, .out] s y1 := by unfold y1; exact Keeps.set_weir _ k0 (by decide)
    have k2 : Keeps [.bus, .wins, .out] y1 y2 := by
      unfold y2
      exact Keeps.foldl _ _ (Keeps.refl _ _) (fun t p k => Keeps.step k (finish_keeps ..) (by decide))
    have e : y2.rst.stretch = none := by rw [k2.rst (by decide)]; exact h0
    rw [hs y2 e]
    exact Keeps.step k1 k2 (by decide)

theorem shutdownEnd_stretch (h : s.rst.stretch = none) : s.shutdownEnd.rst.stretch = none := by
  obtain ⟨v, e⟩ := shutdownEnd_rst h; rw [e]; exact h

/-- All-off, where no reset is stretched (R232 step 5, R234). -/
theorem allOff_facts (h : s.rst.stretch = none) :
    Keeps [.bus, .wins, .weir, .casc, .cad, .gop, .chk, .basin, .integ, .slots, .rst, .ctr, .out, .free] s s.allOff ∧
    s.allOff.rst.stretch = none ∧ s.allOff.casc = { s.casc with
      st := .allOff, stage := 0, tray := none, slotSeq := Vec.tab 8 (fun _ => none), decided := 0, included := 0
      casOut := false, downDone := s.lt, upRx := false
      rails := Vec.mapIdx s.casc.rails (fun _ r => if r.rose && !r.stuck then { r with dsc := false } else r) } := by
  unfold allOff
  extract_lets _ y0 y1
  have k1 : Keeps [.bus, .wins, .cad, .gop, .chk, .basin, .integ, .slots, .ctr, .out, .free] y0 y1.slotOffSettle := by
    refine Keeps.step ?_ (slotOffSettle_keeps ..) (by decide)
    unfold y1
    refine Keeps.foldl _ _ (Keeps.refl _ _) (fun t i k => ?_)
    split
    · exact k
    · split
      · exact k
      · exact Keeps.step k (setSlot_keeps ..) (by decide)
  have k0 : Keeps [.casc] s y0 := by unfold y0; exact Keeps.set_casc _ (Keeps.refl _ _) (by decide)
  have e : y1.slotOffSettle.rst.stretch = none := by rw [k1.rst (by decide), k0.rst (by decide)]; exact h
  refine ⟨Keeps.step (Keeps.step (Keeps.step (Keeps.refl _ _) k0 (by decide)) k1 (by decide)) (shutdownEnd_narrow e) (by decide),
    shutdownEnd_stretch e, ?_⟩
  rw [(shutdownEnd_narrow e).casc (by decide), k1.casc (by decide)]

theorem SameRail.trans {a b c : RailSt} (h : SameRail a b) (k : SameRail b c) : SameRail a c := by
  unfold SameRail at *; rw [k, h]

theorem allOff_rail (h : s.rst.stretch = none) : SameRail (s.rail n) (s.allOff.rail n) := by
  have e : s.allOff.rail n = if (s.rail n).rose && !(s.rail n).stuck then { s.rail n with dsc := false } else s.rail n := by
    unfold rail
    rw [(allOff_facts h).2.2]
    exact Vec.get_mapIdx ..
  unfold SameRail
  rw [e]
  split <;> rfl

/-- A sequence's advance leaves every rail but for its Spillway output, where no reset is stretched. -/
theorem advance_same (q : Seq) (h : s.rst.stretch = none) :
    (s.advance q).rst.stretch = none ∧ ∀ n, SameRail (s.rail n) ((s.advance q).rail n) := by
  have same : ∀ u : State, u.rst = s.rst → u.casc.rails = s.casc.rails → u.rst.stretch = none ∧ ∀ n, SameRail (s.rail n) (u.rail n) := by
    intro u h1 h2
    refine ⟨by rw [h1]; exact h, fun n => ?_⟩
    rw [rail_of_rails h2]; rfl
  cases hr : s.seqOf q with
  | none =>
    have e : s.advance q = s := by unfold advance; rw [hr]
    rw [e]; exact same s rfl rfl
  | some r =>
    cases hu : r.up with
    | true =>
      refine ⟨?_, fun n => by rw [rail_of_rails (advance_up_rails hr hu)]; rfl⟩
      have k : ∀ u : State, u.rst = s.rst → u.arrive.rst.stretch = none := by
        intro u hu; rw [(arrive_keeps ..).rst (by decide), hu]; exact h
      unfold advance
      simp only [hr, hu, if_true]
      split
      · exact h
      · split
        · refine k _ ?_
          cases q <;> rfl
        · split
          · rw [(slotSeqEnd_keeps ..).rst (by decide)]; exact h
          · exact k _ rfl
    | false =>
      unfold advance
      simp only [hr, hu, Bool.false_eq_true, if_false]
      split
      · exact same s rfl rfl
      · split
        · refine same _ ?_ ?_ <;> cases q <;> rfl
        · split
          · exact same _ ((slotSeqEnd_keeps ..).rst (by decide)) (by rw [slotSeqEnd_casc, setSeq_rails])
          · exact ⟨(allOff_facts h).2.1, fun n => allOff_rail h⟩

theorem advanceAll_same (h : s.rst.stretch = none) :
    s.advanceAll.rst.stretch = none ∧ ∀ n, SameRail (s.rail n) (s.advanceAll.rail n) := by
  unfold advanceAll
  have a := advance_same none h
  refine foldl_inv (fun t : State => t.rst.stretch = none ∧ ∀ n, SameRail (s.rail n) (t.rail n)) _ _ ?_ _ a
  intro t i ht
  have b := advance_same (some i) ht.1
  exact ⟨b.1, fun n => (ht.2 n).trans (b.2 n)⟩

end State

end Sys2Proof.Machine
end

