-- ==== Sys2Proof/Laws/Restart.lean ====
section
/-!
SUPPORT. Restarting a core by command (R580).
-/

namespace Sys2Proof.Machine
namespace State
variable {s : State}

/-- After a submission's meaning no more changes than the windows, the messages, the pending-bit array, the free values and a Draft's time. -/
theorem ended_same (o : OpSpec) (p : Port) (z : State) : SameBut [.bus, .wins, .cfg, .out, .free] z (State.ended o p z) := by
  have h := settled_ended o p z
  constructor <;> intros <;> first
    | exact (congrArg State.dev h :) | exact (congrArg State.sess h :) | exact (congrArg State.weir h :) | exact (congrArg State.casc h :)
    | exact (congrArg State.cool h :) | exact (congrArg State.cad h :) | exact (congrArg State.gop h :) | exact (congrArg State.chk h :)
    | exact (congrArg State.basin h :) | exact (congrArg State.integ h :) | exact (congrArg State.slots h :) | exact (congrArg State.boot h :)
    | exact (congrArg State.upd h :) | exact (congrArg State.rst h :) | exact (congrArg State.ctr h :) | exact (congrArg State.pending h :)
    | (exfalso; simp_all)

theorem updCore_core_self (k : Fin 8) (f : CoreSt → CoreSt) (x : State) : (x.updCore k f).core k = f (x.core k) := Vec.get_upd_self ..

theorem commandsOf_only {p : Port} {x : State} (k : Fin 8) (h : ∀ q, q ≠ p → (x.win q).state ≠ .accepted) :
    (x.commandsOf k).filter (fun q => q ≠ p) = [] := by
  rw [List.filter_eq_nil_iff]
  intro q hq
  unfold commandsOf at hq
  rw [List.mem_filter] at hq
  by_cases e : q = p
  · simp [e]
  · have := hq.2
    simp [h q e] at this

/-- A core restarted by command, when no other command waits (R580). -/
theorem restartCore_facts (p : Port) (k : Fin 8) (b : Nat) (x : State) (h : ∀ q, q ≠ p → (x.win q).state ≠ .accepted) (ho : (x.win p).orphan = false) :
    ((restartCore p k b x).core k).run = x.textOk k ∧ ((restartCore p k b x).core k).stopped = !x.textOk k ∧
    ((restartCore p k b x).win p).state = .done ∧ ((restartCore p k b x).win p).code = (if x.textOk k then .ok else .failed) ∧
    (k = 6 → (restartCore p k b x).upd.session = none) := by
  unfold restartCore
  extract_lets +onlyGivenNames y1
  have w1 : ∀ q, q ≠ p → y1.win q = x.win q := fun q hq => accept_win_ne _ _ hq
  have w1p : (y1.win p).orphan = false := by unfold y1; rw [accept_win_self]; exact ho
  have b1 : y1.boot = x.boot := rfl
  clear_value y1
  extract_lets +onlyGivenNames y2
  have k2 : Keeps [.rst, .ctr] y1 y2 := (((Keeps.refl _ _).step (addCause_keeps ..) (by decide)).step (logEntry_keeps ..) (by decide)).step (coreRecord_keeps ..) (by decide)
  clear_value y2
  have w2 : y2.wins = y1.wins := k2.wins (by decide)
  have b2 : y2.boot = x.boot := (k2.boot (by decide)).trans b1
  extract_lets +onlyGivenNames ps good
  have hps : ps = [] := by
    refine commandsOf_only k (fun q hq => ?_)
    have : y2.win q = y1.win q := by unfold win; rw [w2]
    rw [this, w1 q hq]; exact h q hq
  have hg : good = x.textOk k := by unfold good textOk core; rw [b2]
  clear_value ps good
  subst hps
  subst hg
  extract_lets +onlyGivenNames y3
  have f3 : (y3.core k).run = x.textOk k ∧ (y3.core k).stopped = (!x.textOk k) ∧ y3.wins = y1.wins := by
    unfold y3
    cases hx : x.textOk k with
    | true =>
      rw [if_pos rfl]
      have kk := releaseCore_keeps k (y2.updCore k (fun c => { c with stopped := false }))
      have e : (releaseCore k (y2.updCore k (fun c => { c with stopped := false }))).boot =
          (updCore k (fun c => { wdFresh y2.lt c with run := true }) (y2.updCore k (fun c => { c with stopped := false }))).boot := by
        unfold releaseCore
        extract_lets z
        split
        · exact (reportOwed_keeps z).boot (by decide)
        · rfl
      have e' : (releaseCore k (y2.updCore k (fun c => { c with stopped := false }))).core k =
          (updCore k (fun c => { wdFresh y2.lt c with run := true }) (y2.updCore k (fun c => { c with stopped := false }))).core k := by
        unfold core; rw [e]
      rw [e', updCore_core_self, updCore_core_self]
      exact ⟨rfl, rfl, (kk.wins (by decide)).trans w2⟩
    | false =>
      rw [if_neg (by simp)]
      have e' : ∀ z : State, (z.notice (0x0820 + k.1)).core k = z.core k := fun z => by unfold core; rw [(notice_keeps ..).boot (by decide)]
      rw [e', updCore_core_self]
      exact ⟨rfl, rfl, ((notice_keeps ..).wins (by decide)).trans (((coreRestart_keeps ..).wins (by decide)).trans w2)⟩
  clear_value y3
  extract_lets +onlyGivenNames y4 z5 y5
  have e4 : y4 = y3 := rfl
  have f5 : y5.boot = y3.boot ∧ y5.wins = y1.wins ∧ (k = 6 → y5.upd.session = none) := by
    unfold y5
    rw [e4]
    split
    · exact ⟨rfl, f3.2.2, fun _ => rfl⟩
    · rename_i h6; exact ⟨rfl, f3.2.2, fun e => absurd e h6⟩
  clear_value y5
  have c5 : y5.core k = y3.core k := by unfold core; rw [f5.1]
  have o5 : (y5.win p).orphan = false := by unfold win; rw [f5.2.1]; exact w1p
  have kf := fun c r => finish_keeps p c r y5
  refine ⟨?_, ?_, ?_, ?_, fun e => ?_⟩
  · show ((finish p _ _ y5).core k).run = _
    unfold core; rw [(kf _ _).boot (by decide)]; exact (congrArg CoreSt.run c5).trans f3.1
  · show ((finish p _ _ y5).core k).stopped = _
    unfold core; rw [(kf _ _).boot (by decide)]; exact (congrArg CoreSt.stopped c5).trans f3.2.1
  · rw [(finish_finished _ _ o5)]
  · rw [(finish_finished _ _ o5)]
  · rw [(kf _ _).upd (by decide)]; exact f5.2.2 e
end State
end Sys2Proof.Machine
end

