-- ==== Sys2Proof/Laws/SlotStates.lean ====
section
/-!
SUPPORT. What a change of state leaves of a slot, and what quarantine, release and loss of power do (R485 to R492).
-/

namespace Sys2Proof.Machine
namespace State

variable {s : State} {i j : Fin 8}

theorem updSlot_slot (f : SlotSt → SlotSt) : (s.updSlot i f).slot j = if j = i then f (s.slot j) else s.slot j := Vec.get_upd ..

theorem slot_of_slots {t : State} (h : t.slots = s.slots) : t.slot j = s.slot j := by unfold slot; rw [h]

theorem setSlot_slot (st : SlotState) (c : Nat) : (s.setSlot i st c).slot j = if j = i then slotAfter s.lt st c (s.slot j) else s.slot j := by
  unfold setSlot
  extract_lets +onlyGivenNames old y1
  have h1 : ∀ j, y1.slot j = if j = i then { s.slot j with st := st, cause := c, stateTick := s.lt } else s.slot j := fun j => updSlot_slot _
  have l1 : y1.lt = s.lt := rfl
  clear_value y1
  extract_lets +onlyGivenNames y2
  have h2 : y2.slots = y1.slots ∧ y2.lt = y1.lt := by
    unfold y2
    split
    · have k := (Keeps.refl _ y1).step (memberLost_keeps i y1) (m := [.cad, .gop, .ctr, .out]) (l := [.cad, .gop, .ctr, .out, .integ]) (by decide)
      have k := k.step (cancelLull_keeps i _) (by decide)
      exact ⟨k.slots (by decide), congrArg DevSt.lt (k.dev (by decide))⟩
    · exact ⟨rfl, rfl⟩
  have h2' : ∀ j, y2.slot j = y1.slot j := fun j => slot_of_slots h2.1
  have l2 : y2.lt = s.lt := h2.2.trans l1
  clear_value y2
  extract_lets +onlyGivenNames y3
  have h3 : ∀ j, y3.slot j = if j = i then slotAfter s.lt st c (s.slot j) else s.slot j := by
    intro j
    have hb : y2.slot j = _ := (h2' j).trans (h1 j)
    unfold y3
    have un : ∀ z : State, (z.unpowerSlot i).slot j = if j = i then { z.slot j with
        rst := true, releaseAt := none, pulseEnd := none, releasedAt := none, identNext := none, identified := false
        serial := 0, fwVer := 0, alert := false, addressed := false, base := none, pack := none, packDone := false
        runAt := none, planDue := none, streak := 0, forecast := none, measured := none } else z.slot j := fun z => updSlot_slot _
    cases st
    · exact (un _).trans (by rw [hb]; split <;> rfl)
    · exact (un _).trans (by rw [hb]; split <;> rfl)
    · have nb : ∀ z : State, (z.nbClear i).slot j = if j = i then { z.slot j with nbValid := false, planGen := 0, announced := [] } else z.slot j :=
        fun z => Vec.get_upd ..
      refine (updSlot_slot _).trans ?_
      rw [nb, hb]; split <;> rfl
    · have ho : old = (s.slot i).st := rfl
      show (if old = SlotState.powering then y2.updSlot i (fun x => { x with releaseAt := some (y2.lt + 10000) }) else y2).slot j = _
      rw [ho, l2]
      by_cases hp : (s.slot i).st = .powering
      · rw [if_pos hp]
        refine (updSlot_slot _).trans ?_
        rw [hb]
        by_cases e : j = i
        · subst e; simp [slotAfter, hp]
        · simp [e]
      · rw [if_neg hp, hb]
        by_cases e : j = i
        · subst e; simp [slotAfter, hp]
        · simp [e]
    · refine (updSlot_slot _).trans ?_
      rw [hb]; split <;> rfl
    · refine (updSlot_slot _).trans ?_
      rw [hb]; split <;> rfl
    · exact (un _).trans (by rw [hb]; split <;> rfl)
  clear_value y3
  extract_lets +onlyGivenNames y4
  have h4 : y4.slots = y3.slots := by
    unfold y4
    split
    · rfl
    · exact (pushSlotGone_keeps ..).slots (by decide)
  rw [slot_of_slots ((slotPowerSettle_keeps ..).slots (by decide)), slot_of_slots h4, h3 j]

theorem slotRailsOn_congr {t : State} (hc : t.casc = s.casc) (hg : t.cfg = s.cfg) : t.slotRailsOn i = s.slotRailsOn i := by
  have ho : t.railOn = s.railOn := by funext n; unfold railOn rail; rw [hc]
  have hf : t.fld = s.fld := by funext a b c; exact fld_of_cfg hg a b c
  unfold slotRailsOn ownRails slotRails ownerOf owners usedRails railUsed
  simp only [ho, hf]

theorem powered_congr {t : State} (hc : t.casc = s.casc) (hg : t.cfg = s.cfg) (hs : t.slot i = s.slot i) : t.powered i = s.powered i := by
  unfold powered
  rw [slotRailsOn_congr hc hg, hs]

/-- A slot's hold leaves it powered as it was. -/
theorem holdSlot_slot : (s.holdSlot i).slot j = if j = i ∧ (s.slot i).st = .running then slotAfter s.lt .held 0 (s.slot j) else s.slot j := by
  unfold holdSlot running
  by_cases hr : (s.slot i).st = .running
  · rw [if_pos (by simp [hr]), setSlot_slot]; simp [hr]
  · rw [if_neg (by simp [hr])]; simp [hr]

theorem holdSlot_powered : (s.holdSlot i).powered i = s.powered i := by
  by_cases hr : (s.slot i).st = .running
  · have h : (s.holdSlot i).slot i = slotAfter s.lt .held 0 (s.slot i) := by rw [holdSlot_slot]; simp [hr]
    unfold powered
    rw [h]
    simp [slotAfter, hr]
  · exact powered_congr ((holdSlot_keeps ..).casc (by decide)) ((holdSlot_keeps ..).cfg (by decide)) (by rw [holdSlot_slot]; simp [hr])

theorem pulseReset_slot (us : Nat) : (s.pulseReset us i).slot j = if j = i ∧ s.powered i = true then slotPulsed s.lt us (s.slot j) else s.slot j := by
  unfold pulseReset
  cases hp : s.powered i with
  | true =>
    rw [if_neg (by simp), updSlot_slot]
    by_cases e : j = i
    · rw [if_pos e, if_pos ⟨e, rfl⟩]; rfl
    · rw [if_neg e, if_neg (fun a => e a.1)]
  | false => rw [if_pos (by simp), if_neg (by simp)]

theorem quarantine_slot {c : Nat} (hc : c ≠ 1) :
    (s.quarantine i c none).slot j = if j = i then slotQuarantined s.lt c (s.slot j) else s.slot j := by
  unfold quarantine
  extract_lets +onlyGivenNames x fr wo
  have hw : wo = false := by unfold wo; simp [hc]
  have hf : fr = decide (x.st = .powering ∨ x.st = .held ∨ x.st = .running) := by unfold fr; simp [Bool.or_assoc]
  have hx : x = s.slot i := rfl
  clear_value wo fr x
  subst hw
  extract_lets +onlyGivenNames z1
  have h1 : ∀ j, z1.slot j = if j = i then slotQuarantined s.lt c (s.slot j) else s.slot j := by
    intro j
    unfold z1
    rw [hf, hx]
    by_cases e : j = i
    · subst e
      rw [if_pos rfl]
      unfold slotQuarantined
      by_cases h : (s.slot j).st = .powering ∨ (s.slot j).st = .held ∨ (s.slot j).st = .running
      · rw [if_pos (by simp [h]), if_pos h, slot_of_slots ((count_keeps ..).slots (by decide)), setSlot_slot, if_pos rfl]
      · rw [if_neg (by simpa using h), if_neg h]
    · rw [if_neg e]
      split
      · rw [slot_of_slots ((count_keeps ..).slots (by decide)), setSlot_slot, if_neg e]
      · rfl
  clear_value z1
  extract_lets +onlyGivenNames z2
  have h2 : z2.slot j = z1.slot j := by
    unfold z2
    split
    · rw [updSlot_slot]
      split
      · show ({ z1.slot j with badRails := _ ++ [] } : SlotSt) = _
        rw [List.append_nil]
      · rfl
    · rfl
  clear_value z2
  split
  · rename_i h; simp [hc] at h
  · rw [h2, h1]

theorem quarantineNow_slot {c : Nat} (hc : c ≠ 1) :
    (s.quarantineNow c i).slot j = if j = i then slotQuarantined s.lt c (s.slot j) else s.slot j := by
  unfold quarantineNow
  extract_lets +onlyGivenNames ab fresh y1
  have h1 : y1.slots = s.slots ∧ y1.lt = s.lt := by
    unfold y1
    split
    · rw [supersede_eq]; exact ⟨rfl, rfl⟩
    · exact ⟨rfl, rfl⟩
  clear_value y1 ab fresh
  extract_lets +onlyGivenNames y2
  have h2 : y2.slot j = if j = i then slotQuarantined s.lt c (s.slot j) else s.slot j := by
    unfold y2
    rw [quarantine_slot hc, slot_of_slots h1.1, h1.2]
  clear_value y2
  split
  · exact (slot_of_slots ((logEntry_keeps ..).slots (by decide))).trans h2
  · exact h2

/-- What a release leaves of the slot's state and cause, and of every other slot. -/
theorem releaseSlot_slot (cl : Bool) : (((s.releaseSlot cl i).slot i).st, ((s.releaseSlot cl i).slot i).cause) = s.slotReleased i ∧
    ∀ j, j ≠ i → (s.releaseSlot cl i).slot j = s.slot j := by
  unfold releaseSlot
  split
  · rename_i hq
    have hrel : s.slotReleased i = (if (s.slot i).present && (decide ((s.slot i).cause ≠ 1) && s.slotRailsOn i) then .held else .off, 0) := by
      simp [slotReleased, hq]
    rw [hrel]
    clear hrel
    extract_lets +onlyGivenNames y1
    have k1 : y1.slots = s.slots ∧ y1.casc = s.casc ∧ y1.cfg = s.cfg ∧ y1.dev = s.dev := by
      unfold y1
      split
      · have k := clearUnit_keeps (slotUnit i) s
        exact ⟨k.slots (by decide), k.casc (by decide), k.cfg (by decide), k.dev (by decide)⟩
      · exact ⟨rfl, rfl, rfl, rfl⟩
    clear_value y1
    extract_lets +onlyGivenNames y2
    have h2 : ∀ j, y2.slot j = if j = i then { s.slot j with badRails := [] } else s.slot j := by
      intro j
      unfold y2
      rw [updSlot_slot, slot_of_slots k1.1]
    have c2 : y2.casc = s.casc ∧ y2.cfg = s.cfg := ⟨k1.2.1, k1.2.2.1⟩
    clear_value y2
    have hr : y2.slotRailsOn i = s.slotRailsOn i := slotRailsOn_congr c2.1 c2.2
    have hp : y2.powered i = ((s.slot i).present && (decide ((s.slot i).cause ≠ 1) && s.slotRailsOn i)) := by
      unfold powered
      rw [h2, if_pos rfl, ← hr]
      simp only [hq]
    rw [hp]
    constructor
    · split
      · rw [updSlot_slot, if_pos rfl, setSlot_slot, if_pos rfl, h2, if_pos rfl]
        simp [slotAfter, hq]
      · rw [setSlot_slot, if_pos rfl]
        simp [slotAfter]
    · intro j e
      split
      · rw [updSlot_slot, if_neg e, setSlot_slot, if_neg e, h2, if_neg e]
      · rw [setSlot_slot, if_neg e, h2, if_neg e]
  · rename_i hf
    refine ⟨?_, fun j e => by rw [setSlot_slot, if_neg e]⟩
    rw [setSlot_slot, if_pos rfl]
    simp [slotAfter, slotReleased, hf]
  · rename_i h1 h2
    refine ⟨?_, fun _ _ => rfl⟩
    unfold slotReleased
    cases hst : (s.slot i).st <;> simp_all

/-- A slot's down-sequence leaves every other slot, and of its own the request; its state, unless the card is gone (R229, R488). -/
theorem slotDown_slot : (∀ j, j ≠ i → (s.slotDown i).slot j = s.slot j) ∧ ((s.slotDown i).slot i).request = (s.slot i).request ∧
    (((s.slotDown i).slot i).st = (s.slot i).st ∨ ((s.slotDown i).slot i).st = .absent) ∧ ((s.slot i).present = true → (s.slotDown i).slot i = s.slot i) := by
  have hss : ∀ z : State, z.slots = s.slots → (∀ j, j ≠ i → (z.slotSeqEnd i false).slot j = s.slot j) ∧ ((z.slotSeqEnd i false).slot i).request = (s.slot i).request ∧
    (((z.slotSeqEnd i false).slot i).st = (s.slot i).st ∨ ((z.slotSeqEnd i false).slot i).st = .absent) ∧ ((s.slot i).present = true → (z.slotSeqEnd i false).slot i = s.slot i) := by
    intro z hz
    unfold slotSeqEnd
    extract_lets +onlyGivenNames z1
    have h1 : ∀ j, z1.slot j = s.slot j := fun j => slot_of_slots (show z1.slots = s.slots from hz)
    clear_value z1
    rw [if_neg (by simp)]
    extract_lets +onlyGivenNames z2
    have hs : ∀ j, z2.slotOffSettle.slot j = z2.slot j := fun j => slot_of_slots ((slotOffSettle_keeps ..).slots (by decide))
    have h2 : ∀ j, z2.slot j = if j = i ∧ (s.slot i).present = false ∧ (s.slot i).st ≠ .absent then slotAfter z1.lt .absent 6 (s.slot j) else s.slot j := by
      intro j
      unfold z2
      rw [h1]
      cases hp : (s.slot i).present with
      | true => simp [h1]
      | false =>
        by_cases ha : (s.slot i).st = .absent
        · simp [ha, h1]
        · simp only [Bool.false_eq_true, if_false, ha]
          rw [setSlot_slot, h1]
          by_cases e : j = i
          · simp [e, ha]
          · simp [e]
    clear_value z2
    refine ⟨fun j e => by rw [hs, h2]; simp [e], ?_, ?_, fun hp => by rw [hs, h2]; simp [hp]⟩
    · rw [hs, h2]; split <;> rfl
    · rw [hs, h2]; split
      · exact .inr rfl
      · exact .inl rfl
  unfold slotDown
  extract_lets +onlyGivenNames z0 z
  have hz : z.slots = s.slots := rfl
  have hz' : ∀ j, z.slot j = s.slot j := fun j => slot_of_slots hz
  clear_value z
  have stay : (∀ j, j ≠ i → z.slot j = s.slot j) ∧ (z.slot i).request = (s.slot i).request ∧ ((z.slot i).st = (s.slot i).st ∨ (z.slot i).st = .absent) ∧
      ((s.slot i).present = true → z.slot i = s.slot i) :=
    ⟨fun j _ => hz' j, congrArg SlotSt.request (hz' i), .inl (congrArg SlotSt.st (hz' i)), fun _ => hz' i⟩
  repeat' split
  all_goals first
    | exact stay
    | exact hss z hz

/-- A fold that at each step changes one slot, by a relation of that slot alone while `I` holds. -/
theorem foldl_slots (I : State → Prop) (f : State → Fin 8 → State) (R : Fin 8 → SlotSt → SlotSt → Prop)
    (h : ∀ t i, I t → I (f t i) ∧ R i (t.slot i) ((f t i).slot i) ∧ ∀ j, j ≠ i → (f t i).slot j = t.slot j) (l : List (Fin 8)) (hl : l.Nodup)
    (s : State) (hs : I s) (j : Fin 8) :
    (j ∈ l → R j (s.slot j) ((l.foldl f s).slot j)) ∧ (j ∉ l → (l.foldl f s).slot j = s.slot j) := by
  induction l generalizing s with
  | nil => exact ⟨fun h => absurd h (by simp), fun _ => rfl⟩
  | cons i l ih =>
    have hi := List.nodup_cons.mp hl
    have k := ih hi.2 (f s i) (h s i hs).1
    refine ⟨fun hj => ?_, fun hj => ?_⟩
    · rcases List.mem_cons.mp hj with e | e
      · subst e
        show R _ _ ((l.foldl f (f s j)).slot j)
        rw [k.2 hi.1]; exact (h s j hs).2.1
      · show R _ _ ((l.foldl f (f s i)).slot j)
        have hne : j ≠ i := fun x => hi.1 (x ▸ e)
        have := k.1 e
        rwa [(h s i hs).2.2 j hne] at this
    · simp only [List.mem_cons, not_or] at hj
      exact (k.2 hj.2).trans ((h s i hs).2.2 j hj.1)

theorem named_nodup (ps : Bytes) : (named ps).Nodup := (List.nodup_finRange 8).filter _
theorem mem_named (ps : Bytes) : i ∈ named ps ↔ (ps.num 0 1).testBit i.1 = true := by unfold named; simp

end State
end Sys2Proof.Machine
end

