-- ==== Sys2Proof/Laws/Stages.lean ====
section
/-!
SUPPORT. The stages of the Cascade and rails in service: what each of the sequencer's events leaves (R223 to R237).
-/

namespace Sys2Proof.Machine

namespace State

variable {s t : State} {n m : Fin 64} {q : Seq} {r : SeqRun}

theorem seqRails_congr (h : t.cfg = s.cfg) (q : Seq) (k : Nat) : t.seqRails q k = s.seqRails q k := by
  have f : ∀ a b c, t.fld a b c = s.fld a b c := fld_of_cfg h
  have u : t.usedRails = s.usedRails := by unfold usedRails railUsed; simp only [f]
  unfold seqRails stageRails ownRails ownerOf owners railStage
  rw [u]
  simp only [f]

theorem usedRails_nodup : s.usedRails.Nodup := (List.nodup_finRange 64).filter _

theorem seqRails_nodup (q : Seq) (k : Nat) : (s.seqRails q k).Nodup := by
  unfold seqRails
  split
  · exact usedRails_nodup.filter _
  · exact (usedRails_nodup.filter _).filter _

theorem upRails_nodup (q : Seq) (k : Nat) : (s.upRails q k).Nodup := by
  unfold upRails
  split
  · exact (seqRails_nodup q k).filter _
  · exact seqRails_nodup q k

theorem upRails_sub (h : n ∈ s.upRails q r.stage) : n ∈ s.seqRails q r.stage := by
  unfold upRails at h
  split at h
  · exact (List.mem_filter.1 h).1
  · exact h

theorem decideSlots_same (k : Nat) : (s.decideSlots k).casc.rails = s.casc.rails := by
  unfold decideSlots
  refine foldl_inv (fun t : State => t.casc.rails = s.casc.rails) _ _ ?_ _ rfl
  intro t i ht
  split <;> exact ht

theorem railOn_of (h : t.rail n = s.rail n) : t.railOn n = s.railOn n := by unfold railOn; rw [h]

/-- A stage's rails at the end of its delay (R224). -/
theorem stageUp_facts (nack : BitVec 64) (h : s.seqOf q = some r) (hu : r.up = true) (hp : r.phase = .delay) :
    (∀ m, (s.stageUp q nack).rail m = if m ∈ (if q.isNone then s.decideSlots r.stage else s).upRails q r.stage then s.onRail nack m (s.rail m) else s.rail m) ∧
    ((∃ n ∈ (if q.isNone then s.decideSlots r.stage else s).upRails q r.stage, (s.rail n).pg = false) →
      (s.stageUp q nack).seqOf q = some { r with phase := .wait, since := s.lt }) := by
  generalize hb : (if q.isNone then s.decideSlots r.stage else s) = b
  have kb : Keeps [.casc] s b := by
    rw [← hb]; split
    · exact decideSlots_keeps ..
    · exact Keeps.refl _ _
  have rb : b.casc.rails = s.casc.rails := by
    rw [← hb]; split
    · exact decideSlots_same _
    · rfl
  have hl : (b.upRails q r.stage).Nodup := upRails_nodup ..
  generalize hc : (b.upRails q r.stage).foldl (State.turnOn nack) b = c
  have kc : Keeps [.casc, .ctr, .out] b c := by
    rw [← hc]; exact Keeps.foldl _ _ (Keeps.refl _ _) (fun _ _ k => Keeps.step k (turnOn_keeps ..) (by decide))
  have rc : ∀ m, c.rail m = if m ∈ b.upRails q r.stage then s.onRail nack m (s.rail m) else s.rail m := by
    intro m
    rw [← hc, turnOns_rail nack _ hl, rail_of_rails rb, onRail_congr (kb.cfg (by decide)) (kb.dev (by decide))]
  generalize hd : (b.upRails q r.stage).foldl State.powering c = d
  have kd : d.casc = c.casc ∧ d.cfg = c.cfg ∧ d.dev = c.dev := by
    rw [← hd]
    exact foldl_inv (fun t : State => t.casc = c.casc ∧ t.cfg = c.cfg ∧ t.dev = c.dev) _ _
      (fun t i ht => ⟨((powering_keeps ..).casc (by decide)).trans ht.1, ((powering_keeps ..).cfg (by decide)).trans ht.2.1,
        ((powering_keeps ..).dev (by decide)).trans ht.2.2⟩) _ ⟨rfl, rfl, rfl⟩
  have hdl : d.lt = s.lt := lt_of_dev (kd.2.2.trans ((kc.dev (by decide)).trans (kb.dev (by decide))))
  have e : s.stageUp q nack = (d.setSeq q (some { r with phase := .wait, since := s.lt })).advance q := by
    unfold stageUp
    simp only [h]
    rw [if_neg (by rw [hu, hp]; decide), hb, hc, hd, hdl]
  generalize hf : d.setSeq q (some { r with phase := .wait, since := s.lt }) = f at e
  have fs : f.seqOf q = some { r with phase := .wait, since := s.lt } := by rw [← hf]; exact setSeq_seqOf ..
  have fr : ∀ m, f.rail m = c.rail m := by
    intro m
    refine rail_of_rails ?_
    rw [← hf, setSeq_rails, kd.1]
  have fc : f.cfg = b.cfg := by
    rw [← hf]
    have : (d.setSeq q (some { r with phase := .wait, since := s.lt })).cfg = d.cfg := (setSeq_keeps ..).cfg (by decide)
    rw [this, kd.2.1, kc.cfg (by decide)]
  refine ⟨fun m => ?_, fun ⟨n, hn, hpg⟩ => ?_⟩
  · rw [e, rail_of_rails (advance_up_rails fs hu), fr, rc]
  · rw [e, advance_waits fs ?_, fs]
    have on : f.rail n = s.onRail nack n (s.rail n) := by rw [fr, rc, if_pos hn]
    unfold stageDone
    simp only [hu, if_true]
    rw [List.all_eq_false]
    refine ⟨n, ?_, ?_⟩
    · rw [seqRails_congr fc]; exact upRails_sub hn
    · unfold railOn
      rw [on]
      simp [onRail, hpg]

/-- A rail that fails to rise (R226). -/
theorem failRise_rail (nack : BitVec 64) : (s.failRise nack n).rail m = if m = n then { s.offRail nack n (s.rail n) with mark := .failRise } else s.rail m := by
  unfold failRise
  simp only
  rw [rail_of_rails (railFailed_rails ..), updRail_rail, turnOff_rail]
  have hl : (s.turnOff nack n).lt = s.lt := lt_of_dev ((turnOff_keeps ..).dev (by decide))
  by_cases h : m = n
  · subst h
    simp only [if_true, hl]
    rfl
  · rw [if_neg h, if_neg h, if_neg h]

theorem failRises_rail (nack : BitVec 64) (l : List (Fin 64)) (hl : l.Nodup) :
    (l.foldl (State.failRise nack) s).rail m = if m ∈ l then { s.offRail nack m (s.rail m) with mark := .failRise } else s.rail m :=
  foldl_rails _ (fun u k x => { u.offRail nack k x with mark := .failRise })
    (fun u k => ⟨(failRise_keeps ..).dev (by decide), (failRise_keeps ..).cfg (by decide), fun _ => failRise_rail nack⟩)
    (fun _ _ _ h1 h2 => by funext x; rw [offRail_congr h2 h1 nack]) l hl s m

theorem lateRails_nodup : (s.lateRails q r).Nodup := by unfold lateRails; exact (upRails_nodup ..).filter _

/-- PG_TIMEOUT_MS (R226). -/
theorem stageLate_rail (nack : BitVec 64) (h : s.seqOf q = some r) (hu : r.up = true) (hp : r.phase = .wait) (m : Fin 64) :
    (s.stageLate q nack).rail m = if m ∈ s.lateRails q r then { s.offRail nack m (s.rail m) with mark := .failRise } else s.rail m := by
  have e : s.stageLate q nack = (if ((s.lateRails q r).foldl (State.failRise nack) s).seqOf q = some r
      then ((s.lateRails q r).foldl (State.failRise nack) s).advance q else (s.lateRails q r).foldl (State.failRise nack) s) := by
    unfold stageLate
    simp only [h]
    rw [if_neg (by rw [hu, hp]; decide)]
  rw [e, ← failRises_rail nack _ lateRails_nodup]
  split
  · rename_i hs
    exact rail_of_rails (advance_up_rails hs hu)
  · rfl

/-- A stage's rails turned off, where no reset is stretched (R232). -/
theorem stageDown_facts (nack : BitVec 64) (h : s.seqOf q = some r) (hu : r.up = false) (hp : r.phase ≠ .wait) (hs : s.rst.stretch = none)
    (hk : (q.isNone && r.stage = 0) = false ∨ s.dev.st ≠ .full) :
    (∀ m, SameRail (if m ∈ s.seqRails q r.stage ∧ s.railOn m = true then s.offRail nack m (s.rail m) else s.rail m) ((s.stageDown q nack).rail m)) ∧
    ((∃ n ∈ s.seqRails q r.stage, s.railOn n = true ∧ (s.rail n).discharged = false) →
      (s.stageDown q nack).seqOf q = some { r with phase := .wait, since := s.lt }) := by
  generalize hb : (if q.isNone && r.stage = 0 then s.leaveFull else s) = b
  have eb : b = s := by
    rw [← hb]
    rcases hk with h | h
    · rw [if_neg (by simpa using h)]
    · split
      · exact leaveFull_of_not_full h
      · rfl
  have bl : b.lt = s.lt := by rw [eb]
  have bc : b.casc = s.casc ∧ b.rst = s.rst := by rw [eb]; exact ⟨rfl, rfl⟩
  have brs : b.seqRails q r.stage = s.seqRails q r.stage := by rw [eb]
  have bon : ∀ n, b.railOn n = s.railOn n := fun n => railOn_of (rail_of_casc bc.1)
  have bof : ∀ n x, b.offRail nack n x = s.offRail nack n x := by intro n x; rw [eb]
  generalize hL : (b.seqRails q r.stage).filter b.railOn = l
  have hl : l.Nodup := by rw [← hL]; exact (seqRails_nodup ..).filter _
  have ml : ∀ m, m ∈ l ↔ m ∈ s.seqRails q r.stage ∧ s.railOn m = true := by
    intro m; rw [← hL, List.mem_filter, brs, bon]
  generalize hc : l.foldl (State.turnOff nack) b = c
  have kc : Keeps [.casc, .ctr, .out] b c := by
    rw [← hc]; exact Keeps.foldl _ _ (Keeps.refl _ _) (fun _ _ k => Keeps.step k (turnOff_keeps ..) (by decide))
  have rc : ∀ m, c.rail m = if m ∈ s.seqRails q r.stage ∧ s.railOn m = true then s.offRail nack m (s.rail m) else s.rail m := by
    intro m
    rw [← hc, turnOffs_rail nack _ hl, rail_of_casc bc.1, bof]
    simp only [ml]
  have cl : c.lt = s.lt := (lt_of_dev (kc.dev (by decide))).trans bl
  have e : s.stageDown q nack = (c.setSeq q (some { r with phase := .wait, since := s.lt })).advance q := by
    unfold stageDown
    simp only [h]
    rw [if_neg (by rw [hu]; simpa using hp), hb, hL, hc, cl]
  generalize hf : c.setSeq q (some { r with phase := .wait, since := s.lt }) = f at e
  have fs : f.seqOf q = some { r with phase := .wait, since := s.lt } := by rw [← hf]; exact setSeq_seqOf ..
  have fr : ∀ m, f.rail m = c.rail m := by
    intro m; refine rail_of_rails ?_; rw [← hf, setSeq_rails]
  have frst : f.rst.stretch = none := by
    have : f.rst = c.rst := by rw [← hf]; exact (setSeq_keeps ..).rst (by decide)
    rw [this, kc.rst (by decide), bc.2]; exact hs
  have fc : f.cfg = b.cfg := by
    have : f.cfg = c.cfg := by rw [← hf]; exact (setSeq_keeps ..).cfg (by decide)
    rw [this, kc.cfg (by decide)]
  refine ⟨fun m => ?_, fun ⟨n, hn, hon, hd⟩ => ?_⟩
  · rw [← rc, ← fr, e]; exact (advance_same q frst).2 m
  · rw [e, advance_waits fs ?_, fs]
    have on : f.rail n = s.offRail nack n (s.rail n) := by rw [fr, rc, if_pos ⟨hn, hon⟩]
    unfold stageDone
    simp only [hu, Bool.false_eq_true, if_false]
    rw [List.all_eq_false]
    refine ⟨n, ?_, ?_⟩
    · rw [seqRails_congr fc, brs]; exact hn
    · rw [on]
      simp [offRail, hd]

/-- An orderly shutdown of a Cascade that is UP or ON (R198, R232). -/
theorem orderlyShutdown_facts (c : ShutCause) (k : Nat) (h : s.casc.st = .up ∨ s.casc.st = .on) :
    (s.orderlyShutdown c k).casc.st = .down ∧ (s.orderlyShutdown c k).weir.shutdown.isSome = true ∧ (s.orderlyShutdown c k).casc.casIn = s.casc.casIn := by
  unfold orderlyShutdown
  extract_lets +onlyGivenNames z0 z
  have hz1 : z.casc = s.casc := rfl
  have hz2 : z.weir.shutdown.isSome = true := by
    simp only [z]
    cases s.weir.shutdown <;> rfl
  clear_value z
  have e : z.startDown.casc.st = .down ∧ z.startDown.weir.shutdown.isSome = true ∧ z.startDown.casc.casIn = s.casc.casIn := by
    have h' : z.casc.st = .up ∨ z.casc.st = .on := by rw [hz1]; exact h
    refine ⟨startDown_st h', ?_, ?_⟩
    · rw [(startDown_keeps z).weir (by decide)]; exact hz2
    · rw [← hz1]
      unfold startDown
      rw [if_neg (by rcases h' with h | h <;> rw [h] <;> decide)]
      extract_lets top _ y
      exact (congrArg CascSt.casIn ((slotsOff_keeps y).casc (by decide)) :).trans rfl
  rcases h with hc | hc
  · have : z.casc.st = .up := by rw [hz1]; exact hc
    rw [this]; exact e
  · have : z.casc.st = .on := by rw [hz1]; exact hc
    rw [this]; exact e

/-- A rail not discharged in time (R233). -/
theorem stick_rail : (s.stick n).rail m = if m = n then { s.rail m with stuck := true, phase := .off, dsc := s.hasDsc n, evTick := s.lt } else s.rail m := by
  unfold stick
  rw [rail_of_casc ((notice_keeps ..).casc (by decide)), updRail_rail]

theorem stageStuck_facts (h : s.seqOf q = some r) (hu : r.up = false) (hp : r.phase = .wait) (hs : s.rst.stretch = none)
    (hm : m ∈ s.seqRails q r.stage) (hf : (s.rail m).phase = .falling) :
    ((s.stageStuck q).rail m).stuck = true ∧ ((s.stageStuck q).rail m).phase = .off := by
  generalize hL : (s.seqRails q r.stage).filter (fun n => (s.rail n).phase = .falling) = l
  have hl : m ∈ l := by rw [← hL, List.mem_filter]; exact ⟨hm, by simpa using hf⟩
  have e : s.stageStuck q = (l.foldl State.stick s).advance q := by
    unfold stageStuck
    simp only [h]
    rw [if_neg (by rw [hu, hp]; decide), hL]
  have k : ∀ (l : List (Fin 64)) (t : State), t.rst.stretch = none → ((t.rail m).stuck = true ∧ (t.rail m).phase = .off) ∨ m ∈ l →
      (l.foldl State.stick t).rst.stretch = none ∧ ((l.foldl State.stick t).rail m).stuck = true ∧ ((l.foldl State.stick t).rail m).phase = .off := by
    intro l
    induction l with
    | nil => intro t ht hh; rcases hh with hh | hh
             · exact ⟨ht, hh⟩
             · cases hh
    | cons x l ih =>
      intro t ht hh
      refine ih (t.stick x) ?_ ?_
      · rw [(stick_keeps ..).rst (by decide)]; exact ht
      · by_cases hx : m = x
        · left; rw [stick_rail, if_pos hx]; exact ⟨rfl, rfl⟩
        · rcases hh with hh | hh
          · left; rw [stick_rail, if_neg hx]; exact hh
          · right; exact (List.mem_cons.1 hh).resolve_left hx
  have a := k l s hs (.inr hl)
  have b := (advance_same q a.1).2 m
  unfold SameRail at b
  rw [e, b]
  exact a.2

end State

end Sys2Proof.Machine
end

