-- ==== Sys2Proof/Laws/Trips.lean ====
section
/-!
SUPPORT. The end of a thermal trip and what waits for it: what it leaves of the channels' latches (R256, R281, R284).
-/

namespace Sys2Proof.Machine

namespace State

variable {s t : State} {c d : Fin 28}

theorem updChan_chan (f : ChanSt → ChanSt) : (s.updChan c f).chan d = if d = c then f (s.chan d) else s.chan d := Vec.get_upd ..

theorem chan_of_cool (h : t.cool = s.cool) : t.chan d = s.chan d := by unfold chan; rw [h]

/-- `t` has the leak latch of `s`, and of every channel trip, latch and wait. -/
def SameTrips (s t : State) : Prop :=
  t.cool.leak = s.cool.leak ∧ t.cool.leakPumps = s.cool.leakPumps ∧
    ∀ d, (t.chan d).tripped = (s.chan d).tripped ∧ (t.chan d).latched = (s.chan d).latched ∧ (t.chan d).waiting = (s.chan d).waiting

theorem SameTrips.refl (s : State) : SameTrips s s := ⟨rfl, rfl, fun _ => ⟨rfl, rfl, rfl⟩⟩

theorem SameTrips.trans {u : State} (h : SameTrips s t) (k : SameTrips t u) : SameTrips s u :=
  ⟨k.1.trans h.1, k.2.1.trans h.2.1, fun d => ⟨(k.2.2 d).1.trans (h.2.2 d).1, (k.2.2 d).2.1.trans (h.2.2 d).2.1, (k.2.2 d).2.2.trans (h.2.2 d).2.2⟩⟩

theorem SameTrips.of_cool (h : t.cool = s.cool) : SameTrips s t := by
  refine ⟨congrArg CoolSt.leak h, congrArg CoolSt.leakPumps h, fun d => ?_⟩
  rw [chan_of_cool h]; exact ⟨rfl, rfl, rfl⟩

theorem SameTrips.upd (f : ChanSt → ChanSt) (h : ∀ x, (f x).tripped = x.tripped ∧ (f x).latched = x.latched ∧ (f x).waiting = x.waiting) :
    SameTrips s (s.updChan c f) := by
  refine ⟨rfl, rfl, fun d => ?_⟩
  rw [updChan_chan]
  split
  · exact h _
  · exact ⟨rfl, rfl, rfl⟩

theorem restartFeed_cool (on : Nat) (f : Feed) : (restartFeed on s f).cool = s.cool := by
  unfold restartFeed tryRamp
  split
  · extract_lets w x
    split <;> rfl
  · rfl

theorem feedAfterLeak_cool (f : Feed) : (feedAfterLeak s f).cool = s.cool := (feedAfterLeak_keeps ..).cool (by decide)

theorem foldl_trips {ι : Type} (f : State → ι → State) (l : List ι) (h : ∀ t i, SameTrips t (f t i)) : SameTrips s (l.foldl f s) :=
  foldl_inv (fun t => SameTrips s t) f l (fun t i ht => ht.trans (h t i)) s (SameTrips.refl s)

theorem foldl_cool {ι : Type} (f : State → ι → State) (l : List ι) (h : ∀ t i, (f t i).cool = t.cool) : (l.foldl f s).cool = s.cool :=
  foldl_inv (fun t => t.cool = s.cool) f l (fun t i ht => (h t i).trans ht) s rfl

theorem slotUp_trips (i : Fin 8) : SameTrips s (s.slotUp i) := SameTrips.of_cool ((slotUp_keeps ..).cool (by decide))

theorem endTrip_trips (r : Bool) :
    SameTrips (s.updChan c (fun y => { y with tripped := false, latched := false, tripCnt := 0, holdSince := none, waiting := none })) (s.endTrip c r) := by
  have fin : ∀ t : State, SameTrips t ((t.updChan c (fun y => { y with restarts := if r then y.restarts ++ [t.lt] else y.restarts })).raise
      (0x0340 + c.1) 1 (t.chanScope c)) := fun t =>
    SameTrips.trans (SameTrips.upd (c := c) (fun y => { y with restarts := if r then y.restarts ++ [t.lt] else y.restarts }) (fun _ => ⟨rfl, rfl, rfl⟩))
      (SameTrips.of_cool ((raise_keeps ..).cool (by decide)))
  unfold endTrip
  extract_lets +onlyGivenNames x y done
  have hd : ∀ t, SameTrips t (done t) := fin
  show SameTrips y _
  clear_value y done
  split
  · exact foldl_trips _ _ (fun t e => SameTrips.upd (fun y => { y with feedsOn := y.feedsOn ||| x.feedsOn }) (fun _ => ⟨rfl, rfl, rfl⟩))
  · split
    · split
      · exact (slotUp_trips _).trans (hd _)
      · exact SameTrips.refl y
    · extract_lets +onlyGivenNames z3 z0 z1 z2
      have h2 : SameTrips y z2 := SameTrips.of_cool (foldl_cool (s := z0) _ _ (fun t f => restartFeed_cool (s := t) _ f))
      clear_value z2
      split
      · exact h2.trans (hd _)
      · exact h2

theorem holdOver_trips (r : Bool) : (s.holdOver c r).cool.leak = s.cool.leak ∧ ∀ d,
    ((s.holdOver c r).chan d).latched = (if d = c then false else (s.chan d).latched) := by
  unfold holdOver
  split
  · refine ⟨rfl, fun d => ?_⟩
    rw [updChan_chan]
    split <;> rfl
  · have h := endTrip_trips (s := s) (c := c) r
    refine ⟨h.1, fun d => ?_⟩
    rw [(h.2.2 d).2.1, updChan_chan]
    split <;> rfl

theorem waitedRestarts_leak : s.waitedRestarts.cool.leak = s.cool.leak ∧ s.waitedRestarts.cool.leakPumps = s.cool.leakPumps := by
  unfold waitedRestarts
  refine foldl_inv (fun t : State => t.cool.leak = s.cool.leak ∧ t.cool.leakPumps = s.cool.leakPumps) _ (List.finRange 28) (fun t c ht => ?_) s ⟨rfl, rfl⟩
  split
  · have h := endTrip_trips (s := t) (c := c)
    exact ⟨(h _).1.trans ht.1, (h _).2.1.trans ht.2⟩
  · exact ht

theorem spinUp_leak (t : State) (o : Fin 20) : (t.spinUp o).cool.leak = t.cool.leak ∧ (t.spinUp o).cool.leakPumps = t.cool.leakPumps := ⟨rfl, rfl⟩

theorem driveAll_leak (b : Bool) (x : State) : (x.driveAll b).cool.leak = x.cool.leak ∧ (x.driveAll b).cool.leakPumps = x.cool.leakPumps := by
  have h := driveAll_cool b x
  generalize x.driveAll b = y at h ⊢
  exact ⟨(congrArg CoolSt.leak h).trans rfl, (congrArg CoolSt.leakPumps h).trans rfl⟩

theorem clearLeak_facts : s.clearLeak.cool.leak = false ∧ s.clearLeak.cool.leakPumps = false := by
  unfold clearLeak
  extract_lets +onlyGivenNames st z1 z2 y1 y2
  have h1 : y1.cool.leak = false ∧ y1.cool.leakPumps = false := ⟨rfl, rfl⟩
  clear_value y1
  have h2 : y2.cool.leak = false ∧ y2.cool.leakPumps = false := by
    unfold y2
    split
    · exact foldl_inv (fun t : State => t.cool.leak = false ∧ t.cool.leakPumps = false) State.spinUp _ (fun t o ht => ⟨(spinUp_leak t o).1.trans ht.1, (spinUp_leak t o).2.trans ht.2⟩) y1 h1
    · exact h1
  clear_value y2
  have h3 : ((List.finRange 2).foldl feedAfterLeak y2).cool = y2.cool :=
    foldl_inv (fun t : State => t.cool = y2.cool) _ _ (fun t f ht => (feedAfterLeak_cool f).trans ht) y2 rfl
  have h4 := waitedRestarts_leak (s := (List.finRange 2).foldl feedAfterLeak y2)
  rw [h3] at h4
  have h5 := driveAll_leak false ((List.finRange 2).foldl feedAfterLeak y2).waitedRestarts
  exact ⟨h5.1.trans (h4.1.trans h2.1), h5.2.trans (h4.2.trans h2.2)⟩

end State

end Sys2Proof.Machine
end

