-- ==== Sys2Proof/WellFormed.lean ====
section
/-!
DEFINITION. Which commands are well formed: lengths, offsets and numbers that the spec's own widths admit. `exec` gives every command a meaning; the
check says which a host, a device or the block's own hardware can bring.
-/

namespace Sys2Proof

/-- An error pattern names a line by its offset, and each byte of it once (R426). -/
def LineErr.wf (e : LineErr) : Bool := e.line % 64 == 0 && decide (e.errs.map (fun x => x.1)).Nodup

/-- A submission fits WIN_DATA (R91). -/
def paramsWf (ps : Bytes) : Bool := decide (ps.length ≤ 3840)

/-- The command is well formed. -/
def instrWf : Instr → Bool
  | .hello _ _ params => paramsWf params
  | .leaseRenew _ _ params => paramsWf params
  | .identify _ _ params => paramsWf params
  | .leaseRelease _ _ params => paramsWf params
  | .counterRead _ _ params => paramsWf params
  | .logRead _ _ params => paramsWf params
  | .sensorRead _ _ params => paramsWf params
  | .draftOpen _ _ params => paramsWf params
  | .draftSet _ _ params => paramsWf params
  | .draftGet _ _ params => paramsWf params
  | .draftCheck _ _ params => paramsWf params
  | .draftCommit _ _ params => paramsWf params
  | .draftAbort _ _ params => paramsWf params
  | .settingsSave _ _ params => paramsWf params
  | .liveSet _ _ params => paramsWf params
  | .liveGet _ _ params => paramsWf params
  | .weirOn _ _ params => paramsWf params
  | .weirOff _ _ params => paramsWf params
  | .weirClear _ _ params => paramsWf params
  | .weirStatus _ _ params => paramsWf params
  | .cascadeStatus _ _ params => paramsWf params
  | .railFlagClear _ _ params => paramsWf params
  | .coolStatus _ _ params => paramsWf params
  | .fanSet _ _ params => paramsWf params
  | .thermStatus _ _ params => paramsWf params
  | .tripClear _ _ params => paramsWf params
  | .leakClear _ _ params => paramsWf params
  | .cadStatus _ _ params => paramsWf params
  | .linkStatus _ _ params => paramsWf params
  | .cadRejoin _ _ params => paramsWf params
  | .cadSwitch _ _ params => paramsWf params
  | .groupStatus _ _ params => paramsWf params
  | .cadRequest _ _ params => paramsWf params
  | .resetAt _ _ params => paramsWf params
  | .snapshotAt _ _ params => paramsWf params
  | .snapshotRead _ _ params => paramsWf params
  | .expel _ _ params => paramsWf params
  | .checkStatus _ _ params => paramsWf params
  | .checkResults _ _ params => paramsWf params
  | .checkControl _ _ params => paramsWf params
  | .integStatus _ _ params => paramsWf params
  | .unitRead _ _ params => paramsWf params
  | .unitRelease _ _ params => paramsWf params
  | .lullStatus _ _ params => paramsWf params
  | .voteLog _ _ params => paramsWf params
  | .packSend _ _ params => paramsWf params
  | .packStatus _ _ params => paramsWf params
  | .basinStatus _ _ params => paramsWf params
  | .basinHold _ _ params => paramsWf params
  | .basinSeal _ _ params => paramsWf params
  | .basinUnseal _ _ params => paramsWf params
  | .basinVerify _ _ params => paramsWf params
  | .modelDigest _ _ params => paramsWf params
  | .basinPush _ _ params => paramsWf params
  | .poisonList _ _ params => paramsWf params
  | .slotStatus _ _ params => paramsWf params
  | .slotPower _ _ params => paramsWf params
  | .slotReset _ _ params => paramsWf params
  | .slotRun _ _ params => paramsWf params
  | .slotHold _ _ params => paramsWf params
  | .slotQuarantine _ _ params => paramsWf params
  | .slotRelease _ _ params => paramsWf params
  | .bootStatus _ _ params => paramsWf params
  | .upperLoad _ _ params => paramsWf params
  | .upperHalt _ _ params => paramsWf params
  | .keyStatus _ _ params => paramsWf params
  | .keyProgram _ _ params => paramsWf params
  | .keyRevoke _ _ params => paramsWf params
  | .fwBegin _ _ params => paramsWf params
  | .fwBlock _ _ params => paramsWf params
  | .fwEnd _ _ params => paramsWf params
  | .fwHandover _ _ params => paramsWf params
  | .fwRestartCore _ _ params => paramsWf params
  | .fwStatus _ _ params => paramsWf params
  | .resetStatus _ _ params => paramsWf params
  | .resetRequest _ _ params => paramsWf params
  | .calmEnter _ _ params => paramsWf params
  | .rtcRead _ _ params => paramsWf params
  | .rtcWrite _ _ params => paramsWf params
  | .bkpRead _ _ params => paramsWf params
  | .bkpWrite _ _ params => paramsWf params
  | .go _ _ => true
  | .registerWrite sp off _ => (match sp with | .dev | .win _ => decide (off < 0x1000) && off % 4 == 0 | .msix => decide (off < 0x200) && off % 4 == 0 | .config => decide (off < 0x1000) && off % 4 == 0)
  | .chgSummaryClear _ _ _ => true
  | .ctLoRead _ => true
  | .ltLoRead _ => true
  | .rcvCopy => true
  | .rcvCheckAndBoot => true
  | .rcvI3cCopy len off data _ => decide (1 ≤ len) && decide (len ≤ 248) && decide (off < 2 ^ 32) && data.length == len
  | .rcvI3cCheckAndBoot len off _ _ => decide (len < 2 ^ 16) && decide (off < 2 ^ 32)
  | .rcvI3cStateRead => true
  | .relK1 => true
  | .relU _ => true
  | .haltU _ => true
  | .watchdogService _ _ => true
  | .watchdogTimeoutSet _ ms => decide (ms < 2 ^ 16)
  | .sidebandCommand _ _ plen params => decide (plen < 2 ^ 16) && decide (params.length ≤ 3840)
  | .sidebandStatusQuery => true
  | .sidebandCompletionNotice => true
  | .mctpControl _ _ => true
  | .mctpOtherMessage _ _ => true
  | .i3cEntdaa _ => true
  | .i3cSetdasa _ _ => true
  | .getTid => true
  | .getPldmVersion _ => true
  | .getPldmTypes => true
  | .getPldmCommands _ => true
  | .getPdrRepositoryInfo => true
  | .getPdr _ => true
  | .getSensorReading _ => true
  | .getVersion => true
  | .getCapabilities _ => true
  | .negotiateAlgorithms _ => true
  | .getDigests => true
  | .getCertificate _ _ _ => true
  | .challenge _ _ nonce => nonce.length == 32
  | .getMeasurements _ _ nonce => nonce.length == 32 || nonce.length == 0
  | .keyExchange _ => true
  | .pskExchange _ => true
  | .perstAssert => true
  | .perstRelease => true
  | .functionLevelReset => true
  | .pcieLinkLoss => true
  | .bar2Write off data errs => decide (0 < data.length) && decide (off + data.length ≤ 2 ^ 39) && errs.all LineErr.wf
  | .bar2Read off len errs => decide (0 < len) && decide (len ≤ 4096) && decide (off + len ≤ 2 ^ 39) && errs.all LineErr.wf
  | .barUnmappedAccess bar off _ => decide (off < match bar with | .bar0 => 0x10000 | .bar2 => 2 ^ 39 | .bar4 => 0x10000000)
  | .bar4RecordWrite _ off data => decide (0 < data.length) && decide (off + data.length ≤ 0x400000)
  | .bar4SealWrite _ data => decide (8 ≤ data.length) && decide (data.length ≤ 0x400000)
  | .notebookWrite _ _ off data => decide (0 < data.length) && decide (off + data.length ≤ 131072)
  | .notebookOpen _ => true
  | .notebookGenWrite _ gen => gen != 0
  | .powerOnReset _ => true
  | .brownOut _ _ => true
  | .pinReset _ => true
  | .optionLoadingDone _ _ _ _ => true
  | .optionFaultRetry => true
  | .referenceCheck _ => true
  | .tmcRstNRelease _ => true
  | .protectionsArmed => true
  | .romEntry => true
  | .romFailRetry => true
  | .keeperImageStart _ _ => true
  | .bankConfirm => true
  | .clockFailure => true
  | .clockRecovered => true
  | .pllLocked _ => true
  | .pllLockTimeout _ => true
  | .keeperWatchdogFire _ _ => true
  | .escalationWindowClose => true
  | .upperWatchdogFire _ _ => true
  | .keeperLockup _ => true
  | .upperLockup _ _ => true
  | .protectionFault _ _ _ _ => true
  | .softwareResetRequest _ _ _ => true
  | .debugResetRequest _ _ => true
  | .resetRequestDue => true
  | .rtcAlarm => true
  | .calmReached => true
  | .keeperResume => true
  | .leaseExpiry => true
  | .fanHoldEnd => true
  | .sidebandDraftIdle => true
  | .feedInWindow _ _ => true
  | .feedOutOfWindow _ _ _ => true
  | .feedPowerGood _ _ _ => true
  | .rampTimeout _ => true
  | .currentLimitReached _ _ => true
  | .faultTimerClear _ => true
  | .faultTimerExpiry _ => true
  | .soaTrip _ => true
  | .fastTrip _ => true
  | .feedLoss _ _ => true
  | .cooldownEnd _ => true
  | .retryCountReset _ => true
  | .holdupExpiry => true
  | .minOffEnd _ => true
  | .powerWindowClose _ _ _ => true
  | .shareImbalance => true
  | .upSequenceStart => true
  | .casInLow => true
  | .stageUpDelayExpiry _ _ => true
  | .railPowerGood _ _ => true
  | .pgTimeout _ _ => true
  | .railLeavesWindow _ _ _ _ => true
  | .stageDownDelayExpiry _ _ => true
  | .railDischarged _ _ => true
  | .dscTimeout _ => true
  | .downSequenceTimeout _ => true
  | .busLost => true
  | .seqTransaction _ => true
  | .seqUpFrame => true
  | .seqDownFrame => true
  | .seqBusFrame _ => true
  | .seqPoll _ _ => true
  | .seqSilent => true
  | .slotUpSequence _ => true
  | .ioutLimitWrite _ _ => true
  | .tempConversion cs => cs.length == 28
  | .tripHoldEnd _ => true
  | .gustQuiet => true
  | .fanEngineEval rpm => rpm.length == 20
  | .spinUpStep _ _ => true
  | .tachNoEdge _ => true
  | .outputSlow _ => true
  | .outputRestored _ => true
  | .ceilingOverTimer => true
  | .ceilingReturn => true
  | .ceilingUnderTimer => true
  | .flowMeasure _ _ => true
  | .flowLow _ => true
  | .flowRecover _ => true
  | .leakMeasure kohm => kohm.length == 8
  | .leakWet _ => true
  | .ropeDry _ => true
  | .leakPumpStop => true
  | .frameBoundary pout => pout.all (fun e => decide (e.1 < 64))
  | .throttleHoldbackEnd => true
  | .armWord _ _ _ _ => true
  | .barrier _ _ => true
  | .broadcast _ _ words => decide (0 < words.length) && decide (words.length ≤ 32)
  | .reduce _ fn _ _ => decide (2 ≤ fn.toNat) && decide (fn.toNat ≤ 6)
  | .vote _ _ _ => true
  | .laneOpTimeout _ _ => true
  | .laneOpResult _ _ => true
  | .blockLock _ _ => true
  | .cellAlignment _ => true
  | .linkLoss _ => true
  | .linkIdent _ _ => true
  | .echoCell _ _ _ turn => decide (turn < 2 ^ 32)
  | .stampCell _ _ _ => true
  | .timeSlot _ _ => true
  | .opCell _ _ _ => true
  | .trickleCell _ _ => true
  | .packRxTimeout => true
  | .packInstall => true
  | .holdoverEntry => true
  | .holdoverHold => true
  | .relock => true
  | .timeStep => true
  | .joinLock => true
  | .uplinkSwitch => true
  | .adopt _ => true
  | .reachReport => true
  | .reachRecord _ _ => true
  | .epochProposal _ _ epoch _ _ => epoch % 1024 == 0
  | .armReduceStart _ _ epoch => epoch % 1024 == 0
  | .decide _ _ epoch _ _ => epoch % 1024 == 0
  | .epochEffect epoch => epoch % 1024 == 0
  | .epochNoDecision _ _ epoch => epoch % 1024 == 0
  | .expelDecision _ _ _ => true
  | .expelEffect _ _ epoch => epoch % 1024 == 0
  | .checkEngineStart => true
  | .checkEngineStop => true
  | .checkStart _ errs => errs.all LineErr.wf
  | .checkDone _ => true
  | .evidenceClassify => true
  | .missingSample _ layer _ _ => decide (layer < 4096)
  | .marginStepWrite _ _ => true
  | .ladderRelax _ => true
  | .lullTestOrder _ => true
  | .lullVoidTimeout _ => true
  | .voteResult _ _ => true
  | .voteOverdue _ layer => decide (layer < 4096)
  | .ledgerWrite key => decide (key.kind ≤ 2)
  | .basinSelfRefresh => true
  | .basinUsable => true
  | .tierUsable _ dimm0 dimm1 => decide (dimm0 ≤ 2 ^ 38) && decide (dimm1 ≤ 2 ^ 38)
  | .scrubRead err => err.all (fun e => decide (e.1 < 72))
  | .scrubCatchUp => true
  | .digestDone layer errs => decide (layer < 4096) && errs.all LineErr.wf
  | .slotPresent _ => true
  | .slotAbsent _ => true
  | .slotResetRelease _ => true
  | .slotIdentPoll _ _ => true
  | .slotBootTimeout _ => true
  | .slotAlert _ _ => true
  | .plan _ _ => true
  | .fence _ kind index _ => !kind || decide (index.toNat < 8)
  | .lullOrder _ _ => true
  | .packChunk _ _ => true
  | .slotPowerOnBaseRead _ _ => true
  | .handoverPause _ _ => true
  | .liveUcodeLoad => true
  | .sidebandWakeTransfer => true
  | .feedInputReturn _ _ => true
  | .railRoseInShutdown _ => true
  | .codeLaneWordDiscard _ => true
  | .cellDiscarded _ _ => true
  | .resetPulseEnd _ => true
  | .upperLoadComplete _ _ => true
  | .settingsSaveComplete _ => true
  | .fwEndComplete _ => true
  | .pushComplete _ errs => errs.all LineErr.wf
  | .handoverVerifyDone => true
  | .boundExpiry _ => true

end Sys2Proof
end

