-- ==== Sys2Proof/Tests/Slice0.lean ====
section
/-!
SUPPORT. Tests: states and operands that meet the hypotheses of each statement, ill-formed commands that WellFormed refuses, and values
that the spec gives.
-/

open Sys2Proof Sys2Proof.Machine

namespace Sys2Proof.Tests

/-- A keeper that serves windows, with both sessions and every feature. -/
def keeper : State :=
  { State.reset with
    dev := { State.reset.dev with
      st := .keeper, phase := .running, rstLow := false, armed := true, lt := 5000000, plls := Vec.tab 5 (fun _ => .locked) }
    bus := { State.reset.bus with perst := false, mse := true, bme := true, link := true }
    sess := { State.reset.sess with
      host := some { id := 1, map := 0xFFFF }, sideband := some { id := 2, map := 0xFFFF }, expiry := 6000000, i3cAddr := some 9 }
    cfg := { State.reset.cfg with loaded := true }
    boot := { State.reset.boot with cores := Vec.tab 8 (fun _ => { State.resetCore with run := true }), bank := some 0 } }

/-- The same device in Full. -/
def full : State := { keeper with dev := { keeper.dev with st := .full }, casc := { keeper.casc with st := .on } }

/-! Signed images, made outside Lean with an RSA-3072 key of the test's own: two sections or more, each with the four bytes 1, 2, 3, 4. -/

/-- The modulus of the owner key of the tests. -/
def ownerKey : Bytes := natBE 384
  0xc64ab3010747dfa0c3a7c77ebaf2045b3bbfd71b75a6316228ac7dd50f7af35713e6ed9610036a7da2794790dbb238ef70425a17e4ca68c120655bebaf121f36b32e58bf4f71ba064ceb2223b442414cbe693bd4ecdea611465889c0e2792827ba28265226e4c0e08a120831c29ea2d541cd1fc144203f9dbb57b9948da630f727da036c4e346931041523adbff56b04730af9a7aa4b5b43a5cb8f7c43bf508f39f32d77c197c27fc6bac5fa6dccd39c6f438090cc793f18bdd881ab5e57624c67592538865355fc2150ac104c019ad9477ba395c7c353687c86b8595ce9348e6053ef934c6ade3ac1e0e7a6813d1a4fae82d4177c05b3c703305193b3c31ce6b85cd29e45a74069ff2bf656504d7b9be0aa1e67db125c468b641ff7a91ed2288bc226d331c6db5393833319509c7fc958e0c05e73d157ecae5a35ec58cb224bdbf893afdf934aa28bd0983677c84e89b14b748e09f00c02d1a5d07ed14c17130b564a91078c444c9349eda94f610f1edbaa72f7def004b90592478bab2c9c71
/-- A body whose section table names these cores. -/
def imgBody (cores : List Nat) : Bytes :=
  natLE 2 cores.length ++ zeros 6 ++ cores.flatMap (fun c => byte c :: zeros 3 ++ natLE 4 (8 + 24 * cores.length) ++ natLE 4 4 ++ natLE 4 0
    ++ natLE 4 (crc32c [1, 2, 3, 4]) ++ zeros 4) ++ [1, 2, 3, 4]
/-- An image with the header of R522. -/
def image (comp : Nat) (cores : List Nat) (sig : Nat) : Bytes :=
  let b := imgBody cores
  ascii "SKIM" ++ natLE 2 1 ++ natLE 2 comp ++ natLE 4 (comp + 6) ++ zeros 4 ++ (List.replicate 4 (zeros 4 ++ natLE 4 0xFFFFFFFF)).flatten
    ++ natLE 4 b.length ++ zeros 8 ++ natLE 2 1 ++ natLE 2 1 ++ natLE 2 1 ++ zeros 2 ++ natLE 4 (crc32c b) ++ sha256 b ++ [1] ++ zeros 7
    ++ ownerKey ++ natBE 384 sig ++ zeros 144 ++ b
def keeperImage : Bytes := image 1 [0, 1]
  0x6e03e9e9d2a825084114ef19e4b36afd7ebf6a26c22da032d3b742d3bdf791619183f3d44297d430b13de1aef2fcea52c8736c38be047f85325fc5435611853665ccf304d38c8df502251b2222ea332a5362db159de48b1eb5409a9be103369be0e6567e0f704f7aaeb4e74ef249e1b90abd61d27758e5e7172d24946ed568b4b0cf63769c47dbd9fc1e6e60c36052f0a08177a23646beee3dc3dda3e90731ef0b99088ae7dc44c57b20b21f9ee320af8f0009362be0bd36437b8a4645fbf91a9b6d9671860de264ffacbbe7b55440c2189ba46cfba5ddec97cc94fe338726cb33a8c45747cffca447a349aab650ac1186934a9dc71315a14ee13fb94ea2e286267f652a19d9e885f7ecbf76bce673825723b634f46861faf2864fd7ef1fb9992abfa872d069bb50bc00b090e1529b0fc51813fb2c820187a575fe7ebee2893bae9e861d13094cd5ea0b1df09e42fb9d171fe1496b13f1dc060888f80ddb05596ade6b3538ae3c3880c2a23c4fac1d1dea66842b0438d4394bd58fa36f8e3596
def upperImage : Bytes := image 2 [2, 3, 4, 5, 6, 7]
  0x6828e651dc40d58dcad543f6dda06a50e22b8f6439bfe68f2fffd5288ab674f2cc81cb7199c4abf277da309ae2780b5f40036518f7e0b2e58e04b4337e2f663568cafa1f8f74a09cdcedb538751ac3f2a4a20bbaa044ef5acac51a6bb800312e5bf5b49867edfe33628c9c908b51ca0b48bf376df0afb11374663b376cc527efc8c7d18c6810afc8e702a8da800c193353018c9ebc269aa92af99558503e4d2744dec9ab6370957e4c3de0282313660789e8b5c9117de987d30c6304b93cf8a267140f15d30a797bc247ad67896ba2d122e973876adb77218a25f66eee81b86f177968644d9d467f6b10137537e71f4b7f877b9139131d13a152ed0c8441a759aab4bc6a1a11d0539a2e560d91b7dae3b06f813e3618549442146b6e212e765e7934b537d99f24150dff2b1afad960321e68a4a596fc6bc3b71ea44286ceaaf63b21f3652081586d9fbae30b4f6446142509de03af540211c610109aa32708b1bc289030f8a8a99668ad33cfb5d17f4fa6ea6afff258295694478869a4ef7313

/-- A keeper that holds the tests' owner key in slot 1. -/
def owned : State :=
  { keeper with boot := { keeper.boot with
    keys := Vec.tab 4 (fun i => if i.1 = 1 then { st := .active, hash := sha256 ownerKey } else { st := .blank, hash := zeros 32 }) } }

end Sys2Proof.Tests

namespace Sys2Proof.Tests

set_option Elab.async false

/-! EmptyQueueLetsTickPass -/
theorem wit_EmptyQueueLetsTickPass : State.reset.pending = [] := by decide

/-! StepKeepsInvariant -/
theorem wit_StepKeepsInvariant : (match step State.reset with | .next _ => true | _ => false) = true ∧ State.reset.countersOk := by
  refine ⟨by decide, ?_, by decide⟩
  intro e h
  simp [State.reset] at h
  subst h; decide

/-! SubmissionRefusedByFirstFailingCheck -/
theorem wit_SubmissionRefused :
    keeper.portOpen 6 = true ∧ cadStatusOp.verdict 6 [] (keeper.loaded cadStatusOp 6 7 []) = some .badOpcode ∧ full.portOpen 7 = true ∧
    fwHandoverOp.verdict 7 (zeros 8) (full.loaded fwHandoverOp 7 7 (zeros 8)) = some .badParam := by decide

/-! UnservedWindowsRefuse -/
theorem wit_UnservedWindowsRefuse : keeper.pcieUp = true ∧ keeper.winBusy 5 = false ∧ keeper.hostServed = false := by decide

/-! GoSubmitsWhatTheWindowHolds -/
theorem wit_GoSubmitsWhatTheWindowHolds :
    full.pcieUp = true ∧ full.winBusy 0 = false ∧ full.hostServed = true ∧ opcodeRows.all (fun r => r.1.opcode ≠ 0xFFFF) = true := by decide

/-! KeeperQueriesAnswer -/
theorem wit_KeeperQueriesAnswer :
    (keeperQueries.zip [[], [0, 0, 1, 0], zeros 8 ++ [1] ++ zeros 7, [1, 0, 1, 0], [0x70, 0, 1] ++ zeros 5, [0x70, 0, 1] ++ zeros 5]).all
      (fun c => full.admits c.1.op 7 7 c.2) = true ∧ (keeperQueries.drop 6).all (fun q => keeper.admits q.op 6 7 []) = true := by decide

/-! FullQueriesAnswer -/
/-- Full with one snapshot held. -/
def snapped : State := { full with gop := { full.gop with snaps := [{ id := 0, group := 0, step := 0, epoch := 0, slots := [], counters := [] }] } }
theorem wit_FullQueriesAnswer :
    fullQueries.all (fun q => [0, 8, 16].any (fun k => [0, 1, 4, 6, 8].any (fun j =>
      snapped.admits q.op 0 7 ((Vec.upd (Vec.tab 16 (fun _ => (0 : Byte))) (Fin.ofNat 16 j) (fun _ => 1)).toList.take k)))) = true := by decide

/-! CadenceMirrorReadLatches -/
theorem wit_CadenceMirrorReadLatches : full.bar0Up = true ∧ full.cad.st = .alone ∧
    ({ full with cad := { full.cad with st := .locked } } : State).cad.st ≠ .alone := by decide

/-! LocalTickReadLatches -/
theorem wit_LocalTickReadLatches : keeper.bar0Up = true := by decide

/-! ChangeSummaryBits -/
theorem wit_ChangeSummaryBits : (0x0864 : Nat) ≤ 0x0864 ∧ keeper.bar0Up = true := by decide

/-! RegisterWritesAct -/
theorem wit_RegisterWritesAct : keeper.pcieUp = true ∧ keeper.winBusy 6 = false := by decide

/-! UnmappedAccesses -/
theorem wit_UnmappedAccesses : keeper.bar0Up = true ∧ State.bar0Unmapped 0x200 = true ∧ keeper.recovering 2 = false ∧ keeper.barUp = true ∧
    keeper.stage0Pg = false ∧ keeper.isFull = false := by decide

/-! HelloOpensSession -/
/-- HELLO's parameters: version 1, no renewal, every feature. -/
def helloPs : Bytes := natLE 4 1 ++ zeros 12 ++ natLE 32 0xFFFF ++ zeros 8
theorem wit_HelloOpensSession : keeper.admits helloOp 6 7 helloPs = true ∧ keeper.admits helloOp 7 7 helloPs = true ∧ full.admits helloOp 0 7 helloPs = true ∧ keeper.renews 6 helloPs = false := by decide +kernel

/-! LeaseCommands -/
theorem wit_LeaseCommands : keeper.admits leaseRenewOp 6 7 [] = true ∧ full.admits leaseReleaseOp 0 7 [] = true ∧ full.sess.host.isSome = true := by decide +kernel

/-! DraftCommandsAnswer -/
/-- Full with an empty Draft of window 0. -/
def drafting : State :=
  { full with cfg := { full.cfg with draft := some { id := 5, owner := 0, session := 1, staged := [], checked := false, lastTick := 0 } } }
/-- The same with a lease period below its range staged. -/
def draftingBad : State :=
  { full with cfg := { full.cfg with
    draft := some { id := 5, owner := 0, session := 1, staged := [(⟨0x70, 0, 1⟩, 3)], checked := false, lastTick := 0 } } }
theorem wit_DraftCommandsAnswer : full.admits draftOpenOp 0 7 [] = true ∧ drafting.admits draftCheckOp 0 7 [] = true ∧
    drafting.draftFails = [] ∧ draftingBad.draftFails ≠ [] ∧ draftingBad.admits draftCheckOp 0 7 [] = true ∧ drafting.admits draftAbortOp 0 7 [5, 0, 0, 0] = true := by decide +kernel
theorem wit_DraftSet : drafting.admits draftSetOp 0 7 (natLE 8 1 ++ entryBytes (⟨0x70, 0, 1⟩, 500)) = true ∧
    State.entriesOf (natLE 8 1 ++ entryBytes (⟨0x70, 0, 1⟩, 500)) = some [(⟨0x70, 0, 1⟩, 500)] ∧ drafting.cfg.draft.isSome = true := by decide +kernel

/-! CommitAndSaveWait -/
/-- Full with a checked Draft of window 0. -/
def checkedDraft : State :=
  { full with cfg := { full.cfg with draft := some { id := 5, owner := 0, session := 1, staged := [], checked := true, lastTick := 0 } } }
theorem wit_CommitAndSaveWait : checkedDraft.admits draftCommitOp 0 7 (zeros 16) = true ∧ checkedDraft.commitFails = [] ∧
    draftingBad.admits draftCommitOp 0 7 (zeros 16) = true ∧ draftingBad.commitFails ≠ [] ∧
    full.admits fanSetOp 0 7 [1, 1, 50, 0, 0, 0, 0, 0] = true := by decide +kernel
theorem wit_LiveSet : full.admits liveSetOp 0 7 (natLE 8 1 ++ entryBytes (⟨0x70, 0, 1⟩, 500)) = true := by decide +kernel
theorem wit_SettingsSave : full.admits settingsSaveOp 0 7 [] = true ∧ full.saveSeq ≠ 0xFFFFFFFF := by decide +kernel

/-! RecoveryTakesImages -/
/-- The ROM waiting for an image over PCIe, its buffer empty. -/
def recovery2 : State :=
  { keeper with
    dev := { keeper.dev with phase := .recovery, bootSrc := 2 }
    boot := { keeper.boot with rcvLen := 16, rcvBuf := [(0, 1)] } }
/-- The ROM waiting for an image over I3C. -/
def recovery1 : State := { recovery2 with dev := { recovery2.dev with bootSrc := 1 } }
/-- The same with the signed keeper image received, and the owner key programmed or not. -/
def recoverySigned (keys : Bool) : State :=
  { recovery2 with boot := { (if keys then owned else keeper).boot with bootBuf := Mem.cells 0 0 keeperImage, bootLen := keeperImage.length } }
theorem wit_RecoveryGoodImage : (recoverySigned true).keeperBad' keeperImage = none := by decide +kernel
theorem wit_RecoveryGoodHeader : (recoverySigned true).recovering 2 = true ∧
    (ImgHeader.parse (Mem.read 0 (recoverySigned true).boot.bootBuf 0 1024)).formOk 1 = true ∧
    Mem.read 0 (recoverySigned true).boot.bootBuf 0 (1024 + (ImgHeader.parse (Mem.read 0 (recoverySigned true).boot.bootBuf 0 1024)).length) = keeperImage := by
  have h : Mem.read 0 (recoverySigned true).boot.bootBuf 0 keeperImage.length = keeperImage := Mem.read_cells 0 0 keeperImage
  have h0 : Mem.read 0 (recoverySigned true).boot.bootBuf 0 1024 = keeperImage.take 1024 := by
    rw [Mem.read_take (n := keeperImage.length) (by decide +kernel), h]
  rw [h0]
  refine ⟨by decide +kernel, by decide +kernel, ?_⟩
  have hl : 1024 + (ImgHeader.parse (keeperImage.take 1024)).length = keeperImage.length := by decide +kernel
  rw [hl]; exact h
theorem wit_RecoveryBadImage : (recoverySigned false).keeperBad' keeperImage ≠ none := by decide +kernel
theorem wit_RecoveryTakesImages : recovery2.recovering 2 = true ∧ recovery2.bus.mse = true ∧ recovery2.bus.perst = false ∧
    0 < recovery2.boot.rcvLen ∧ recovery2.boot.rcvLen ≤ 32768 ∧ recovery2.boot.rcvOffset + recovery2.boot.rcvLen ≤ 1048576 ∧
    recovery1.recovering 1 = true := by decide +kernel
theorem wit_RecoveryRefusesHeader : (ImgHeader.parse (Mem.read 0 recovery2.boot.bootBuf 0 1024)).formOk 1 = false := by decide +kernel
theorem wit_RecoveryI3c : State.rcvWriteOk 1 1 0 [7] (byte (crc8 ([1, 0, 1, 0, 0, 0, 0, 0, 7] : Bytes))) = true ∧
    State.rcvWriteOk 2 1 0 [7] (byte (crc8 ([2, 0, 1, 0, 0, 0, 0, 0, 7] : Bytes))) = true := by decide +kernel

/-! CoresReleaseAndHalt -/
/-- A keeper whose K1 and upper cores wait for their release. -/
def waitingCores : State :=
  { keeper with boot := { keeper.boot with
    cores := Vec.tab 8 (fun k => if k.1 = 0 then { State.resetCore with run := true } else { State.resetCore with mapLocked := true, sectionsOk := true }) } }
/-- The same with sections that failed. -/
def badCores : State :=
  { keeper with boot := { keeper.boot with cores := Vec.tab 8 (fun k => if k.1 = 0 then { State.resetCore with run := true } else State.resetCore) } }
/-- A keeper whose watchdog timeouts are set. -/
def timedCores : State := { keeper with boot := { keeper.boot with cores := Vec.tab 8 (fun _ => { State.resetCore with run := true, wdSet := true }) } }
theorem wit_CoresReleaseAndHalt : waitingCores.keeperUp = true ∧ waitingCores.coreRuns 1 = false ∧ waitingCores.releasable 1 = true ∧
    badCores.keeperUp = true ∧ badCores.coreRuns 1 = false ∧ badCores.releasable 1 = false ∧ waitingCores.releasable 7 = true ∧
    keeper.keeperUp = true ∧ keeper.coreRuns 2 = true ∧ (keeper.core 2).wdSet = false ∧ timedCores.coreRuns 3 = true ∧ (timedCores.core 3).wdSet = true := by decide

/-! SidebandEndpoint -/
/-- A keeper whose sideband target has no address yet. -/
def unaddressed : State := { keeper with sess := { keeper.sess with i3cAddr := none } }
/-- A keeper that owes a completion notice. -/
def owesNotice : State := { keeper with wins := Vec.tab 8 (fun p => { State.resetWin p with notice := decide (p = 7) }) }
theorem wit_SidebandEndpoint : unaddressed.keeperServed = true ∧ unaddressed.sess.i3cAddr = none ∧ keeper.sidebandUp = true ∧
    owesNotice.sidebandUp = true ∧ (owesNotice.win 7).notice = true ∧ (6 : Byte).toNat ∉ [1, 2, 4, 5] := by decide

/-! PldmAnswers -/
theorem wit_PldmAnswers : keeper.sidebandUp = true ∧ (58#32).toNat ≤ 58 ∧ 58 < (59#32).toNat ∧ (1#16).toNat ≤ 58 ∧ (0#16).toNat = 0 := by decide

/-! SpdmAnswers -/
/-- A keeper within an SPDM exchange. -/
def inSpdm (v a : Bool) : State := { keeper with sess := { keeper.sess with spdmVersion := v, spdmAlgs := a } }
/-- With a certificate chain of four bytes. -/
def withChain : State :=
  { inSpdm true true with boot := { (inSpdm true true).boot with flash := Mem.write 0xFF keeper.boot.flash 0x7500100 [4, 0, 0, 0] } }
theorem wit_SpdmAnswers : (inSpdm true true).sidebandUp = true ∧ (inSpdm true false).sess.spdmVersion = true ∧ (inSpdm false false).sess.spdmVersion = false ∧
    (inSpdm true true).sess.spdmAlgs = true := by decide
theorem wit_SpdmChain : withChain.sidebandUp = true ∧ withChain.certChain.length = 4 := by decide +kernel

/-! SessionEndEvents -/
/-- Full after its lease ran out, with the fan hold running and a sideband Draft untouched for 60 s. -/
def lapsed : State :=
  { full with
    dev := { full.dev with lt := 100000000 }, sess := { full.sess with fanHold := some 90000000 }
    cfg := { full.cfg with draft := some { id := 5, owner := 7, session := 2, staged := [], checked := false, lastTick := 4 } } }
theorem wit_SessionEndEvents : lapsed.sess.host.isSome = true ∧ lapsed.sess.expiry ≤ lapsed.lt ∧ lapsed.keeperServed = true ∧
    lapsed.bus.perst = false ∧ lapsed.bus.link = true ∧ lapsed.sess.fanHold = some 90000000 ∧ 90000000 ≤ lapsed.lt ∧
    lapsed.cfg.draft = some { id := 5, owner := 7, session := 2, staged := [], checked := false, lastTick := 4 } ∧
    lapsed.commitPending = false ∧ 4 + 60000000 ≤ lapsed.lt := by decide +kernel

/-! SettingsSaveCompletes -/
/-- A keeper with a save of four bytes to bank 1 that its window 6 waits for. -/
def saving : State :=
  ({ keeper with cfg := { keeper.cfg with save := some (1, 9, [1, 2, 3, 4]) } }).updWin 6 (fun w => { w with
    state := .accepted, code := .accepted, opcode := 0x0107 })
theorem wit_SettingsSaveCompletes : saving.cfg.save = some (1, 9, [1, 2, 3, 4]) ∧ saving.acceptedOn 0x0107 = [6] ∧
    (saving.win 6).orphan = false := by decide +kernel

/-! BasinAccesses -/
/-- Full with stage 0 powered, the HBM usable and awake, and line 128 poisoned. -/
def basinUp : State :=
  { full with
    casc := { full.casc with rails := Vec.mapIdx full.casc.rails (fun _ r => { r with phase := .good, pg := true }) }
    basin := { full.basin with awake := .awake, hbmUsable := true, poison := [128] } }
/-- The same with layer 3 sealed, its one block at 4,104. -/
def basinSealed : State :=
  { basinUp with
    basin := { basinUp.basin with seals := [(3, .sealed (zeros 32))] }
    cfg := { basinUp.cfg with eff := [(⟨0x60, 0, 0x1003⟩, 0xFF + 256 + 2 ^ 64 * 4104 + 2 ^ 128)] } }
theorem wit_BasinAccesses : basinUp.barUp = true ∧ basinUp.stage0Pg = true ∧ basinUp.recovering 2 = false ∧
    (∀ l ∈ State.linesOf 60 8, (basinUp.placeOf l).served = true ∧ l ∉ basinUp.basin.poison) ∧
    basinUp.placeOf (128 / 64 * 64) = .store ∧ basinUp.hitsSeal 128 64 = false ∧ 128 / 64 * 64 ∈ basinUp.basin.poison ∧
    basinSealed.hitsSeal 8200 8 = true ∧ basinSealed.basin.awake = .awake ∧ basinSealed.barUp = true ∧ basinSealed.stage0Pg = true := by decide +kernel
/-- The same with stage 0 off. -/
def basinDark : State := { basinUp with casc := full.casc }
theorem wit_BasinDark : basinDark.barUp = true ∧ basinDark.stage0Pg = false := by decide +kernel

/-! NotebookAndAreaWrites -/
/-- Full with area 5 checking and slot 2's notebook closed. -/
def areasIn : State :=
  { full with chk := { full.chk with
    areas := full.chk.areas.set 5 { (full.chk.areas.get 5) with st := .checking }, bar4 := Mem.write 0 full.chk.bar4 (State.nbAddr 2 0 8) [1] } }
theorem wit_NotebookAndAreaWrites : areasIn.barUp = true ∧ areasIn.isFull = true ∧ (areasIn.chk.areas.get 5).st = .checking ∧
    (areasIn.chk.areas.get 6).st = .free ∧ leNat ([0xA1, 0x5E, 0, 0, 0, 1, 0, 0].take 2) = 0x5EA1 ∧ areasIn.nbGen 1 = 0 ∧ areasIn.nbGen 2 ≠ 0 := by decide +kernel

/-! PowerUpAndOptions -/
/-- On its way up: options loading, in the fault, loaded. -/
def starting (ph : Phase) : State := { State.reset with dev := { State.reset.dev with phase := ph, lt := 5000 } }
theorem wit_PowerUpAndOptions : keeper.dev.phase ≠ .unpowered ∧ (starting .optionLoading).dev.phase = .optionLoading ∧
    (starting .optionFault).dev.phase = .optionFault ∧ (starting .optionLoaded).dev.phase = .optionLoaded ∧
    (starting .optionLoaded).pll .keeper = .stopped ∧ (starting .optionLoaded).dev.rstLow = true ∧ (starting .optionLoaded).optionsIn = true ∧
    (starting .optionLoaded).rst.stretch = none ∧ (starting .optionLoaded).rst.rstSince + 1000 ≤ (starting .optionLoaded).lt ∧
    (starting .optionLoaded).dev.armed = false := by decide +kernel

/-! SystemResetCauses -/
/-- A keeper whose first core's watchdog is due in the escalation window, with a reset requested. -/
def escalating : State :=
  { keeper with rst := { keeper.rst with window := some 9000000, reqTick := some 4 } }
theorem wit_SystemResetCauses : escalating.resettable = true ∧ escalating.dev.rstLow = false ∧ escalating.wdDue 0 = true ∧ escalating.rst.window.isSome = true ∧
    escalating.coreRuns 0 = true ∧ escalating.rst.reqTick = some 4 ∧ escalating.keeperUp = true ∧ escalating.dev.clkDegraded = false ∧
    (starting .romFail).resettable = true ∧ (starting .romFail).dev.phase = .romFail ∧ (starting .romFail).dev.rstLow = true ∧
    (starting .romFail).rst.rstSince + 1000 ≤ (starting .romFail).lt ∧ escalating.powerIdle = true ∧ full.casc.st ≠ .allOff ∧ full.resettable = true := by
  decide +kernel

/-! CoreResets -/
/-- A keeper with every core released, the last served at reset, and two fires of U1 in the last minute. -/
def watched : State :=
  { full with boot := { full.boot with cores := Vec.upd (Vec.tab 8 (fun _ => { State.resetCore with run := true })) 3 (fun c => { c with wdRecent := [4900000, 4950000] }) } }
theorem wit_CoreResets : watched.wdDue 1 = true ∧ watched.rst.window = none ∧ watched.rst.stretch = none ∧ watched.wdDue 2 = true ∧
    ((watched.wdFire 2).core 2).wdRecent.length < 3 ∧ watched.wdDue 3 = true ∧ 3 ≤ ((watched.wdFire 3).core 3).wdRecent.length ∧
    (watched.core 4).run = true ∧ watched.coreRuns 0 = true ∧ State.mayRequest 0 (.core 4) = true ∧
    escalating.rst.window = some 9000000 ∧
    9000000 ≤ State.nowTick { escalating with dev := { escalating.dev with lt := 9000000 } } + 200000 := by decide +kernel

/-! RomAndKeeperStart -/
/-- A bank's record over one keeper image at 0x1000, confirmed. -/
def bankOf (img : Bytes) (seq : Nat) : Bytes :=
  let r := ascii "SKBK" ++ natLE 2 1 ++ natLE 2 1 ++ natLE 4 seq ++ zeros 4 ++
    Bytes.fit (natLE 2 1 ++ zeros 2 ++ natLE 4 0x1000 ++ natLE 4 img.length ++ natLE 4 7 ++ sha256 img) 96
  r ++ natLE 4 (crc32c r)
/-- At ROM entry with the tests' key and its keeper image in bank 0. -/
def romReady : State :=
  { State.reset with
    dev := { State.reset.dev with phase := .refChecked, plls := Vec.tab 5 (fun i => if i.1 = 0 then .locked else .stopped) }
    boot := { owned.boot with
      cores := State.reset.boot.cores
      flash := Mem.write 0xFF (Mem.write 0xFF (Mem.write 0xFF [] 0 (bankOf keeperImage 1)) 0x104 (zeros 4)) 0x1000 keeperImage } }
theorem wit_RomEntry : romReady.dev.phase = .refChecked ∧ romReady.pll .keeper = .locked ∧ romReady.dev.bootSrc = 0 ∧ romReady.stagingVerified = false ∧
    romReady.candidates = [0] ∧ romReady.confirmed 0 = true ∧ (starting .refChecked).candidates = [] := by decide +kernel
theorem wit_KeeperImage : romReady.keeperBad' (romReady.keeperImage 0) = none := by
  have hr : ∀ a k, a + k ≤ 0x1000 → romReady.flashRead a k =
      Mem.read 0xFF (Mem.write 0xFF (Mem.write 0xFF [] 0 (bankOf keeperImage 1)) 0x104 (zeros 4)) a k :=
    fun a k h => Mem.read_write_apart (.inl h)
  have hd : romReady.setEntry (bankBase 0) 1 = some { comp := 1, off := 0x1000, len := keeperImage.length, sha := sha256 keeperImage } := by
    unfold State.setEntry State.setDir State.flashNum
    have h1 : Mem.num 0xFF romReady.boot.flash (bankBase 0 + 6) 2 = 1 := by
      show leNat (romReady.flashRead (bankBase 0 + 6) 2) = 1
      rw [hr _ _ (by decide)]; decide +kernel
    rw [h1]
    show List.find? _ [DirEntry.parse (romReady.flashRead (bankBase 0 + 0x10 + 48 * 0) 48)] = _
    rw [hr _ _ (by decide)]; decide +kernel
  have hi : romReady.keeperImage 0 = keeperImage := by
    unfold State.keeperImage
    rw [hd]
    have hf : romReady.boot.flash =
        Mem.write 0xFF (Mem.write 0xFF (Mem.write 0xFF [] 0 (bankOf keeperImage 1)) 0x104 (zeros 4)) 0x1000 keeperImage := rfl
    have hb : bankBase 0 + 0x1000 = 0x1000 := by decide
    show Mem.read 0xFF romReady.boot.flash (bankBase 0 + 0x1000) keeperImage.length = keeperImage
    rw [hb, hf]
    generalize Mem.write 0xFF (Mem.write 0xFF [] 0 (bankOf keeperImage 1)) 0x104 (zeros 4) = m
    exact Mem.read_write 0xFF m 0x1000 keeperImage
  rw [hi]
  show owned.keeperBad' keeperImage = none
  decide +kernel
/-- Running from bank 0 for 10 s. -/
def confirming : State :=
  { keeper with
    dev := { keeper.dev with lt := 20000000 }, boot := { keeper.boot with bank := some 0 } }
theorem wit_RomAndKeeperStart : (starting .imageReady).dev.phase = .imageReady ∧ confirming.boot.bank = some 0 ∧ confirming.mayConfirm = true := by decide +kernel

/-! ClocksAndCalm -/
/-- A keeper with a PLL in some state, on its way through Calm. -/
def calmed (ph : Phase) (x : PllState) : State :=
  { keeper with
    dev := { keeper.dev with phase := ph, plls := Vec.tab 5 (fun _ => x) }
    bus := { keeper.bus with perst := true }, rst := { keeper.rst with alarm := 7, rtcSec := 7 } }
theorem wit_ClocksAndCalm : (calmed .running .starting).pll .check = .starting ∧ (calmed .running .restarted).pll .basin = .restarted ∧
    (calmed .running .restarted).resettable = true ∧ (calmed .running .restarted).dev.clkDegraded = false ∧
    (calmed .calmEntering .locked).dev.phase = .calmEntering ∧ (calmed .inCalm .stopped).dev.phase = .inCalm ∧
    (calmed .inCalm .stopped).rst.alarm ≠ 0 ∧ (calmed .inCalm .stopped).rst.rtcSec = (calmed .inCalm .stopped).rst.alarm ∧
    (calmed .inCalm .stopped).bus.perst = true ∧ (calmed .inCalm .stopped).sess.i3cAddr.isSome = true ∧
    (calmed .resuming .stopped).dev.phase = .resuming := by decide +kernel

/-! FeedsRise -/
/-- A keeper with both feeds connected and feed 0 in a state, its input in window or not. -/
def feeding (st : FeedState) (want inW settled : Bool) : State :=
  { keeper with
    cfg := { keeper.cfg with eff := [(⟨0x10, 0, 2⟩, 1), (⟨0x11, 0, 1⟩, 1), (⟨0x11, 1, 1⟩, 1)] }
    weir := { keeper.weir with feeds := Vec.upd keeper.weir.feeds 0 (fun x => { x with st := st, wasOn := want, inWin := inW, settled := settled }) } }
/-- The same with RESTORE off. -/
def feedingNot (st : FeedState) : State :=
  { feeding st false false false with cfg := { keeper.cfg with eff := [(⟨0x10, 0, 2⟩, 0), (⟨0x11, 0, 1⟩, 1)] } }
theorem wit_FeedsRise : (feedingNot .outOfWindow).connected 0 = true ∧ ((feedingNot .outOfWindow).feed 0).wasOn = false ∧
    (feedingNot .outOfWindow).restoreOn 0 = false ∧ (feeding .off true false false).connected 0 = true ∧ (feeding .off true false false).mayRamp 0 = true ∧
    ((feeding .off true false false).feed 0).wasOn = true ∧ (feeding .off true false false).keeperUp = true ∧ ((feeding .ramp true true true).feed 0).st = .ramp ∧
    ((feeding .cooldown true true true).feed 0).st = .cooldown ∧ (feeding .cooldown true true true).cool.leak = false ∧
    (feeding .cooldown true true true).weir.heldTrip = false ∧ (feeding .cooldown true true true).weir.shutdown = none ∧
    ((feeding .minOff false true true).feed 0).st = .minOff ∧ (feeding .minOff false true true).restoreOn 0 = true ∧ (feeding .minOff false true true).mayRamp 0 = true ∧
    ((feeding .on true true true).feed 0).st = .on ∧
    State.keeperUp { feeding .off true false false with weir := { (feeding .off true false false).weir with holdup := some 5 } } = true := by decide +kernel

/-! FeedsTrip -/
/-- Both feeds on and sharing, with a budget and two windows over it. -/
def bothOn : State :=
  { feeding .on true true true with
    dev := { keeper.dev with lt := 5000000 }
    cfg := { keeper.cfg with eff := [(⟨0x10, 0, 0xB⟩, 1), (⟨0x10, 0, 1⟩, 100), (⟨0x11, 0, 1⟩, 1), (⟨0x11, 1, 1⟩, 1)] }
    casc := { keeper.casc with st := .on }
    weir := { keeper.weir with
      feeds := Vec.tab 2 (fun _ => { State.resetFeed with st := .on, inWin := true, faultStart := some 4 })
      holdup := some 4, overRun := 2 } }
theorem wit_FeedsTrip : (bothOn.feed 0).st = .on ∧ ((feeding .ramp true true true).feed 0).st = .ramp ∧ (bothOn.feed 0).faultStart.isSome = true ∧
    bothOn.connected 0 = true ∧ (bothOn.feed 0).inWin = true ∧ bothOn.weir.holdup.isSome = true ∧ bothOn.casc.st = .on ∧ bothOn.lt % 10000 = 0 ∧
    bothOn.lt ≠ 0 ∧ bothOn.dev.phase ≠ .inCalm ∧ bothOn.weir.budgetStep = bothOn.weir.budgetApplied ∧ 1000 * bothOn.fld 0x10 0 1 < 200000 ∧ bothOn.weir.overRun = 2 ∧
    bothOn.weir.budgetStep < 15 ∧ bothOn.fld 0x10 0 0xB = 1 ∧ bothOn.feedsOn.length = 2 ∧ bothOn.dev.st ≠ .full := by decide +kernel
/-- A budget step that the load has left behind for 99 windows. -/
def underBudget : State := { bothOn with weir := { bothOn.weir with budgetStep := 5, budgetApplied := 5, underRun := 99 } }
theorem wit_UnderBudget : 0 < underBudget.weir.budgetStep ∧ underBudget.weir.budgetStep ≤ 15 ∧
    100 * 1000 * (17 - underBudget.weir.budgetStep) ≤ 95 * (1000 * underBudget.fld 0x10 0 1) * (16 - underBudget.weir.budgetStep) ∧
    1000 ≤ 1000 * underBudget.fld 0x10 0 1 ∧ underBudget.weir.underRun = 99 ∧ underBudget.weir.budgetStep = underBudget.weir.budgetApplied := by decide +kernel

/-! SystemCommands -/
/-- A keeper with two active owner keys. -/
def twoKeys : State :=
  { keeper with boot := { keeper.boot with
    keys := Vec.tab 4 (fun i => if i.1 = 1 ∨ i.1 = 2 then { st := .active, hash := zeros 32 } else { st := .blank, hash := zeros 32 }) } }
/-- A keeper that may enter Calm. -/
def restful : State := { keeper with bus := { keeper.bus with perst := true }, sess := { keeper.sess with host := none } }
theorem wit_SystemCommands : keeper.admits resetRequestOp 7 7 [0, 0, 2, 0, 0, 0, 0, 0] = true ∧ restful.admits calmEnterOp 7 7 [] = true ∧
    keeper.admits rtcWriteOp 6 7 (zeros 24) = true ∧ keeper.admits bkpWriteOp 6 7 [12, 0, 0, 0, 1, 2, 3, 4] = true ∧
    keeper.admits bkpWriteOp 7 7 [15, 0, 0, 0, 1, 2, 3, 4] = true ∧ keeper.admits keyProgramOp 6 7 ([1] ++ zeros 35) = true ∧
    twoKeys.admits keyRevokeOp 6 7 [1, 0, 0, 0] = true := by decide +kernel

/-! UpdateCommands -/
/-- A keeper with an update session of the sideband, its first block programmed. -/
def updating (next : Nat) : State :=
  { keeper with upd := { keeper.upd with
    session := some { owner := 7, id := 1, component := 1, flags := 0, total := 4096, next := next, place := 0, checking := false, full := false } } }
/-- Full with the header of an upper image staged. -/
def staged : State :=
  { full with
    boot := { full.boot with upper := some 8, upperHo := 1, keeperCompat := (List.replicate 4 (zeros 4 ++ natLE 4 0xFFFFFFFF)).flatten }
    basin := { full.basin with awake := .awake, mem := Mem.cells 0 State.reservedBase (upperImage.take 1024) } }
/-- A keeper ready for an upper load. -/
def loadable : State :=
  { keeper with
    casc := { keeper.casc with st := .on, rails := Vec.tab 64 (fun n => { (keeper.rail n) with phase := .good, pg := true }) }
    basin := { keeper.basin with hbmUsable := true } }
theorem wit_UpdateCommands : keeper.admits fwBeginOp 7 7 ([4, 8] ++ zeros 14) = true ∧ keeper.admits fwBeginOp 7 7 ([1, 0, 0, 0, 0, 16] ++ zeros 10) = true ∧
    (updating 1024).admits fwBlockOp 7 7 ([1, 0, 0, 0, 0, 4, 0, 0, 1, 0, 0, 0, 0, 0, 0, 0] ++ [5]) = true ∧
    (updating 1024).admits fwEndOp 7 7 [1, 0, 0, 0, 0, 0, 0, 0] = true ∧ full.admits fwRestartCoreOp 7 7 [6, 0, 0, 0, 0, 0, 0, 0] = true ∧
    (∀ q, (full.win q).state ≠ .accepted) ∧ loadable.admits upperLoadOp 7 7 [0, 4, 0, 0, 0, 0, 0, 0] = true ∧
    full.admits upperHaltOp 7 7 [] = true ∧ full.dev.st = .full := by decide +kernel
theorem wit_FirstBlock : (updating 0).admits fwBlockOp 7 7 ([1, 0, 0, 0, 0, 0, 0, 0, 0, 4, 0, 0, 0, 0, 0, 0] ++ zeros 1024) = true ∧
    (updating 0).headerWhy { owner := 7, id := 1, component := 1, flags := 0, total := 4096, next := 0, place := 0, checking := false, full := false }
      (ImgHeader.parse (zeros 1024)) = some .header := by decide +kernel
theorem wit_Handover : staged.admits fwHandoverOp 7 7 [0, 4, 0, 0, 0, 0, 0, 0] = true ∧
    ((staged.loaded fwHandoverOp 7 7 [0, 4, 0, 0, 0, 0, 0, 0]).handoverFrame 1024).isSome = true := by decide +kernel

/-! SlotCommands -/
/-- Full with a card in every slot, held and identified. -/
def heldSlots (st : SlotState) : State :=
  { full with
    slots := Vec.tab 8 (fun i => { (full.slot i) with st := st, present := true, identified := true, rst := false, request := true })
    cad := { full.cad with st := .locked } }
theorem wit_SlotCommands : keeper.admits slotPowerOp 7 7 [1, 0, 0, 0, 0, 0, 0, 0] = true ∧
    { keeper with slots := (heldSlots .off).slots }.admits slotPowerOp 7 7 [128, 1, 0, 0, 0, 0, 0, 0] = true ∧ keeper.casc.st ≠ .on ∧
    (heldSlots .running).admits slotResetOp 7 7 [129, 0, 0, 0, 10, 0, 0, 0] = true ∧ (heldSlots .running).powered 7 = true ∧
    (heldSlots .held).admits slotRunOp 7 7 ([129] ++ zeros 15) = true ∧ full.admits slotHoldOp 7 7 [1, 0, 0, 0, 0, 0, 0, 0] = true ∧
    (heldSlots .held).admits slotQuarantineOp 7 7 [128, 0, 0, 0, 0, 0, 0, 0] = true ∧
    (heldSlots .quarantined).admits slotReleaseOp 7 7 [128, 0, 0, 0, 0, 0, 0, 0] = true := by decide +kernel

/-! BasinCommands -/
/-- Full with the Basin awake or not, one layer mapped and sealed, a slot that can take a push. -/
def basinFull (a : BasinAwake) : State :=
  { full with
    basin := { full.basin with hbmUsable := true, awake := a, seals := [(0, .sealed (zeros 32))] }
    cfg := { full.cfg with eff := [(⟨0x60, 0, 0x1000⟩, 256)] }
    slots := Vec.tab 8 (fun i => { (full.slot i) with st := .held, present := true, identified := true, rst := false }) }
theorem wit_BasinCommands : full.admits basinHoldOp 7 7 (zeros 8) = true ∧ (basinFull .awake).admits basinHoldOp 7 7 ([1] ++ zeros 7) = true ∧
    (basinFull .awake).admits basinSealOp 7 7 [0, 0, 1, 0, 0, 0, 0, 0] = true ∧ ((basinFull .awake).layer 0).isSome = true ∧
    (basinFull .awake).admits basinSealOp 7 7 [1, 0, 1, 0, 0, 0, 0, 0] = true ∧ ((basinFull .awake).layer 1).isSome = false ∧
    (basinFull .awake).admits basinVerifyOp 7 7 [0, 0, 1, 0, 0, 0, 0, 0] = true ∧ (basinFull .awake).isSealed 0 = true ∧
    (basinFull .awake).isSealed 1 = false ∧ (basinFull .awake).admits basinUnsealOp 7 7 [0, 0, 0, 16, 0, 0, 0, 0] = true := by decide +kernel

/-! PowerAndCoolingCommands -/
/-- A keeper with both feeds at a stage, channel 3 latched and cold, rail 5 marked, and the leak latched. -/
def mixed (a b : FeedState) : State :=
  let k := feeding a true true true
  { k with
    weir := { k.weir with feeds := Vec.upd k.weir.feeds 1 (fun x => { x with st := b, wasOn := true, inWin := true, settled := true }) }
    casc := { k.casc with st := .on, rails := Vec.upd k.casc.rails 5 (fun r => { r with mark := .failRise }) }
    cool := { k.cool with chans := Vec.upd k.cool.chans 3 (fun c => { c with latched := true }) } }
theorem wit_PowerAndCoolingCommands : (mixed .off .off).admits weirOnOp 7 7 [1, 0, 0, 0] = true ∧ State.namedFeeds [1, 0, 0, 0] = [0] ∧
    ((mixed .off .off).feed 0).st = .off ∧ ((mixed .off .off).feed 0).settled = true ∧ (mixed .off .off).mayRamp 0 = true ∧
    (mixed .on .on).admits weirOffOp 7 7 [1, 0, 0, 0] = true ∧ (mixed .on .on).feedsOn = [0, 1] ∧ (mixed .on .on).weir.shutdown = none ∧
    (mixed .on .on).admits weirOffOp 7 7 [3, 0, 0, 0] = true ∧ (mixed .on .on).casc.st = .on ∧
    (mixed .latched .on).admits weirClearOp 7 7 [1, 0, 0, 0] = true ∧ ((mixed .latched .on).feed 0).st = .latched ∧
    (mixed .on .on).admits railFlagClearOp 7 7 [32, 0, 0, 0, 0, 0, 0, 0] = true ∧ ((mixed .on .on).rail 5).mark ≠ .none ∧
    (mixed .on .on).railKept 5 = false ∧ (mixed .on .on).admits tripClearOp 7 7 [8, 0, 0, 0] = true ∧ (mixed .on .on).clearable 3 = true ∧
    (mixed .on .on).admits leakClearOp 7 7 [] = true := by decide +kernel

/-! CadenceCommands -/
/-- Full, its slots running in group 0, with a standby uplink; the node at a depth, and a child with members or none. -/
def inTree (c : CadState) (depth : Nat) (kid : Bool) : State :=
  let r := heldSlots .running
  { r with
    cad := { r.cad with
      st := c, step := some { offset := 0, size := 0 }
      ports := Vec.tab 18 (fun _ => { (r.port 0) with st := .up, err := 0 }) }
    cfg := { r.cfg with eff := [(⟨0x40, 0, 4⟩, 2), (⟨0x40, 0, 2⟩, depth)] }
    gop := { r.gop with groups := [(0, { noGroup with
      reach := some (240, 1, 0, none), kids := if kid then [(3, { cost := 0, levels := 1, running := true, replicas := 0, authority := none })] else [] })] } }
/-- With one pack in the store. -/
def packed : State :=
  let d := ascii "SKPD" ++ natLE 2 1 ++ natLE 2 1 ++ natLE 4 1 ++ List.replicate 1540 0xFF
  let r := inTree .locked 0 true
  { r with boot := { r.boot with flash := Mem.write 0xFF [] storeBase (d ++ natLE 4 (crc32c d)) } }
set_option maxRecDepth 100000 in
theorem wit_PackSend : packed.admits packSendOp 7 7 [255, 255, 255, 255, 2, 0, 12, 3] = true := by decide +kernel
theorem wit_CadenceCommands : (inTree .holdover 1 true).admits cadRejoinOp 7 7 [] = true ∧ (inTree .locked 1 true).admits cadSwitchOp 7 7 [0, 0, 0, 0] = true ∧
    (inTree .locked 1 true).admits cadSwitchOp 7 7 [1, 0, 0, 0] = true ∧ (inTree .locked 0 false).admits cadRequestOp 7 7 [0, 15, 0, 0, 0, 0, 0, 0] = true ∧
    (inTree .locked 0 false).localGroup 0 = true ∧ (inTree .locked 0 true).admits cadRequestOp 7 7 [0, 255, 0, 0, 0, 0, 0, 0] = true ∧
    (inTree .locked 0 true).localGroup 0 = false ∧ (inTree .locked 0 true).admits resetAtOp 7 7 (zeros 8 ++ natLE 8 6144000) = true ∧
    (inTree .locked 0 true).admits snapshotAtOp 7 7 (zeros 8 ++ natLE 8 6144000) = true ∧
    (inTree .locked 0 true).admits expelOp 7 7 [0, 1, 0, 0, 0, 0, 0, 0] = true ∧ (inTree .locked 0 true).apexHere 0 = true ∧
    full.admits checkControlOp 7 7 [1, 0, 0, 0, 0, 0, 0, 0] = true ∧ full.admits checkControlOp 7 7 [2, 0, 0, 0, 0, 0, 0, 0] = true ∧
    full.admits unitReleaseOp 7 7 (zeros 8) = true ∧ full.unit? (full.releaseKey (zeros 8)) = none := by decide +kernel

/-! CascadeRises -/
/-- Full, its slots in a state, with rail 5 in stage 3, owned by slot 0, switched by pin and PMBus; the Cascade and a tray sequence as given. -/
def cascade (x : SlotState) (st : SeqState) (tray : Option SeqRun) (f : RailSt → RailSt) : State :=
  let h := heldSlots x
  { h with
    casc := { h.casc with st := st, tray := tray, rails := Vec.upd h.casc.rails 5 f }
    cfg := { h.cfg with
      eff := [(⟨0x20, 5, 1⟩, 1), (⟨0x20, 5, 2⟩, 3), (⟨0x20, 5, 3⟩, 3), (⟨0x20, 5, 7⟩, 1), (⟨0x20, 5, 15⟩, 100), (⟨0x21, 3, 5⟩, 1), (⟨0x10, 0, 2⟩, 1),
        (⟨0x11, 0, 1⟩, 1)] }
    weir := (feeding .on true true true).weir }
/-- A tray sequence at stage 3. -/
def trayRun (up : Bool) (ph : SeqPhase) : SeqRun := { up := up, stage := 3, phase := ph, since := 0 }
theorem wit_CascadeRises : (cascade .running .allOff none id).mayStartUp = true ∧ (cascade .running .on none id).mayStartUp = false ∧
    (cascade .running .up (some (trayRun true .delay)) id).seqOf none = some (trayRun true .delay) ∧
    (cascade .running .on none id).railUsed 5 = true ∧ ((cascade .running .on none id).rail 5).pg = false ∧
    (cascade .running .up (some (trayRun true .wait)) id).seqOf none = some (trayRun true .wait) ∧
    (cascade .off .on none id).mayRise 0 = true ∧ (cascade .off .on none id).ownStages 0 = [3] ∧
    (cascade .running .on none id).keeperUp = true ∧ (cascade .running .on none id).hasIout 5 = true ∧ ((cascade .running .on none id).rail 5).iout = none ∧
    ((cascade .running .down none (fun r => { r with discharged := true })).rail 5).discharged = true ∧
    (cascade .running .down none (fun r => { r with discharged := true })).railOn 5 = false := by
  decide +kernel

/-! CascadeFalls -/
theorem wit_CascadeFalls : (cascade .running .on none id).casc.st = .on ∧ (cascade .running .allOff none id).casc.st = .allOff ∧
    ((cascade .running .on none (fun r => { r with pg := true })).rail 5).pg = true ∧
    (cascade .running .on none (fun r => { r with pg := true })).railOn 5 = false ∧
    (cascade .running .up (some (trayRun true .wait)) (fun r => { r with pg := true, phase := .good })).rising 5 = false ∧
    (cascade .running .down none (fun r => { r with pg := true, phase := .good })).railOn 5 = true ∧
    (cascade .running .down none (fun r => { r with pg := true, phase := .good })).rising 5 = false ∧
    (cascade .running .down (some (trayRun false .delay)) id).seqOf none = some (trayRun false .delay) ∧
    (cascade .running .down none id).rst.stretch = none ∧ ((cascade .running .down none (fun r => { r with discharged := false, phase := .falling })).rail 5).discharged = false ∧
    5 ∈ (cascade .running .down (some (trayRun false .wait)) (fun r => { r with phase := .falling })).seqRails none 3 ∧
    State.rising { cascade .running .up (some (trayRun true .wait)) (fun r => { r with pg := true, phase := .good }) with
      casc := { (cascade .running .up (some (trayRun true .wait)) (fun r => { r with pg := true, phase := .good })).casc with included := 1 } } 5 = true ∧
    (cascade .running .on none id).slaveRole = false ∧
    State.feedsOn { cascade .running .on none id with weir := (feeding .off true true true).weir } = [] := by
  decide +kernel

/-! SeqBus -/
/-- The keeper as a slave at address 3, or as a master of slaves 1 and 3. -/
def onSeqBus (slave up down : Bool) (st : SeqState) : State :=
  { keeper with
    cfg := { keeper.cfg with eff := [(⟨0x21, 0, 1⟩, b2n slave), (⟨0x21, 0, 2⟩, 3), (⟨0x21, 0, 3⟩, 10)] }
    casc := { keeper.casc with st := st, txUp := up, txDown := down, silent := false } }
theorem wit_SeqBus : (onSeqBus false true false .on).slaveRole = false ∧ (onSeqBus false true false .on).cfg.loaded = true ∧
    (onSeqBus false true false .on).casc.txUp = true ∧ (onSeqBus false false true .on).casc.txDown = true ∧
    (onSeqBus false false false .on).pollAddr = some 1 ∧ (onSeqBus false false false .on).busHeld = (onSeqBus false false false .on).casc.busSent ∧
    (onSeqBus false false false .on).casc.txCount % 16 ≠ 15 ∧
    State.busHeld { onSeqBus false false false .on with weir := (feeding .on true true true).weir } ≠ (onSeqBus false false false .on).casc.busSent ∧
    keeper.pollAddr = none ∧ keeper.slaveRole = false ∧
    (onSeqBus true false false .allOff).slaveRole = true ∧ (onSeqBus true false false .allOff).casc.st = .allOff ∧
    (onSeqBus true false false .on).casc.st = .on ∧ (onSeqBus true false false .on).fld 0x21 0 2 = 3 ∧ bits (0x1600 : BitVec 16).toNat 12 4 = 1 ∧
    bits (0x1600 : BitVec 16).toNat 9 3 = 3 ∧ bits (0x5000 : BitVec 16).toNat 12 4 = 5 ∧ (onSeqBus true false false .on).casc.silent = false := by
  decide +kernel

/-! ThermalAndFans -/
/-- A keeper 20 s after its start, with output 2 and channel 11 as given, zone 0 in a Gust since its start. -/
def cooled (f : OutSt → OutSt) (c : ChanSt → ChanSt) : State :=
  { keeper with
    dev := { keeper.dev with lt := 20000000 }
    cool := { keeper.cool with
      outs := Vec.upd keeper.cool.outs 2 f, chans := Vec.upd keeper.cool.chans 11 c
      zones := Vec.upd keeper.cool.zones 0 (fun z => { z with gust := some 5 }) } }
/-- A tripped channel whose hold runs. -/
def held (c : ChanSt) : ChanSt := { c with tripped := true, latched := false, holdSince := some 7, waiting := none }
theorem wit_ThermalAndFans : State.reset.dev.armed = false ∧ keeper.dev.armed = true ∧ keeper.rst.stretch = none ∧ (List.replicate 28 Conv.fault)[(11 : Fin 28).1]? = some .fault ∧
    ((cooled id held).chan 11).tripped = true ∧ ((cooled id held).chan 11).holdSince.isSome = true ∧ ((cooled id held).chan 11).waiting = none ∧
    (cooled id held).cool.leak = false ∧ ((cooled id id).zone 0).gust = some 5 ∧ (cooled id id).zoneTemp 0 = none ∧
    ((cooled (fun x => { x with drive := .spinUp, pause := true }) id).output 2).pause = true ∧
    ((cooled (fun x => { x with drive := .spinUp, late := true, attempts := 3 }) id).output 2).attempts = 3 ∧
    ((cooled (fun x => { x with drive := .running, duty := 5 }) id).output 2).drive = .running ∧
    (cooled (fun x => { x with drive := .failed }) id).outFailed 2 = true := by
  decide +kernel

/-! CeilingFlowLeak -/
/-- A keeper with flow meter 1 judged at a minimum of 5 dl/min, rope 4 of a kind, and the ceiling's timers running. -/
def plumbed (kind : Nat) (low wet : Bool) (flow : Nat) (kohm : Nat) : State :=
  { keeper with
    cfg := { keeper.cfg with eff := [(⟨0x30, 1, 0xB⟩, 100), (⟨0x30, 1, 0xC⟩, 5), (⟨0x32, 4, 1⟩, kind)] }
    casc := { keeper.casc with st := .allOff }
    cool := { keeper.cool with
      leak := true, ceilStep := 1, overStart := some 3, underStart := some 4, returnStart := some 5
      flows := Vec.upd keeper.cool.flows 1 (fun x => { x with flow := flow, low := low })
      ropes := Vec.upd keeper.cool.ropes 4 (fun x => { x with wet := wet, kohm := kohm }) } }
theorem wit_CeilingFlowLeak : keeper.cool.overStart = none ∧ (plumbed 1 false false 0 50).cool.overStart = some 3 ∧
    (plumbed 1 false false 0 50).cool.ceilStep < (plumbed 1 false false 0 50).fld 0x33 0 5 ∧
    State.fld { plumbed 1 false false 0 50 with cfg := { keeper.cfg with eff := [(⟨0x33, 0, 5⟩, 1)] } } 0x33 0 5 ≤ 1 ∧
    (plumbed 1 false false 0 50).cool.returnStart = some 5 ∧ (plumbed 1 false false 0 50).cool.underStart = some 4 ∧ 0 < (plumbed 1 false false 0 50).cool.ceilStep ∧
    (plumbed 1 false false 0 50).flowJudged 1 = true ∧ (plumbed 1 false false 0 50).flowUnder 1 = true ∧
    (plumbed 1 true false 9999 50).flowUnder 1 = false ∧ (plumbed 1 true false 9999 50).dev.armed = true ∧ [0, 0, 0, 0, 7][(4 : Fin 8).1]? = some 7 ∧
    (plumbed 1 false false 0 50).ropeKind 4 = 1 ∧ (plumbed 2 false false 0 50).ropeKind 4 = 2 ∧ ((plumbed 2 false false 0 50).rope 4).kohm < 100 ∧
    (plumbed 2 false false 0 50).rst.stretch = none ∧ 1000 < ((plumbed 2 false true 0 2000).rope 4).kohm ∧
    (plumbed 1 false false 0 50).cool.leak = true ∧ (plumbed 1 false false 0 50).casc.st = .allOff ∧ (plumbed 1 false false 0 50).cool.leakPumps = false := by
  decide +kernel

/-! LinksAndDomainTime -/
/-- Full, every port as given, in a state of the cadence at depth 1 with a standby uplink. -/
def linked (c : CadState) (f : PortSt → PortSt) (step : Option TimeStep) : State :=
  { full with
    cad := { full.cad with st := c, inRow := 64, step := step, ports := Vec.tab 18 (fun p => f (full.port p)), stepOwed := false }
    cfg := { full.cfg with eff := [(⟨0x40, 0, 4⟩, 2), (⟨0x40, 0, 2⟩, 1), (⟨0x40, 0, 6⟩, 8)] } }
theorem wit_LinksAndDomainTime : full.isFull = true ∧ ((linked .locked (fun x => { x with st := .dark }) none).port 3).st = .dark ∧
    ((linked .locked (fun x => { x with st := .training }) none).port 17).st = .training ∧ State.portLit .up = true ∧ State.portTimed .up = true ∧
    ((linked .locked (fun x => { x with st := .identifying, identRun := 1 }) none).port 0).identRun = 1 ∧
    ((linked .locked (fun x => { x with st := .calibrating, n := 1022 }) none).port 15).n = 1022 ∧
    (linked .locked (fun x => { x with st := .up }) none).rxOf 0 = [] ∧ (parseOp 0).word = 0 ∧ (parseOp 0).flags.getLsbD 0 = false ∧
    (linked .locked (fun x => { x with st := .up }) none).portRole 3 = 2 ∧ (heldSlots .running).laneLive 7 = true ∧ (heldSlots .running).cad.laneBad.get 7 = 0 ∧
    (linked .locked (fun x => { x with st := .up, err := 3 }) none).isRoot = false ∧
    ((linked .locked (fun x => { x with st := .up, err := 3 }) none).port (linked .locked (fun x => { x with st := .up, err := 3 }) none).upPort).err = 3 ∧
    (linked .locked (fun x => { x with st := .up, err := 3 }) none).uplinkFailed = false ∧
    (linked .locked (fun x => { x with st := .dark }) none).uplinkFailed = true ∧ (linked .locked (fun x => { x with st := .dark }) none).standbyReady = false ∧
    State.holdoverPs { linked .holdover id none with cad := { (linked .holdover id none).cad with holdStart := 0, e0 := 200 } } > 100000 ∧
    (linked .holdover (fun x => { x with st := .up }) none).uplinkFailed = false ∧ (linked .joining (fun x => { x with st := .up }) none).cad.st = .joining ∧
    (linked .joining id (some { offset := 5, size := 5 })).anyRunning = false ∧
    State.nearBoundary { linked .alone id none with dev := { full.dev with lt := 5120000 } } = true ∧
    State.uplinkFailed { linked .locked (fun x => { x with st := .up }) none with
      cad := { (linked .locked (fun x => { x with st := .up, missed := 0 }) none).cad with
        ports := Vec.upd (linked .locked (fun x => { x with st := .up, missed := 0, err := 0 }) none).cad.ports 16 (fun x => { x with st := .dark }) } } = true ∧
    State.standbyReady { linked .locked (fun x => { x with st := .up }) none with
      cad := { (linked .locked (fun x => { x with st := .up, missed := 0 }) none).cad with
        ports := Vec.upd (linked .locked (fun x => { x with st := .up, missed := 0, err := 0 }) none).cad.ports 16 (fun x => { x with st := .dark }) } } = true := by
  decide +kernel

/-! One ill-formed command for each check of WellFormed. -/

theorem test_illformed_hello_params (ps : Bytes) (h : 3840 < ps.length) : instrWf (.hello 0 0 ps) = false := by
  simpa [instrWf, paramsWf] using h
theorem test_illformed_register_odd_offset : instrWf (.registerWrite .dev 2 0) = false := rfl
theorem test_illformed_register_past_window : instrWf (.registerWrite (.win 7) 0x1000 0) = false := rfl
theorem test_illformed_register_past_msix : instrWf (.registerWrite .msix 0x200 0) = false := rfl
theorem test_illformed_register_past_config : instrWf (.registerWrite .config 0x1000 0) = false := rfl
theorem test_illformed_rcv_i3c_copy_empty : instrWf (.rcvI3cCopy 0 0 [] 0) = false := rfl
theorem test_illformed_rcv_i3c_copy_length : instrWf (.rcvI3cCopy 2 0 [1] 0) = false := rfl
theorem test_illformed_rcv_i3c_check_length : instrWf (.rcvI3cCheckAndBoot (2 ^ 16) 0 [] 0) = false := rfl
theorem test_illformed_rcv_i3c_check_offset : instrWf (.rcvI3cCheckAndBoot 0 (2 ^ 32) [] 0) = false := rfl
theorem test_illformed_watchdog_timeout_width : instrWf (.watchdogTimeoutSet 0 (2 ^ 16)) = false := rfl
theorem test_illformed_sideband_plen : instrWf (.sidebandCommand 0 0 (2 ^ 16) []) = false := rfl
theorem test_illformed_challenge_nonce : instrWf (.challenge 0 0 []) = false := rfl
theorem test_illformed_measurements_nonce : instrWf (.getMeasurements 0 0 [0]) = false := rfl
theorem test_illformed_bar2_write_empty : instrWf (.bar2Write 0 [] []) = false := rfl
theorem test_illformed_bar2_write_past_end : instrWf (.bar2Write (2 ^ 39) [1] []) = false := rfl
theorem test_illformed_bar2_write_line : instrWf (.bar2Write 0 [1] [{ line := 1, errs := [] }]) = false := rfl
theorem test_illformed_bar2_write_error_twice : instrWf (.bar2Write 0 [1] [{ line := 0, errs := [(3, 1), (3, 2)] }]) = false := rfl
theorem test_illformed_bar2_read_empty : instrWf (.bar2Read 0 0 []) = false := rfl
theorem test_illformed_bar2_read_long : instrWf (.bar2Read 0 4097 []) = false := rfl
theorem test_illformed_bar0_unmapped_past_end : instrWf (.barUnmappedAccess .bar0 0x10000 false) = false := rfl
theorem test_illformed_bar4_record_empty : instrWf (.bar4RecordWrite 0 0 []) = false := rfl
theorem test_illformed_bar4_record_past_area : instrWf (.bar4RecordWrite 0 0x400000 [1]) = false := rfl
theorem test_illformed_bar4_seal_short : instrWf (.bar4SealWrite 0 [1, 2, 3]) = false := rfl
theorem test_illformed_notebook_write_empty : instrWf (.notebookWrite 0 0 0 []) = false := rfl
theorem test_illformed_notebook_gen_zero : instrWf (.notebookGenWrite 0 0) = false := rfl
theorem test_illformed_temp_conversion_count : instrWf (.tempConversion []) = false := rfl
theorem test_illformed_fan_engine_count : instrWf (.fanEngineEval []) = false := rfl
theorem test_illformed_leak_measure_count : instrWf (.leakMeasure []) = false := rfl
theorem test_illformed_frame_boundary_rail : instrWf (.frameBoundary [(64, 0)]) = false := rfl
theorem test_illformed_broadcast_empty : instrWf (.broadcast 0 0 []) = false := rfl
theorem test_illformed_reduce_function : instrWf (.reduce 0 1 0 0) = false := rfl
theorem test_illformed_echo_cell_turn : instrWf (.echoCell 0 0 0 (2 ^ 32)) = false := rfl
theorem test_illformed_epoch_proposal : instrWf (.epochProposal 0 .reset 1 0 0) = false := rfl
theorem test_illformed_arm_reduce_epoch : instrWf (.armReduceStart 0 .reset 1) = false := rfl
theorem test_illformed_decide_epoch : instrWf (.decide 0 .reset 1 true 0) = false := rfl
theorem test_illformed_epoch_effect : instrWf (.epochEffect 1) = false := rfl
theorem test_illformed_epoch_no_decision : instrWf (.epochNoDecision 0 .reset 1) = false := rfl
theorem test_illformed_expel_effect : instrWf (.expelEffect 0 0 1) = false := rfl
theorem test_illformed_check_start_line : instrWf (.checkStart 0 [{ line := 1, errs := [] }]) = false := rfl
theorem test_illformed_missing_sample_layer : instrWf (.missingSample 0 4096 0 0) = false := rfl
theorem test_illformed_vote_overdue_layer : instrWf (.voteOverdue 0 4096) = false := rfl
theorem test_illformed_ledger_kind : instrWf (.ledgerWrite { kind := 3, serial := 0, index := 0 }) = false := rfl
theorem test_illformed_tier_size : instrWf (.tierUsable .dimm (2 ^ 38 + 1) 0) = false := rfl
theorem test_illformed_scrub_byte : instrWf (.scrubRead [(72, 1)]) = false := rfl
theorem test_illformed_digest_layer : instrWf (.digestDone 4096 []) = false := rfl
theorem test_illformed_push_complete_line : instrWf (.pushComplete false [{ line := 1, errs := [] }]) = false := rfl
theorem test_illformed_fence_stack_index : instrWf (.fence 0 true 8 true) = false := rfl

/-! Values that the spec gives. -/

/-- The check value of R389. -/
theorem test_crc32c_check : crc32c (ascii "123456789") = 0xE3069283 := by decide +kernel
/-- R260's example: a duty of 35 % is output as code 358. -/
theorem test_pwm_code_35_percent :
    ({ State.reset with cool := { State.reset.cool with outs := Vec.tab 20 (fun _ => { (State.reset.output 0) with duty := 35000 }) } } : State).pwmCode 0
      = 358 := by decide +kernel
/-- The survivor of a feed loss at 54 V and a ceiling of 150 A carries 14 kW at no less than step 8 (R195). -/
theorem test_loss_step : State.lossStepFor 14000000 (9 * 150000 * 54000) 0 = 8 := by decide +kernel

end Sys2Proof.Tests
end

section
/-!
The cadence mirror (O14): what its three registers return, what a read of CT_LO latches and leaves, and what the mirror shows.
-/

namespace Sys2Proof.Machine

namespace State

/-! ### The registers of the mirror (R87) -/

@[simp] theorem devReg_ctLo (s : State) : s.devReg 0x030 = s.ct % 2 ^ 32 := rfl

@[simp] theorem devReg_ctHi (s : State) : s.devReg 0x034 = s.bus.ctHi.toNat := Nat.mod_eq_of_lt s.bus.ctHi.isLt

@[simp] theorem devReg_ctSub (s : State) : s.devReg 0x038 = s.bus.ctSub.toNat :=
  Nat.mod_eq_of_lt (s.bus.ctSub.isLt.trans (by decide))

/-! ### The latches after a read of CT_LO -/

@[simp] theorem readCt_ctHi (wide : Bool) (s : State) : (s.readCt wide).bus.ctHi = BitVec.ofNat 32 (s.ct / 2 ^ 32) := rfl

@[simp] theorem readCt_ctSub (wide : Bool) (s : State) : (s.readCt wide).bus.ctSub = BitVec.ofNat 10 s.ctSub := rfl

@[simp] theorem readCt_rd (wide : Bool) (s : State) : (s.readCt wide).bus.rd = natLE (if wide then 8 else 4) s.ct := rfl

/-- Beside the latches and the returned data, a read of CT_LO leaves the bus state as it was. -/
theorem readCt_bus_frame (wide : Bool) (s : State) :
    { (s.readCt wide).bus with ctHi := s.bus.ctHi, ctSub := s.bus.ctSub, rd := s.bus.rd, rdPoison := s.bus.rdPoison } = s.bus := rfl

theorem readCt_devReg_ctHi (wide : Bool) (s : State) : (s.readCt wide).devReg 0x034 = s.ct / 2 ^ 32 % 2 ^ 32 := by
  rw [devReg_ctHi, readCt_ctHi, BitVec.toNat_ofNat]

theorem readCt_devReg_ctSub (wide : Bool) (s : State) : (s.readCt wide).devReg 0x038 = s.ctSub % 1024 := by
  rw [devReg_ctSub, readCt_ctSub, BitVec.toNat_ofNat]

/-! ### What the mirror shows -/

theorem ct_of_alone {s : State} (h : s.cad.st = .alone) : s.ct = s.dev.lt := if_pos h

theorem ctSub_of_alone {s : State} (h : s.cad.st = .alone) : s.ctSub = 0 := if_pos h

theorem ct_of_not_alone {s : State} (h : s.cad.st ≠ .alone) : s.ct = s.domFrac / 65536 := if_neg h

theorem ctSub_of_not_alone {s : State} (h : s.cad.st ≠ .alone) : s.ctSub = s.domFrac % 65536 / 64 := if_neg h

end State

/-- While the function answers, CT_LO_READ comes to `readCt`. -/
theorem exec_ctLoRead_of_bar0Up {s : State} (wide : Bool) (h : s.bar0Up = true) : exec (.ctLoRead wide) s = .next (s.readCt wide) :=
  go_if h

/-- Settles O14: CT_LO_READ comes to `readCt`, whose latches are what CT_HI and CT_SUB then return. -/
theorem cadenceMirrorReadLatches : Obligations.CadenceMirrorReadLatches := by
  refine ⟨fun s wide up => ?latch, State.devReg_ctLo, fun s alone => ?alone, fun s domain => ?domain⟩
  case latch =>
    exact .of_keeps (exec_ctLoRead_of_bar0Up wide up) (State.readCt_keeps wide s)
      ⟨State.readCt_devReg_ctHi wide s, State.readCt_devReg_ctSub wide s, State.readCt_rd wide s, State.readCt_bus_frame wide s⟩
  case alone => exact ⟨State.ct_of_alone alone, State.ctSub_of_alone alone⟩
  case domain => exact ⟨State.ct_of_not_alone domain, State.ctSub_of_not_alone domain⟩

end Sys2Proof.Machine
end

section
/-!
The change summary (O16): which bit an increment sets, that the groups past the counters' range have none, and what a write of 1 clears.
-/

namespace Sys2Proof.Machine

/-! ### Bits of a bit vector -/

/-- Setting bit `i` sets that bit, where the vector has it, and no other. -/
@[simp] theorem getLsbD_setBit_true {w : Nat} (x : BitVec w) (i j : Nat) :
    (setBit x i true).getLsbD j = (x.getLsbD j || decide (i < w) && decide (i = j)) := by
  rw [setBit, if_pos rfl, ← BitVec.twoPow_eq, BitVec.getLsbD_or, BitVec.getLsbD_twoPow]

/-- Masking out `m`, moved up `n` places, clears bit `j` exactly where `m` has its bit `j - n`. -/
theorem getLsbD_and_not_setWidth_shiftLeft {w v : Nat} (x : BitVec w) (m : BitVec v) (n j : Nat) :
    (x &&& ~~~(m.setWidth w <<< n)).getLsbD j = (x.getLsbD j && !(decide (n ≤ j) && m.getLsbD (j - n))) := by
  by_cases h : j < w
  · have below : (!decide (n ≤ j)) = decide (j < n) := by rw [← decide_not, decide_eq_decide, Nat.not_le]
    simp [h, below]
  · rw [BitVec.getLsbD_of_ge _ _ (Nat.not_lt.mp h), BitVec.getLsbD_of_ge _ _ (Nat.not_lt.mp h), Bool.false_and]

namespace State

/-! ### Increments (R606, R608) -/

/-- Every counter of the table belongs to a group below 0x87. -/
theorem group_lt {c : Nat} (h : c ≤ 0x0864) : c / 16 < 0x87 := by omega

theorem count_summary (s : State) (c : Nat) : (s.count c).ctr.summary = setBit s.ctr.summary (c / 16) true := rfl

theorem count_summary_self (s : State) {c : Nat} (h : c ≤ 0x0864) : (s.count c).ctr.summary.getLsbD (c / 16) = true := by
  have hw : c / 16 < 256 := (group_lt h).trans (by decide)
  rw [count_summary, getLsbD_setBit_true]
  simp [hw]

theorem count_summary_ne (s : State) {c j : Nat} (h : j ≠ c / 16) : (s.count c).ctr.summary.getLsbD j = s.ctr.summary.getLsbD j := by
  rw [count_summary, getLsbD_setBit_true]
  simp [h.symm]

/-- After reset only the group of counter 0x0830, the power-on reset's, is set. -/
theorem reset_summary : State.reset.ctr.summary = BitVec.twoPow 256 0x83 := rfl

theorem reset_summary_of_ge {g : Nat} (h : 0x87 ≤ g) : State.reset.ctr.summary.getLsbD g = false := by
  have hne : 0x83 ≠ g := by omega
  rw [reset_summary, BitVec.getLsbD_twoPow, decide_eq_false hne, Bool.and_false]

/-! ### Clears (R89) -/

theorem clearSummary_summary (k : Fin 8) (v same : BitVec 32) (s : State) :
    (s.clearSummary k v same).ctr.summary = s.ctr.summary &&& ~~~((v &&& ~~~same).setWidth 256 <<< (32 * k.1)) := rfl

/-- Beside the summary bits, a clear leaves the counters and the log as they were. -/
theorem clearSummary_ctr_frame (k : Fin 8) (v same : BitVec 32) (s : State) :
    { (s.clearSummary k v same).ctr with summary := s.ctr.summary } = s.ctr := rfl

/-- A bit of the change summary stays, but where the write names it and no increment reaches it in the same clock. -/
theorem clearSummary_getLsbD (k : Fin 8) (v same : BitVec 32) (s : State) (j : Nat) :
    (s.clearSummary k v same).ctr.summary.getLsbD j =
      (s.ctr.summary.getLsbD j && !(decide (32 * k.1 ≤ j) && v.getLsbD (j - 32 * k.1) && !same.getLsbD (j - 32 * k.1))) := by
  have hmask : ∀ i, (v &&& ~~~same).getLsbD i = (v.getLsbD i && !same.getLsbD i) := by
    intro i
    by_cases h : i < 32
    · simp [h]
    · simp [BitVec.getLsbD_of_ge v i (Nat.not_lt.mp h)]
  rw [clearSummary_summary, getLsbD_and_not_setWidth_shiftLeft, hmask, Bool.and_assoc]

end State

/-- While the function answers, CHG_SUMMARY_CLEAR comes to `clearSummary`. -/
theorem exec_chgSummaryClear_of_bar0Up {s : State} (k : Fin 8) (v same : BitVec 32) (h : s.bar0Up = true) :
    exec (.chgSummaryClear k v same) s = .next (s.clearSummary k v same) :=
  go_if h

/-- Settles O16: an increment sets the bit of its group alone, which is below 0x87, and CHG_SUMMARY_CLEAR comes to `clearSummary`. -/
theorem changeSummaryBits : Obligations.ChangeSummaryBits := by
  refine ⟨fun s c table => ?increment, fun g past => ?reset, fun s k v same up => ?clear⟩
  case increment =>
    exact ⟨State.count_summary_self s table, fun j other => State.count_summary_ne s other,
      fun g past => ((State.group_lt table).trans_le past).ne'⟩
  case reset => exact State.reset_summary_of_ge past
  case clear =>
    exact .of_keeps (exec_chgSummaryClear_of_bar0Up k v same up) (State.clearSummary_keeps k v same s)
      ⟨State.clearSummary_ctr_frame k v same s, State.clearSummary_getLsbD k v same s⟩

end Sys2Proof.Machine
end

section
/-!
One step (O1, O2, O3, O5): what the front of the queue decides, what a tick changes of the clocks, and that the invariant passes from each state to the next.
-/

namespace Sys2Proof.Machine

/-! ### The step and the queue -/

theorem step_cons (c : Instr) (rest : List Instr) (s : State) : step { s with pending := c :: rest } = exec c { s with pending := rest } := rfl

theorem step_of_pending_nil {s : State} (h : s.pending = []) : step s = .next s.tick := by
  unfold step
  rw [h]

theorem step_of_pending_cons {s : State} {c : Instr} {rest : List Instr} (h : s.pending = c :: rest) :
    step s = exec c { s with pending := rest } := by
  unfold step
  rw [h]

/-- Settles O1: the step takes its command from the front of the queue by definition. -/
theorem stepRunsFrontCommand : Obligations.StepRunsFrontCommand := step_cons

/-- Settles O3: each command's arm keeps the queue, as `exec_keeps` says of every constructor. -/
theorem everyCommandAnswersNextState : Obligations.EveryCommandAnswersNextState := fun i s =>
  (exec_keeps i s).imp fun _ h => ⟨h.1, h.2.pending⟩

/-! ### The invariant -/

theorem State.Inv.of_pending {s : State} (q : List Instr) (h : s.Inv) : ({ s with pending := q } : State).Inv := h

/-- Settles O5: a command keeps the invariant by `exec_keeps`, and a tick by `tick_keeps`. -/
theorem stepKeepsInvariant : Obligations.StepKeepsInvariant := by
  intro s t inv h
  cases queue : s.pending with
  | nil =>
    rw [step_of_pending_nil queue] at h
    cases h
    exact (State.tick_keeps s).inv inv
  | cons c rest =>
    rw [step_of_pending_cons queue] at h
    obtain ⟨u, run, keeps⟩ := exec_keeps c { s with pending := rest }
    rw [run] at h
    cases h
    exact keeps.inv (inv.of_pending rest)

/-- Settles O4: after reset the memories are empty but for the MSI-X table's mask bits, and one counter stands at 1. -/
theorem resetKeepsInvariant : Obligations.ResetKeepsInvariant := by
  have windows : ∀ p : Port, Mem.wf 0 (State.reset.win p).data = true := fun p => by
    show Mem.wf 0 ((Vec.tab 8 State.resetWin).get p).data = true
    rw [Vec.get_tab]
    rfl
  have msix : Mem.wf 0 State.reset.bus.msixTable = true := by decide
  have counters : ∀ e ∈ State.reset.ctr.vals, e.2 ≤ 2 ^ 64 - 1 := by
    intro e he
    obtain rfl := List.mem_singleton.mp he
    decide
  exact ⟨⟨rfl, rfl, rfl, rfl, rfl, msix, rfl, windows⟩, counters, by decide⟩

/-! ### A tick (R60, R63, R600) -/

namespace State

theorem feedTick_rst (powered : Bool) (s : State) : (s.feedTick powered).rst = s.rst := rfl

/-- The real-time clock, one microsecond later. -/
def clockAfterTick (r : RstSt) : RstSt :=
  { r with
    rtcUs := if 999999 ≤ r.rtcUs then 0 else r.rtcUs + 1
    rtcSec := if 999999 ≤ r.rtcUs then r.rtcSec + 1 else r.rtcSec }

theorem rtcTick_rst (s : State) : s.rtcTick.rst = clockAfterTick s.rst := by
  have second : (1000000 ≤ s.rst.rtcUs + 1) = (999999 ≤ s.rst.rtcUs) := propext (by omega)
  simp only [rtcTick, clockAfterTick, second]

/-- A ramp writes the feed's bit of the backup registers, and nothing else of the retained state. -/
theorem startRamp_rst (f : Feed) (s : State) : (s.startRamp f).rst = { s.rst with bkp := (s.startRamp f).rst.bkp } := rfl

theorem tryRamp_rst (f : Feed) (s : State) : (s.tryRamp f).rst = { s.rst with bkp := (s.tryRamp f).rst.bkp } := by
  unfold tryRamp
  extract_lets x
  split
  · exact startRamp_rst f s
  · rfl

/-- A tick while the local tick counter stands (R63). -/
theorem tick_of_asleep {s : State} (h : s.dev.phase = .unpowered ∨ s.dev.phase = .inCalm ∨ s.dev.phase = .resuming) :
    ∃ powered, s.tick = s.rtcTick.feedTick powered := by
  unfold tick
  rcases h with h | h | h <;> rw [h] <;> exact ⟨_, rfl⟩

/-- What a tick does to the clocks and rates while the device is awake, before the feeds that may ramp do. -/
def countedTick (s : State) : State :=
  ((({ s with dev := { s.dev with lt := s.dev.lt + 1 } } : State).rtcTick.feedTick true).rateTick).throttleCap

theorem tick_of_awake {s : State} (h : ¬(s.dev.phase = .unpowered ∨ s.dev.phase = .inCalm ∨ s.dev.phase = .resuming)) :
    s.tick = (s.countedTick.tryRamp 0).tryRamp 1 := by
  unfold tick
  split
  case h_1 sleeps => exact absurd (.inl sleeps) h
  case h_2 sleeps => exact absurd (.inr (.inl sleeps)) h
  case h_3 sleeps => exact absurd (.inr (.inr sleeps)) h
  case h_4 => rfl

theorem countedTick_dev (s : State) : s.countedTick.dev = { s.dev with lt := s.dev.lt + 1 } :=
  ((throttleCap_keeps _).dev (by decide)).trans ((rateTick_keeps _).dev (by decide))

theorem countedTick_rst (s : State) : s.countedTick.rst = clockAfterTick s.rst :=
  ((throttleCap_keeps _).rst (by decide)).trans (((rateTick_keeps _).rst (by decide)).trans (rtcTick_rst _))

theorem tick_dev (s : State) : s.tick.dev =
    { s.dev with lt := s.dev.lt + (if s.dev.phase = .unpowered ∨ s.dev.phase = .inCalm ∨ s.dev.phase = .resuming then 0 else 1) } := by
  split
  · next asleep =>
    obtain ⟨powered, e⟩ := tick_of_asleep asleep
    rw [e]
    rfl
  · next awake =>
    rw [tick_of_awake awake, (tryRamp_keeps ..).dev (by decide), (tryRamp_keeps ..).dev (by decide), countedTick_dev]

theorem tick_rst (s : State) : s.tick.rst = { clockAfterTick s.rst with bkp := s.tick.rst.bkp } := by
  by_cases asleep : s.dev.phase = .unpowered ∨ s.dev.phase = .inCalm ∨ s.dev.phase = .resuming
  · obtain ⟨powered, e⟩ := tick_of_asleep asleep
    rw [e, feedTick_rst, rtcTick_rst]
  · rw [tick_of_awake asleep, tryRamp_rst, tryRamp_rst, countedTick_rst]

theorem tick_clock (s : State) : { s.tick.rst with bkp := s.rst.bkp } = clockAfterTick s.rst := by
  rw [tick_rst]
  rfl

end State

/-- Settles O2: with an empty queue the step is a tick, whose clocks `tick_dev` and `tick_clock` give. -/
theorem emptyQueueLetsTickPass : Obligations.EmptyQueueLetsTickPass := fun s empty =>
  ⟨s.tick, step_of_pending_nil empty, (State.tick_keeps s).toSameBut, State.tick_dev s, State.tick_clock s⟩

end Sys2Proof.Machine
end

section
/-!
Submissions that are not admitted (O7 to O9): the refusal of the first failing check, of a window that U0 does not serve, and the busy window.
-/

namespace Sys2Proof.Machine

namespace State

/-! ### A refused submission -/

@[simp] theorem settled_refuse (p : Port) (c : Code) (s : State) : (s.refuse p c).settled = s.settled := by
  rw [refuse_eq]
  rfl

@[simp] theorem params_refuse (p : Port) (c : Code) (s : State) : (s.refuse p c).params p = s.params p := by simp [params]

@[simp] theorem params_ended (o : OpSpec) (p : Port) (t : State) : (ended o p t).params p = t.params p := by simp [params, ended_win_self]

/-- A window shows a refusal of what was submitted on it, at a tick; the other windows are as before (R94, R99). -/
structure RefusedWith (s t : State) (o : OpSpec) (p : Port) (tag : BitVec 32) (c : Code) : Prop where
  state : (t.win p).state = .refused
  code : (t.win p).code = c
  rlen : (t.win p).rlen = 0
  acc : (t.win p).acc = s.lt
  opcode : (t.win p).opcode = BitVec.ofNat 16 o.opcode
  tag : (t.win p).tag = tag
  others : ∀ q, q ≠ p → t.win q = s.win q

/-- A refusal after an operation that left the windows and the tick. -/
theorem ended_refuse_refusedWith {s u : State} (o : OpSpec) (p : Port) (tag : BitVec 32) (ps : Bytes) (c : Code)
    (wins : u.wins = (s.loaded o p tag ps).wins) (tick : u.lt = s.lt) : RefusedWith s (ended o p (u.refuse p c)) o p tag c := by
  have win : ∀ q, u.win q = (s.loaded o p tag ps).win q := fun q => by unfold State.win; rw [wins]
  have shown : (ended o p (u.refuse p c)).win p =
      { (s.loaded o p tag ps).win p with
        state := .refused, code := c, rlen := 0, acc := s.lt, notice := !decide (p = 7) && ((s.loaded o p tag ps).win p).notice } := by
    rw [ended_win_self, refuse_win_self, win, tick]
  refine ⟨?_, ?_, ?_, ?_, ?_, ?_, fun q other => ?_⟩
  case refine_7 => rw [ended_win_ne _ _ other, refuse_win_ne _ _ other, win, loaded_win_ne _ _ _ _ other]
  all_goals simp [shown]

/-- What the refusal of a row of the table keeps of the windows and the tick, whether or not its opcode is served. -/
theorem refused_or_loaded {r : OpcodeRow} (row : r ∈ opcodeRows) (b : Bool) (p : Port) (ps : Bytes) (s : State) :
    (if b then r.1.refused p ps s else s).wins = s.wins ∧ (if b then r.1.refused p ps s else s).lt = s.lt := by
  cases b
  · exact ⟨rfl, rfl⟩
  · exact opcodeRows_refused_wins r row p ps s

end State

/-- Settles O7: the first failing check decides by `submit_refused`, and a refusal keeps the parameters and the other windows. -/
theorem submissionRefusedByFirstFailingCheck : Obligations.SubmissionRefusedByFirstFailingCheck := by
  intro r row s p tag ps c opens short fails
  refine ⟨_, opcodeRows_submit r row s p tag ps, ?_⟩
  rw [State.submit_refused opens short fails]
  obtain ⟨wins, tick⟩ := State.refused_or_loaded row
    (r.1.served p (s.loaded r.1 p tag ps) && r.1.negotiated p (s.loaded r.1 p tag ps)) p ps (s.loaded r.1 p tag ps)
  have window := State.ended_refuse_refusedWith r.1 p tag ps c wins tick
  refine ⟨window.state, window.code, window.rlen, window.acc, window.opcode, window.tag, ?params, window.others, fun plain => ?frame⟩
  case params =>
    rw [State.params_ended, State.params_refuse]
    unfold State.params State.win
    rw [wins]
    exact State.params_loaded s r.1 p tag ps short
  case frame =>
    rw [State.settled_ended, State.settled_refuse, opcodeRows_refused r row plain, ite_self, State.settled_loaded]

/-! ### Windows that U0 does not serve (R103) -/

namespace State

theorem pcieUp_keeperServed {s : State} (h : s.pcieUp = true) : s.keeperServed = true := by
  simp only [pcieUp, Bool.and_eq_true] at h
  exact h.1.1

/-- A submission on a free window of a function that answers is taken by its window. -/
theorem submit_free_window {s : State} {p : Port} (o : OpSpec) (tag : BitVec 32) (ps : Bytes) (window : p ≠ 7) (up : s.pcieUp = true)
    (idle : s.winBusy p = false) : s.submit o p tag ps = (s.fill o.opcode tag ps p).goWith (some o) p := by
  simp [submit, submitHost, window, up, idle]

/-- A window that U0 does not serve refuses at once. -/
theorem goWith_unserved {s : State} {p : Port} (o : Option OpSpec) (host : p.1 < 6) (keeper : s.keeperServed = true) (down : s.hostServed = false) :
    s.goWith o p = (s.pend p).refuse p .refusedState := by
  have keeper' : (s.pend p).keeperServed = true := keeper
  have down' : (s.pend p).hostServed = false := down
  simp [goWith, host, keeper', down']

theorem ne_seven_of_lt_six {p : Port} (h : p.1 < 6) : p ≠ 7 := by
  rintro rfl
  exact absurd h (by decide)

@[simp] theorem ended_of_ne_seven (o : OpSpec) {p : Port} (h : p ≠ 7) (t : State) : ended o p t = t := if_neg h

end State

/-- Settles O9: the window is refused before its opcode is judged. -/
theorem unservedWindowsRefuse : Obligations.UnservedWindowsRefuse := by
  intro r row s p tag ps host up idle down
  have window := State.ne_seven_of_lt_six host
  refine ⟨_, opcodeRows_submit r row s p tag ps, ?_⟩
  have taken : s.submit r.1 p tag ps = State.ended r.1 p ((s.loaded r.1 p tag ps).refuse p .refusedState) := by
    rw [State.submit_free_window _ _ _ window up idle, State.goWith_unserved (s := s.fill r.1.opcode tag ps p) _ host (State.pcieUp_keeperServed up) down,
      State.ended_of_ne_seven _ window]
    rfl
  rw [taken]
  have shown := State.ended_refuse_refusedWith r.1 p tag ps .refusedState (u := s.loaded r.1 p tag ps) rfl rfl
  exact ⟨shown.state, shown.code, shown.rlen, shown.acc, shown.opcode, shown.tag, shown.others, by simp⟩

/-! ### Busy windows (R92) -/

namespace State

theorem countN_succ (c n : Nat) (s : State) : s.countN c (n + 1) = (s.countN c n).count c := by
  simp [countN, List.range_succ]

theorem countN_ctrVal_succ (c n : Nat) (s : State) : (s.countN c (n + 1)).ctrVal c = min (s.ctrVal c + (n + 1)) (2 ^ 64 - 1) := by
  induction n with
  | zero => exact count_ctrVal_self s c
  | succ n ih => rw [countN_succ, count_ctrVal_self, ih]; omega

theorem countN_ctrVal_ne (n : Nat) (s : State) {c c' : Nat} (h : c' ≠ c) : (s.countN c n).ctrVal c' = s.ctrVal c' := by
  induction n with
  | zero => rfl
  | succ n ih => rw [countN_succ, count_ctrVal_ne _ h, ih]

/-- A keeper that serves has left the ROM, so no recovery source is read. -/
theorem recovering_of_keeperServed {s : State} (h : s.keeperServed = true) (src : BitVec 2) : s.recovering src = false := by
  simp only [keeperServed, keeperUp, Bool.and_eq_true, decide_eq_true_eq] at h
  simp [recovering, h.1.1]

theorem configUp_of_keeperServed {s : State} (h : s.keeperServed = true) (perst : s.bus.perst = false) : s.configUp = true := by
  simp [configUp, h, perst]

theorem div_mul_four {off : Nat} (h : off % 4 = 0) : off / 4 * 4 = off := Nat.div_mul_cancel (Nat.dvd_of_mod_eq_zero h)

/-- A register write to a window while memory accesses are answered comes to `writeWin`. -/
theorem writeReg_win {s : State} (w : Fin 8) {off : Nat} (v : BitVec 32) (keeper : s.keeperServed = true) (perst : s.bus.perst = false)
    (mse : s.bus.mse = true) (aligned : off % 4 = 0) (inside : off < 0x1000) : s.writeReg (.win w) off v = s.writeWin w off v := by
  simp [writeReg, configUp_of_keeperServed keeper perst, mse, recovering_of_keeperServed keeper, div_mul_four aligned, inside]

/-- A busy window drops a write to a register it would store. -/
theorem writeWin_busy {s : State} {w : Fin 8} {off : Nat} (v : BitVec 32) (window : w ≠ 7) (busy : s.winBusy w = true)
    (stored : off ∈ [0x000, 0x004, 0x008, 0x020] ∨ (0x100 ≤ off ∧ off < 0x1000)) : s.writeWin w off v = s.count 0x0000 := by
  have reserved : ¬(0x020 < off ∧ off < 0x100) := by
    simp only [List.mem_cons, List.not_mem_nil, or_false] at stored
    omega
  have writable : off ∉ [0x00C, 0x010, 0x014, 0x018, 0x01C] := by
    simp only [List.mem_cons, List.not_mem_nil, or_false] at stored ⊢
    omega
  have gap : (decide (0x020 < off) && decide (off < 0x100)) = false := by simpa using reserved
  have kept : (decide (w = 7) || [0x00C, 0x010, 0x014, 0x018, 0x01C].contains off) = false := by
    rw [decide_eq_false window, Bool.false_or, List.contains_eq_mem, decide_eq_false writable]
  unfold writeWin
  rw [gap, kept, busy]
  rfl

theorem writeOpcode_busy {s : State} {w : Fin 8} (v : BitVec 32) (window : w ≠ 7) (busy : s.winBusy w = true) :
    s.writeOpcode w v = s.count 0x0000 := by
  simp [writeOpcode, window, busy]

end State

/-- A dropped write counts, and changes nothing else. -/
theorem Completes.of_counted {i : Instr} {s : State} (n : Nat) (e : exec i s = .next (s.count n)) :
    Completes i s [.ctr] (fun t => Counted n s t ∧ ∀ c, c ≠ n → t.ctrVal c = s.ctrVal c) :=
  .of_keeps e (State.count_keeps n s) ⟨State.count_counted n s, fun _ other => State.count_ctrVal_ne s other⟩

/-- Settles O8: on a busy window a submission comes to counting its writes, and a register write or a GO to counting one. -/
theorem busyWindowTakesNothing : Obligations.BusyWindowTakesNothing := by
  refine ⟨fun r row s p tag ps window up busy => ?submission, fun s w off v window keeper perst mse busy aligned stored => ?write,
    fun s w op window up busy => ?go⟩
  case submission =>
    have dropped : s.submit r.1 p tag ps = s.countN 0 (if ps = [] then 3 else 4) := by
      simp [State.submit, State.submitHost, window, up, busy]
    refine .of_keeps ((opcodeRows_submit r row s p tag ps).trans (congrArg _ dropped)) (State.countN_keeps ..)
      ⟨?_, fun c other => State.countN_ctrVal_ne _ s other⟩
    split
    · exact State.countN_ctrVal_succ 0 2 s
    · exact State.countN_ctrVal_succ 0 3 s
  case write =>
    have inside : off < 0x1000 := by
      simp only [List.mem_cons, List.not_mem_nil, or_false] at stored
      omega
    refine .of_counted 0 ?_
    show go (s.writeReg (.win w) off v) = _
    rw [State.writeReg_win w v keeper perst mse aligned inside, State.writeWin_busy v window busy stored]
    rfl
  case go =>
    refine .of_counted 0 ((go_if up).trans ?_)
    rw [State.writeOpcode_busy _ window busy]

end Sys2Proof.Machine
end

section
/-!
GO and the sideband packet (O10): how a bare opcode finds its row, and what is submitted with it.
-/

namespace Sys2Proof.Machine

/-! ### The table by number -/

theorem opTable_eq : opTable = opcodeRows.map Prod.fst := rfl

theorem opcodeRows_toNat : ∀ r ∈ opcodeRows, (BitVec.ofNat 16 r.1.opcode).toNat = r.1.opcode := by decide

theorem opTable_nodup : (opTable.map OpSpec.opcode).Nodup := by decide

/-- Each row's opcode is found by its number. -/
theorem opOf_row {r : OpcodeRow} (row : r ∈ opcodeRows) : opOf r.1.opcode = some r.1 := by
  have listed : r.1 ∈ opTable := opTable_eq ▸ List.mem_map_of_mem row
  obtain ⟨o, found⟩ := Option.isSome_iff_exists.mp (List.find?_isSome (p := fun o => decide (o.opcode = r.1.opcode)) |>.mpr ⟨r.1, listed, by simp⟩)
  have same : o.opcode = r.1.opcode := by simpa using List.find?_some found
  exact found.trans (congrArg some (List.inj_on_of_nodup_map opTable_nodup (List.mem_of_find?_eq_some found) listed same))

/-- A number that no row has is no opcode. -/
theorem opOf_eq_none {n : Nat} (absent : ∀ r ∈ opcodeRows, r.1.opcode ≠ n) : opOf n = none := by
  refine List.find?_eq_none.mpr fun o listed => ?_
  rw [opTable_eq] at listed
  obtain ⟨r, row, rfl⟩ := List.mem_map.mp listed
  simpa using absent r row

/-! ### GO (R93) -/

theorem msb_go (op : BitVec 16) : (0x8000#16 ++ op).msb = true := BitVec.msb_append.trans (if_neg (by decide) |>.trans (by decide))

theorem setWidth_go (op : BitVec 16) : (0x8000#16 ++ op).setWidth 16 = op := BitVec.setWidth_append_eq_right

namespace State

/-- GO on a free window stores the opcode and submits what the window holds. -/
theorem writeOpcode_go {s : State} {w : Fin 8} (op : BitVec 16) (window : w ≠ 7) (idle : s.winBusy w = false) :
    s.writeOpcode w (0x8000#16 ++ op) = (s.updWin w (fun x => { x with opcode := op, orphan := false })).goWith (opOf op.toNat) w := by
  simp [writeOpcode, window, idle, msb_go, setWidth_go]

theorem winBusy_congr {s t : State} {p : Port} (h : (t.win p).state = (s.win p).state) : t.winBusy p = s.winBusy p := by
  unfold winBusy
  rw [h]

theorem fill_winBusy (op : Nat) (tag : BitVec 32) (ps : Bytes) (p : Port) (s : State) : (s.fill op tag ps p).winBusy p = s.winBusy p :=
  winBusy_congr (by simp [fill])

/-- Storing again the opcode that a filled window holds changes nothing. -/
theorem updWin_opcode_fill (op : Nat) (tag : BitVec 32) (ps : Bytes) (p : Port) (s : State) :
    (s.fill op tag ps p).updWin p (fun x => { x with opcode := BitVec.ofNat 16 op, orphan := false }) = s.fill op tag ps p := by
  unfold fill updWin
  rw [Vec.upd_upd]

/-- A served window without an opcode of the table refuses. -/
theorem goWith_none {s : State} {w : Fin 8} (keeper : s.keeperServed = true) (served : w = 6 ∨ s.hostServed = true) (window : w ≠ 7) :
    s.goWith none w = (s.pend w).refuse w .badOpcode := by
  have keeper' : (s.pend w).keeperServed = true := keeper
  have passes : (decide (w.1 < 6) && !(s.pend w).hostServed) = false := by
    rcases served with rfl | up
    · rfl
    · have up' : (s.pend w).hostServed = true := up
      rw [up', Bool.not_true, Bool.and_false]
  unfold goWith
  simp [keeper', passes]

end State

/-- GO while the function answers. -/
theorem exec_go_of_pcieUp {s : State} (w : Fin 8) (op : BitVec 16) (up : s.pcieUp = true) :
    exec (.go w op) s = .next (s.writeOpcode w (0x8000#16 ++ op)) := go_if up

/-- Settles O10: GO and a whole packet find the row by its number and submit the parameters that stand there. -/
theorem goSubmitsWhatTheWindowHolds : Obligations.GoSubmitsWhatTheWindowHolds := by
  refine ⟨fun r row s w tag ps window up idle => ?go, fun s w op window up idle served absent => ?unknown, fun r row s tag ps => ?packet⟩
  case go =>
    have filledUp : (s.fill r.1.opcode tag ps w).pcieUp = true := up
    rw [exec_go_of_pcieUp _ _ filledUp, State.writeOpcode_go _ window ((State.fill_winBusy ..).trans idle), State.updWin_opcode_fill,
      opcodeRows_toNat r row, opOf_row row, opcodeRows_submit r row, State.submit_free_window _ _ _ window up idle]
  case unknown =>
    have taken := State.goWith_none (s := s.updWin w (fun x => { x with opcode := op, orphan := false }))
      (State.pcieUp_keeperServed up) served window
    refine ⟨_, exec_go_of_pcieUp _ _ up, ?_⟩
    rw [State.writeOpcode_go _ window idle, opOf_eq_none absent, taken]
    refine ⟨by simp, by simp, by simp, by simp; rfl, fun q other => ?_, by simp; rfl⟩
    rw [State.refuse_win_ne _ _ other, State.pend, State.updWin_win_ne _ _ other, State.updWin_win_ne _ _ other]
  case packet =>
    rw [opcodeRows_submit r row]
    show Host.Outcome.next (s.submitSideband _ _ _ _) = Host.Outcome.next (s.submitSideband _ _ _ _)
    rw [opcodeRows_toNat r row, opOf_row row, Option.map_some, if_pos rfl]

end Sys2Proof.Machine
end

section
/-!
The queries (O12, O13): a row that asks returns its reply in the step that takes it and leaves the state as it was.
-/

namespace Sys2Proof.Machine

/-- A row that only asks: it submits its opcode, whose bound is fixed and whose run answers with a reply that the windows do not enter, and leaves
the rest of the state. -/
structure QueryRow.OnlyAsks (q : QueryRow) : Prop where
  submits : ∀ p tag ps s, exec (q.row p tag ps) s = .next (s.submit q.op p tag ps)
  bound : ∀ p ps s, q.op.bound p ps s = q.bound
  wins : ∀ p ps s, (q.op.run p ps q.bound s).wins = (s.answer p q.bound .ok (q.reply ps s)).wins
  frame : ∀ p ps s, (q.op.run p ps q.bound s).settled = s.settled
  reply : ∀ ps s wins, q.reply ps { s with wins := wins } = q.reply ps s

/-- An admitted query ends in its step with its reply. -/
theorem QueryRow.OnlyAsks.answers {q : QueryRow} (h : q.OnlyAsks) {s : State} {p : Port} {tag : BitVec 32} {ps : Bytes}
    (admitted : s.admits q.op p tag ps = true) :
    ∃ t, exec (q.row p tag ps) s = .next t ∧ s.AnsweredAs t s q.op p tag .ok (q.reply ps s) q.bound := by
  have sameReply : q.reply ps (s.loaded q.op p tag ps) = q.reply ps s := h.reply ps s _
  have sameBound : s.boundOf q.op p tag ps = q.bound := h.bound ..
  refine ⟨_, h.submits p tag ps s, ?_⟩
  rw [← sameReply]
  exact State.submit_ends admitted (congrArg (fun b => q.op.run p ps b _) sameBound) (h.wins ..) rfl rfl
    ((h.frame ..).trans (State.settled_loaded ..))

/-- The row of an opcode is a submission of it and its bound a constant by definition; beside the window its run touches what `settled` leaves out. -/
theorem keeperQueries_onlyAsk : ∀ q ∈ keeperQueries, q.OnlyAsks := by
  unfold keeperQueries
  repeat' (first | refine List.forall_mem_cons.2 ⟨?_, ?_⟩ | exact List.forall_mem_nil _)
  all_goals exact ⟨fun _ _ _ _ => rfl, fun _ _ _ => rfl, fun _ _ _ => rfl, fun _ _ _ => State.settled_answer .., fun _ _ _ => rfl⟩

theorem fullQueries_onlyAsk : ∀ q ∈ fullQueries, q.OnlyAsks := by
  unfold fullQueries
  repeat' (first | refine List.forall_mem_cons.2 ⟨?_, ?_⟩ | exact List.forall_mem_nil _)
  all_goals exact ⟨fun _ _ _ _ => rfl, fun _ _ _ => rfl, fun _ _ _ => rfl, fun _ _ _ => State.settled_answer .., fun _ _ _ => rfl⟩

/-- Settles O12: each query of the keeper subset only asks. -/
theorem keeperQueriesAnswer : Obligations.KeeperQueriesAnswer := fun q row _ _ _ _ admitted =>
  (keeperQueries_onlyAsk q row).answers admitted

/-- Settles O13: each query of Full only asks. -/
theorem fullQueriesAnswer : Obligations.FullQueriesAnswer := fun q row _ _ _ _ admitted =>
  (fullQueries_onlyAsk q row).answers admitted

end Sys2Proof.Machine
end

section
/-!
Sessions and the lease by command (O19, O20).
-/

namespace Sys2Proof.Machine

namespace State

theorem settled_sess {s t : State} (h : t.settled = s.settled) : t.sess = s.sess :=
  (congrArg State.sess h :)

theorem settled_helloReply {s t : State} (h : t.settled = s.settled) (p : Port) (m : Nat) : t.helloReply p m = s.helloReply p m :=
  (congrArg (State.helloReply p m) h :)

theorem sessionOf_congr {s t : State} (h : t.sess = s.sess) (p : Port) : t.sessionOf p = s.sessionOf p := by
  unfold sessionOf
  rw [h]

/-- A window that has just been filled is PENDING, so its command does not end with a session. -/
theorem loaded_endsWithSession (s : State) (o : OpSpec) (p : Port) (tag : BitVec 32) (ps : Bytes) :
    endsWithSession ((s.loaded o p tag ps).win p) = false := by simp [endsWithSession]

/-- What is left of the Draft after a command that otherwise leaves a state as `t` has it: its owner. -/
theorem settled_draft_owner {s t : State} (h : t.settled = s.settled) {d : Draft} (open_ : t.cfg.draft = some d) :
    ∃ e, s.cfg.draft = some e ∧ e.owner = d.owner := by
  have drafts : t.cfg.draft.map (fun d => { d with lastTick := 0 }) = s.cfg.draft.map (fun d => { d with lastTick := 0 }) :=
    congrArg (fun u : State => u.cfg.draft) h
  rw [open_, Option.map_some] at drafts
  obtain ⟨e, found, same⟩ := Option.map_eq_some_iff.mp drafts.symm
  exact ⟨e, found, (congrArg Draft.owner same :)⟩

/-- An admitted HELLO ends with the reply of the state it leaves, whose sessions are those that `openSession` leaves. -/
theorem submit_hello {s : State} {p : Port} {tag : BitVec 32} {ps : Bytes} (admitted : s.admits helloOp p tag ps = true) :
    (s.submit helloOp p tag ps).Ended helloOp p tag .ok ((s.submit helloOp p tag ps).helloReply p (ps.num 0x10 32)) s.lt 1000 ∧
      (s.submit helloOp p tag ps).sess = ((s.loaded helloOp p tag ps).openSession p ps).sess := by
  obtain ⟨ended, frame⟩ := submit_ended (E := (s.loaded helloOp p tag ps).openSession p ps) admitted rfl
    (openSession_win (loaded_endsWithSession ..)) (congrArg DevSt.lt ((openSession_keeps ..).dev (by decide)))
  rw [settled_helloReply frame]
  exact ⟨ended, settled_sess frame⟩

theorem renews_isSome {s : State} {p : Port} {ps : Bytes} (h : s.renews p ps = true) : ∃ x, s.sessionOf p = some x := by
  unfold renews at h
  split at h
  · exact ⟨_, ‹_›⟩
  · cases h

theorem freshId_ne_zero (s : State) : s.freshId ≠ 0 := by
  unfold freshId
  extract_lets n
  split
  · exact one_ne_zero
  · assumption

end State

/-- Settles O19: what `openSession` leaves of the sessions is what the reply is computed from. -/
theorem helloOpensSession : Obligations.HelloOpensSession := by
  intro s p tag ps admitted
  obtain ⟨ended, sess⟩ := State.submit_hello admitted
  have session := State.sessionOf_congr sess p
  refine ⟨_, rfl, ended, ?_⟩
  rw [session, sess]
  cases renewed : s.renews p ps with
  | true =>
    obtain ⟨x, open_⟩ := State.renews_isSome renewed
    obtain ⟨map, sideband, host⟩ := State.openSession_renew (s := s.loaded helloOp p tag ps) (p := p) (ps := ps) open_ renewed
    exact ⟨fun _ => by rw [map, open_]; rfl, (nomatch ·), sideband, host⟩
  | false =>
    obtain ⟨fresh, opened, host⟩ := State.openSession_new (s := s.loaded helloOp p tag ps) (p := p) (ps := ps) renewed
    exact ⟨(nomatch ·), fun _ => ⟨fresh, s.freshId_ne_zero, fun window => ⟨(opened window).1, (opened window).2.1⟩⟩,
      fun window => (opened window).2.2, host⟩

/-- Settles O20: LEASE_RENEW answers with the fresh lease, and LEASE_RELEASE ends the host session, as `endHost` says. -/
theorem leaseCommands : Obligations.LeaseCommands := by
  refine ⟨fun s p tag ps admitted => ?renew, fun s p tag ps admitted session => ?release⟩
  case renew =>
    exact ⟨_, rfl, State.submit_answered (E := (s.loaded leaseRenewOp p tag ps).renewLease) admitted rfl rfl rfl rfl⟩
  case release =>
    have open_ : (s.loaded leaseReleaseOp p tag ps).sess.host.isSome = true := session
    obtain ⟨ended, frame⟩ := State.submit_ended (E := (s.loaded leaseReleaseOp p tag ps).endHost .release) admitted rfl
      (State.endHost_win (.inr (State.loaded_endsWithSession ..))) (congrArg DevSt.lt ((State.endHost_keeps ..).dev (by decide)))
    obtain ⟨basin, chk⟩ := State.endHost_holds (e := .release) open_
    refine ⟨_, rfl, ended, ?_, ?_, ?_, fun d draft => ?_⟩
    · exact (State.settled_sess frame).trans (State.endHost_sess open_)
    · exact (congrArg State.basin frame :).trans basin
    · exact (congrArg State.chk frame :).trans chk
    · obtain ⟨e, found, owner⟩ := State.settled_draft_owner frame draft
      rw [← owner]
      exact State.endHost_draft open_ found

end Sys2Proof.Machine
end

section
/-!
Drafts, commits and saves by command (O21, O22).
-/

namespace Sys2Proof.Machine

namespace State

/-! ### DRAFT_CHECK (R146, R147) -/

theorem draftCheckOp_run (p : Port) (ps : Bytes) (b : Nat) (s : State) : draftCheckOp.run p ps b s = s.draftCheckRun p b := by
  dsimp only [draftCheckOp]

theorem draftCheckRun_of_passes {s : State} (p : Port) (b : Nat) (h : s.draftFails = []) :
    s.draftCheckRun p b = s.markChecked.answer p b .ok (failureReply 4 []) := by
  unfold draftCheckRun
  rw [h]

theorem draftCheckRun_of_fails {s : State} (p : Port) (b : Nat) (h : s.draftFails ≠ []) :
    s.draftCheckRun p b = s.answer p b .inconsistent (failureReply 4 s.draftFails) := by
  unfold draftCheckRun
  split
  · next none_ => exact absurd none_ h
  · rfl

end State

/-- Settles O21: each command's run is its answer on the state with the Draft it leaves. -/
theorem draftCommandsAnswer : Obligations.DraftCommandsAnswer := by
  refine ⟨fun s p tag ps admitted => ?open_, fun s p tag ps l d admitted entries draft => ?set, fun s p tag ps admitted => ?check,
    fun s p tag ps admitted => ?abort⟩
  case open_ => exact ⟨_, rfl, State.submit_answered (E := _) admitted rfl rfl rfl rfl⟩
  case set =>
    have run : (s.loaded draftSetOp p tag ps).draftSetRun p ps = ((s.loaded draftSetOp p tag ps).setDraft
        (some { d with staged := State.stageAll l d.staged, checked := false })).answer p 0 .ok
          (natLE 2 l.length ++ natLE 2 (State.stageAll l d.staged).length ++ natLE 4 (State.stagedBytes (State.stageAll l d.staged))) := by
      have draft' : (s.loaded draftSetOp p tag ps).cfg.draft = some d := draft
      unfold State.draftSetRun
      rw [entries, draft']
      rfl
    exact ⟨_, rfl, State.submit_answered admitted run rfl rfl rfl⟩
  case check =>
    have fails : (s.loaded draftCheckOp p tag ps).draftFails = s.draftFails := rfl
    refine ⟨_, rfl, fun passes => ?_, fun some_ => ?_⟩
    · have run := (State.draftCheckOp_run p ps 5000 (s.loaded draftCheckOp p tag ps)).trans (State.draftCheckRun_of_passes p 5000 (fails.trans passes))
      exact State.submit_answered admitted run rfl rfl rfl
    · have run := (State.draftCheckOp_run p ps 5000 (s.loaded draftCheckOp p tag ps)).trans (State.draftCheckRun_of_fails p 5000 (fails ▸ some_))
      rw [fails] at run
      exact State.submit_answered admitted run rfl rfl rfl
  case abort => exact ⟨_, rfl, State.submit_answered (E := (s.loaded draftAbortOp p tag ps).setDraft none) admitted rfl rfl rfl rfl⟩

namespace State

/-! ### The sending of a sampling plan that a commit makes due (R455) -/

/-- The sending of a plan being due is all that changes of a slot. -/
def SamePlanned (s t : State) : Prop :=
  t = { s with slots := t.slots } ∧ ∀ i, { t.slot i with planDue := (s.slot i).planDue } = s.slot i

theorem SamePlanned.refl (s : State) : SamePlanned s s := ⟨rfl, fun _ => rfl⟩

theorem SamePlanned.updSlot {s t : State} (h : SamePlanned s t) (i : Fin 8) (due : Option Nat) :
    SamePlanned s (t.updSlot i (fun x => { x with planDue := due })) := by
  obtain ⟨frame, slots⟩ := h
  refine ⟨by rw [frame]; rfl, fun j => ?_⟩
  show { (Vec.upd t.slots i _).get j with planDue := (s.slot j).planDue } = s.slot j
  rw [Vec.get_upd, ← slots j]
  split <;> rfl

theorem planDue_samePlanned (instant : Nat) (s : State) : SamePlanned s (s.planDue instant) := by
  unfold planDue
  refine foldl_inv (SamePlanned s) _ _ (fun t g h => ?_) s (.refl s)
  exact foldl_inv (SamePlanned s) _ _ (fun u i h => h.updSlot i _) t h

theorem planDue_of_no_plans {s : State} (instant : Nat) (h : s.plansOf s.stagedList = []) : s.planDue instant = s := by
  unfold planDue
  rw [h]
  rfl

/-- The state of an accepted DRAFT_COMMIT whose Draft has passed its check, before the plans it changes are due. -/
def recordedCommit (p : Port) (tag : BitVec 32) (ps : Bytes) (s : State) : State :=
  ((s.loaded draftCommitOp p tag ps).accept p (s.boundOf draftCommitOp p tag ps)).recordCommit p ps (s.commitInstant ps)

theorem recordedCommit_plans (p : Port) (tag : BitVec 32) (ps : Bytes) (s : State) :
    (s.recordedCommit p tag ps).plansOf (s.recordedCommit p tag ps).stagedList = s.plansOf s.stagedList := by
  have staged : (s.recordedCommit p tag ps).stagedList = s.stagedList := by
    show (match s.cfg.draft.map (fun d => { d with checked := true }) with | some d => d.staged | none => []) = s.stagedList
    unfold stagedList
    cases s.cfg.draft <;> rfl
  rw [staged]
  rfl

/-- A commit that passes and is of mode 0 or 1 records itself, and its plans are due. -/
theorem draftCommitRun_of_passes {s : State} {p : Port} {tag : BitVec 32} {ps : Bytes} (passes : s.commitFails = [])
    (mode : commitMode ps ≠ 2) :
    draftCommitRun p ps (s.boundOf draftCommitOp p tag ps) (s.loaded draftCommitOp p tag ps) =
      (s.recordedCommit p tag ps).planDue (s.commitInstant ps) := by
  have passes' : (s.loaded draftCommitOp p tag ps).commitFails = [] := passes
  unfold draftCommitRun
  rw [passes', if_neg (by simp), if_pos mode]
  rfl

theorem ended_slots (o : OpSpec) (p : Port) (t : State) : (ended o p t).slots = t.slots := (congrArg State.slots (settled_ended o p t) :)

end State

/-- Settles O22: each run accepts the command and records what waits, and a commit that fails its check answers. -/
theorem commitAndSaveWait : Obligations.CommitAndSaveWait := by
  refine ⟨fun s p tag ps admitted passes mode => ?commit, fun s p tag ps admitted fails => ?inconsistent, fun s p tag ps admitted seq => ?save,
    fun s p tag ps l admitted entries => ?live, fun s p tag ps admitted => ?fan⟩
  case commit =>
    have run : draftCommitOp.run p ps (s.boundOf draftCommitOp p tag ps) (s.loaded draftCommitOp p tag ps) =
        (s.recordedCommit p tag ps).planDue (s.commitInstant ps) := State.draftCommitRun_of_passes passes mode
    have plans := State.planDue_samePlanned (s.commitInstant ps) (s.recordedCommit p tag ps)
    have slots : (s.submit draftCommitOp p tag ps).slots =
        ((s.recordedCommit p tag ps).planDue (s.commitInstant ps)).slots := by
      rw [State.submit_admitted admitted, run, State.ended_slots]
    refine ⟨_, rfl, State.submit_waits admitted run ?_ ?_, fun i => ?_, fun no => ?_⟩
    · rw [plans.1]
      rfl
    · rw [slots, plans.1]
      rfl
    · unfold State.slot
      rw [slots]
      exact plans.2 i
    · rw [slots, State.planDue_of_no_plans _ ((State.recordedCommit_plans p tag ps s).trans no)]
      rfl
  case inconsistent =>
    have fails' : (s.loaded draftCommitOp p tag ps).commitFails = s.commitFails := rfl
    have run : (s.loaded draftCommitOp p tag ps).draftCommitRun p ps (s.boundOf draftCommitOp p tag ps) =
        (s.loaded draftCommitOp p tag ps).answer p (s.boundOf draftCommitOp p tag ps) .inconsistent
          (natLE 8 (s.commitInstant ps) ++ zeros 4 ++ failureReply 0 s.commitFails) := by
      unfold State.draftCommitRun
      rw [fails']
      exact if_pos fails
    exact ⟨_, rfl, State.submit_answered admitted run rfl rfl rfl⟩
  case save =>
    have run : (s.loaded settingsSaveOp p tag ps).settingsSaveRun p 5000000 = _ := if_neg seq
    exact ⟨_, rfl, State.submit_waits admitted run rfl rfl⟩
  case live =>
    have run : liveSetOp.run p ps 2100 (s.loaded liveSetOp p tag ps) = ((s.loaded liveSetOp p tag ps).accept p 2100).liveWait p l := by
      show ((s.loaded liveSetOp p tag ps).accept p 2100).liveWait p ((State.entriesOf ps).getD []) = _
      rw [entries, Option.getD_some]
    exact ⟨_, rfl, State.submit_waits admitted run rfl rfl⟩
  case fan => exact ⟨_, rfl, State.submit_waits (E := _) admitted rfl rfl rfl⟩

end Sys2Proof.Machine
end

section
/-!
Registers (O15, O17, O18): the latch of LT_LO, what a register write stores, and offsets that hold nothing.
-/

namespace Sys2Proof.Machine

/-! ### The local tick counter (R88) -/

namespace State

@[simp] theorem devReg_ltLo (s : State) : s.devReg 0x050 = s.dev.lt % 2 ^ 32 := rfl

@[simp] theorem devReg_ltHi (s : State) : s.devReg 0x054 = s.bus.ltHi.toNat := Nat.mod_eq_of_lt s.bus.ltHi.isLt

theorem readLt_devReg_ltHi (wide : Bool) (s : State) : (s.readLt wide).devReg 0x054 = s.dev.lt / 2 ^ 32 % 2 ^ 32 := by
  rw [devReg_ltHi]
  exact BitVec.toNat_ofNat ..

end State

/-- Settles O15: LT_LO_READ comes to `readLt`, whose latch is what LT_HI then returns. -/
theorem localTickReadLatches : Obligations.LocalTickReadLatches := fun s wide up =>
  .of_keeps (go_if up) (State.readLt_keeps wide s) ⟨State.readLt_devReg_ltHi wide s, s.devReg_ltLo, rfl, rfl⟩

/-! ### Writes (R11, R91 to R93, R108) -/

namespace State

/-- A write to the device block while memory accesses are answered. -/
theorem writeReg_dev {s : State} {off : Nat} (v : BitVec 32) (up : s.pcieUp = true) (inside : off < 0x1000) :
    s.writeReg .dev off v = s.writeDev (off / 4 * 4) v := by
  have keeper := pcieUp_keeperServed up
  simp only [pcieUp, Bool.and_eq_true, Bool.not_eq_true'] at up
  obtain ⟨⟨_, perst⟩, mse⟩ := up
  have low : off / 4 * 4 < 0x1000 := (Nat.div_mul_le_self off 4).trans_lt inside
  simp [writeReg, configUp_of_keeperServed keeper perst, mse, low]

theorem writeReg_win_of_pcieUp {s : State} (w : Fin 8) {off : Nat} (v : BitVec 32) (up : s.pcieUp = true) (aligned : off % 4 = 0)
    (inside : off < 0x1000) : s.writeReg (.win w) off v = s.writeWin w off v := by
  have keeper := pcieUp_keeperServed up
  simp only [pcieUp, Bool.and_eq_true, Bool.not_eq_true'] at up
  obtain ⟨⟨_, perst⟩, mse⟩ := up
  exact writeReg_win w v keeper perst mse aligned inside

/-- The read-only registers of a window. -/
theorem writeWin_readOnly (s : State) (w : Fin 8) {off : Nat} (v : BitVec 32) (h : off ∈ [0x00C, 0x010, 0x014, 0x018, 0x01C]) :
    s.writeWin w off v = s := by
  have gap : (decide (0x020 < off) && decide (off < 0x100)) = false := by
    simp only [List.mem_cons, List.not_mem_nil, or_false] at h
    simp only [Bool.and_eq_false_iff, decide_eq_false_iff_not]
    omega
  unfold writeWin
  rw [gap, List.contains_eq_mem, decide_eq_true h, Bool.or_true]
  rfl

/-- A write of WIN_OPCODE without GO stores the opcode. -/
theorem writeOpcode_store {s : State} {w : Fin 8} {v : BitVec 32} (window : w ≠ 7) (idle : s.winBusy w = false) (store : v.msb = false) :
    s.writeOpcode w v = s.updWin w (fun x => { x with opcode := v.setWidth 16, orphan := false }) := by
  simp [writeOpcode, window, idle, store]

/-- A write to the data of a free window. -/
theorem writeWin_data {s : State} {w : Fin 8} {off : Nat} (v : BitVec 32) (window : w ≠ 7) (idle : s.winBusy w = false) (data : 0x100 ≤ off) :
    s.writeWin w off v = s.updWin w (fun x => { x with data := Mem.write 0 x.data (off - 0x100) (natLE 4 v.toNat) }) := by
  have gap : (decide (0x020 < off) && decide (off < 0x100)) = false := by
    simp only [Bool.and_eq_false_iff, decide_eq_false_iff_not]
    omega
  have writable : off ∉ [0x00C, 0x010, 0x014, 0x018, 0x01C] := by
    simp only [List.mem_cons, List.not_mem_nil, or_false]
    omega
  have kept : (decide (w = 7) || [0x00C, 0x010, 0x014, 0x018, 0x01C].contains off) = false := by
    rw [decide_eq_false window, Bool.false_or, List.contains_eq_mem, decide_eq_false writable]
  unfold writeWin
  rw [gap, kept, idle]
  simp only [Bool.false_eq_true, if_false]
  split
  case h_5 => rfl
  all_goals omega

/-- The listed registers of the device block that a write does not change. -/
theorem writeDev_readOnly (s : State) (v : BitVec 32) : ∀ off ∈ [0x000, 0x020, 0x024, 0x028, 0x02C, 0x030, 0x034, 0x038, 0x050, 0x054],
    s.writeDev off v = s := by
  simp [writeDev]

/-- Offsets past the change summary hold no register. -/
theorem writeDev_unlisted (s : State) (v : BitVec 32) {off : Nat} (h : 0x120 ≤ off) : s.writeDev off v = s.count 0x0001 := by
  have summary : (decide (0x100 ≤ off) && decide (off < 0x120)) = false := by
    simp only [Bool.and_eq_false_iff, decide_eq_false_iff_not]
    omega
  have unlisted : off ∉ [0x000, 0x020, 0x024, 0x028, 0x02C, 0x030, 0x034, 0x038, 0x04C, 0x050, 0x054] := by
    simp only [List.mem_cons, List.not_mem_nil, or_false]
    omega
  unfold writeDev
  split
  case h_6 => rw [summary, List.contains_eq_mem, decide_eq_false unlisted]; rfl
  all_goals omega

end State

theorem exec_registerWrite (sp : Space) (off : Nat) (v : BitVec 32) (s : State) : exec (.registerWrite sp off v) s = .next (s.writeReg sp off v) := rfl

/-- Settles O17: by `writeReg_win_of_pcieUp` and `writeReg_dev` a register write comes to that of its block, register by register. -/
theorem registerWritesAct : Obligations.RegisterWritesAct := by
  refine ⟨fun s w v window up idle => ?win, fun s v up => ?dev⟩
  case win =>
    have reg (off : Nat) (aligned : off % 4 = 0) (inside : off < 0x1000) :
        exec (.registerWrite (.win w) off v) s = .next (s.writeWin w off v) := by
      rw [exec_registerWrite, State.writeReg_win_of_pcieUp w v up aligned inside]
    refine ⟨?_, ?_, fun store => ?_, ?_, fun k inside => ?_⟩
    · rw [reg 0x004 rfl (by decide)]
      simp [State.writeWin, window, idle]
    · rw [reg 0x008 rfl (by decide)]
      simp [State.writeWin, window, idle]
    · rw [reg 0x000 rfl (by decide), ← State.writeOpcode_store window idle store]
      simp [State.writeWin, window, idle]
    · rw [reg 0x020 rfl (by decide)]
      simp [State.writeWin, window, idle]
    · rw [reg _ (by omega) (by omega), State.writeWin_data v window idle (Nat.le_add_right ..), Nat.add_sub_cancel_left]
  case dev =>
    have reg (off : Nat) (inside : off < 0x1000) : exec (.registerWrite .dev off v) s = .next (s.writeDev (off / 4 * 4) v) := by
      rw [exec_registerWrite, State.writeReg_dev v up inside]
    refine ⟨reg 0x014 (by decide), fun w1c => ?_, fun off listed => ?_, fun w off listed => ?_, fun off past inside => ?_⟩
    · exact (reg 0x010 (by decide)).trans (congrArg Host.Outcome.next (if_pos w1c))
    · have aligned : ∀ off ∈ [0x000, 0x020, 0x024, 0x028, 0x02C, 0x030, 0x034, 0x038, 0x050, 0x054], off / 4 * 4 = off ∧ off < 0x1000 := by decide
      obtain ⟨same, inside⟩ := aligned off listed
      rw [reg off inside, same, State.writeDev_readOnly s v off listed]
    · have aligned : ∀ off ∈ [0x00C, 0x010, 0x014, 0x018, 0x01C], off % 4 = 0 ∧ off < 0x1000 := by decide
      obtain ⟨word, inside⟩ := aligned off listed
      rw [exec_registerWrite, State.writeReg_win_of_pcieUp w v up word inside, State.writeWin_readOnly s w v listed]
    · rw [reg off inside, State.writeDev_unlisted s v (by omega)]

/-! ### Offsets that hold nothing (R79, R80) -/

namespace State

theorem unmapped_bar0 {s : State} {off : Nat} (write : Bool) (up : s.bar0Up = true) (gap : bar0Unmapped off = true) (rom : s.recovering 2 = false) :
    s.unmapped .bar0 off write = if write then s.count 0x0001 else s.readData (zeros 4) := by
  unfold unmapped
  rw [up, gap, rom]
  rfl

/-- BAR 2 without stage 0, and BAR 4 outside Full (R80). -/
theorem unmapped_unserved {s : State} {bar : Bar} (off : Nat) (write : Bool) (up : s.barUp = true)
    (down : bar = .bar2 ∧ s.stage0Pg = false ∨ bar = .bar4 ∧ s.isFull = false) :
    s.unmapped bar off write = if write then s.count 0x0002 else s.readData (List.replicate 4 0xFF) := by
  rcases down with ⟨rfl, down⟩ | ⟨rfl, down⟩ <;> simp [unmapped, up, down]

end State

/-- A read that reaches nothing returns bytes, and changes nothing else. -/
theorem Completes.of_readData {i : Instr} {s : State} (bs : Bytes) (e : exec i s = .next (s.readData bs)) :
    Completes i s [.bus] (fun t => t.bus.rd = bs ∧ { t.bus with rd := s.bus.rd, rdPoison := s.bus.rdPoison } = s.bus) :=
  .of_keeps e (State.readData_keeps bs s) ⟨rfl, rfl⟩

theorem exec_barUnmappedAccess (bar : Bar) (off : Nat) (write : Bool) (s : State) :
    exec (.barUnmappedAccess bar off write) s = .next (s.unmapped bar off write) := rfl

/-- Settles O18: an access comes to a count or to the bytes returned, as `unmapped_bar0` and `unmapped_unserved` say. -/
theorem unmappedAccesses : Obligations.UnmappedAccesses := by
  refine ⟨fun s off up gap rom => ⟨.of_counted 1 ?_, .of_readData (zeros 4) ?_⟩,
    fun s bar off up down => ⟨.of_counted 2 ?_, .of_readData (List.replicate 4 0xFF) ?_⟩⟩
  · rw [exec_barUnmappedAccess, State.unmapped_bar0 true up gap rom, if_pos rfl]
  · rw [exec_barUnmappedAccess, State.unmapped_bar0 false up gap rom, if_neg Bool.false_ne_true]
  · rw [exec_barUnmappedAccess, State.unmapped_unserved off true up down, if_pos rfl]
  · rw [exec_barUnmappedAccess, State.unmapped_unserved off false up down, if_neg Bool.false_ne_true]

end Sys2Proof.Machine
end

section
/-!
Maintenance commands (O39).
-/

namespace Sys2Proof.Machine

/-- What CALM_ENTER leaves beside its window: Calm entry begun, with no wake pending (R63). -/
theorem State.calmEnter_settled (p : Port) (r : Bytes) (s : State) :
    ({ s.answerNow p .ok r with dev := { (s.answerNow p .ok r).dev with phase := .calmEntering, wake := false } } : State).settled =
      ({ s with dev := { s.dev with phase := .calmEntering, wake := false } } : State).settled := by
  unfold answerNow
  rw [answer_eq]
  rfl

/-- Settles O39: each command's run is its answer on the state it writes; CALM_ENTER answers before it begins Calm entry. -/
theorem systemCommands : Obligations.SystemCommands := by
  refine ⟨fun s p tag ps admitted => ⟨_, rfl, ?reset⟩, fun s p tag ps admitted => ⟨_, rfl, ?calm⟩, fun s p tag ps admitted => ⟨_, rfl, ?rtc⟩,
    fun s p tag ps admitted => ⟨_, rfl, ?bkp⟩, fun s p tag ps admitted => ⟨_, rfl, ?program⟩, fun s p tag ps admitted => ⟨_, rfl, ?revoke⟩⟩
  case reset => exact State.submit_answered (E := _) admitted rfl rfl rfl rfl
  case calm =>
    exact State.submit_ends (E := s.loaded calmEnterOp p tag ps) admitted rfl rfl rfl rfl
      (State.calmEnter_settled p (natLE 8 s.lt) (s.loaded calmEnterOp p tag ps))
  case rtc => exact State.submit_answered (E := (s.loaded rtcWriteOp p tag ps).rtcWrite ps) admitted rfl rfl rfl rfl
  case bkp => exact State.submit_answered (E := _) admitted rfl rfl rfl rfl
  case program => exact State.submit_answered (E := _) admitted rfl rfl rfl rfl
  case revoke => exact State.submit_answered (E := _) admitted rfl rfl rfl rfl

end Sys2Proof.Machine
end

section
/-!
The update session, the live handover and the upper image by command (O40).
-/

namespace Sys2Proof.Machine

/-- An operation on the boot part alone. -/
theorem SameBut.eq_of_boot {s t : State} (h : SameBut [.boot] s t) : t = { s with boot := t.boot } := by
  cases s
  cases t
  simp only [State.mk.injEq]
  refine ⟨h.dev (by decide), h.bus (by decide), h.wins (by decide), h.sess (by decide), h.cfg (by decide), h.weir (by decide), h.casc (by decide),
    h.cool (by decide), h.cad (by decide), h.gop (by decide), h.chk (by decide), h.basin (by decide), h.integ (by decide), h.slots (by decide),
    trivial, h.upd (by decide), h.rst (by decide), h.ctr (by decide), h.out (by decide), h.free (by decide), h.pending⟩

namespace State

/-! ### FW_BEGIN (R559, R562) -/

theorem fwBeginRun_remove {s : State} {p : Port} {ps : Bytes} {b : Nat} (remove : bit (ps.num 1 1) 3 = true) :
    s.fwBeginRun p ps b = (s.removePack (ps.num 8 4)).answer p b .ok ((s.removePack (ps.num 8 4)).beginReply 0) := if_pos remove

/-- The state with a new session for an image of `ps`, whose staging header is erased. -/
def begun (p : Port) (ps : Bytes) (s : State) : State :=
  let s := s.flashErase stagingBase 0x10000
  { s with upd := { s.upd with
    session := some
      { owner := p, id := s.upd.nextId, component := ps.num 0 1, flags := ps.num 1 1, total := ps.num 4 4, next := 0, place := 0
        checking := false, full := s.isFull }
    nextId := s.upd.nextId + 1 } }

theorem fwBeginRun_image {s : State} {p : Port} {ps : Bytes} {b : Nat} (keep : bit (ps.num 1 1) 3 = false) (image : ps.num 0 1 ≠ 4) :
    s.fwBeginRun p ps b = (s.begun p ps).answer p b .ok ((s.begun p ps).beginReply s.upd.nextId) := by
  unfold fwBeginRun
  simp only [keep, if_neg image]
  rfl

/-! ### FW_BLOCK (R560 to R562) -/

variable {s : State} {p : Port} {ps : Bytes} {b : Nat} {u : UpdSession}

theorem fwBlockRun_held (session : s.upd.session = some u) (held : ps.num 4 4 ≠ u.next) :
    s.fwBlockRun p ps b = s.answer p b .ok (blockReply u.next 0) := by
  unfold fwBlockRun
  rw [session]
  exact if_pos held

/-- The flash after a block that is the next one. -/
def programmed (u : UpdSession) (ps : Bytes) (s : State) : State :=
  (s.eraseFor (sessionBase u + u.next) (ps.drop 16).length).flashWrite (sessionBase u + u.next) (ps.drop 16)

theorem programmed_eq (u : UpdSession) (ps : Bytes) (s : State) : s.programmed u ps = { s with boot := (s.programmed u ps).boot } :=
  (((Keeps.refl [.boot] s).step (eraseFor_keeps ..) (by decide)).step (flashWrite_keeps ..) (by decide)).eq_of_boot

theorem fwBlockRun_next (session : s.upd.session = some u) (next : ps.num 4 4 = u.next) (later : u.next ≠ 0) :
    s.fwBlockRun p ps b =
      ({ s.programmed u ps with upd := { s.upd with session := some { u with next := u.next + (ps.drop 16).length } } } : State).answer p b .ok
        (blockReply (u.next + (ps.drop 16).length) 0) := by
  have upd : (s.programmed u ps).upd = s.upd := by rw [programmed_eq]
  rw [← upd]
  unfold fwBlockRun
  rw [session]
  simp only [next, ne_eq, not_true_eq_false, if_false, if_neg later]
  rfl

theorem fwBlockRun_badHeader {w : Why} (session : s.upd.session = some u) (first : ps.num 4 4 = 0) (start : u.next = 0)
    (bad : s.headerWhy u (ImgHeader.parse ((ps.drop 16).take 1024)) = some w) :
    s.fwBlockRun p ps b = (s.endSession (some w)).answer p b .failed (blockReply 0 w.num) := by
  unfold fwBlockRun
  rw [session]
  simp only [first, start, ne_eq, not_true_eq_false, if_false, if_true, bad]

/-! ### FW_HANDOVER (R573, R574) -/

theorem fwHandoverRun_framed {f : Nat} (frame : s.handoverFrame (ps.num 0 4) = some f) :
    fwHandoverOp.run p ps b s = ({ s with
      upd := { s.upd with handover := some { port := p, length := ps.num 0 4, frame := f, fromVer := s.boot.upper.getD 0 } }
      basin := { s.basin with stagingClosed := true } } : State).accept p b := by
  dsimp only [fwHandoverOp]
  rw [frame]
  rfl

/-! ### Cores -/

theorem core_congr {s t : State} (h : t.boot = s.boot) (k : Fin 8) : t.core k = s.core k := by
  unfold core
  rw [h]

theorem coreRuns_congr {s t : State} (h : t.boot = s.boot) (k : Fin 8) : t.coreRuns k = s.coreRuns k := by
  unfold coreRuns
  rw [h]

/-! ### UPPER_HALT (R66, R546) -/

theorem upperHaltOp_run (p : Port) (ps : Bytes) (b : Nat) (s : State) :
    upperHaltOp.run p ps b s = (s.answer p b .ok (natLE 8 s.lt)).leaveFull := by
  dsimp only [upperHaltOp]

/-- Leaving Full makes the device Keeper, with the upper cores held and K0 and K1 as they were. -/
theorem leaveFull_halts (full : s.dev.st = .full) :
    s.leaveFull.dev.st = .keeper ∧ s.leaveFull.cad = resetCad ∧ s.leaveFull.boot.upper = none ∧
      (∀ k : Fin 8, 2 ≤ k.1 → s.leaveFull.coreRuns k = false) ∧ ∀ k : Fin 8, k.1 < 2 → s.leaveFull.core k = s.core k := by
  obtain ⟨_, _, device, cadence, _, cores⟩ := leaveFull_full full
  refine ⟨congrArg DevSt.st device, cadence, congrArg BootSt.upper cores, fun k high => ?_, fun k low => ?_⟩
  · unfold coreRuns
    rw [cores, Vec.get_mapIdx, if_pos high]
  · unfold core
    rw [cores, Vec.get_mapIdx, if_neg (by omega)]

end State

/-- Settles O40. -/
theorem updateCommands : Obligations.UpdateCommands := by
  refine ⟨fun s p tag ps admitted remove => ⟨_, rfl, ?remove⟩, fun s p tag ps admitted keep image => ⟨_, rfl, ?begin_⟩,
    fun s p tag ps u admitted session => ⟨_, rfl, fun held => ?held, fun next later => ?next, fun w first start bad => ?bad⟩,
    fun s p tag ps admitted => ⟨_, rfl, ?end_⟩, fun s p tag ps f admitted frame => ⟨_, rfl, ?handover⟩,
    fun s p tag ps admitted idle => ⟨_, rfl, ?restart⟩, fun s p tag ps admitted => ⟨_, rfl, ?load⟩, fun s p tag ps admitted full => ⟨_, rfl, ?halt⟩⟩
  case remove =>
    have run := State.fwBeginRun_remove (s := s.loaded fwBeginOp p tag ps) (p := p) (b := s.boundOf fwBeginOp p tag ps) remove
    have keeps := State.removePack_keeps (ps.num 8 4) (s.loaded fwBeginOp p tag ps)
    exact State.submit_answered admitted run (keeps.wins (by decide)) (congrArg DevSt.lt (keeps.dev (by decide))) rfl
  case begin_ =>
    have run := State.fwBeginRun_image (s := s.loaded fwBeginOp p tag ps) (p := p) (b := s.boundOf fwBeginOp p tag ps) keep image
    exact State.submit_answered admitted run rfl rfl rfl
  case held =>
    have run := State.fwBlockRun_held (s := s.loaded fwBlockOp p tag ps) (p := p) (b := s.boundOf fwBlockOp p tag ps) session held
    exact State.submit_answered admitted run rfl rfl rfl
  case next =>
    have run := State.fwBlockRun_next (s := s.loaded fwBlockOp p tag ps) (p := p) (b := s.boundOf fwBlockOp p tag ps) session next later
    rw [State.programmed_eq] at run
    exact State.submit_answered admitted run rfl rfl rfl
  case bad =>
    have run := State.fwBlockRun_badHeader (s := s.loaded fwBlockOp p tag ps) (p := p) (b := s.boundOf fwBlockOp p tag ps) session first start bad
    have keeps := State.endSession_keeps (some w) (s.loaded fwBlockOp p tag ps)
    exact State.submit_answered admitted run (keeps.wins (by decide)) (congrArg DevSt.lt (keeps.dev (by decide))) rfl
  case end_ => exact State.submit_waits (E := _) admitted rfl rfl rfl
  case handover =>
    exact State.submit_waits admitted (State.fwHandoverRun_framed frame) rfl rfl
  case restart =>
    have others : ∀ q, q ≠ p → ((s.loaded fwRestartCoreOp p tag ps).win q).state ≠ .accepted := fun q other => by
      rw [State.loaded_win_ne _ _ _ _ other]
      exact idle q
    obtain ⟨run, stopped, state, code, session⟩ := State.restartCore_facts p (Fin.ofNat 8 (ps.num 0 1)) (s.boundOf fwRestartCoreOp p tag ps)
      (s.loaded fwRestartCoreOp p tag ps) others (by simp)
    rw [State.submit_admitted admitted]
    have same := State.ended_same fwRestartCoreOp p
      (State.restartCore p (Fin.ofNat 8 (ps.num 0 1)) (s.boundOf fwRestartCoreOp p tag ps) (s.loaded fwRestartCoreOp p tag ps))
    refine ⟨?_, ?_, ?_, ?_, fun six => ?_⟩
    · exact (State.coreRuns_congr (same.boot (by decide)) _).trans run
    · exact (congrArg CoreSt.stopped (State.core_congr (same.boot (by decide)) _)).trans stopped
    · rw [State.ended_win_self]
      exact state
    · rw [State.ended_win_self]
      exact code
    · exact (congrArg UpdSt.session (same.upd (by decide))).trans (session (by rw [six]; rfl))
  case load => exact State.submit_waits (E := _) admitted rfl rfl rfl
  case halt =>
    rw [State.submit_admitted admitted, State.upperHaltOp_run]
    have answered := State.answer_keeps p (s.boundOf upperHaltOp p tag ps) .ok (natLE 8 (s.loaded upperHaltOp p tag ps).lt)
      (s.loaded upperHaltOp p tag ps)
    generalize (s.loaded upperHaltOp p tag ps).answer p (s.boundOf upperHaltOp p tag ps) .ok (natLE 8 (s.loaded upperHaltOp p tag ps).lt) = x at answered
    have boot : x.boot = s.boot := answered.boot (by decide)
    have dev : x.dev = s.dev := answered.dev (by decide)
    obtain ⟨state, cadence, upper, halted, kept⟩ := State.leaveFull_halts ((congrArg DevSt.st dev).trans full)
    have same := State.ended_same upperHaltOp p x.leaveFull
    refine ⟨(congrArg DevSt.st (same.dev (by decide))).trans state, (same.cad (by decide)).trans cadence,
      (congrArg BootSt.upper (same.boot (by decide))).trans upper, fun k high => ?_, fun k low => ?_⟩
    · exact (State.coreRuns_congr (same.boot (by decide)) k).trans (halted k high)
    · exact (State.core_congr (same.boot (by decide)) k).trans ((kept k low).trans (State.core_congr boot k))

end Sys2Proof.Machine
end

section
/-!
Slots by command (O41).
-/

namespace Sys2Proof.Machine

namespace State

variable {s t : State} {i j : Fin 8} {p : Port} {tag : BitVec 32} {ps : Bytes} {b : Nat}

theorem slot_of_settled (h : t.settled = s.settled) : t.slot j = s.slot j := slot_of_slots (congrArg State.slots h :)

/-! ### One update of each named slot -/

theorem foldl_updSlot (g : Fin 8 → SlotSt → SlotSt) (ps : Bytes) (s : State) (i : Fin 8) :
    ((named ps).foldl (fun t i => t.updSlot i (g i)) s).slot i = if (ps.num 0 1).testBit i.1 then g i (s.slot i) else s.slot i := by
  have entry := (foldl_entry (fun t : State => t.slot) (fun t i => t.updSlot i (g i)) g (fun _ => True)
    (fun t i _ => ⟨trivial, fun j => (updSlot_slot (s := t) (i := i) (j := j) (g i)).trans (by split <;> simp_all)⟩)
    (named ps) (named_nodup ps) s trivial).2 i
  rw [entry]
  simp only [mem_named]

theorem foldl_updSlot_eq (g : Fin 8 → SlotSt → SlotSt) (l : List (Fin 8)) (s : State) :
    l.foldl (fun t i => t.updSlot i (g i)) s = { s with slots := (l.foldl (fun t i => t.updSlot i (g i)) s).slots } :=
  foldl_inv (fun t : State => t = { s with slots := t.slots }) _ l (fun t i h => by rw [h]; rfl) s rfl

/-- The request of SLOT_POWER on (R515). -/
def powerAsked (ps : Bytes) (i : Fin 8) (x : SlotSt) : SlotSt := { x with request := true, boot := BitVec.ofNat 2 (ps.num 2 2 / 4 ^ i.1) }

theorem slotPowerOn_waiting (notOn : s.casc.st ≠ .on) :
    slotPowerOn p ps b s = ((named ps).foldl (fun t i => t.updSlot i (powerAsked ps i)) s).answer p 0 .ok
      ((named ps).foldl (fun t i => t.updSlot i (powerAsked ps i)) s).slotPowerReply := by
  have casc : ((named ps).foldl (fun t i => t.updSlot i (powerAsked ps i)) s).casc.st ≠ .on := by
    rw [foldl_updSlot_eq]
    exact notOn
  exact if_pos casc

/-- A slot that SLOT_RUN gave its boundary (R515). -/
def runsAt (t : Nat) (_ : Fin 8) (x : SlotSt) : SlotSt := { x with runAt := some t }

theorem slotRunOp_run : slotRunOp.run p ps b s = (named ps).foldl (fun u i => u.updSlot i (runsAt (s.runInstant ps) i)) (s.accept p b) := rfl

/-! ### SLOT_POWER off (R490, R515) -/

/-- A slot that a command withdrew from power: no request, and no state with power on. -/
def Withdrawn (x : SlotSt) : Prop := x.request = false ∧ x.st ≠ .powering ∧ x.st ≠ .held ∧ x.st ≠ .running

/-- Turning off a slot whose request is withdrawn, and its down-sequence. -/
theorem slotDown_withdrawn (asked : (s.slot i).request = false) (off : (s.slot i).st ≠ .powering ∧ (s.slot i).st ≠ .held ∧ (s.slot i).st ≠ .running) :
    Withdrawn ((s.slotDown i).slot i) := by
  obtain ⟨_, request, state, _⟩ := slotDown_slot (s := s) (i := i)
  refine ⟨request.trans asked, ?_⟩
  rcases state with state | state
  · rw [state]
    exact off
  · simp [state]

theorem setSlot_off_withdrawn (asked : (s.slot i).request = false) : Withdrawn (((s.setSlot i .off 0).slotDown i).slot i) := by
  have slot : (s.setSlot i .off 0).slot i = slotAfter s.lt .off 0 (s.slot i) := by rw [setSlot_slot, if_pos rfl]
  refine slotDown_withdrawn ?_ ?_ <;> rw [slot]
  · exact asked
  · simp [slotAfter]

theorem setSlot_slotDown_slot_ne (h : j ≠ i) : ((s.setSlot i .off 0).slotDown i).slot j = s.slot j := by
  rw [slotDown_slot.1 j h, setSlot_slot, if_neg h]

theorem slotPowerOff_slot (p : Port) (ps : Bytes) (b : Nat) (s : State) (j : Fin 8) :
    ((ps.num 0 1).testBit j.1 = true → Withdrawn ((slotPowerOff p ps b s).slot j)) ∧
    ((ps.num 0 1).testBit j.1 = false → (slotPowerOff p ps b s).slot j = s.slot j) := by
  unfold slotPowerOff
  extract_lets accepted asked off
  have request : asked.slot j = if (ps.num 0 1).testBit j.1 then { s.slot j with request := false } else s.slot j :=
    foldl_updSlot (fun _ x => { x with request := false }) ps accepted j
  have fold : (j ∈ named ps → (asked.slot j).request = false → Withdrawn (off.slot j)) ∧ (j ∉ named ps → off.slot j = asked.slot j) := by
    refine foldl_slots (fun _ => True) _ (fun _ x y => x.request = false → Withdrawn y) (fun t i _ => ⟨trivial, ?_⟩) (named ps) (named_nodup ps) asked
      trivial j
    dsimp only
    split
    case h_4 powering held running =>
      exact ⟨fun none_ => slotDown_withdrawn none_ ⟨powering, held, running⟩, slotDown_slot.1⟩
    all_goals exact ⟨setSlot_off_withdrawn, fun _ => setSlot_slotDown_slot_ne⟩
  rw [slot_of_slots ((slotOffSettle_keeps off).slots (by decide))]
  constructor <;> intro name <;> rw [name] at request
  · exact fold.1 ((mem_named ps).mpr name) (congrArg SlotSt.request request)
  · exact (fold.2 (fun h => by rw [(mem_named ps).mp h] at name; cases name)).trans request

/-! ### SLOT_RESET (R486) -/

/-- What a hold and a reset pulse leave of a slot that is powered. -/
theorem holdSlot_pulseReset_slot (us : Nat) (on : s.powered i = true) :
    (((s.holdSlot i).pulseReset us i).slot i).rst = true ∧ (((s.holdSlot i).pulseReset us i).slot i).st ≠ .running ∧
      (((s.holdSlot i).pulseReset us i).slot i).pulseEnd = (slotPulsed s.lt us (s.slot i)).pulseEnd := by
  have tick : (s.holdSlot i).lt = s.lt := lt_of_dev ((holdSlot_keeps ..).dev (by decide))
  rw [pulseReset_slot, if_pos ⟨rfl, holdSlot_powered.trans on⟩, holdSlot_slot, tick]
  by_cases run : (s.slot i).st = .running
  · rw [if_pos ⟨rfl, run⟩]
    simp [slotPulsed, slotAfter, run]
  · rw [if_neg (fun h => run h.2)]
    exact ⟨rfl, run, rfl⟩

theorem holdSlot_pulseReset_slot_ne (us : Nat) (h : j ≠ i) : ((s.holdSlot i).pulseReset us i).slot j = s.slot j := by
  rw [pulseReset_slot, if_neg (fun e => h e.1), holdSlot_slot, if_neg (fun e => h e.1)]

/-- Holding and pulsing the named slots. -/
theorem foldl_pulse_slot (us : Nat) (ps : Bytes) (s : State) (i : Fin 8) :
    ((ps.num 0 1).testBit i.1 = true → s.powered i = true →
      (((named ps).foldl (fun t i => (t.holdSlot i).pulseReset us i) s).slot i).rst = true ∧
      (((named ps).foldl (fun t i => (t.holdSlot i).pulseReset us i) s).slot i).st ≠ .running ∧
      (((named ps).foldl (fun t i => (t.holdSlot i).pulseReset us i) s).slot i).pulseEnd = (slotPulsed s.lt us (s.slot i)).pulseEnd) ∧
    ((ps.num 0 1).testBit i.1 = false → ((named ps).foldl (fun t i => (t.holdSlot i).pulseReset us i) s).slot i = s.slot i) := by
  have fold := foldl_slots (fun t => t.casc = s.casc ∧ t.cfg = s.cfg ∧ t.dev = s.dev) (fun t i => (t.holdSlot i).pulseReset us i)
    (fun i x y => x = s.slot i → s.powered i = true → y.rst = true ∧ y.st ≠ .running ∧ y.pulseEnd = (slotPulsed s.lt us (s.slot i)).pulseEnd)
    ?step (named ps) (named_nodup ps) s ⟨rfl, rfl, rfl⟩ i
  case step =>
    rintro t k ⟨casc, cfg, dev⟩
    have keeps := ((Keeps.refl [.bus, .wins, .cad, .gop, .chk, .basin, .integ, .slots, .ctr, .out, .free] t).step (holdSlot_keeps k t)
      (by decide)).step (pulseReset_keeps us k _) (by decide)
    refine ⟨⟨(keeps.casc (by decide)).trans casc, (keeps.cfg (by decide)).trans cfg, (keeps.dev (by decide)).trans dev⟩, fun same on => ?_,
      fun j other => holdSlot_pulseReset_slot_ne us other⟩
    have pulse := holdSlot_pulseReset_slot us ((powered_congr casc cfg same).trans on)
    rwa [same, lt_of_dev dev] at pulse
  exact ⟨fun name on => fold.1 ((mem_named ps).mpr name) rfl on, fun name => fold.2 (fun h => by rw [(mem_named ps).mp h] at name; cases name)⟩

/-! ### SLOT_QUARANTINE (R491) -/

theorem foldl_quarantine_slot (ps : Bytes) (s : State) (i : Fin 8) :
    ((named ps).foldl (fun t i => t.quarantineNow 3 i) s).slot i =
      if (ps.num 0 1).testBit i.1 then slotQuarantined s.lt 3 (s.slot i) else s.slot i := by
  have entry := (foldl_entry (fun t : State => t.slot) (fun t i => t.quarantineNow 3 i) (fun _ x => slotQuarantined s.lt 3 x) (fun t => t.dev = s.dev)
    (fun t i dev => ⟨((quarantineNow_keeps 3 i t).dev (by decide)).trans dev, fun j => by
      rw [quarantineNow_slot (by decide), lt_of_dev dev]
      split <;> simp_all⟩)
    (named ps) (named_nodup ps) s rfl).2 i
  rw [entry]
  simp only [mem_named]

/-! ### SLOT_RELEASE (R492) -/

theorem slotReleased_congr (casc : t.casc = s.casc) (cfg : t.cfg = s.cfg) (slot : t.slot i = s.slot i) : t.slotReleased i = s.slotReleased i := by
  unfold slotReleased
  rw [slot, slotRailsOn_congr casc cfg]

theorem foldl_release_slot (clear : Bool) (ps : Bytes) (s : State) (i : Fin 8) :
    ((ps.num 0 1).testBit i.1 = true →
      ((((named ps).foldl (fun t i => t.releaseSlot clear i) s).slot i).st, (((named ps).foldl (fun t i => t.releaseSlot clear i) s).slot i).cause) =
        s.slotReleased i) ∧
    ((ps.num 0 1).testBit i.1 = false → ((named ps).foldl (fun t i => t.releaseSlot clear i) s).slot i = s.slot i) := by
  have fold := foldl_slots (fun t => t.casc = s.casc ∧ t.cfg = s.cfg) (fun t i => t.releaseSlot clear i)
    (fun i x y => x = s.slot i → (y.st, y.cause) = s.slotReleased i) ?step (named ps) (named_nodup ps) s ⟨rfl, rfl⟩ i
  case step =>
    rintro t k ⟨casc, cfg⟩
    have keeps := releaseSlot_keeps clear k t
    obtain ⟨released, others⟩ := releaseSlot_slot (s := t) (i := k) clear
    exact ⟨⟨(keeps.casc (by decide)).trans casc, (keeps.cfg (by decide)).trans cfg⟩, fun same => released.trans (slotReleased_congr casc cfg same), others⟩
  exact ⟨fun name => fold.1 ((mem_named ps).mpr name) rfl, fun name => fold.2 (fun h => by rw [(mem_named ps).mp h] at name; cases name)⟩

/-! ### The rows -/

theorem slotResetOp_run : slotResetOp.run p ps b s =
    ((named ps).foldl (fun t i => (t.holdSlot i).pulseReset (ps.num 4 4) i) (s.accept p b)).resetSettle := rfl

theorem slotQuarantineOp_run : slotQuarantineOp.run p ps b s =
    ((named ps).foldl (fun t i => t.quarantineNow 3 i) s).answer p b .ok ((named ps).foldl (fun t i => t.quarantineNow 3 i) s).slotStates := rfl

theorem slotReleaseOp_run : slotReleaseOp.run p ps b s =
    ((named ps).foldl (fun t i => t.releaseSlot (decide (ps.num 1 1 % 2 = 1)) i) s).answer p b .ok
      ((named ps).foldl (fun t i => t.releaseSlot (decide (ps.num 1 1 % 2 = 1)) i) s).slotStates := rfl

end State

/-- Settles O41: each command folds over the slots it names, and its effect on one slot leaves the others. -/
theorem slotCommands : Obligations.SlotCommands := by
  refine ⟨fun s p tag ps admitted on notOn => ⟨_, rfl, ?on⟩, fun s p tag ps admitted off => ⟨_, rfl, fun i => ?off⟩,
    fun s p tag ps admitted => ⟨_, rfl, fun i => ?reset⟩, fun s p tag ps admitted => ⟨_, rfl, ?run⟩, fun s p tag ps admitted => ⟨_, rfl, ?hold⟩,
    fun s p tag ps admitted => ⟨_, rfl, fun i => ?quarantine⟩, fun s p tag ps admitted => ⟨_, rfl, fun i => ?release⟩⟩
  case on =>
    have frame := State.foldl_updSlot_eq (State.powerAsked ps) (State.named ps) (s.loaded slotPowerOp p tag ps)
    have run : slotPowerOp.run p ps (s.boundOf slotPowerOp p tag ps) (s.loaded slotPowerOp p tag ps) = _ :=
      (if_pos on).trans (State.slotPowerOn_waiting (s := s.loaded slotPowerOp p tag ps) notOn)
    obtain ⟨⟨state, code, _⟩, settled⟩ := State.submit_ended admitted run (by rw [frame]; rfl) (by rw [frame]; rfl)
    refine ⟨state, code, fun i => (State.slot_of_settled settled).trans ?_⟩
    rw [State.foldl_updSlot]
    rfl
  case off =>
    have run : slotPowerOp.run p ps (s.boundOf slotPowerOp p tag ps) (s.loaded slotPowerOp p tag ps) = _ := if_neg off
    rw [State.submit_admitted admitted, run, State.slot_of_settled (State.settled_ended ..)]
    exact State.slotPowerOff_slot ..
  case reset =>
    rw [State.submit_admitted admitted, State.slot_of_settled (State.settled_ended ..), State.slotResetOp_run,
      State.slot_of_slots ((State.resetSettle_keeps _).slots (by decide))]
    exact State.foldl_pulse_slot (ps.num 4 4) ps ((s.loaded slotResetOp p tag ps).accept p (s.boundOf slotResetOp p tag ps)) i
  case run =>
    have frame := State.foldl_updSlot_eq (State.runsAt (s.runInstant ps)) (State.named ps)
      ((s.loaded slotRunOp p tag ps).accept p (s.boundOf slotRunOp p tag ps))
    obtain ⟨waits, _, _, settled⟩ := State.submit_waits (e := _) admitted State.slotRunOp_run (congrArg State.wins frame :) rfl
    refine ⟨waits, fun i => (State.slot_of_settled settled).trans ?_⟩
    exact State.foldl_updSlot (State.runsAt (s.runInstant ps)) ..
  case hold => exact State.submit_waits (E := _) admitted rfl rfl rfl
  case quarantine =>
    rw [State.submit_admitted admitted, State.slot_of_settled (State.settled_ended ..), State.slotQuarantineOp_run,
      State.slot_of_settled (State.settled_answer ..)]
    exact State.foldl_quarantine_slot ps (s.loaded slotQuarantineOp p tag ps) i
  case release =>
    rw [State.submit_admitted admitted, State.slot_of_settled (State.settled_ended ..), State.slotReleaseOp_run,
      State.slot_of_settled (State.settled_answer ..)]
    exact State.foldl_release_slot _ ps (s.loaded slotReleaseOp p tag ps) i

end Sys2Proof.Machine
end

section
/-!
The feeds of the Weir: how they turn on, and how they trip, are lost and shut down (O37, O38).
-/

namespace Sys2Proof.Machine

namespace State

variable {s : State} {f g : Feed} {k : FeedSt → FeedSt}

/-! ### Feeds that may ramp (R177) -/

/-- A feed may ramp after a change that leaves its cooldown and its last trip. -/
theorem mayRamp_updFeed (cooldown : (k (s.feed f)).cooldown = (s.feed f).cooldown) (lastTrip : (k (s.feed f)).lastTrip = (s.feed f).lastTrip) :
    (s.updFeed f k).mayRamp f = s.mayRamp f := by
  unfold mayRamp
  rw [updFeed_feed_self, cooldown, lastTrip]
  rfl

/-- A feed may ramp after a change that ends its cooldown and forgets its last trip, when nothing else holds it. -/
theorem mayRamp_updFeed_fresh (keeper : s.keeperUp = true) (connected : s.connected f = true) (running : s.weir.shutdown = none)
    (dry : s.weir.heldLeak = false) (cold : s.weir.heldTrip = false) (noLeak : s.cool.leak = false)
    (cooldown : (k (s.feed f)).cooldown = 0) (lastTrip : (k (s.feed f)).lastTrip = none) : (s.updFeed f k).mayRamp f = true := by
  have same : (s.updFeed f k).keeperUp = s.keeperUp ∧ (s.updFeed f k).connected f = s.connected f ∧ (s.updFeed f k).weir.shutdown = s.weir.shutdown ∧
      (s.updFeed f k).weir.heldLeak = s.weir.heldLeak ∧ (s.updFeed f k).weir.heldTrip = s.weir.heldTrip ∧ (s.updFeed f k).cool = s.cool :=
    ⟨rfl, rfl, rfl, rfl, rfl, rfl⟩
  obtain ⟨hk, hc, hr, hd, ht, hl⟩ := same
  unfold mayRamp
  rw [updFeed_feed_self, hk, hc, hr, hd, ht, hl, keeper, connected, running, dry, cold, noLeak, cooldown, lastTrip]
  rfl

/-- A changed feed that is off, meant to be on and settled ramps when it may. -/
theorem tryRamp_updFeed (off : (k (s.feed f)).st = .off) (wasOn : (k (s.feed f)).wasOn = true) (inWin : (k (s.feed f)).inWin = true)
    (settled : (k (s.feed f)).settled = true) (may : (s.updFeed f k).mayRamp f = true) :
    ((s.updFeed f k).tryRamp f).feed f = s.ramping f (k (s.feed f)) := by
  rw [tryRamp_ramps (by rw [updFeed_feed_self, off]) (by rw [updFeed_feed_self, wasOn]) (by rw [updFeed_feed_self, inWin])
    (by rw [updFeed_feed_self, settled]) may, updFeed_feed_self]
  rfl

/-- The same, with the feed's bit of BKP_0 set (R601). -/
theorem tryRamp_updFeed_bkp {b : Bool} (off : (k (s.feed f)).st = .off) (wasOn : (k (s.feed f)).wasOn = true) (inWin : (k (s.feed f)).inWin = true)
    (settled : (k (s.feed f)).settled = true) (may : (s.updFeed f k).mayRamp f = true) :
    (((s.updFeed f k).setFeedBkp f b).tryRamp f).feed f = s.ramping f (k (s.feed f)) := by
  have same : ((s.updFeed f k).setFeedBkp f b).feed f = k (s.feed f) := updFeed_feed_self _
  rw [tryRamp_ramps (s := (s.updFeed f k).setFeedBkp f b) (by rw [same, off]) (by rw [same, wasOn]) (by rw [same, inWin]) (by rw [same, settled]) may,
    same]
  rfl

theorem keeperUp_of_mayRamp (h : s.mayRamp f = true) : s.keeperUp = true := by
  unfold mayRamp at h
  simp only [Bool.and_assoc] at h
  exact (Bool.and_eq_true_iff.mp h).1

/-- While K0 runs there is nothing to wake. -/
theorem wakeUp_of_keeperUp (h : s.keeperUp = true) : s.wakeUp = s := by
  unfold keeperUp at h
  simp only [Bool.and_eq_true, decide_eq_true_eq] at h
  unfold wakeUp
  rw [h.1]

/-! ### Rows of a feed's input (R172, R177, R197) -/

/-- A feed whose input has been in window for 100 ms. -/
def inWindow (v : Nat) (s : State) (x : FeedSt) : FeedSt :=
  { x with
    inWin := true, settled := true, vin := v, inSince := if x.inWin then x.inSince else s.lt - 100000
    st := if x.st = .outOfWindow then .off else x.st }

theorem execFeedInWindow_stays {v : Nat} (connected : s.connected f = true) (wasOn : (s.feed f).wasOn = false) (restore : s.restoreOn f = false) :
    execFeedInWindow f v s = .next (s.updFeed f (s.inWindow v)) := by
  unfold execFeedInWindow
  rw [if_neg (by rw [connected]; decide)]
  extract_lets u w
  have settledFeed : u.feed f = s.inWindow v (s.feed f) := updFeed_feed_self _
  have noWish : ((u.feed f).wasOn || u.restoreOn f) = false := by
    unfold restoreOn at restore ⊢
    rw [settledFeed]
    exact Bool.or_eq_false_iff.mpr ⟨wasOn, restore⟩
  have asleep : w = u := by unfold w; rw [noWish]; rfl
  show go (w.tryRamp f) = .next u
  rw [asleep, tryRamp_stays (.inl (by rw [settledFeed]; exact wasOn))]
  rfl

theorem execFeedInWindow_awake {v : Nat} (connected : s.connected f = true) (keeper : s.keeperUp = true) :
    execFeedInWindow f v s = .next ((s.updFeed f (s.inWindow v)).tryRamp f) := by
  unfold execFeedInWindow
  rw [if_neg (by rw [connected]; decide)]
  extract_lets u w
  have awake : w = u := by unfold w; rw [wakeUp_of_keeperUp (s := u) keeper, ite_self]
  show go (w.tryRamp f) = .next (u.tryRamp f)
  rw [awake]
  rfl

/-- A feed whose input has returned and is not yet settled. -/
def returned (v : Nat) (s : State) (x : FeedSt) : FeedSt := { x with inWin := true, settled := false, inSince := s.lt, vin := v }

/-- A state without hold-up. -/
def unheld (s : State) : State := { s with weir := { s.weir with holdup := none } }

theorem execFeedInputReturn_holdup {v : Nat} (connected : s.connected f = true) (out : (s.feed f).inWin = false)
    (holdup : s.weir.holdup.isSome = true) (keeper : s.keeperUp = true) (st : (s.feed f).st = .off ∨ (s.feed f).st = .outOfWindow) :
    execFeedInputReturn f v s = .next ((s.updFeed f (s.returned v)).unheld.startRamp f) := by
  unfold execFeedInputReturn
  rw [if_neg (by rw [connected, out]; decide)]
  extract_lets held u w _ t phase
  have awake : w = u := by unfold w; rw [wakeUp_of_keeperUp (s := u) keeper, ite_self]
  have same : phase = (s.feed f).st := by
    show (w.feed f).st = _
    rw [awake]
    exact (congrArg FeedSt.st (updFeed_feed_self (s := s) (f := f) (s.returned v)) :)
  have up : t.keeperUp = true := by
    show w.keeperUp = true
    rw [awake]
    exact keeper
  have ramps : (held && t.keeperUp && decide (phase ≠ .disconnected) && decide (phase ≠ .latched) && decide (phase ≠ .cooldown) &&
      decide (phase ≠ .minOff)) = true := by
    rw [same, up, show held = true from holdup]
    rcases st with st | st <;> rw [st] <;> rfl
  rw [if_pos ramps]
  show Host.Outcome.next (startRamp f w.unheld) = _
  rw [awake]
  rfl

/-- A feed whose cooldown is over. -/
def cooled (x : FeedSt) : FeedSt :=
  { x with cooldown := 0, st := if x.inWin then .off else .outOfWindow, wasOn := true, lastTrip := none }

theorem cooled_st {x : FeedSt} (h : x.inWin = true) : (cooled x).st = .off := if_pos h

theorem cooled_eq {x : FeedSt} (h : x.inWin = true) : cooled x = { x with cooldown := 0, st := .off, wasOn := true, lastTrip := none } := by
  unfold cooled
  rw [if_pos h]

/-- A feed whose MIN_OFF is over, to be on. -/
def rested (x : FeedSt) : FeedSt := { x with st := if x.inWin then .off else .outOfWindow, minOff := 0, wasOn := true }

theorem rested_st {x : FeedSt} (h : x.inWin = true) : (rested x).st = .off := if_pos h

theorem rested_eq {x : FeedSt} (h : x.inWin = true) : rested x = { x with st := .off, minOff := 0, wasOn := true } := by
  unfold rested
  rw [if_pos h]

theorem execMinOffEnd_restores (st : (s.feed f).st = .minOff) (keeper : s.keeperUp = true) (dry : s.weir.heldLeak = false)
    (cold : s.weir.heldTrip = false) (restore : s.restoreOn f = true) :
    execMinOffEnd f s = .next (((s.updFeed f rested).setFeedBkp f true).tryRamp f) := by
  unfold execMinOffEnd
  rw [if_neg (fun h => h st), if_pos keeper]
  unfold minOffOver
  extract_lets cmd on u w
  have meant : on = true := by unfold on; rw [restore, dry, cold]; rfl
  unfold w u
  rw [meant]
  rfl

theorem updFeed_updFeed (j k : FeedSt → FeedSt) : (s.updFeed f j).updFeed f k = s.updFeed f (k ∘ j) := by
  exact congrArg (fun v => ({ s with weir := { s.weir with feeds := v } } : State)) (Vec.upd_upd s.weir.feeds f j k)

theorem execCooldownEnd_keeper (st : (s.feed f).st = .cooldown) (keeper : s.keeperUp = true) :
    execCooldownEnd f s = .next ((s.updFeed f cooled).tryRamp f) := by
  unfold execCooldownEnd
  extract_lets x u w
  have done : (decide (x.st = .cooldown) && u.keeperUp) = true := by
    rw [Bool.and_eq_true, decide_eq_true_eq]
    exact ⟨st, keeper⟩
  rw [if_pos done]
  exact congrArg (fun t : State => go (t.tryRamp f)) (updFeed_updFeed ..)

end State

/-- Settles O37: each row is a change of one feed, after which `tryRamp` ramps it or leaves it. -/
theorem feedsRise : Obligations.FeedsRise := by
  refine ⟨fun s f v connected wasOn restore => ?_, fun s f v connected wasOn st may => ?_, fun s f v connected out held keeper st => ?_,
    fun s f v i st => ?_, fun s f st keeper => ⟨fun inWin waits => ?_, fun inWin settled connected run dry cold noLeak => ?_⟩, 
    fun s f st keeper inWin dry cold restore => ⟨fun waits => ?_, fun settled may => ?_⟩, fun s f st => ?_⟩
  · exact .of_next (State.execFeedInWindow_stays connected wasOn restore) (execFeedInWindow_keeps f v s)
      ⟨fun g hg => State.updFeed_feed_ne _ hg, State.updFeed_feed_self _⟩
  · refine .of_next (State.execFeedInWindow_awake connected (State.keeperUp_of_mayRamp may)) (execFeedInWindow_keeps f v s) ?_
    have off : (s.inWindow v (s.feed f)).st = .off := by
      rcases st with st | st <;> simp [State.inWindow, st]
    exact State.tryRamp_updFeed off wasOn rfl rfl ((State.mayRamp_updFeed (k := s.inWindow v) rfl rfl).trans may)
  · refine .of_next (State.execFeedInputReturn_holdup connected out held keeper st) (execFeedInputReturn_keeps f v s) ⟨rfl, ?_⟩
    exact State.startRamp_feed.trans (congrArg (s.ramping f) (State.updFeed_feed_self _))
  · exact .of_next (go_if st) (execFeedPowerGood_keeps f v i s) (State.feedGood_facts f v i s)
  · refine .of_next (State.execCooldownEnd_keeper st keeper) (execCooldownEnd_keeps f s) ?_
    rw [State.tryRamp_stays (.inr (.inr (.inl (by rw [State.updFeed_feed_self]; exact waits)))), State.updFeed_feed_self, State.cooled_eq inWin]
  · refine .of_next (State.execCooldownEnd_keeper st keeper) (execCooldownEnd_keeps f s) ?_
    rw [State.tryRamp_updFeed (State.cooled_st inWin) rfl inWin settled (State.mayRamp_updFeed_fresh keeper connected run dry cold noLeak rfl rfl),
      State.cooled_eq inWin]
  · refine .of_next (State.execMinOffEnd_restores st keeper dry cold restore) (execMinOffEnd_keeps f s) ?_
    have same : ((s.updFeed f State.rested).setFeedBkp f true).feed f = State.rested (s.feed f) := State.updFeed_feed_self _
    rw [State.tryRamp_stays (.inr (.inr (.inl (by rw [same]; exact waits)))), same, State.rested_eq inWin]
  · refine .of_next (State.execMinOffEnd_restores st keeper dry cold restore) (execMinOffEnd_keeps f s) ?_
    rw [State.tryRamp_updFeed_bkp (State.rested_st inWin) rfl inWin settled (State.mayRamp_updFeed (k := State.rested) rfl rfl |>.trans may), State.rested_eq inWin]
  · exact .of_next (go_if st) (execRetryCountReset_keeps f s) ⟨State.updFeed_feed_self _, fun g hg => State.updFeed_feed_ne _ hg⟩

namespace State

variable {s : State} {f g : Feed}

/-! ### Feeds that trip or are lost (R183 to R197) -/

theorem weirOffFull_feed : s.weirOffFull.feed f = s.feed f := feed_of_weir ((weirOffFull_keeps s).weir (by decide))

/-- The state, state of the input and voltage of a feed whose input left its window. -/
theorem inputOut_feed (v p : Nat) (st : (s.feed f).st = .on ∨ (s.feed f).st = .ramp ∨ (s.feed f).st = .off) :
    ((s.inputOut f v p).feed f).st = .outOfWindow ∧ ((s.inputOut f v p).feed f).inWin = false ∧ ((s.inputOut f v p).feed f).vin = v := by
  unfold inputOut
  extract_lets x u w bus y _ z
  have input : w.feed f = { s.feed f with inWin := false, settled := false, vin := v } := updFeed_feed_self _
  have same : z.feed f = y.feed f := by unfold z; split <;> rfl
  have left : ∃ r : FeedSt, y.feed f = r ∧ r.st = .outOfWindow ∧ r.inWin = (w.feed f).inWin ∧ r.vin = (w.feed f).vin := by
    have phase : x = s.feed f := rfl
    unfold y
    rw [phase]
    rcases st with st | st | st <;> rw [st]
    · exact ⟨_, (loseFeed_feed ..).1, rfl, rfl, rfl⟩
    · exact ⟨_, updFeed_feed_self _, rfl, rfl, rfl⟩
    · exact ⟨_, updFeed_feed_self _, rfl, rfl, rfl⟩
  obtain ⟨r, hr, hst, hin, hvin⟩ := left
  rw [weirOffFull_feed, same, hr]
  rw [input] at hin hvin
  exact ⟨hst, hin, hvin⟩

/-- An orderly shutdown of a Cascade that is UP or ON ends a hold-up. -/
theorem orderlyShutdown_holdup (c : ShutCause) (n : Nat) (h : s.casc.st = .up ∨ s.casc.st = .on) : (s.orderlyShutdown c n).weir.holdup = none := by
  unfold orderlyShutdown
  extract_lets _ z
  have down : z.startDown.weir.holdup = none := congrArg WeirSt.holdup ((startDown_keeps z).weir (by decide))
  have same : z.casc.st = s.casc.st := rfl
  rcases h with h | h <;> rw [same, h] <;> exact down

end State

/-- Settles O38: the trips and losses are what `tripFeed`, `loseFeed` and `windowClose` leave of each feed. -/
theorem feedsTrip : Obligations.FeedsTrip := by
  refine ⟨fun s f i st => ?limit, fun s f => ?clear, fun s i f c row => ?trip, fun s f p st => ?loss, fun s f v p connected inWin st => ?out,
    fun s held st => ?holdup, fun s p a b tick late awake applied => ?window, fun s share both => ?imbalance⟩
  case limit =>
    exact .of_next (go_if (by rcases st with st | st <;> rw [st] <;> rfl)) (execCurrentLimitReached_keeps f i s)
      ⟨fun g hg => State.updFeed_feed_ne _ hg, State.updFeed_feed_self _⟩
  case clear => exact .of_next rfl (execFaultTimerClear_keeps f s) ⟨fun g hg => State.updFeed_feed_ne _ hg, State.updFeed_feed_self _⟩
  case trip =>
    have trips : (s.feed f).st = .ramp ∨ (s.feed f).st = .on := row.elim (fun h => .inl h.2.2) (fun h => h.2)
    obtain ⟨self, others, counted, _⟩ := State.tripFeed_feed c trips
    rcases row with ⟨rfl, rfl, st⟩ | ⟨⟨rfl, rfl, timer⟩ | ⟨rfl, rfl⟩ | ⟨rfl, rfl⟩, _⟩
    · exact .of_next (go_if st) (execRampTimeout_keeps f s) ⟨self, others, counted⟩
    · exact .of_next (go_if timer) (execFaultTimerExpiry_keeps f s) ⟨self, others, counted⟩
    · exact .of_next rfl (execSoaTrip_keeps f s) ⟨self, others, counted⟩
    · exact .of_next rfl (execFastTrip_keeps f s) ⟨self, others, counted⟩
  case loss =>
    obtain ⟨self, others⟩ := State.loseFeed_feed (s := s) (f := f) .off p
    refine .of_next (go_if st) (execFeedLoss_keeps f p s) ⟨?_, fun g hg => ?_⟩
    · rw [State.weirOffFull_feed]
      exact self
    · rw [State.weirOffFull_feed]
      exact others g hg
  case out => exact .of_next (go_if (by rw [connected, inWin]; rfl)) (execFeedOutOfWindow_keeps f v p s) (State.inputOut_feed v p st)
  case holdup =>
    have st' : (s.raise 0x0033 4 .none).casc.st = .up ∨ (s.raise 0x0033 4 .none).casc.st = .on := by
      rw [(State.raise_keeps ..).casc (by decide)]
      exact st
    obtain ⟨down, shut, _⟩ := State.orderlyShutdown_facts .holdup 0 st'
    exact .of_next (go_if held) (execHoldupExpiry_keeps s) ⟨down, State.orderlyShutdown_holdup .holdup 0 st', shut⟩
  case window =>
    exact .of_next (go_if (by simp [tick, late, awake])) (execPowerWindowClose_keeps p a b s) (State.windowClose_facts p a b s applied)
  case imbalance => exact .of_next (go_if (by rw [share, both]; rfl)) (execShareImbalance_keeps s) (State.count_counted 0x0030 s)

end Sys2Proof.Machine
end

section
/-!
Feeds, rails, thermal trips and the leak latch by command (O43).
-/

namespace Sys2Proof.Machine

namespace State

variable {s t : State} {f g : Feed} {o : OpSpec} {p : Port} {tag : BitVec 32} {ps : Bytes} {b : Nat}

/-- An admitted submission leaves what its run leaves, but for what `settled` leaves out. -/
theorem submit_settled (admitted : s.admits o p tag ps = true) :
    (s.submit o p tag ps).settled = (o.run p ps (s.boundOf o p tag ps) (s.loaded o p tag ps)).settled := by
  rw [submit_admitted admitted, settled_ended]

theorem submit_weir (admitted : s.admits o p tag ps = true) :
    (s.submit o p tag ps).weir = (o.run p ps (s.boundOf o p tag ps) (s.loaded o p tag ps)).weir := (congrArg State.weir (submit_settled admitted) :)

theorem submit_casc (admitted : s.admits o p tag ps = true) :
    (s.submit o p tag ps).casc = (o.run p ps (s.boundOf o p tag ps) (s.loaded o p tag ps)).casc := (congrArg State.casc (submit_settled admitted) :)

/-- A submission whose run answers at once, on a state with the windows and the tick of its own, ends in DONE with OK. -/
theorem submit_done {E : State} {r : Bytes} {l : List Part} (admitted : s.admits o p tag ps = true)
    (run : o.run p ps (s.boundOf o p tag ps) (s.loaded o p tag ps) = E.answerNow p .ok r) (keeps : Keeps l (s.loaded o p tag ps) E)
    (frame : Part.wins ∉ l ∧ Part.dev ∉ l) :
    ((s.submit o p tag ps).win p).state = .done ∧ ((s.submit o p tag ps).win p).code = .ok ∧ (s.submit o p tag ps).settled = E.settled := by
  have windows : E.win p = (s.loaded o p tag ps).win p := congrArg (Vector.get · p) (keeps.wins frame.1)
  obtain ⟨⟨state, code, _⟩, rest⟩ := submit_ended admitted run windows (congrArg DevSt.lt (keeps.dev frame.2))
  exact ⟨state, code, rest⟩

/-! ### WEIR_ON (R204) -/

theorem tryRamp_feed_ne (h : g ≠ f) : (s.tryRamp f).feed g = s.feed g := by
  unfold tryRamp
  extract_lets x
  split
  · exact updFeed_feed_ne _ h
  · rfl

/-- A feed that a command turns on. -/
def wanted (x : FeedSt) : FeedSt := { x with wasOn := true, offCmd := false }

theorem weirOnRun_one (one : namedFeeds ps = [f]) :
    s.weirOnRun p ps b = ((((s.accept p b).updFeed f wanted).setFeedBkp f true).tryRamp f).weirOnSettle := by
  unfold weirOnRun
  rw [one]
  rfl

/-! ### WEIR_OFF (R198, R205) -/

/-- A feed that WEIR_OFF names while another feed stays ON. -/
def turnedOff (x : FeedSt) : FeedSt :=
  match x.st with
  | .ramp | .cooldown | .on => { gateLow .off x with wasOn := false, offCmd := true }
  | _ => { x with wasOn := false, offCmd := true }

theorem weirOffFeed_feed : (s.weirOffFeed false f).feed g = if g = f then turnedOff (s.feed f) else s.feed g := by
  have weir : ((s.weirOnFail f none).setFeedBkp f false).weir = s.weir := (weirOnFail_keeps f none s).weir (by decide)
  unfold weirOffFeed
  extract_lets u w
  have same : w.feed g = s.feed g := feed_of_weir weir
  by_cases h : g = f
  · subst h
    rw [if_pos rfl, updFeed_feed_self, same]
    unfold turnedOff
    cases (s.feed g).st <;> rfl
  · rw [if_neg h, updFeed_feed_ne _ h, same]

theorem weirOffFeed_shutdown (last : Bool) : (s.weirOffFeed last f).weir.shutdown = s.weir.shutdown := by
  show (s.weirOnFail f none).weir.shutdown = s.weir.shutdown
  rw [(weirOnFail_keeps f none s).weir (by decide)]

theorem namedFeeds_nodup (ps : Bytes) : (namedFeeds ps).Nodup := (List.nodup_finRange 2).filter _

/-- The state after every feed that WEIR_OFF names. -/
def offFeeds (last : Bool) (p : Port) (ps : Bytes) (b : Nat) (s : State) : State := (namedFeeds ps).foldl (weirOffFeed last) (s.accept p b)

theorem offFeeds_shutdown {last : Bool} : (s.offFeeds last p ps b).weir.shutdown = s.weir.shutdown :=
  foldl_inv (fun t : State => t.weir.shutdown = s.weir.shutdown) (weirOffFeed last) _ (fun _ _ h => (weirOffFeed_shutdown last).trans h) _ rfl

theorem offFeeds_keeps (last : Bool) : Keeps [.bus, .wins, .weir, .rst, .out] s (s.offFeeds last p ps b) :=
  foldl_inv (Keeps [.bus, .wins, .weir, .rst, .out] s) (weirOffFeed last) _ (fun _ f h => h.step (weirOffFeed_keeps last _ f) (by decide)) _
    ((Keeps.refl _ s).step (accept_keeps p b s) (by decide))

theorem offFeeds_feed : (s.offFeeds false p ps b).feed g = if g ∈ namedFeeds ps then turnedOff (s.feed g) else s.feed g :=
  (foldl_entry (fun t : State => t.feed) (weirOffFeed false) (fun _ => turnedOff) (fun _ => True) (fun _ _ _ => ⟨trivial, fun _ => weirOffFeed_feed⟩)
    (namedFeeds ps) (namedFeeds_nodup ps) (s.accept p b) trivial).2 g

/-- The state that WEIR_OFF leaves beside its window, with a feed left ON. -/
def partlyOff (p : Port) (ps : Bytes) (b : Nat) (s : State) : State :=
  let t := s.offFeeds false p ps b
  { t with weir := { t.weir with offTick := t.lt } }

/-- WEIR_OFF that leaves a feed ON, with no shutdown under way. -/
theorem weirOffRun_partial (on : g ∈ s.feedsOn) (other : g ∉ namedFeeds ps) (run : s.weir.shutdown = none) :
    s.weirOffRun p ps b = (s.partlyOff p ps b).finish p .ok (s.partlyOff p ps b).weirOffReply := by
  have rest : (decide (s.feedsOn ≠ []) && s.feedsOn.all (fun f => (namedFeeds ps).contains f)) = false := by
    rw [Bool.and_eq_false_iff, List.all_eq_false]
    exact .inr ⟨g, on, by simpa using other⟩
  unfold weirOffRun
  extract_lets fs last u w
  have partly : last = false := rest
  have off : w = s.offFeeds false p ps b := by
    unfold w
    rw [partly]
    rfl
  rw [if_neg (by rw [partly, off, offFeeds_shutdown, run]; decide)]
  unfold partlyOff
  rw [← off]

/-- WEIR_OFF that names every feed ON begins the orderly shutdown. -/
theorem weirOffRun_all (on : s.feedsOn ≠ []) (all : ∀ g ∈ s.feedsOn, g ∈ namedFeeds ps) :
    s.weirOffRun p ps b = (s.offFeeds true p ps b).orderlyShutdown .command (ps.num 0 1) := by
  have whole : (decide (s.feedsOn ≠ []) && s.feedsOn.all (fun f => (namedFeeds ps).contains f)) = true := by
    rw [Bool.and_eq_true, decide_eq_true_eq, List.all_eq_true]
    exact ⟨on, fun f hf => by simpa using all f hf⟩
  unfold weirOffRun
  extract_lets fs last u w
  have entire : last = true := whole
  unfold w
  rw [entire]
  exact if_pos rfl

theorem turnedOff_facts (x : FeedSt) : (turnedOff x).wasOn = false ∧ (turnedOff x).offCmd = true ∧
    (x.st = .ramp ∨ x.st = .cooldown ∨ x.st = .on → (turnedOff x).st = .off ∧ (turnedOff x).limit = 0) := by
  unfold turnedOff
  cases h : x.st <;> simp [gateLow]

/-! ### WEIR_CLEAR and RAIL_FLAG_CLEAR (R206, R246) -/

/-- The clearing of one latched feed. -/
def unlatch (s : State) (f : Feed) : State :=
  if (s.feed f).st = .latched then s.updFeed f (fun x => { x with st := .off, latched := false, retries := 0, wasOn := false }) else s

theorem unlatch_feed : (s.unlatch f).feed g = if g = f then
    (if (s.feed f).st = .latched then { s.feed f with st := .off, latched := false, retries := 0, wasOn := false } else s.feed f) else s.feed g := by
  unfold unlatch
  by_cases same : g = f
  · subst same
    rw [if_pos rfl]
    split
    · exact updFeed_feed_self _
    · rfl
  · rw [if_neg same]
    split
    · exact updFeed_feed_ne _ same
    · rfl

theorem unlatch_keeps : Keeps [.weir] s (s.unlatch f) := by
  unfold unlatch
  split
  · exact updFeed_keeps ..
  · exact Keeps.refl ..

theorem clearMark_rail {n m : Fin 64} : (s.clearMark n).rail m =
    if m = n then { s.rail n with mark := .none, stuck := false, evTick := s.lt } else s.rail m := by
  unfold clearMark
  rw [updRail_rail]
  split
  case isTrue h => rw [h]
  case isFalse => rfl

/-- Rails whose flags RAIL_FLAG_CLEAR clears. -/
def clearableRails (ps : Bytes) (s : State) : List (Fin 64) :=
  ((List.finRange 64).filter (fun n => (ps.num 0 8).testBit n.1 && ((s.rail n).mark ≠ .none || (s.rail n).stuck))).filter (fun n => !s.railKept n)

theorem mem_clearableRails {n : Fin 64} : n ∈ clearableRails ps s ↔
    (ps.num 0 8).testBit n.1 = true ∧ ((s.rail n).mark ≠ .none ∨ (s.rail n).stuck = true) ∧ s.railKept n = false := by
  simp only [clearableRails, List.mem_filter, List.mem_finRange, true_and, Bool.and_eq_true, Bool.or_eq_true, decide_eq_true_eq, Bool.not_eq_true',
    and_assoc]

theorem railFlagClearOp_run : ∃ r, railFlagClearOp.run p ps b s = ((clearableRails ps s).foldl clearMark s).answerNow p .ok r := ⟨_, rfl⟩

theorem clearableRails_nodup : (clearableRails ps s).Nodup := ((List.nodup_finRange 64).filter _).filter _

theorem foldl_clearMark_rail (l : List (Fin 64)) (nodup : l.Nodup) (n : Fin 64) :
    (l.foldl clearMark s).rail n = if n ∈ l then { s.rail n with mark := .none, stuck := false, evTick := s.lt } else s.rail n := by
  refine (foldl_entry (fun t : State => t.rail) clearMark (fun _ r => { r with mark := .none, stuck := false, evTick := s.lt }) (fun t => t.lt = s.lt)
    (fun t i tick => ⟨tick, fun j => ?_⟩) l nodup s rfl).2 n
  rw [clearMark_rail, tick]

/-! ### TRIP_CLEAR (R284) -/

/-- The clearing of one channel's latch. -/
def clearTrip (s : State) (c : Fin 28) : State := (s.updChan c (fun y => { y with restarts := [] })).holdOver c false

theorem clearTrip_latched {c d : Fin 28} : ((s.clearTrip c).chan d).latched = if d = c then false else (s.chan d).latched := by
  unfold clearTrip
  rw [(holdOver_trips false).2, updChan_chan]
  split <;> rfl

/-- Channels whose latch TRIP_CLEAR clears. -/
def clearableTrips (ps : Bytes) (s : State) : List (Fin 28) := ((List.finRange 28).filter (fun c => (ps.num 0 4).testBit c.1)).filter s.clearable

theorem tripClearRun_eq : ∃ r, s.tripClearRun p ps = ((clearableTrips ps s).foldl clearTrip s).answerNow p .ok r := ⟨_, rfl⟩

theorem clearableTrips_nodup : (clearableTrips ps s).Nodup := ((List.nodup_finRange 28).filter _).filter _

theorem mem_clearableTrips {c : Fin 28} : c ∈ clearableTrips ps s ↔ (ps.num 0 4).testBit c.1 = true ∧ s.clearable c = true := by
  simp only [clearableTrips, List.mem_filter, List.mem_finRange, true_and]

theorem foldl_clearTrip_latched (l : List (Fin 28)) (nodup : l.Nodup) (c : Fin 28) :
    ((l.foldl clearTrip s).chan c).latched = if c ∈ l then false else (s.chan c).latched :=
  (foldl_entry (fun (t : State) c => (t.chan c).latched) clearTrip (fun _ _ => false) (fun _ => True)
    (fun _ _ _ => ⟨trivial, fun _ => clearTrip_latched⟩) l nodup s trivial).2 c

theorem leakClearOp_run : leakClearOp.run p ps b s = s.leakClearRun p := by dsimp only [leakClearOp]

theorem leakClearRun_settled : (s.leakClearRun p).settled = s.clearLeak.settled := by
  unfold leakClearRun
  generalize s.clearLeak = t
  exact settled_answer p 0 .ok _ t

theorem submit_leakClear_cool (admitted : s.admits leakClearOp p tag ps = true) :
    (s.submit leakClearOp p tag ps).cool = (s.loaded leakClearOp p tag ps).clearLeak.cool := by
  have left := submit_settled admitted
  rw [leakClearOp_run, leakClearRun_settled] at left
  generalize (s.loaded leakClearOp p tag ps).clearLeak = t at left ⊢
  exact (congrArg State.cool left :)

end State

/-- Settles O43: each run is a fold over what the command names, and WEIR_OFF of every feed ON the orderly shutdown. -/
theorem powerAndCoolingCommands : Obligations.PowerAndCoolingCommands := by
  refine ⟨fun s p tag ps f admitted one off inWin settled may => ⟨_, rfl, ?on⟩, fun s p tag ps g admitted on other run => ⟨_, rfl, ?off⟩,
    fun s p tag ps admitted on all st => ⟨_, rfl, ?last⟩, fun s p tag ps admitted => ⟨_, rfl, ?clear⟩, fun s p tag ps admitted => ⟨_, rfl, ?flags⟩,
    fun s p tag ps admitted => ⟨_, rfl, ?trips⟩, fun s p tag ps admitted => ⟨_, rfl, ?leak⟩⟩
  case on =>
    have weir := (State.submit_weir admitted).trans (congrArg State.weir (State.weirOnRun_one (p := p) (b := s.boundOf weirOnOp p tag ps)
      (s := s.loaded weirOnOp p tag ps) one))
    rw [(State.weirOnSettle_keeps ..).weir (by decide)] at weir
    refine ⟨(State.feed_of_weir weir).trans ?_, fun g hg => (State.feed_of_weir weir).trans ((State.tryRamp_feed_ne hg).trans ?_)⟩
    · exact State.tryRamp_updFeed_bkp (k := State.wanted) (s := (s.loaded weirOnOp p tag ps).accept p _) off rfl inWin settled
        ((State.mayRamp_updFeed (k := State.wanted) rfl rfl).trans may)
    · exact State.updFeed_feed_ne State.wanted hg
  case off =>
    have run := State.weirOffRun_partial (p := p) (b := s.boundOf weirOffOp p tag ps) (s := s.loaded weirOffOp p tag ps) on other run
    have keeps : Keeps _ (s.loaded weirOffOp p tag ps) _ := State.offFeeds_keeps (p := p) (ps := ps) (b := s.boundOf weirOffOp p tag ps) false
    have left := (State.submit_settled admitted).trans ((congrArg State.settled run).trans (State.settled_finish ..))
    have weir : (s.submit weirOffOp p tag ps).weir = _ := (congrArg State.weir left :)
    have casc : (s.submit weirOffOp p tag ps).casc = _ := (congrArg State.casc left :)
    have feeds : ∀ f, (s.submit weirOffOp p tag ps).feed f = if f ∈ State.namedFeeds ps then State.turnedOff (s.feed f) else s.feed f := fun f =>
      (State.feed_of_weir weir).trans (State.offFeeds_feed (s := s.loaded weirOffOp p tag ps))
    obtain ⟨dev, casc'⟩ := And.intro (keeps.dev (by decide)) (keeps.casc (by decide))
    refine ⟨(congrArg WeirSt.offTick weir :).trans (congrArg DevSt.lt dev), casc.trans casc', fun f => ⟨fun named => ?_, fun other => ?_⟩⟩
    · rw [feeds, if_pos named]
      exact State.turnedOff_facts (s.feed f)
    · rw [feeds, if_neg other]
  case last =>
    have run := State.weirOffRun_all (p := p) (b := s.boundOf weirOffOp p tag ps) (s := s.loaded weirOffOp p tag ps) on all
    have casc' := (State.offFeeds_keeps (p := p) (ps := ps) (b := s.boundOf weirOffOp p tag ps) (s := s.loaded weirOffOp p tag ps) true).casc (by decide)
    obtain ⟨down, shut, _⟩ := State.orderlyShutdown_facts .command (ps.num 0 1) (s := (s.loaded weirOffOp p tag ps).offFeeds true p ps
      (s.boundOf weirOffOp p tag ps)) (by rw [casc']; exact st)
    refine ⟨?_, ?_⟩
    · rw [State.submit_casc admitted]
      exact (congrArg (fun t : State => t.casc.st) run).trans down
    · rw [State.submit_weir admitted]
      exact (congrArg (fun t : State => t.weir.shutdown.isSome) run).trans shut
  case clear =>
    obtain ⟨state, code, left⟩ := State.submit_done (E := (State.namedFeeds ps).foldl State.unlatch (s.loaded weirClearOp p tag ps)) admitted rfl
      (foldl_inv (Keeps [.weir] _) State.unlatch _ (fun _ _ h => h.step State.unlatch_keeps (by decide)) _ (Keeps.refl ..)) (by decide)
    refine ⟨state, code, fun f => (State.feed_of_weir (congrArg State.weir left :)).trans ?_⟩
    have entry := (foldl_entry (fun t : State => t.feed) State.unlatch
      (fun _ x => if x.st = .latched then { x with st := .off, latched := false, retries := 0, wasOn := false } else x) (fun _ => True)
      (fun _ _ _ => ⟨trivial, fun _ => State.unlatch_feed⟩) (State.namedFeeds ps) (State.namedFeeds_nodup ps) (s.loaded weirClearOp p tag ps) trivial).2 f
    exact entry.trans (ite_and ..).symm
  case flags =>
    obtain ⟨r, run⟩ := State.railFlagClearOp_run (p := p) (ps := ps) (b := s.boundOf railFlagClearOp p tag ps) (s := s.loaded railFlagClearOp p tag ps)
    obtain ⟨state, code, left⟩ := State.submit_done admitted run
      (foldl_inv (Keeps [.casc] _) State.clearMark _ (fun _ n h => h.step (State.clearMark_keeps _ n) (by decide)) _ (Keeps.refl ..)) (by decide)
    refine ⟨state, code, fun n => (State.rail_of_casc (congrArg State.casc left :)).trans ?_⟩
    exact (State.foldl_clearMark_rail _ State.clearableRails_nodup n).trans (if_congr State.mem_clearableRails rfl rfl)
  case trips =>
    intro c
    obtain ⟨r, run⟩ := State.tripClearRun_eq (p := p) (ps := ps) (s := s.loaded tripClearOp p tag ps)
    have left := (State.submit_settled admitted).trans ((congrArg State.settled run).trans (State.settled_answer ..))
    have chan : (s.submit tripClearOp p tag ps).chan c = _ := State.chan_of_cool (congrArg State.cool left :)
    rw [chan]
    exact (State.foldl_clearTrip_latched _ State.clearableTrips_nodup c).trans (if_congr State.mem_clearableTrips rfl rfl)
  case leak =>
    have cool : (s.submit leakClearOp p tag ps).cool = (s.loaded leakClearOp p tag ps).clearLeak.cool :=
      State.submit_leakClear_cool admitted
    rw [cool]
    exact State.clearLeak_facts

end Sys2Proof.Machine
end

section
/-!
The sideband: its addresses, MCTP control, PLDM and SPDM (O25, O26, O27).
-/

namespace Sys2Proof.Machine

/-- A row of the sideband, while it is served. -/
theorem Completes.of_sideband {i : Instr} {s : State} {f : State → State} {l : List Part} {P : State → Prop} (up : s.sidebandUp = true)
    (row : exec i s = s.sidebandDo f) (keeps : Keeps l s (f s)) (holds : P (f s)) : Completes i s l P :=
  .of_keeps (row.trans (go_if up)) keeps holds

/-- A row of the sideband that answers with one message. -/
theorem Completes.of_sent {i : Instr} {s : State} {f : State → State} {m : Msg} (up : s.sidebandUp = true) (row : exec i s = s.sidebandDo f)
    (sends : f s = s.send m) : Completes i s [.out] (fun t => t.out = s.out ++ [m]) :=
  .of_sideband up row (sends ▸ State.send_keeps m s) (congrArg State.out sends)

/-! ### Addresses, MCTP control and the slot's messages (R120, R121, R124) -/

namespace State

theorem mctpReply_other {s : State} {cmd : Byte} {d : Bytes} (other : cmd.toNat ∉ [1, 2, 4, 5]) : s.mctpReply cmd d = s.controlReply cmd [5] := by
  unfold mctpReply
  simp only [List.mem_cons, List.not_mem_nil, or_false, not_or] at other
  obtain ⟨no1, no2, no4, no5⟩ := other
  split <;> simp_all

theorem mctpReply_setEid {s : State} {op eid : Byte} (set : op = 0 ∨ op = 1) (some_ : eid ≠ 0) (notAll : eid ≠ 0xFF) :
    s.mctpReply 1 [op, eid] = ({ s with sess := { s.sess with eid } } : State).controlReply 1 [0, 0, eid, 0] := by
  have valid : ¬(decide (eid = 0) || decide (eid = 0xFF)) = true := by
    rw [Bool.or_eq_true, decide_eq_true_eq, decide_eq_true_eq]
    exact fun h => h.elim some_ notAll
  have sets : (decide (op = 0) || decide (op = 1)) = true := by simpa using set
  exact (if_pos sets).trans (if_neg valid)

end State

/-- Settles O25: the rows are single messages, or set one field of the session part. -/
theorem sidebandEndpoint : Obligations.SidebandEndpoint := by
  refine ⟨fun s a served none_ => ⟨.of_next (go_if ?_) (execI3cEntdaa_keeps a s) rfl, .of_next (go_if ?_) (execI3cSetdasa_keeps _ a s) rfl⟩, fun s up =>
    ⟨fun op eid set some_ notAll => ?eid, .of_sent up rfl rfl, .of_sent up rfl rfl, fun cmd d other => .of_sent up rfl (State.mctpReply_other other),
      .of_sent up rfl rfl⟩,
    fun s up notice => ?notice, fun s k d => .of_next rfl (execMctpOtherMessage_keeps k d s) rfl⟩
  · rw [served, none_]
    rfl
  · rw [served, none_]
    simp
  case eid =>
    refine .of_sideband up rfl (State.mctpReply_keeps ..) ?_
    rw [State.mctpReply_setEid set some_ notAll]
    exact ⟨rfl, rfl⟩
  case notice =>
    refine .of_next ((go_if up).trans (congrArg Host.Outcome.next (if_pos notice))) (execSidebandCompletionNotice_keeps s) ⟨rfl, ?_, fun q hq => ?_⟩
    · exact State.updWin_win_self ..
    · exact State.updWin_win_ne _ _ hq

/-! ### PLDM (R127, R128) -/

theorem unknown_type {k : Byte} (no0 : k ≠ 0) (no2 : k ≠ 2) : ¬(decide (k = 0) || decide (k = 2)) = true := by
  rw [Bool.or_eq_true, decide_eq_true_eq, decide_eq_true_eq]
  exact fun h => h.elim no0 no2

namespace State

variable {s : State} {n : Nat}

theorem pldmCommands_base : pldmCommands 0 = [0x3C] ++ zeros 31 := by decide +kernel

theorem pldmCommands_platform : pldmCommands 2 = [0, 0, 2] ++ zeros 7 ++ [3] ++ zeros 21 := by decide +kernel

theorem pdrMessage_known (low : 1 ≤ n) (high : n ≤ 58) : s.pdrMessage n =
    [0] ++ natLE 4 (if n = 58 then 0 else n + 1) ++ zeros 4 ++ [5] ++ natLE 2 (s.pdr n).length ++ s.pdr n := by
  unfold pdrMessage
  rw [if_neg (by omega : ¬n = 0)]
  exact if_neg (by omega)

theorem pdrMessage_beyond (beyond : 58 < n) : s.pdrMessage n = [0x82] := by
  unfold pdrMessage
  rw [if_neg (by omega : ¬n = 0)]
  exact if_pos beyond

theorem sensorMessage_known (low : 1 ≤ n) (high : n ≤ 58) : s.sensorMessage n =
    [0, 5, operational (s.sensor n).2, 0] ++ Bytes.fit (Config.pldmStates n) 3 ++ intLE 4 (clampInt 32 (s.sensor n).1) :=
  if_neg (by simp; omega)

theorem sensorMessage_unknown (out : n = 0 ∨ 58 < n) : s.sensorMessage n = [0x80] := if_pos (by simpa using out)

end State

/-- Settles O26: each row sends one message; what it holds is read off from the reply's definition. -/
theorem pldmAnswers : Obligations.PldmAnswers := by
  intro s up
  refine ⟨.of_sent up rfl rfl, fun k known => ?version, fun k no0 no2 => ⟨?unknown, ?noCommands⟩, .of_sent up rfl rfl, .of_sent up rfl ?base,
    .of_sent up rfl ?platform, .of_sent up rfl rfl, fun h low high => ?pdr, fun h beyond => ?noPdr, fun i low high => ?sensor, fun i out => ?noSensor⟩
  case version =>
    have served : (decide (k = 0) || decide (k = 2)) = true := by simpa using known
    exact .of_sent up rfl (congrArg (s.pldmReply 0 3) (if_pos served))
  case unknown => exact .of_sent up rfl (congrArg (s.pldmReply 0 3) (if_neg (unknown_type no0 no2)))
  case noCommands => exact .of_sent up rfl (congrArg (s.pldmReply 0 5) (if_neg (unknown_type no0 no2)))
  case base => exact congrArg (fun cs => s.pldmReply 0 5 ([0] ++ cs)) State.pldmCommands_base
  case platform => exact congrArg (fun cs => s.pldmReply 0 5 ([0] ++ cs)) State.pldmCommands_platform
  case pdr => exact .of_sent up rfl (congrArg (s.pldmReply 2 0x51) (State.pdrMessage_known low high))
  case noPdr => exact .of_sent up rfl (congrArg (s.pldmReply 2 0x51) (State.pdrMessage_beyond beyond))
  case sensor => exact .of_sent up rfl (congrArg (s.pldmReply 2 0x11) (State.sensorMessage_known low high))
  case noSensor => exact .of_sent up rfl (congrArg (s.pldmReply 2 0x11) (State.sensorMessage_unknown out))

/-! ### SPDM (R129, R130) -/

namespace State

variable {s : State} {req : Bytes}

theorem spdmCertificate_portion {off len : Nat} (algs : s.sess.spdmAlgs = true) (inside : off < s.certChain.length) :
    ∃ q, s.spdmCertificate 0 off len = (s.setSpdm true true s.sess.spdmA q []).spdmSend
      ([0x12, 0x02, 0, 0] ++ natLE 2 (s.certChain.part off (min len 4088)).length ++
        natLE 2 (s.certChain.length - off - (s.certChain.part off (min len 4088)).length) ++ s.certChain.part off (min len 4088)) := by
  have ready : ¬(!s.sess.spdmAlgs) = true := by rw [algs]; decide
  have served : ¬(decide ((0 : Byte).toNat % 16 ≠ 0) || decide (s.certChain.length ≤ off)) = true := by
    rw [Bool.or_eq_true, decide_eq_true_eq, decide_eq_true_eq]
    exact fun h => h.elim (fun h => h rfl) (by omega)
  exact ⟨_, (if_neg ready).trans (if_neg served)⟩

/-- The head of a CHALLENGE_AUTH without a measurement summary. -/
def challengeHead (s : State) : Bytes := [0x12, 0x03, 0, 1] ++ sha256 s.certChain ++ Bytes.fit (Config.spdmNonce s.free) 32 ++ zeros 2

theorem spdmChallenge_plain {non : Bytes} (algs : s.sess.spdmAlgs = true) : (s.spdmChallenge 0 0 non).out = s.out ++
    [.mctp 5 (s.challengeHead ++ Bytes.fit (Config.signature (s.free + 1) (spdmDigest "responder-challenge_auth signing"
      (s.sess.spdmA ++ s.sess.spdmB ++ [0x12, 0x83, 0, 0] ++ Bytes.fit non 32 ++ s.challengeHead))) 384)] := by
  have ready : ¬(!s.sess.spdmAlgs) = true := by rw [algs]; decide
  unfold spdmChallenge
  rw [if_neg ready, if_neg (by decide)]
  dsimp only [nonce, signed]
  rw [if_pos rfl, List.append_nil]
  rfl

/-- A measurement of the count, signed. -/
def countHead (s : State) : Bytes := [0x12, 0x60, 6, 0, 0, 0, 0, 0] ++ Bytes.fit (Config.spdmNonce s.free) 32 ++ zeros 2

theorem spdmMeasurements_count {non : Bytes} (algs : s.sess.spdmAlgs = true) : (s.spdmMeasurements 1 0 non).out = s.out ++
    [.mctp 5 (s.countHead ++ Bytes.fit (Config.signature (s.free + 1) (spdmDigest "responder-measurements signing"
      (s.sess.spdmA ++ (s.sess.spdmL ++ [0x12, 0xE0, 1, 0] ++ (Bytes.fit non 32 ++ [0]) ++ s.countHead)))) 384)] := by
  have ready : ¬(!s.sess.spdmAlgs) = true := by rw [algs]; decide
  unfold spdmMeasurements
  extract_lets k sign blocks records
  rw [if_neg ready, if_neg (by decide)]
  have count : blocks = [] := if_pos rfl
  have none_ : records = [] := by
    unfold records
    rw [count, List.flatMap_nil]
  have signs : sign = true := rfl
  have all : k = 0 := rfl
  dsimp only [nonce, signed]
  rw [if_pos signs, if_pos signs, if_pos all, count, none_]
  rfl

theorem spdmMeasurements_block {non : Bytes} (i : Fin 6) (algs : s.sess.spdmAlgs = true) : (s.spdmMeasurements 0 (byte (i.1 + 1)) non).out = s.out ++
    [.mctp 5 ([0x12, 0x60, 0, 0, 1] ++ natLE 3 (s.measBlock i).length ++ s.measBlock i ++ Bytes.fit (Config.spdmNonce s.free) 32 ++ zeros 2)] := by
  have ready : ¬(!s.sess.spdmAlgs) = true := by rw [algs]; decide
  have number : (byte (i.1 + 1)).toNat = i.1 + 1 := by
    have := i.isLt
    simp only [byte, BitVec.toNat_ofNat]
    omega
  unfold spdmMeasurements
  rw [number]
  extract_lets k sign blocks records
  rw [if_neg ready, if_neg (by simp [k])]
  have one : blocks = [i] := by
    have := i.isLt
    unfold blocks k
    rw [if_neg (by omega), if_neg (by omega), Nat.add_sub_cancel]
    exact congrArg (fun j => [j]) (Fin.ofNat_val_eq_self i)
  have block : records = s.measBlock i := by
    unfold records
    rw [one, List.flatMap_cons, List.flatMap_nil, List.append_nil]
  have unsigned : ¬sign = true := by decide
  have some_ : ¬k = 0 := Nat.succ_ne_zero _
  dsimp only [nonce, signed]
  rw [if_neg unsigned, if_neg some_, one, block]
  rfl

end State

/-- Settles O27: out of turn a request is refused; in turn its answer is the message its definition builds. -/
theorem spdmAnswers : Obligations.SpdmAnswers := by
  refine ⟨fun s up => ⟨.of_sideband up rfl (State.spdmVersions_keeps s) ⟨rfl, rfl, rfl⟩, fun req => ⟨.of_sent up rfl rfl, .of_sent up rfl rfl⟩⟩,
    fun s req up version => ⟨?capabilities, ?algorithms⟩, fun s i up early row => ?noVersion, fun s i up early row => ?noAlgorithms,
    fun s up algs => ⟨?digests, fun off len inside => ?certificate, fun nonce => ?challenge, fun nonce => ?signed, fun i nonce => ?block⟩⟩
  case capabilities =>
    refine .of_sideband up rfl (State.spdmCapabilities_keeps req s) ?_
    unfold State.spdmCapabilities
    rw [version]
    exact ⟨rfl, rfl⟩
  case algorithms =>
    refine .of_sideband up rfl (State.spdmAlgorithms_keeps req s) ?_
    unfold State.spdmAlgorithms
    rw [version]
    exact ⟨⟨_, rfl⟩, rfl⟩
  case noVersion =>
    have refuses : (!s.sess.spdmVersion) = true := by rw [early]; rfl
    obtain ⟨req, rfl⟩ | ⟨req, rfl⟩ := row
    · exact .of_sent up rfl (if_pos refuses)
    · exact .of_sent up rfl (if_pos refuses)
  case noAlgorithms =>
    have refuses : (!s.sess.spdmAlgs) = true := by rw [early]; rfl
    obtain rfl | ⟨a, b, c, rfl⟩ | ⟨a, b, c, rfl⟩ | ⟨a, b, c, rfl⟩ := row
    · exact .of_sent up rfl (if_pos refuses)
    · exact .of_sent up rfl (if_pos refuses)
    · exact .of_sent up rfl (if_pos refuses)
    · exact .of_sent up rfl (if_pos refuses)
  case digests =>
    refine .of_sideband up rfl (State.spdmDigests_keeps s) ?_
    unfold State.spdmDigests
    rw [algs]
    rfl
  case certificate =>
    obtain ⟨q, sends⟩ := State.spdmCertificate_portion (len := len.toNat) algs inside
    exact .of_sideband up rfl (State.spdmCertificate_keeps ..) ⟨_, _, congrArg State.out sends, rfl, rfl⟩
  case challenge =>
    exact .of_sideband up rfl (State.spdmChallenge_keeps ..) (State.spdmChallenge_plain algs)
  case signed => exact .of_sideband up rfl (State.spdmMeasurements_keeps ..) (State.spdmMeasurements_count algs)
  case block => exact .of_sideband up rfl (State.spdmMeasurements_keeps ..) (State.spdmMeasurements_block i algs)

end Sys2Proof.Machine
end

section
/-!
The recovery sources (O23).
-/

namespace Sys2Proof.Machine

namespace State

variable {s : State}

theorem rcvTake_boot {off : Nat} {bs : Bytes} (some_ : bs ≠ []) (fits : off + bs.length ≤ 1048576) : s.rcvTake off bs =
    { s with boot := { s.boot with
      bootBuf := Mem.write 0 s.boot.bootBuf off bs, bootLen := max s.boot.bootLen (off + bs.length), rcv := .copied } } :=
  if_neg (by simp [some_]; omega)

theorem handOver_recovery (img : Bytes) (s : State) :
    (s.handOver none 0 img).dev = { s.dev with phase := .imageReady } ∧ (s.handOver none 0 img).boot.bank = none ∧
      (s.handOver none 0 img).boot.recovery = true ∧ (s.handOver none 0 img).boot.romLock = true ∧ (s.handOver none 0 img).boot.k0MapLock = true ∧
      (s.handOver none 0 img).boot.bootBuf = [] ∧ (s.handOver none 0 img).boot.rcvBuf = [] ∧ (s.handOver none 0 img).boot.rcv = .waiting :=
  ⟨rfl, rfl, rfl, rfl, rfl, rfl, rfl, rfl⟩

/-! ### A trial of the boot buffer's image (R528, R536) -/

/-- The header that stands in the boot buffer, and the image by the header's length. -/
def bufferHeader (s : State) : ImgHeader := ImgHeader.parse (Mem.read 0 s.boot.bootBuf 0 1024)
def bufferImage (s : State) : Bytes := Mem.read 0 s.boot.bootBuf 0 (1024 + s.bufferHeader.length)

theorem rcvBoot_badHeader (bad : s.bufferHeader.formOk 1 = false) : s.rcvBoot = { s with boot := { s.boot with rcv := .refusedHeader } } := by
  unfold bufferHeader at bad
  unfold rcvBoot
  simp only [bad, Bool.not_false, if_true]

theorem rcvBoot_badImage (good : s.bufferHeader.formOk 1 = true) (fails : s.keeperBad' s.bufferImage ≠ none) :
    s.rcvBoot = { s with boot := { s.boot with rcv := .refusedCheck } } := by
  obtain ⟨why, bad⟩ := Option.ne_none_iff_exists'.mp fails
  unfold bufferImage at bad
  unfold bufferHeader at good bad
  unfold rcvBoot
  simp only [good, bad, Bool.not_true, Bool.false_eq_true, if_false]

theorem rcvBoot_goodImage (good : s.bufferHeader.formOk 1 = true) (passes : s.keeperBad' s.bufferImage = none) :
    s.rcvBoot = s.handOver none 0 s.bufferImage := by
  unfold bufferImage at passes ⊢
  unfold bufferHeader at good passes ⊢
  unfold rcvBoot
  simp only [good, passes, Bool.not_true, Bool.false_eq_true, if_false]

end State

/-- Settles O23: a copy is `rcvTake`, and both sources try the image by `rcvBoot`. -/
theorem recoveryTakesImages : Obligations.RecoveryTakesImages := by
  refine ⟨fun s source mse up low high fits => ?copy, fun s len off data crc source ok fits => ?copyI3c, fun s i row => ?boot, fun s source => ?read⟩
  case copy =>
    have length : (Mem.read 0 s.boot.rcvBuf 0 s.boot.rcvLen).length = s.boot.rcvLen := by simp [Mem.read]
    have row : exec .rcvCopy s = .next (s.rcvTake s.boot.rcvOffset (Mem.read 0 s.boot.rcvBuf 0 s.boot.rcvLen)) :=
      go_if (by rw [source, mse, up, decide_eq_true high]; rfl)
    refine .of_next row (execRcvCopy_keeps s) ?_
    rw [State.rcvTake_boot (fun none_ => by rw [none_] at length; simp at length; omega) (by omega), length]
  case copyI3c =>
    refine .of_next (go_if (by rw [source, ok]; rfl)) (execRcvI3cCopy_keeps len off data crc s) ?_
    unfold State.rcvWriteOk at ok
    simp only [Bool.and_eq_true, decide_eq_true_eq] at ok
    obtain ⟨⟨⟨low, _⟩, length⟩, _⟩ := ok
    rw [State.rcvTake_boot (fun none_ => by rw [none_] at length; simp at length; omega) (by omega), length]
  case boot =>
    have row' : exec i s = .next s.rcvBoot := by
      obtain ⟨rfl, source, mse, up⟩ | ⟨len, off, data, crc, rfl, source, ok⟩ := row
      · exact go_if (by rw [source, mse, up]; rfl)
      · exact go_if (by rw [source, ok]; rfl)
    refine .of_keeps row' (State.rcvBoot_keeps s) ⟨State.rcvBoot_badHeader, fun good => ⟨State.rcvBoot_badImage good, fun passes => ?_⟩⟩
    rw [State.rcvBoot_goodImage good passes]
    exact State.handOver_recovery s.bufferImage s
  case read => exact .of_next (go_if source) (execRcvI3cStateRead_keeps s) rfl

end Sys2Proof.Machine
end

section
/-!
The ends of sessions and of an idle sideband Draft (O28).
-/

namespace Sys2Proof.Machine

namespace State

variable {s : State} {e : SessEnd}

theorem endHost_none (none_ : s.sess.host.isSome = false) : s.endHost e = s := if_pos (by simpa using none_)

/-- The session part after the function's reset (R116, R118). -/
theorem endHost_reset_sess (s : State) : (s.endHost .reset).sess =
    if s.sess.host.isSome then { s.sess with host := none, absent := true, fanHold := some (s.lt + 10000000) } else s.sess := by
  split
  case isTrue some_ => exact endHost_sess some_
  case isFalse none_ => rw [endHost_none (Bool.eq_false_iff.mpr none_)]

/-- The end of a session by `e` counts `c` once when its notice does (R116, R118). -/
theorem endHost_counted {c : Nat} (some_ : s.sess.host.isSome = true) (notice : (s.hostLeaves e).endNotice e = (s.hostLeaves e).notice c) (other : c ≠ 0x0006) :
    Counted c s (s.endHost e) := by
  unfold Counted
  rw [endHost_ctr some_ c other, notice]
  exact notice_counted c (s.hostLeaves e)

/-- A window whose command is not accepted does not end with the session. -/
theorem not_endsWithSession {w : Window} (h : w.state ≠ .accepted) : endsWithSession w = false := by simp [endsWithSession, h]

theorem flrWindows_win (q : Port) : s.flrWindows.win q =
    if q = 7 then s.win q else if (s.win q).state = .accepted then { s.win q with orphan := true } else resetWin q := Vec.get_mapIdx ..

/-- The function's reset with the end of its session and its pushes (R118). -/
def functionGone (s : State) : State := ((s.endHost .reset).functionReset).pushLinkDown

theorem functionGone_facts (s : State) : s.functionGone.bus.mse = false ∧ s.functionGone.bus.bme = false ∧ s.functionGone.bus.msixEn = false ∧
    s.functionGone.bus.perst = s.bus.perst ∧ s.functionGone.sess = (s.endHost .reset).sess := by
  obtain ⟨mse, bme, msix, perst⟩ := pushLinkDown_bus ((s.endHost .reset).functionReset)
  exact ⟨mse, bme, msix, perst.trans (congrArg BusSt.perst (endHost_bus .reset s) :), (pushLinkDown_keeps ..).sess (by decide)⟩

theorem driveAll_zones (b : Bool) (t : State) : (t.driveAll b).cool.zones = t.cool.zones := by
  have outputs := driveAll_cool b t
  generalize t.driveAll b = u at outputs ⊢
  exact (congrArg CoolSt.zones outputs :)

/-- A zone as the end of the fan hold leaves it. -/
def zoneTaken (m : Nat) (z : Fin 4) (x : ZoneSt) : ZoneSt := if m.testBit z.1 then { x with takeover := true } else x

theorem zoneTaken_eq (m : Nat) (z : Fin 4) (x : ZoneSt) : zoneTaken m z x = { x with takeover := x.takeover || m.testBit z.1 } := by
  unfold zoneTaken
  cases m.testBit z.1
  · rw [Bool.or_false]
    rfl
  · rw [Bool.or_true]
    rfl

/-- The state whose duties the end of the fan hold drives. -/
def fansTaken (s : State) : State :=
  { s with
    sess := { s.sess with fanHold := none }
    cool := { s.cool with zones := Vec.mapIdx s.cool.zones (zoneTaken (s.fld 0x70 0 2)) } }

theorem fanTakeover_eq (s : State) : s.fanTakeover = s.fansTaken.driveAll false := rfl

/-- Table mode takes over the zones of the mask, and the fan hold ends (R116 step 5). -/
theorem fanTakeover_facts (s : State) : s.fanTakeover.sess = { s.sess with fanHold := none } ∧ ∀ z : Fin 4,
    s.fanTakeover.cool.zones.get z = { s.cool.zones.get z with takeover := (s.cool.zones.get z).takeover || (s.fld 0x70 0 2).testBit z.1 } := by
  rw [fanTakeover_eq]
  refine ⟨(driveAll_keeps ..).sess (by decide), fun z => ?_⟩
  rw [driveAll_zones]
  exact (Vec.get_mapIdx ..).trans (zoneTaken_eq ..)

end State

/-- Settles O28: each event is the session's end with the function's reset, and what `endHost` leaves is known. -/
theorem sessionEndEvents : Obligations.SessionEndEvents := by
  refine ⟨fun s some_ expired => ?lease, fun s served up => ?function, fun s up => ?perst, fun s link => ?loss, fun s k held passed => ?fans,
    fun s d draft owner idle late => ?idle⟩
  case lease =>
    obtain ⟨basin, chk⟩ := State.endHost_holds (e := .expiry) some_
    exact .of_next (go_if (by rw [some_, decide_eq_true expired]; rfl)) (execLeaseExpiry_keeps s)
      ⟨State.endHost_sess some_, basin, chk, fun d => State.endHost_draft some_, State.endHost_counted some_ rfl (by decide), fun q => State.endHost_win⟩
  case function =>
    refine .of_next (go_if (by rw [served, up]; rfl)) (execFunctionLevelReset_keeps s) ⟨rfl, rfl, rfl, ?_, fun q not7 free => ?_, State.endHost_reset_sess s,
      fun some_ => State.endHost_counted some_ rfl (by decide)⟩
    · exact (State.flrWindows_win 7).trans (State.endHost_win (.inl rfl))
    · have same : (s.endHost .reset).functionReset.win q = s.win q := State.endHost_win (.inr (State.not_endsWithSession free))
      rw [State.flrWindows_win, if_neg not7, same, if_neg free]
  case perst =>
    obtain ⟨mse, bme, msix, _, sess⟩ := State.functionGone_facts s
    exact .of_next (go_else (by rw [up]; decide)) (execPerstAssert_keeps s) ⟨rfl, rfl, mse, bme, msix, sess.trans (State.endHost_reset_sess s)⟩
  case loss =>
    obtain ⟨mse, bme, msix, perst, sess⟩ := State.functionGone_facts s
    exact .of_next (go_if link) (execPcieLinkLoss_keeps s) ⟨rfl, perst, mse, bme, msix, sess.trans (State.endHost_reset_sess s)⟩
  case fans =>
    have row : exec .fanHoldEnd s = .next s.fanTakeover := by
      show execFanHoldEnd s = _
      unfold execFanHoldEnd
      rw [held]
      exact go_if passed
    exact .of_next row (execFanHoldEnd_keeps s) (State.fanTakeover_facts s)
  case idle =>
    have row : exec .sidebandDraftIdle s = .next ((s.setDraft none).count 0x0864) := by
      show execSidebandDraftIdle s = _
      unfold execSidebandDraftIdle
      rw [draft]
      exact go_if (by rw [owner, idle, decide_eq_true late]; rfl)
    exact .of_next row (execSidebandDraftIdle_keeps s) ⟨rfl, (State.count_counted 0x0864 (s.setDraft none)).after rfl⟩

end Sys2Proof.Machine
end

section
/-!
BAR 2 accesses of the Basin (O30).
-/

namespace Sys2Proof.Machine

namespace State

variable {s : State} {off len line : Nat} {data : Bytes}

/-- The state in which an access to an awake Basin is served: its traffic is noted if it touches a memory (R68). -/
def served (off len : Nat) (s : State) : State := if s.touchesBasin off len then s.basinTraffic else s

theorem served_cases (off len : Nat) (s : State) : s.served off len = s ∨ s.served off len = s.basinTraffic := by
  unfold served
  split
  · exact .inr rfl
  · exact .inl rfl

theorem served_eq (off len : Nat) (s : State) : s.served off len = { s with basin := (s.served off len).basin } := by
  rcases served_cases off len s with h | h <;> rw [h]
  rfl

theorem served_basin (off len : Nat) (s : State) :
    (s.served off len).basin.mem = s.basin.mem ∧ (s.served off len).basin.poison = s.basin.poison := by
  rcases served_cases off len s with h | h <;> rw [h] <;> exact ⟨rfl, rfl⟩

theorem served_placeOf (off len l : Nat) (s : State) : (s.served off len).placeOf l = s.placeOf l := by
  rcases served_cases off len s with h | h <;> rw [h]
  rfl

theorem served_hitsSeal (off len : Nat) (s : State) : (s.served off len).hitsSeal off len = s.hitsSeal off len := by
  rcases served_cases off len s with h | h <;> rw [h]
  rfl

theorem served_keeps (off len : Nat) (s : State) : Keeps [.basin] s (s.served off len) := by
  rcases served_cases off len s with h | h <;> rw [h]
  · exact Keeps.refl ..
  · exact basinTraffic_keeps s

theorem startBasin_awake (awake : s.basin.awake = .awake) : s.startBasin = s.basinTraffic := if_pos (by rw [awake]; rfl)

theorem bar2Access_awake (awake : s.basin.awake = .awake) (d : Option Bytes) (errs : List LineErr) :
    s.bar2Access off d len errs =
      d.elim ((s.served off len).bar2Fetch off len errs) (fun bs => (s.served off len).bar2Store off bs errs) := by
  unfold bar2Access served
  extract_lets serve t
  have traffic : t = s.basinTraffic := startBasin_awake awake
  have serves : ∀ u, serve u = d.elim (u.bar2Fetch off len errs) (fun bs => u.bar2Store off bs errs) := by
    intro u
    cases d <;> rfl
  by_cases touches : s.touchesBasin off len = true
  · rw [touches, traffic, ← serves]
    exact if_pos awake
  · rw [if_neg touches, ← serves]
    exact if_pos (by simpa using touches)

theorem readLine_poisoned (poisoned : line ∈ s.basin.poison) : readLine line ([], s) = (true, [], s) := if_pos (by simpa using poisoned)

theorem readLine_clean (clean : line ∉ s.basin.poison) : readLine line ([], s) = (false, [], s) := if_neg (by simpa using clean)

/-- A write of bytes within one line that the memories serve (R424, R430, R440). -/
theorem bar2Store_line (some_ : data ≠ []) (within : off % 64 + data.length ≤ 64) (place : s.placeOf (off / 64 * 64) = .store)
    (unsealed : s.hitsSeal off data.length = false) : s.bar2Store off data [] =
      if data.length = 64 then
        { s with basin := { s.basin with mem := Mem.write 0 s.basin.mem off data, poison := s.basin.poison.filter (fun l => l ≠ off / 64 * 64) } }
      else if off / 64 * 64 ∈ s.basin.poison then s.count 0x0706
      else { s with basin := { s.basin with mem := Mem.write 0 s.basin.mem off data } } := by
  have long : 0 < data.length := List.length_pos_of_ne_nil some_
  have low : max off (off / 64 * 64) = off := by omega
  have high : min (off + data.length) (off / 64 * 64 + 64) = off + data.length := by omega
  have part : (data.drop (off - off)).take data.length = data := by rw [Nat.sub_self, List.drop_zero, List.take_length]
  unfold bar2Store
  rw [if_neg (by rw [unsealed]; decide), linesOf_one long within]
  simp only [List.foldl_cons, List.foldl_nil]
  unfold storeLine
  simp only [place, low, high, Nat.add_sub_cancel_left, part]
  have store : ¬(decide (Place.store = .staging) && s.basin.stagingClosed) = true := Bool.false_ne_true
  rw [if_neg store]
  by_cases whole : data.length = 64
  · have aligned : off / 64 * 64 = off := by omega
    rw [if_pos whole, if_pos whole, aligned]
    rfl
  · rw [if_neg whole, if_neg whole]
    by_cases poisoned : off / 64 * 64 ∈ s.basin.poison
    · rw [if_pos poisoned, readLine_poisoned poisoned]
      rfl
    · rw [if_neg poisoned, readLine_clean poisoned]
      rfl

end State

/-- A BAR 2 write that an awake Basin serves. -/
theorem exec_bar2Write {s : State} {off : Nat} {data : Bytes} (errs : List LineErr) (up : s.barUp = true) (power : s.stage0Pg = true)
    (normal : s.recovering 2 = false) (awake : s.basin.awake = .awake) (some_ : data ≠ []) :
    exec (.bar2Write off data errs) s = .next ((s.served off data.length).bar2Store off data errs) := by
  refine Eq.trans ?_ (congrArg Host.Outcome.next (State.bar2Access_awake awake (some data) errs))
  show execBar2Write off data errs s = _
  unfold execBar2Write
  rw [if_neg (by rw [up, decide_eq_false some_]; decide), if_neg (by rw [power, normal]; decide)]
  rfl

/-- A BAR 2 read that an awake Basin serves. -/
theorem exec_bar2Read {s : State} {off len : Nat} (errs : List LineErr) (up : s.barUp = true) (power : s.stage0Pg = true)
    (normal : s.recovering 2 = false) (awake : s.basin.awake = .awake) :
    exec (.bar2Read off len errs) s = .next ((s.served off len).bar2Fetch off len errs) := by
  refine Eq.trans ?_ (congrArg Host.Outcome.next (State.bar2Access_awake awake none errs))
  show execBar2Read off len errs s = _
  unfold execBar2Read
  rw [if_neg (by rw [up]; decide), if_neg (by rw [power, normal]; decide)]
  rfl

/-- Settles O30: an awake Basin serves the access at once, and a write within one line is a store, a drop, or an end of its poison. -/
theorem basinAccesses : Obligations.BasinAccesses := by
  refine ⟨fun s off len up power normal awake long clean => ?read, fun s off data up power normal awake some_ within place unsealed => ?line,
    fun s off data up power normal awake some_ hits => ?sealed, fun s off len data errs up power some_ => ⟨?deadWrite, ?deadRead⟩⟩
  case read =>
    obtain ⟨mem, poison⟩ := State.served_basin off len s
    have keeps : Keeps [.dev, .bus, .basin] s (s.served off len) := (Keeps.refl _ s).step (State.served_keeps off len s) (by decide)
    have bus : (s.served off len).bus = s.bus := (State.served_keeps off len s).bus (by decide)
    have fetch := State.bar2Fetch_clean (s := s.served off len) (off := off) (len := len)
      (fun l hl => ⟨by rw [State.served_placeOf]; exact (clean l hl).1, by rw [poison]; exact (clean l hl).2⟩)
    refine .of_keeps ((exec_bar2Read [] up power normal awake).trans (congrArg Host.Outcome.next fetch)) (Keeps.set_bus _ keeps (by decide) (fun i => i))
      ⟨?_, mem, poison⟩
    show ({ (s.served off len).bus with rd := _, rdPoison := false } : BusSt) = _
    rw [bus, mem]
  case line =>
    obtain ⟨mem, poison⟩ := State.served_basin off data.length s
    have row := exec_bar2Write (off := off) [] up power normal awake some_
    rw [State.bar2Store_line some_ within ((State.served_placeOf ..).trans place) ((State.served_hitsSeal ..).trans unsealed)] at row
    have keeps : Keeps [.dev, .basin] s (s.served off data.length) := (Keeps.refl _ s).step (State.served_keeps off data.length s) (by decide)
    refine ⟨fun whole => ?_, fun part clean => ?_, fun part poisoned => ?_⟩
    · rw [if_pos whole] at row
      exact .of_keeps row (Keeps.set_basin _ keeps (by decide) (fun wf => Mem.wf_write _ _ wf))
        ⟨congrArg (Mem.write 0 · off data) mem, congrArg (List.filter _) poison⟩
    · rw [if_neg part, if_neg (by rw [poison]; exact clean)] at row
      exact .of_keeps row (Keeps.set_basin _ keeps (by decide) (fun wf => Mem.wf_write _ _ wf)) ⟨congrArg (Mem.write 0 · off data) mem, poison⟩
    · rw [if_neg part, if_pos (by rw [poison]; exact poisoned)] at row
      refine .of_keeps row ((Keeps.refl _ s).step (State.served_keeps off data.length s) (by decide) |>.step (State.count_keeps ..) (by decide))
        ⟨mem, poison, (State.count_counted ..).after ?_⟩
      rw [State.served_eq]
  case sealed =>
    have row := exec_bar2Write (off := off) [] up power normal awake some_
    have drops : (s.served off data.length).bar2Store off data [] = (s.served off data.length).count 0x070D :=
      if_pos ((State.served_hitsSeal ..).trans hits)
    rw [drops] at row
    refine .of_keeps row ((Keeps.refl _ s).step (State.served_keeps off data.length s) (by decide) |>.step (State.count_keeps ..) (by decide))
      ⟨(State.served_basin off data.length s).1, (State.count_counted ..).after ?_⟩
    rw [State.served_eq]
  case deadWrite =>
    have row : exec (.bar2Write off data errs) s = .next (s.count 0x0002) :=
      go_else_if (by rw [up, decide_eq_false some_]; decide) (by rw [power]; rfl)
    exact .of_keeps row (State.count_keeps ..) (State.count_counted ..)
  case deadRead =>
    refine .of_keeps (go_else_if (by rw [up]; decide) (by rw [power]; rfl)) (Keeps.set_bus _ (Keeps.refl _ s) (by decide) (fun i => i)) rfl

end Sys2Proof.Machine
end

section
/-!
BAR 4 writes to record areas and notebooks (O31).
-/

namespace Sys2Proof.Machine

namespace State

variable {s : State} {a : Fin 64} {i : Fin 8} {off page : Nat} {data : Bytes}

/-- A write to bytes of BAR 4. -/
def bar4Put (addr : Nat) (data : Bytes) (s : State) : State := { s with chk := { s.chk with bar4 := Mem.write 0 s.chk.bar4 addr data } }

theorem bar4Put_keeps (addr : Nat) (data : Bytes) (s : State) : Keeps [.chk] s (s.bar4Put addr data) :=
  Keeps.set_chk _ (Keeps.refl _ _) (by decide) (Mem.wf_write _ _)

theorem bar4Access_full (f : State → State) (up : s.barUp = true) (full : s.isFull = true) : s.bar4Access f = f s := by
  unfold bar4Access
  rw [if_neg (by rw [up]; decide), if_neg (by rw [full]; decide)]

/-! ### Record areas (R399, R400) -/

/-- An area that takes no write: its check is due or runs. -/
def areaBusy (s : State) (a : Fin 64) : Prop := (s.chk.areas.get a).st = .sealed ∨ (s.chk.areas.get a).st = .checking

theorem areaWrite_record (some_ : data ≠ []) (low : 0x100 ≤ off) (high : off + data.length ≤ 0x3E0000) :
    (s.areaBusy a → s.areaWrite a off data = s.count (0x0640 + a.1 / 8)) ∧
    (¬s.areaBusy a → s.areaWrite a off data = s.bar4Put (areaBase a.1 + off) data) := by
  have long : 0 < data.length := List.length_pos_of_ne_nil some_
  have noResult : ¬max 8 off < min 0x100 (off + data.length) := by omega
  have noSeal : ¬max 0 off < min 8 (off + data.length) := by omega
  have record : off < off + data.length := by omega
  have noNotebook : ¬max 0x3E0000 off < min 0x400000 (off + data.length) := by omega
  have start : max 0x100 off = off := by omega
  have stop : min 0x3E0000 (off + data.length) = off + data.length := by omega
  unfold areaBusy areaWrite
  have part : (data.drop (off - off)).take (off + data.length - off) = data := by
    rw [Nat.sub_self, List.drop_zero, Nat.add_sub_cancel_left, List.take_length]
  have past : (decide (off = 0) && decide (8 ≤ data.length) && decide (leNat (data.take 2) = 0x5EA1)) = false := by
    rw [decide_eq_false (by omega : ¬off = 0)]
    rfl
  simp only [noResult, noSeal, record, noNotebook, decide_false, decide_true, Bool.false_eq_true, if_false, if_true, start, stop, part, past,
    Bool.false_or, Bool.or_eq_true, decide_eq_true_eq]
  exact ⟨fun busy => if_pos busy, fun free => if_neg free⟩

/-- The seal word written to an area that takes writes (R399). -/
theorem areaWrite_seal (free : ¬s.areaBusy a) (start : off = 0) (length : data.length = 8) (word : leNat (data.take 2) = 0x5EA1) :
    s.areaWrite a off data = (s.bar4Put (areaBase a.1 + off) data).sealArea a := by
  have noResult : ¬max 8 off < min 0x100 (off + data.length) := by omega
  have noRecord : ¬max 0x100 off < min 0x3E0000 (off + data.length) := by omega
  have noNotebook : ¬max 0x3E0000 off < min 0x400000 (off + data.length) := by omega
  have low : max 0 off = off := by omega
  have stop : min 8 (off + data.length) = off + data.length := by omega
  have hit : off < off + data.length := by omega
  have part : (data.drop (off - off)).take (off + data.length - off) = data := by
    rw [Nat.sub_self, List.drop_zero, Nat.add_sub_cancel_left, List.take_length]
  have seals : (decide (off = 0) && decide (8 ≤ data.length) && decide (leNat (data.take 2) = 0x5EA1)) = true := by
    rw [decide_eq_true start, decide_eq_true (by omega : 8 ≤ data.length), decide_eq_true word]
    rfl
  unfold areaBusy at free
  unfold areaWrite
  simp only [noResult, noRecord, noNotebook, decide_false, Bool.false_eq_true, if_false, low, stop, hit, if_true, part, seals, Bool.or_eq_true,
    decide_eq_true_eq, free]
  rfl

theorem sealArea_areas (b : Fin 64) : (s.sealArea a).chk.areas.get b =
    if b = a then { st := .sealed, sealTick := s.ct, mapChanged := false, res := none } else s.chk.areas.get b :=
  Vec.get_upd s.chk.areas a b (fun _ => { st := .sealed, sealTick := s.ct, mapChanged := false, res := none })

/-! ### Notebooks (R505, R506) -/

/-- GEN after a write of it. -/
theorem nbGen_put {n : Nat} (small : n < 2 ^ 32) : (s.bar4Put (nbAddr i 0 8) (natLE 4 n)).nbGen i = n := by
  have length : (natLE 4 n).length = 4 := rfl
  have stored : Mem.read 0 (Mem.write 0 s.chk.bar4 (nbAddr i 0 8) (natLE 4 n)) (nbAddr i 0 8) 4 = natLE 4 n := Mem.read_write ..
  unfold nbGen nbNum Mem.num
  exact (congrArg leNat stored).trans (leNat_natLE (by omega))

/-- GEN after a write to a later page. -/
theorem nbGen_put_page (later : 0 < page) : (s.bar4Put (nbAddr i page off) data).nbGen i = s.nbGen i := by
  unfold nbGen nbNum Mem.num
  refine congrArg leNat (Mem.read_write_apart (.inl ?_))
  unfold nbAddr
  omega

theorem nbOpen_facts : (s.nbOpen i).chk = s.chk ∧ (s.nbOpen i).slot i = { s.slot i with nbValid := false, streak := 0 } ∧
    ∀ j, j ≠ i → (s.nbOpen i).slot j = s.slot j := by
  have slots : (s.nbOpen i).slots = (s.updSlot i (fun x => { x with nbValid := false, streak := 0 })).slots := (cancelLull_keeps ..).slots (by decide)
  refine ⟨(nbOpen_keeps i s).chk (by decide), (slot_of_slots slots).trans ?_, fun j other => (slot_of_slots slots).trans ?_⟩
  · rw [updSlot_slot, if_pos rfl]
  · rw [updSlot_slot, if_neg other]

theorem nbCheck_congr {t : State} (chk : t.chk = s.chk) : t.nbCheck i = s.nbCheck i := by
  unfold nbCheck nbPeriod nbLulls nbManifest nbCycleSteps nbReadPages nbRead nbNum
  rw [chk]

theorem nbClose_facts : (s.nbClose i).chk = s.chk ∧ (s.nbClose i).slot i = { s.slot i with nbValid := s.nbCheck i } ∧
    (s.nbCheck i = true → (s.nbClose i).ctr = s.ctr) ∧ (s.nbCheck i = false → Counted (0x07A8 + i.1) s (s.nbClose i)) := by
  unfold nbClose
  cases valid : s.nbCheck i
  · refine ⟨rfl, ?_, fun h => (Bool.false_ne_true h).elim, fun _ => (count_counted ..).after rfl⟩
    exact (updSlot_slot (s := s) (i := i) (j := i) _).trans (if_pos rfl)
  · refine ⟨rfl, ?_, fun _ => rfl, fun h => (Bool.false_ne_true h.symm).elim⟩
    exact (updSlot_slot (s := s) (i := i) (j := i) _).trans (if_pos rfl)

/-- A write of 0 to GEN, whatever stood there. -/
theorem nbWrite_open : s.nbWrite i 0 8 (zeros 4) = (s.bar4Put (nbAddr i 0 8) (zeros 4)).nbOpen i := by
  have zero : (s.bar4Put (nbAddr i 0 8) (zeros 4)).nbGen i = 0 := nbGen_put (n := 0) (by decide)
  unfold nbWrite
  extract_lets bytes store t
  have stored : store s = s.bar4Put (nbAddr i 0 8) (zeros 4) := rfl
  rw [if_neg (by decide), if_neg (by decide), if_neg (by decide)]
  by_cases closed : s.nbGen i ≠ 0
  · rw [if_pos closed, if_pos (by decide), stored]
  · rw [if_neg closed]
    have put : t = s.bar4Put (nbAddr i 0 8) (zeros 4) := stored
    rw [if_pos (by decide), put, if_pos zero]

/-- A write of a GEN other than 0 to an open notebook. -/
theorem nbWrite_close {n : Nat} (small : n < 2 ^ 32) (opened : s.nbGen i = 0) (closes : n ≠ 0) :
    s.nbWrite i 0 8 (natLE 4 n) = (s.bar4Put (nbAddr i 0 8) (natLE 4 n)).nbClose i := by
  have gen : (s.bar4Put (nbAddr i 0 8) (natLE 4 n)).nbGen i = n := nbGen_put small
  unfold nbWrite
  extract_lets bytes store t
  have stored : store s = s.bar4Put (nbAddr i 0 8) (natLE 4 n) := rfl
  have some_ : bytes ≠ [] := List.cons_ne_nil _ _
  rw [if_neg some_, if_neg (by decide), if_neg (by decide), if_neg (not_not.mpr opened)]
  have put : t = s.bar4Put (nbAddr i 0 8) (natLE 4 n) := stored
  have whole : (decide (0 = 0) && decide (8 ≤ 8) && decide (12 ≤ 8 + bytes.length)) = true := rfl
  rw [if_pos whole, put, gen, if_neg closes]

/-- A write to a page of 1 to 5. -/
theorem nbWrite_page (some_ : data ≠ []) (within : off + data.length ≤ 131072) (low : page ≠ 0) (high : page < 6) :
    (s.nbGen i = 0 → s.nbWrite i page off data = s.bar4Put (nbAddr i page off) data) ∧
    (s.nbGen i ≠ 0 → s.nbWrite i page off data = s.nbDrop i) := by
  have part : data.take (131072 - off) = data := List.take_of_length_le (by omega)
  have same : (s.bar4Put (nbAddr i page off) data).nbGen i = s.nbGen i := nbGen_put_page (by omega)
  unfold nbWrite
  extract_lets bytes store t
  have whole : bytes = data := part
  have stored : store s = s.bar4Put (nbAddr i page off) data := congrArg (fun d => s.bar4Put (nbAddr i page off) d) part
  rw [whole, if_neg some_, if_neg (by omega), if_neg (by omega)]
  refine ⟨fun opened => ?_, fun closed => ?_⟩
  · rw [if_neg (not_not.mpr opened)]
    have put : t = s.bar4Put (nbAddr i page off) data := stored
    rw [if_neg (by simp [low]), put, same, if_neg (not_not.mpr opened)]
  · rw [if_pos closed, if_neg (by simp [low])]

end State

/-- Settles O31: each row is one write of the intake, which stores, drops, seals, opens or closes. -/
theorem notebookAndAreaWrites : Obligations.NotebookAndAreaWrites := by
  refine ⟨fun s a off data up full some_ low high => ?record, fun s a data up full length word free => ?seals,
    fun s i up full => ?opens, fun s i gen up full opened closes => ?closes, fun s i page off data up full some_ within high low => ?page⟩
  case record =>
    have long : 0 < data.length := List.length_pos_of_ne_nil some_
    have row : exec (.bar4RecordWrite a off data) s = .next (s.areaWrite a off data) :=
      (go_else (by rw [decide_eq_false some_, decide_eq_false (by omega : ¬0x400000 ≤ off)]; decide)).trans
        (congrArg Host.Outcome.next (State.bar4Access_full _ up full))
    obtain ⟨drops, stores⟩ := State.areaWrite_record (s := s) (a := a) some_ low high
    refine ⟨fun free => ?_, fun busy => ?_⟩
    · rw [stores (by rcases free with h | h <;> simp [State.areaBusy, h])] at row
      exact .of_keeps row (State.bar4Put_keeps ..) rfl
    · rw [drops busy] at row
      exact .of_keeps row (State.count_keeps ..) (State.count_counted ..)
  case seals =>
    have some_ : data ≠ [] := fun h => by rw [h] at length; cases length
    have row : exec (.bar4SealWrite a data) s = .next (s.areaWrite a 0 data) :=
      (go_else some_).trans (congrArg Host.Outcome.next (State.bar4Access_full _ up full))
    rw [State.areaWrite_seal (by rcases free with h | h <;> simp [State.areaBusy, h]) rfl length word] at row
    refine .of_keeps row ((State.bar4Put_keeps ..).step (State.sealArea_keeps ..) (by decide)) ⟨?_, fun b other => ?_⟩
    · exact (State.sealArea_areas a).trans (if_pos rfl)
    · exact (State.sealArea_areas b).trans (if_neg other)
  case opens =>
    have row : exec (.notebookOpen i) s = .next (s.nbWrite i 0 8 (zeros 4)) := congrArg Host.Outcome.next (State.bar4Access_full _ up full)
    rw [State.nbWrite_open] at row
    obtain ⟨chk, self, others⟩ := State.nbOpen_facts (s := s.bar4Put (State.nbAddr i 0 8) (zeros 4)) (i := i)
    exact .of_keeps row ((Keeps.refl _ s).step (State.bar4Put_keeps ..) (by decide) |>.step (State.nbOpen_keeps ..) (by decide)) ⟨chk, self, others⟩
  case closes =>
    have row : exec (.notebookGenWrite i gen) s = .next (s.nbWrite i 0 8 (natLE 4 gen.toNat)) :=
      congrArg Host.Outcome.next (State.bar4Access_full _ up full)
    rw [State.nbWrite_close gen.isLt opened (fun h => closes (BitVec.eq_of_toNat_eq h))] at row
    obtain ⟨chk, self, valid, bad⟩ := State.nbClose_facts (s := s.bar4Put (State.nbAddr i 0 8) (natLE 4 gen.toNat)) (i := i)
    rw [← State.nbCheck_congr chk] at self valid bad
    exact .of_keeps row ((Keeps.refl _ s).step (State.bar4Put_keeps ..) (by decide) |>.step (State.nbClose_keeps ..) (by decide)) ⟨chk, self, valid, bad⟩
  case page =>
    have long : 0 < data.length := List.length_pos_of_ne_nil some_
    have row : exec (.notebookWrite i page off data) s = .next (s.nbWrite i page.1 off data) :=
      (go_else (by omega)).trans (congrArg Host.Outcome.next (State.bar4Access_full _ up full))
    obtain ⟨stores, drops⟩ := State.nbWrite_page (s := s) (i := i) some_ within low high
    refine ⟨fun opened => ?_, fun closed => ?_⟩
    · rw [stores opened] at row
      exact .of_keeps row (State.bar4Put_keeps ..) rfl
    · rw [drops closed] at row
      exact .of_keeps row (State.count_keeps ..) (State.count_counted ..)

end Sys2Proof.Machine
end

section
/-!
From standby power to the armed protections (O32).
-/

namespace Sys2Proof.Machine

namespace State

variable {s : State}

/-! ### Power-on reset and brown-out (R50, R587, R599) -/

/-- The state a power-on reset leaves before its cause is counted. -/
theorem powerOn_counts (b : Nat) (lost restart : Bool) (s : State) : ∃ t : State,
    s.powerOn b lost restart = (if restart then (t.notice (0x0830 + b)).count 0x0839 else t.notice (0x0830 + b)) ∧
    t.dev = State.reset.dev ∧ t.sess = State.reset.sess ∧ t.cfg = State.reset.cfg ∧ t.slots = State.reset.slots ∧ t.basin = State.reset.basin ∧
    t.chk = State.reset.chk ∧ t.boot = { State.reset.boot with flash := s.boot.flash, keys := s.boot.keys } ∧
    t.rst.cause = BitVec.ofNat 16 (2 ^ b) ∧ t.rst.last = b ∧ t.ctr.vals = [] :=
  ⟨_, rfl, rfl, rfl, rfl, rfl, rfl, rfl, rfl, rfl, rfl, rfl⟩

/-- What a power-on reset leaves, with the counter of its cause (R587, R599). -/
theorem powerOn_facts {b : Nat} (low : b < 9) (lost restart : Bool) (s : State) :
    (s.powerOn b lost restart).dev = State.reset.dev ∧ (s.powerOn b lost restart).sess = State.reset.sess ∧
    (s.powerOn b lost restart).cfg = State.reset.cfg ∧ (s.powerOn b lost restart).slots = State.reset.slots ∧
    (s.powerOn b lost restart).basin = State.reset.basin ∧ (s.powerOn b lost restart).chk = State.reset.chk ∧
    (s.powerOn b lost restart).boot = { State.reset.boot with flash := s.boot.flash, keys := s.boot.keys } ∧
    (s.powerOn b lost restart).rst.cause = BitVec.ofNat 16 (2 ^ b) ∧ (s.powerOn b lost restart).rst.last = b ∧
    (s.powerOn b lost restart).ctrVal (0x0830 + b) = 1 := by
  obtain ⟨t, eq, dev, sess, cfg, slots, basin, chk, boot, cause, last, vals⟩ := powerOn_counts b lost restart s
  have notice := notice_keeps (0x0830 + b) t
  have keeps : Keeps [.integ, .ctr] t (s.powerOn b lost restart) := by
    rw [eq]
    split
    · exact ((Keeps.refl _ t).step notice (by decide)).step (count_keeps ..) (by decide)
    · exact (Keeps.refl _ t).step notice (by decide)
  have noticed : (t.notice (0x0830 + b)).ctrVal (0x0830 + b) = 1 := by
    have zero : t.ctrVal (0x0830 + b) = 0 := by
      unfold ctrVal
      rw [vals]
      rfl
    have counted := notice_counted (0x0830 + b) t
    unfold Counted at counted
    rw [counted, zero]
    rfl
  have counted : (s.powerOn b lost restart).ctrVal (0x0830 + b) = 1 := by
    rw [eq]
    split
    · rw [count_ctrVal_ne _ (by omega), noticed]
    · exact noticed
  have rst := keeps.rst (by decide)
  exact ⟨(keeps.dev (by decide)).trans dev, (keeps.sess (by decide)).trans sess, (keeps.cfg (by decide)).trans cfg, (keeps.slots (by decide)).trans slots,
    (keeps.basin (by decide)).trans basin, (keeps.chk (by decide)).trans chk, (keeps.boot (by decide)).trans boot, (congrArg RstSt.cause rst).trans cause,
    (congrArg RstSt.last rst).trans last, counted⟩

/-! ### The protections (R57, R58) -/

/-- An output as a spin-up starts it. -/
def spunUp (s : State) (x : OutSt) : OutSt :=
  { x with drive := .spinUp, attempts := 1, attemptStart := s.lt, pause := false, late := false, slow := false, duty := 100000 }

theorem spinUp_output (o p : Fin 20) (t : State) : (t.spinUp o).output p = if p = o then t.spunUp (t.output o) else t.output p := by
  refine (Vec.get_upd ..).trans ?_
  by_cases same : p = o
  · rw [if_pos same, if_pos same, same]
    rfl
  · rw [if_neg same, if_neg same]
    rfl

theorem arm_facts (unarmed : s.dev.armed = false) : s.arm.dev = { s.dev with armed := true } ∧
    ∀ o, (s.arm.output o).drive = .spinUp ∧ (s.arm.output o).duty = 100000 := by
  unfold arm
  rw [if_neg (by rw [unarmed]; decide)]
  set t : State := { s with dev := { s.dev with armed := true } } with ht
  obtain ⟨dev, entry⟩ := foldl_entry (fun u : State => u.output) (fun u o => u.spinUp o) (fun _ => t.spunUp) (fun u => u.dev = t.dev)
    (fun u o dev => ⟨dev, fun p => by rw [spinUp_output, show u.spunUp = t.spunUp by unfold spunUp lt; rw [dev]]⟩) (List.finRange 20) (List.nodup_finRange 20) t rfl
  refine ⟨dev, fun o => ?_⟩
  rw [entry o, if_pos (List.mem_finRange o)]
  exact ⟨rfl, rfl⟩

/-! ### Option loading and the reference (R57, R596, R598) -/

/-- The device with its option block. -/
def optioned (o : OptionBlock) (src clk : BitVec 2) (s : State) : State :=
  { s with dev := { s.dev with st := .calm, phase := .optionLoaded, opt := o, bootSrc := src, clkMode := clk } }

theorem optioned_keeps (o : OptionBlock) (src clk : BitVec 2) (s : State) : Keeps [.dev] s (s.optioned o src clk) :=
  Keeps.set_dev _ (Keeps.refl _ s) (by decide)

theorem optionsDone_good (o : OptionBlock) (src clk : BitVec 2) (s : State) :
    s.optionsDone true o src clk = if clk = 3 then (s.optioned o src clk).count 0x0809 else s.optioned o src clk := rfl

/-- The device whose reference was checked. -/
def referenced (ok : Bool) (s : State) : State := { s with dev := { s.dev with phase := .refChecked, clkDegraded := !ok } }

theorem startPll_stopped {p : Pll} (stopped : s.pll p = .stopped) : s.startPll p = s.setPll p .starting := by
  unfold startPll
  rw [stopped]

end State

/-- Settles O32: a power-on reset is the reset state with its cause noted; the later rows change the device, or drive every output. -/
theorem powerUpAndOptions : Obligations.PowerUpAndOptions := by
  refine ⟨fun s vbat => ?powerOn, fun s vbat powered => ⟨?dip, ?deep⟩, fun s o src clk loading => ⟨?good, ?bad⟩, fun s fault => ?retry,
    fun s ok loaded stopped => ?reference, fun s low options stretch time => ?release, fun s options unarmed => ?arm⟩
  case powerOn =>
    obtain ⟨dev, sess, cfg, slots, basin, chk, boot, cause, last, count⟩ := State.powerOn_facts (b := 0) (by decide) (!vbat || (s.dev.phase = .unpowered && s.rst.vbatLost))
      (s.dev.phase = .optionLoading || s.dev.phase = .optionFault) s
    exact .of_next rfl (execPowerOnReset_keeps vbat s) ⟨dev, sess, cfg, slots, basin, chk, boot, cause, last, count⟩
  case dip =>
    obtain ⟨dev, _, cfg, _, _, _, boot, cause, last, count⟩ := State.powerOn_facts (b := 1) (by decide) (!vbat)
      (s.dev.phase = .optionLoading || s.dev.phase = .optionFault) s
    exact .of_next (go_else powered) (execBrownOut_keeps false vbat s) ⟨dev, cfg, boot, cause, last, count⟩
  case deep =>
    obtain ⟨_, _, _, _, _, _, boot, _⟩ := State.powerOn_facts (b := 1) (by decide) (!vbat) false s
    exact .of_next (go_else_if powered rfl) (execBrownOut_keeps true vbat s) ⟨rfl, rfl, (congrArg BootSt.flash boot :), (congrArg BootSt.keys boot :), rfl⟩
  case good =>
    have row : exec (.optionLoadingDone true o src clk) s = .next _ := (go_if loading).trans (congrArg Host.Outcome.next (State.optionsDone_good o src clk s))
    by_cases free : clk = 3
    · rw [if_pos free] at row
      exact .of_keeps row ((Keeps.refl _ s).step (State.optioned_keeps ..) (by decide) |>.step (State.count_keeps ..) (by decide))
        ⟨rfl, fun _ => (State.count_counted ..).after rfl⟩
    · rw [if_neg free] at row
      exact .of_keeps row ((Keeps.refl _ s).step (State.optioned_keeps ..) (by decide)) ⟨rfl, fun h => absurd h free⟩
  case bad => exact .of_keeps (go_if loading) (Keeps.set_dev_cool _ _ (Keeps.refl _ s) (by decide)) ⟨rfl, fun n => Vec.get_mapIdx ..⟩
  case retry => exact .of_next (go_if fault) (execOptionFaultRetry_keeps s) rfl
  case reference =>
    have row : exec (.referenceCheck ok) s = .next ((s.referenced ok).setPll .keeper .starting) :=
      (go_if loaded).trans (congrArg Host.Outcome.next (State.startPll_stopped (s := s.referenced ok) stopped))
    exact .of_next row (execReferenceCheck_keeps ok s) ⟨rfl, rfl, Vec.get_upd_self ..⟩
  case release =>
    have due : (s.dev.rstLow && s.optionsIn && s.rst.stretch.isNone && decide (s.rst.rstSince + 1000 ≤ s.lt)) = true := by
      rw [low, options, stretch, decide_eq_true time]
      rfl
    exact .of_keeps (go_if due) (Keeps.set_dev _ (Keeps.refl _ s) (by decide)) rfl
  case arm => exact .of_next (go_if options) (execProtectionsArmed_keeps s) (State.arm_facts unarmed)

end Sys2Proof.Machine
end

section
/-!
PLLs, the reference, Calm and its wake events (O36).
-/

namespace Sys2Proof.Machine

namespace State

variable {s t : State} {p q : Pll}

/-! ### PLLs (R64, R65) -/

theorem pllIdx_ne (h : q ≠ p) : pllIdx q ≠ pllIdx p := by
  revert h
  cases p <;> cases q <;> decide

theorem setPll_pll (x : PllState) : (s.setPll p x).pll q = if q = p then x else s.pll q := by
  by_cases same : q = p
  · subst same
    rw [if_pos rfl]
    exact Vec.get_upd_self ..
  · rw [if_neg same]
    exact Vec.get_upd_ne _ _ (pllIdx_ne same)

theorem pll_of_dev (dev : t.dev = s.dev) : t.pll p = s.pll p := by
  unfold pll
  rw [dev]

/-- A PLL that starts and locks. -/
theorem execPllLocked_dev (starts : s.pll p = .starting ∨ s.pll p = .restarted) :
    ∃ t, execPllLocked p s = .next t ∧ t.dev = (s.setPll p .locked).dev := by
  refine ⟨_, rfl, ?_⟩
  rcases starts with h | h <;> rw [h] <;> cases p
  case check => dsimp only; split <;> rfl
  case check => dsimp only; split <;> rfl
  all_goals rfl

/-- The second failure of a PLL that the keepers and the upper cores can do without. -/
theorem pllFails_dev (spare : p = .cadence ∨ p = .check ∨ p = .basin) : (s.pllFails p).dev = (s.setPll p .failed).dev := by
  unfold pllFails
  extract_lets u _ _ _ v seals w
  rcases spare with rfl | rfl | rfl
  · rfl
  · exact (engineFails_keeps ..).dev (by decide)
  · have engine : v.dev = u.dev := (engineFails_keeps ..).dev (by decide)
    have sealed_ : w.dev = u.dev :=
      foldl_inv (fun x : State => x.dev = u.dev) _ seals (fun x l h => ((sealFails_keeps l x).dev (by decide)).trans h) v engine
    exact foldl_inv (fun x : State => x.dev = u.dev) _ _ (fun x p h => ((finish_keeps p .failed [] x).dev (by decide)).trans h) w sealed_

/-- The second failure of the keepers' PLL or the upper cores' is a clock failure. -/
theorem pllFails_vital (vital : p = .keeper ∨ p = .upper) (healthy : s.dev.clkDegraded = false) :
    s.pllFails p = (s.setPll p .failed).systemReset 6 := by
  have reset : (s.setPll p .failed).clockFailure = (s.setPll p .failed).systemReset 6 := if_neg (by
    show ¬s.dev.clkDegraded = true
    rw [healthy]
    decide)
  rcases vital with rfl | rfl <;> exact reset

theorem execPllLockTimeout_second (restarted : s.pll p = .restarted) : exec (.pllLockTimeout p) s = .next ((s.count 0x080A).pllFails p) := by
  show execPllLockTimeout p s = _
  unfold execPllLockTimeout
  rw [restarted]
  rfl

/-! ### Calm (R50 to R56, R63) -/

theorem wakeUp_inCalm (calm : s.dev.phase = .inCalm) : s.wakeUp = { s with dev := { s.dev with phase := .resuming, wake := true } } := by
  unfold wakeUp
  rw [calm]

end State

/-- Settles O36: a PLL's state is one entry of the device, its second failure a clock failure or the end of what waits; Calm is a change of phase. -/
theorem clocksAndCalm : Obligations.ClocksAndCalm := by
  refine ⟨fun s p starts => ?locked, fun s p starting => ?first, fun s p restarted => ⟨fun spare => ?second, fun vital resettable healthy => ?failure⟩,
    fun s => ?recovered, fun s entering => ?reached, fun s calm => ⟨fun set due => ?alarm, fun low => ?perst, fun addressed => ?transfer⟩, fun s resuming => ?resume⟩
  case locked =>
    obtain ⟨t, row, dev⟩ := State.execPllLocked_dev starts
    refine .of_next row (execPllLocked_keeps p s) ⟨?_, fun q other => ?_⟩
    · rw [State.pll_of_dev dev, State.setPll_pll, if_pos rfl]
    · rw [State.pll_of_dev dev, State.setPll_pll, if_neg other]
  case first =>
    have row : exec (.pllLockTimeout p) s = .next ((s.setPll p .restarted).count 0x080A) := by
      show execPllLockTimeout p s = _
      unfold execPllLockTimeout
      rw [starting]
      rfl
    refine .of_keeps row ((Keeps.refl _ s).step (State.setPll_keeps ..) (by decide) |>.step (State.count_keeps ..) (by decide))
      ⟨(State.setPll_pll _).trans (if_pos rfl), fun q other => (State.setPll_pll _).trans (if_neg other), (State.count_counted ..).after rfl⟩
  case second =>
    refine .of_next (State.execPllLockTimeout_second restarted) (execPllLockTimeout_keeps p s) ?_
    rw [State.pll_of_dev (State.pllFails_dev spare), State.setPll_pll, if_pos rfl]
  case failure =>
    refine .of_next (State.execPllLockTimeout_second restarted) (execPllLockTimeout_keeps p s) ?_
    rw [State.pllFails_vital (s := s.count 0x080A) vital healthy]
    exact State.systemReset_taken 6 resettable
  case recovered => exact .of_next rfl (execClockRecovered_keeps s) rfl
  case reached => exact .of_next (go_if entering) (execCalmReached_keeps s) ⟨rfl, rfl, rfl⟩
  case alarm =>
    refine .of_next (go_if (by rw [decide_eq_true set, decide_eq_true due]; rfl)) (execRtcAlarm_keeps s) ?_
    rw [State.wakeUp_inCalm calm]
  case perst =>
    refine .of_next (go_if low) (execPerstRelease_keeps s) ?_
    rw [State.wakeUp_inCalm (s := { s with bus := { s.bus with perst := false, link := true } }) calm]
    exact ⟨rfl, rfl⟩
  case transfer =>
    refine .of_next (go_if (by rw [addressed, calm]; rfl)) (execSidebandWakeTransfer_keeps s) ?_
    rw [State.wakeUp_inCalm (s := s.send .i3cNack) calm]
    exact ⟨rfl, rfl⟩
  case resume =>
    refine .of_next (go_if resuming) (execKeeperResume_keeps s) ⟨rfl, rfl, rfl, ?_, Vec.get_upd_self .., fun k => Vec.get_mapIdx ..⟩
    show s.nowTick = _
    unfold State.nowTick
    rw [resuming]

end Sys2Proof.Machine
end

section
/-!
The ROM, the keeper image, and CONFIRM (O35).
-/

namespace Sys2Proof.Machine

namespace State

variable {s t : State}

/-! ### What the ROM reads depends on the flash and the keys alone (R521, R523, R530) -/

section
variable (flash : t.boot.flash = s.boot.flash)
include flash

theorem flashNum_congr : t.flashNum = s.flashNum := congrArg (fun m a k => Mem.num 0xFF m a k) flash
theorem flashRead_congr : t.flashRead = s.flashRead := congrArg (fun m a k => Mem.read 0xFF m a k) flash

theorem setDir_congr : t.setDir = s.setDir := by
  funext a
  unfold setDir
  rw [flashNum_congr flash, flashRead_congr flash]

theorem setCrcOk_congr : t.setCrcOk = s.setCrcOk := by
  funext a
  unfold setCrcOk
  rw [flashNum_congr flash, flashRead_congr flash]

theorem fwValid_congr : t.fwValid = s.fwValid := by
  funext n
  unfold fwValid bankFormOk setCount fwSeq rejectWord
  rw [flashNum_congr flash, flashRead_congr flash, setDir_congr flash, setCrcOk_congr flash]

theorem candidates_congr : t.candidates = s.candidates := by
  unfold candidates fwSeq
  rw [flashNum_congr flash, fwValid_congr flash]

theorem confirmed_congr (n : Nat) : t.confirmed n = s.confirmed n := by
  unfold confirmed
  rw [flashNum_congr flash]

theorem stagingVerified_congr : t.stagingVerified = s.stagingVerified := by
  unfold stagingVerified setCount
  rw [flashNum_congr flash, flashRead_congr flash, setDir_congr flash, setCrcOk_congr flash]

theorem keeperImage_congr (n : Nat) : t.keeperImage n = s.keeperImage n := by
  unfold keeperImage setEntry setImage
  rw [setDir_congr flash, flashRead_congr flash]

end

theorem keeperBad'_congr (keys : t.boot.keys = s.boot.keys) (img : Bytes) : t.keeperBad' img = s.keeperBad' img := by
  have key : t.keyOk = s.keyOk := by
    funext h
    unfold keyOk
    rw [keys]
  unfold keeperBad'
  rw [key]

/-! ### K0 goes on running -/

theorem coreRuns_updCore (j k : Fin 8) (f : CoreSt → CoreSt) (run : ∀ c, (f c).run = c.run) (s : State) :
    (s.updCore k f).coreRuns j = s.coreRuns j := by
  unfold coreRuns updCore
  by_cases same : j = k
  · subst same
    simp only [Vec.get_upd_self, run]
  · simp only [Vec.get_upd_ne _ _ same]

theorem coreRuns_placeCore (j k : Fin 8) (body : Bytes) (s : State) : (placeCore body s k).coreRuns j = s.coreRuns j :=
  coreRuns_updCore j k _ (by intro c; rfl) s

theorem coreRuns_handOver (j : Fin 8) (bank : Option Nat) (trial : Nat) (img : Bytes) (s : State) :
    (s.handOver bank trial img).coreRuns j = s.coreRuns j :=
  calc (s.handOver bank trial img).coreRuns j
      = ((placeCore (img.drop 1024) (placeCore (img.drop 1024) s 0) 1).updCore 0 (fun c => { c with mapLocked := true })).coreRuns j := rfl
    _ = s.coreRuns j := by
      rw [coreRuns_updCore _ _ _ (by intro c; rfl), coreRuns_placeCore, coreRuns_placeCore]

/-! ### The ROM's steps -/

/-- The ROM's first acts count the reset, release K0, and leave the device, the flash and the keys (R517, R536). -/
theorem romStart_facts (s : State) :
    s.romStart.dev = s.dev ∧ s.romStart.rst.resetCount = s.rst.resetCount + 1 ∧ s.romStart.boot.flash = s.boot.flash ∧
      s.romStart.boot.keys = s.boot.keys ∧ s.romStart.coreRuns 0 = true := by
  have run : (Vec.upd s.boot.cores 0 (fun c => { wdFresh s.lt c with run := true }) |>.get 0).run = true := by rw [Vec.get_upd_self]
  unfold romStart
  extract_lets n a b
  split
  · exact ⟨rfl, rfl, rfl, rfl, run⟩
  · exact ⟨rfl, rfl, rfl, rfl, run⟩

/-- The start of a confirmed bank writes no flash: it is an entry of the log (R530). -/
theorem noteStart_confirmed {n : Nat} (confirmed : s.confirmed n = true) : s.noteStart n = s.logEntry 8 0x002 n (s.fwSeq n) := by
  have attempt : s.attempt n = 0 := if_pos confirmed
  unfold noteStart
  simp [attempt]

/-- A confirmed first candidate whose keeper image passes is handed over to (R528). -/
theorem romBanks_confirmed {n : Nat} {rest : List Nat} (first : s.candidates = n :: rest) (confirmed : s.confirmed n = true)
    (passes : s.keeperBad' (s.keeperImage n) = none) :
    s.romBanks = (s.logEntry 8 0x002 n (s.fwSeq n)).handOver (some n) 0 (s.keeperImage n) := by
  have attempt : s.attempt n = 0 := if_pos confirmed
  unfold romBanks
  rw [first, tryBanks]
  simp only [attempt, passes, noteStart_confirmed confirmed]
  rfl

theorem romBanks_empty (none_ : s.candidates = []) : s.romBanks = s.romFailed [] := by
  unfold romBanks
  rw [none_, tryBanks]

/-- A failed ROM waits with the fans at full and a failure record (R532). -/
theorem romFailed_facts (skipped : List (Nat × Nat)) (s : State) :
    (s.romFailed skipped).dev = { s.dev with phase := .romFail } ∧ (s.romFailed skipped).cool.fullHold = true ∧
      (s.romFailed skipped).boot.failRec.isSome = true ∧ (s.romFailed skipped).coreRuns 0 = s.coreRuns 0 := by
  unfold romFailed
  generalize holding : ({ s with dev := _, cool := _, boot := _, rst := _ } : State) = u
  have drives := driveAll_keeps false u
  unfold coreRuns
  rw [drives.dev (by decide), drives.boot (by decide), driveAll_cool]
  subst holding
  exact ⟨rfl, rfl, rfl, rfl⟩

theorem romEntry_recovery (source : s.dev.bootSrc = 1 ∨ s.dev.bootSrc = 2) : s.romEntry =
    { s.romStart with
      dev := { s.romStart.dev with phase := .recovery }
      boot := { s.romStart.boot with rcv := .waiting, bank := none, recovery := true } } := by
  obtain ⟨dev, -⟩ := romStart_facts s
  unfold romEntry
  generalize s.romStart = u at dev ⊢
  exact if_pos (by simpa [dev] using source)

theorem romEntry_flash (source : s.dev.bootSrc = 0 ∨ s.dev.bootSrc = 3) (staging : s.stagingVerified = false) :
    s.romEntry = s.romStart.romBanks := by
  obtain ⟨dev, -, flash, -⟩ := romStart_facts s
  unfold romEntry
  generalize s.romStart = u at dev flash ⊢
  have uncopied : u.copyStaging = u := if_pos (by rw [stagingVerified_congr flash, staging]; rfl)
  dsimp only
  rw [uncopied, if_neg]
  rw [dev]
  rcases source with h | h <;> simp [h]

/-- CONFIRM of the booted bank reads programmed, and the trial is over (R531, R535). -/
theorem confirmBank_facts {n : Nat} (booted : s.boot.bank = some n) :
    s.confirmBank.boot = { s.boot with flash := Mem.write 0xFF s.boot.flash (bankBase n + 0x104) (zeros 4), trial := 0 } ∧
      s.confirmBank.confirmed n = true := by
  have boot : s.confirmBank.boot = { s.boot with flash := Mem.write 0xFF s.boot.flash (bankBase n + 0x104) (zeros 4), trial := 0 } := by
    unfold confirmBank
    rw [booted]
    rfl
  have programmed : s.confirmBank.flashNum (bankBase n + 0x104) 4 = leNat (zeros 4) := by
    unfold flashNum
    rw [boot]
    exact congrArg leNat (Mem.read_write 0xFF s.boot.flash (bankBase n + 0x104) (zeros 4))
  refine ⟨boot, ?_⟩
  unfold confirmed
  rw [programmed]
  rfl

end State

/-- Settles O35: after `romStart` the ROM waits, hands a confirmed bank over, or fails; the keeper image is `keeperStart`. -/
theorem romAndKeeperStart : Obligations.RomAndKeeperStart := by
  refine ⟨fun s checked locked => ?rom, fun s be pp ready => ?keeper, fun s n booted may => ?confirm⟩
  case rom =>
    have row : exec .romEntry s = .next s.romEntry := go_if (by rw [checked, locked]; rfl)
    obtain ⟨dev, resets, flash, keys, k0⟩ := State.romStart_facts s
    have starts := State.romStart_keeps s
    refine ⟨fun source => ?_, fun source staging => ?_⟩
    · rw [State.romEntry_recovery source] at row
      refine .of_keeps row (.set_dev_boot _ _ ((Keeps.refl _ s).step starts (by decide)) (by decide) (fun i => i) (fun i => i) (fun i => i)) ?_
      exact ⟨by rw [dev], rfl, rfl, k0, resets⟩
    rw [State.romEntry_flash source staging] at row
    have candidates := State.candidates_congr flash
    refine ⟨fun n rest first confirmed passes => ?_, fun none_ => ?_⟩
    · have image := State.keeperImage_congr flash n
      rw [State.romBanks_confirmed (candidates.trans first) ((State.confirmed_congr flash n).trans confirmed)
        (by rw [image, State.keeperBad'_congr keys]; exact passes), image] at row
      refine .of_keeps row ((((Keeps.refl _ s).step starts (by decide)).step (State.logEntry_keeps ..) (by decide)).step
        (State.handOver_keeps ..) (by decide)) ⟨?_, rfl, rfl, (State.coreRuns_handOver ..).trans k0, resets⟩
      exact congrArg (fun d : DevSt => { d with phase := .imageReady }) dev
    · rw [State.romBanks_empty (candidates.trans none_)] at row
      obtain ⟨failed, hold, record, k0'⟩ := State.romFailed_facts [] s.romStart
      refine .of_keeps row (((Keeps.refl _ s).step starts (by decide)).step (State.romFailed_keeps ..) (by decide)) ⟨?_, hold, record, k0'.trans k0⟩
      rw [failed, dev]
  case keeper => exact .of_next (go_if ready) (execKeeperImageStart_keeps be pp s) (State.keeperStart_facts be pp s)
  case confirm => exact .of_next (go_if may) (execBankConfirm_keeps s) (State.confirmBank_facts booted)

end Sys2Proof.Machine
end
